-- ==== Sys2Proof/Word.lean ====
section
/-! DEFINITION. The word types (R3, R5, R39). -/
namespace Sys2Proof

/-- A byte of memory. -/
abbrev Byte := BitVec 8

/-- A general register, an address, a state register: 64 bits. -/
abbrev Word := BitVec 64

/-- A vector register: 128 bits (R93). -/
abbrev Vec := BitVec 128

/-- A mask register: 16 bits (R94). -/
abbrev Mask := BitVec 16

/-- The number of a general or vector register (R41). -/
abbrev Reg := BitVec 4

end Sys2Proof
end

