-- ==== Sys2Proof/Config.lean ====
section
/-! DEFINITION. What an implementation fixes and the spec leaves open: free values. None of them has a body, so
nothing can be proved of the value that one of them takes. -/
namespace Sys2Proof.Config

/-- What the device writes at the start of a part of a save area whose form it alone reads, its keyed check value with it
(R348): the number of the save and that of the part. Log entry 38. -/
opaque savedPart : Nat → Nat → BitVec 64

/-- Whether the authentication tag of a host-queue entry passes (R434): function and sequence number, and the
count of checks made so far. Log entry 9. -/
opaque tagPasses : Nat → Nat → Nat → Bool

/-- Whether the host refuses a DMA read of the ring (R439, cause 5): function and the count of draws made so far. Log
entry 22. -/
opaque ringRefused : Nat → Nat → Bool

/-- Whether the signature over a protocol-table image passes (R381): image address and the count of checks made
so far. Log entry 9. -/
opaque imageSigned : Nat → Nat → Bool

/-- Which of the four ways of a full set an instruction cache replaces (R88 names none): the core, the set
and the count of replacements so far. Log entry 10. -/
opaque icacheVictim : Nat → Nat → Nat → Fin 4

/-- Whether a flit arrives with a good CRC (R398): the bundle, the group, and the count of draws made so far.
Log entry 19. -/
opaque flitIntact : Nat → Nat → Nat → Bool

/-- The fabric cycles that a cluster takes to save or to discard (R352 reports them, no rule states them): the count of
draws made so far. Log entry 5. -/
opaque vacateCycles : Nat → BitVec 32

/-- The result word of a host-queue entry whose access faults (R438 states none): function and sequence number.
Log entry 22. -/
opaque hostFault : Nat → Nat → BitVec 64

/-- SHA3-512 over an item, given as numbers (R433), and the responder's ML-DSA-87 signatures: data whose values this model
does not compute. Log entry 23. -/
opaque digest : List Nat → Nat
opaque signature : List Nat → Nat

/-- The slot, counted among those with a thread, that takes a WORLD or PROTOCOL posted to firmware, and its eaddr (R334,
R371 and R432 name neither): the count of draws made so far. Log entry 48. -/
opaque firmwareSlot : Nat → Nat
opaque firmwareDetail : Nat → BitVec 64

/-- What the dispatcher of a cluster expects of its Mule, its Ox and its threads (R330 states no estimate): cluster and
fabric cycle. Log entry 11. -/
opaque forecast : Nat → Nat → BitVec 64

/-- The set of its LLC slice (of 6,144) in which a line lies (R421 gives no index). Log entry 49. -/
opaque llcSet : Nat → Fin 6144

/-- The items of measurements 1, 2 and 4 (R433): the security processor's and the device's firmware and the partition manager's
policy, as numbers. Log entry 23. -/
opaque firmwareItem : Nat → List Nat

/-- The image of protocol table 5, 6 or 7 that the firmware of a bring-up loads (R440), none where it carries no such table: the
count of draws made so far and the id. Log entry 24. -/
opaque firmwareImage : Nat → Nat → Option (List (BitVec 8))

/-- What a function answers to a configuration request (R435 states no content): the function and the offset. Log entry 22. -/
opaque pcieConfig : Nat → Nat → BitVec 8

/-- The amperes that an island draws with a heavy operation at a point (R442 gives none): the operation (0 Ox, 1 Mule, 2 Steppe),
MHz and mV. Log entry 63. -/
opaque operationAmps : Nat → Nat → Nat → Nat

/-- The step of a bring-up that fails, 0 for none (R440): the count of draws made so far. Log entry 24. -/
opaque bringUp : Nat → Fin 6

/-- The line that a message carries whose row names no data source (R368 gives it none): the count of uses of lines when it
is sent. Log entry 47. -/
opaque unsourced : Nat → BitVec 1088

/-- Whether the integrity check of a block that ends in a fabric cycle passes (R432): the block
and the cycle. Log entry 9. -/
opaque blockIntact : Nat → Nat → Bool

end Sys2Proof.Config
end

