-- ==== Sys2Proof/Machine/Bits.lean ====
section
/-! DEFINITION. Bit fields, extensions and byte order (R3, R7, R60). -/
namespace Sys2Proof.Machine

/-- Bits [hi:lo] of x as a number (R3). -/
def field {w : Nat} (x : BitVec w) (hi lo : Nat) : Nat := x.toNat / 2 ^ lo % 2 ^ (hi - lo + 1)

/-- Bit n of x (R3). -/
def bit {w : Nat} (x : BitVec w) (n : Nat) : Bool := x.getLsbD n

/-- x with bits [hi:lo] replaced by the low bits of the number v. -/
def setField {w : Nat} (x : BitVec w) (hi lo v : Nat) : BitVec w :=
  (x &&& ~~~(BitVec.ofNat w ((2 ^ (hi - lo + 1) - 1) * 2 ^ lo))) |||
    BitVec.ofNat w (v % 2 ^ (hi - lo + 1) * 2 ^ lo)

/-- sext(x, n): the low n bits of x as two's complement, extended to 64 bits (R7). -/
def sext (x : Word) (n : Nat) : Word := (x.setWidth n).signExtend 64

/-- zext(x, n): the low n bits of x as a natural number (R60). -/
def zext (x : Word) (n : Nat) : Word := (x.setWidth n).setWidth 64

/-- wres(x): with W, bit 31 extended over the high half (R60). -/
def wres (w : Bool) (x : Word) : Word := if w then sext x 32 else x

/-- The n low bytes of a number, the lowest first (R3). -/
def toBytes : Nat → Nat → List Byte
  | 0, _ => []
  | n + 1, x => BitVec.ofNat 8 x :: toBytes n (x / 256)

/-- The number of a list of bytes, the lowest first (R3). -/
def ofBytes : List Byte → Nat
  | [] => 0
  | b :: r => b.toNat + 256 * ofBytes r

/-- The value of an n-bit element as two's complement. -/
def signed (n x : Nat) : Int := if x < 2 ^ (n - 1) then (x : Int) else (x : Int) - (2 ^ n : Nat)

/-- A Bool as a register value. -/
def boolWord (b : Bool) : Word := if b then 1 else 0

/-- A status code, which may be negative, as a register value. -/
def status (n : Int) : Word := BitVec.ofInt 64 n

/-- a rounded up to a multiple of n. -/
def alignUp (a n : Nat) : Nat := (a + (n - 1)) / n * n

/-- The numbers from lo up to, not including, hi that step by n. -/
def stepsFrom (lo hi n : Nat) : List Nat := (List.range ((hi - lo + (n - 1)) / n)).map (fun i => lo + i * n)

/-- The first number of a list that satisfies p. -/
def firstNat (p : Nat → Bool) (l : List Nat) : Option Nat := l.find? p

end Sys2Proof.Machine
end

