-- ==== Sys2Proof/Machine/Sparse.lean ====
section
/-! DEFINITION. Sparse maps from numbers to data: lists sorted by key. A map's default is named by its reader. -/
namespace Sys2Proof.Machine

/-- Data kept by number (a slot, a cluster, a line ...), sorted by number, each number once. -/
abbrev SMap (α : Type) := List (Nat × α)

/-- The entry of k, or the default d where the map lists none. -/
def SMap.get {α : Type} (d : α) : SMap α → Nat → α
  | [], _ => d
  | (k', v) :: r, k => if k' = k then v else SMap.get d r k

/-- The map with v at k. -/
def SMap.set {α : Type} : SMap α → Nat → α → SMap α
  | [], k, v => [(k, v)]
  | (k', v') :: r, k, v =>
    if k < k' then (k, v) :: (k', v') :: r
    else if k' = k then (k, v) :: r
    else (k', v') :: SMap.set r k v

/-- The map without k. -/
def SMap.erase {α : Type} (m : SMap α) (k : Nat) : SMap α := m.filter (fun e => e.1 != k)

/-- Every listed entry changed by f. -/
def SMap.mapVals {α : Type} (m : SMap α) (f : Nat → α → α) : SMap α := m.map (fun e => (e.1, f e.1 e.2))

/-- The map without the keys from lo up to, not including, hi. -/
def SMap.dropRange {α : Type} (m : SMap α) (lo hi : Nat) : SMap α := m.filter (fun e => e.1 < lo || hi ≤ e.1)

/-- The keys rise strictly. -/
def SMap.sorted {α : Type} : SMap α → Bool
  | [] => true
  | [_] => true
  | (k, _) :: (k', v') :: r => decide (k < k') && SMap.sorted ((k', v') :: r)

end Sys2Proof.Machine
end

