-- ==== Sys2Proof/Syntax.lean ====
section
/-! DEFINITION. The abstract syntax: one constructor for every row of the opcode table. The rows with a
32-bit word carry their encoded fields (a one-bit field is a `Bool`); the rows without a word are the device
events, whose operands name the unit that acts. -/
namespace Sys2Proof

/-- What a packet carries (R404, R405): bytes of a WRITE, a request to READ, or bytes that answer a READ. -/
inductive PacketKind where
  | write | read | data
  deriving DecidableEq, Repr

/-- A packet as it arrives from a peer (R404, R405): the local number of the peer, the flow sequence number, the key of
the region and the offset of the message in it, the length of the message, the packet's place j in the message, a
number that names the message at its sender, ROD, the bytes, the port mask of a request to READ, and the port of arrival. -/
structure Packet where
  kind : PacketKind
  peer : Nat
  seq : Nat
  key : BitVec 16
  offset : Nat
  len : Nat
  j : Nat
  msg : Nat
  rod : Bool
  payload : List (BitVec 8)
  mask : Nat := 255
  port : Nat := 0
  deriving DecidableEq, Repr

/-- An acknowledgement as it arrives (R405, R412): the lowest number not received, the map of the 64 numbers that
follow it, and the packets that failed a check, each with its code. -/
structure Ack where
  peer : Nat
  low : Nat
  map : BitVec 64
  failed : List (Nat × Nat)
  deriving DecidableEq, Repr

/-- A transaction of a control core (R12, R446): the core, 0 to 31, and the number of the transaction at the slice, 0 to 63. -/
structure CoreTxn where
  core : Nat
  number : Nat
  deriving DecidableEq, Repr

/-- A forced move's vacate as firmware asks for it (R349, R417): its deadline in fabric cycles and its report IPA, 0 for none. -/
structure ForcedVacate where
  deadline : Nat
  report : BitVec 64
  deriving DecidableEq, Repr

/-- A place in the address space of a function (R436): the BAR, 0, 2 or 4, or 7 for its configuration space, and the offset. -/
structure BarPlace where
  bar : Nat
  addr : Nat
  deriving DecidableEq, Repr

/-- What power firmware sets beside a frequency, and the monitors that it has read for it (R441, R443, R444): the supply in mV,
the current cap in amperes, the temperature in degrees Celsius, the process monitor. -/
structure IslandPower where
  mv : Nat
  cap : Nat
  temp : Nat
  process : Nat
  deriving DecidableEq, Repr

/-- What an island draws, in amperes, and the fabric cycles that the cap removes from it where that is too much (R443). -/
structure Throttle where
  draw : Nat
  cycles : Nat
  deriving DecidableEq, Repr

/-- Firmware's release of a stopped line: by a reset of the line, or by a halt of the owning world (R371). -/
structure LineRelease where
  line : Nat
  halt : Bool
  deriving DecidableEq, Repr

/-- An uncached write of a control core as its home receives it (R23, R362): the line, the place of the bytes in it, the
bytes. -/
structure LineWrite where
  line : Nat
  off : Nat
  bytes : List (BitVec 8)
  deriving DecidableEq, Repr

/-- An atomic operation of a control core as its home receives it (R23, R362): the line, the operation by its place among the
first ten rows of R214, the place and size of the word, the operand, and the value that FCAS expects. -/
structure LineAtom where
  line : Nat
  op : Nat
  off : Nat
  size : Nat
  operand : Nat
  expected : Nat
  deriving DecidableEq, Repr

/-- The instructions and the device events of Kameg, one constructor per row of the opcode table. -/
inductive Instr where
  /-- `DIVIDE_COMPLETE` (R78). The divider finishes a queued divide and writes its pending destination. -/
  | divideComplete (core : Nat)
  /-- `ICINV_COMPLETE` (R92). All cores of the ICINV scope have acknowledged and the issuing slot resumes. -/
  | icinvComplete (slot : Nat)
  /-- `HOLD_EXPIRY` (R51). The HSCHED.hold count runs out and the governed instruction may issue. -/
  | holdExpiry (slot : Nat)
  /-- `LONG_LATENCY_COMPLETE` (R44). A long-latency instruction's result arrives and its pending destination is written. -/
  | longLatencyComplete (slot : Nat)
  /-- `MIGRATION_ARRIVAL` (R189). A migration message reaches the destination core and starts in a free slot or queues. -/
  | migrationArrival (core : Nat)
  /-- `ARRIVAL_DEQUEUE` (R189). An ordinary slot frees and the oldest queued arrival starts in it. -/
  | arrivalDequeue (core : Nat)
  /-- `PAGE_REQUEST_DEFERRED_POST` (R427). A parked fault posts its record once an entry and ring space free. -/
  | pageRequestDeferredPost (part : Nat)
  /-- `FE_REFUSAL_RETRY` (R194). After backoff the core sends a refused full/empty or reservation request again. -/
  | feRefusalRetry (slot : Nat)
  /-- `FERETRY` (R195). A waiting request passes its retry or wait limit, is withdrawn and traps. -/
  | feretry (slot : Nat)
  /-- `MWAIT_TIMEOUT` (R205). The MWAIT timeout expires and the slot wakes with reason 0x20. -/
  | mwaitTimeout (slot : Nat)
  /-- `RESERVATION_TIMEOUT` (R210). A grant held over 4096 fabric cycles is revoked and the next slot granted. -/
  | reservationTimeout (word : Nat)
  /-- `LATCH_FILL_COMPLETE` (R226). The gather unit finishes a fill, computes the summary or takes FORMAT. -/
  | latchFillComplete (cluster : Nat)
  /-- `MMA_START` (R233). An MMA at the head of the queue starts once latches, leave and tile are ready. -/
  | mmaStart (cluster : Nat)
  /-- `MMA_COMPLETE` (R233). An MMA writes its tile, sets flags and clears LOCK. -/
  | mmaComplete (cluster : Nat)
  /-- `ACCUM_TRANSFER_COMPLETE` (R236). An ACLD or ACST transfer finishes and the slot resumes. -/
  | accumTransferComplete (cluster : Nat)
  /-- `LEAVE_GRANT` (R442). The island power controller grants leave for a heavy operation. -/
  | leaveGrant (cluster : Nat)
  /-- `MULE_CHUNK` (R248). The Mule moves one chunk of up to 4 KiB of a command. -/
  | muleChunk (cluster : Nat)
  /-- `MULE_COMMAND_COMPLETE` (R254). A command's writes are performed and its completion object is written. -/
  | muleCommandComplete (cluster : Nat)
  /-- `UNWIND_BUDGET_EXPIRY` (R304). An unwind handler's budget runs out and its frame ends. -/
  | unwindBudgetExpiry (slot : Nat)
  /-- `CALLERGONE` (R305). An orphan's grace runs out and its innermost frame takes CALLERGONE. -/
  | callergone (slot : Nat)
  /-- `LAUNCH_DISPATCH` (R313). A dispatcher takes a fitting work unit's index and places its threads. -/
  | launchDispatch (cluster : Nat)
  /-- `HOLD_LIMIT_EXPIRY` (R312). A launch waits past the hold limit and blocks lower or younger launches. -/
  | holdLimitExpiry (part : Nat)
  /-- `WORK_UNIT_COMPLETE` (R318). A unit's threads and engine work finish and its resources are freed. -/
  | workUnitComplete (part : Nat) (record : Nat) (unit : Nat)
  /-- `FORECAST_UPDATE` (R330). The dispatcher writes the forecast register every microsecond. -/
  | forecastUpdate (cluster : Nat) (value : BitVec 64)
  /-- `TIMER_EXPIRY` (R327). The slot timer reaches 0 and posts TIMER. -/
  | timerExpiry (slot : Nat)
  /-- `SLICE_EXPIRY` (R344). slice.REMAIN reaches 0 and SLICE is posted. -/
  | sliceExpiry (slot : Nat)
  /-- `GETS` (R372). Home handles an agent's request for a shared copy. -/
  | gets (agent : Nat) (line : Nat)
  /-- `GETM` (R372). Home handles an agent's request for an owned copy. -/
  | getm (agent : Nat) (line : Nat)
  /-- `PUTS` (R372). Home handles an agent giving up a shared copy. -/
  | puts (agent : Nat) (line : Nat)
  /-- `PUTM` (R372). Home handles an owner writing back a line (PUTMX if not owner). -/
  | putm (agent : Nat) (line : Nat)
  /-- `UREAD` (R372). Home handles an uncached read. -/
  | uread (txn : CoreTxn) (line : Nat)
  /-- `UWRITE` (R372). Home handles an uncached write. -/
  | uwrite (txn : CoreTxn) (write : LineWrite)
  /-- `ATOM` (R372). Home handles an atomic, full/empty or reservation operation. -/
  | atom (txn : CoreTxn) (operation : LineAtom)
  /-- `UPDW` (R377). Home handles an update write under UPD. -/
  | updw (agent : Nat) (line : Nat)
  /-- `LINV_MSG` (R372). Home handles a line invalidate request. -/
  | linvMsg (agent : Nat) (line : Nat)
  /-- `LWB_MSG` (R372). Home handles a line write-back request. -/
  | lwbMsg (agent : Nat) (line : Nat)
  /-- `ACK` (R373). Home receives an acknowledgement and decrements PEND. -/
  | ack (agent : Nat) (line : Nat)
  /-- `ODATA` (R373). Home receives owner data after DOWN or RECALL. -/
  | odata (agent : Nat) (line : Nat)
  /-- `INV` (R374). An agent receives an invalidation and acknowledges. -/
  | inv (agent : Nat) (line : Nat)
  /-- `DOWN` (R374). An owner is downgraded and returns data. -/
  | down (agent : Nat) (line : Nat)
  /-- `RECALL` (R374). An owner gives up its line and returns data. -/
  | recall (agent : Nat) (line : Nat)
  /-- `UPD` (R377). A sharer merges an update and acknowledges. -/
  | upd (agent : Nat) (line : Nat)
  /-- `DATA_S` (R374). An agent receives a shared fill and performs its access. -/
  | dataS (agent : Nat) (line : Nat)
  /-- `DATA_M` (R374). An agent receives an owned fill and performs its access. -/
  | dataM (agent : Nat) (line : Nat)
  /-- `PUTACK` (R374). An agent receives confirmation of its eviction. -/
  | putack (agent : Nat) (line : Nat)
  /-- `UPDACK` (R377). An agent's update write is confirmed and performed. -/
  | updack (agent : Nat) (line : Nat)
  /-- `NACKW` (R379). An agent's GETM to a sealed WON line is refused. -/
  | nackw (agent : Nat) (line : Nat)
  /-- `UDATA` (R362). An uncached requester receives read data. -/
  | udata (requester : Nat) (line : Nat)
  /-- `WACK` (R362). A requester receives the result or refusal of a write or atomic. -/
  | wack (requester : Nat) (line : Nat)
  /-- `TURN_START` (R394). The head turn entry starts once dwell and rate limits allow. -/
  | turnStart (bundle : Nat)
  /-- `TURN_END` (R394). A turned group's dead time ends and it carries in its new direction. -/
  | turnEnd (bundle : Nat) (group : Nat)
  /-- `LANE_GRANT` (R392). Firmware grants lane groups and the device sets their directions. -/
  | laneGrant (bundle : Nat) (part : Nat) (groups : Nat)
  /-- `FLIT_ARRIVAL` (R398). A flit arrives, is accepted or refused, causing replay. -/
  | flitArrival (bundle : Nat) (group : Nat) (dir : Bool)
  /-- `CREDIT_AUDIT` (R398). Every 4096 link clocks the sender resets its window from the receiver's total. -/
  | creditAudit (bundle : Nat)
  /-- `PACKET_SEND` (R404). The Steppe engine sends a request's packets over its ports. -/
  | packetSend (part : Nat)
  /-- `PACKET_ARRIVAL` (R405). A packet arrives, is checked, placed and acknowledged. -/
  | packetArrival (part : Nat) (pkt : Packet)
  /-- `ACK_ARRIVAL` (R412). An acknowledgement arrives, completing packets or triggering fast retransmit. -/
  | ackArrival (part : Nat) (ack : Ack)
  /-- `RETRANSMIT_TIMER_EXPIRY` (R406). A packet's retransmit timer expires: resend or error 7. -/
  | retransmitTimerExpiry (part : Nat) (peer : Nat) (seq : Nat)
  /-- `NCWAIT_TIMEOUT` (R409). An NCWAIT's timeout expires and it returns the value. -/
  | ncwaitTimeout (slot : Nat)
  /-- `VACATE_REQUEST` (R350). Clusters accept a vacate and choose drain, save or discard. -/
  | vacateRequest (part : Nat) (record : Nat)
  /-- `DRAIN_DEADLINE_EXPIRY` (R350). A draining cluster still running at D saves and is reported late. -/
  | drainDeadlineExpiry (cluster : Nat)
  /-- `VACATE_REPORT` (R352). All named clusters finish; the report is written and VACATE posted. -/
  | vacateReport (part : Nat)
  /-- `RESTORE` (R353). Firmware restores a saved cluster state onto a cluster. -/
  | restore (cluster : Nat) (area : Nat)
  /-- `CRIT_DEFERRAL_EXPIRY` (R418). A forced vacate's CRIT deferral ends after 4096 cycles. -/
  | critDeferralExpiry (cluster : Nat)
  /-- `BORDER_CONTROLLER_RUN` (R416). Every 100 µs firmware computes targets and marks clusters to move. -/
  | borderControllerRun
  /-- `CLUSTER_MOVE` (R417). A marked cluster leaves its partition at a unit completion and is cleaned. -/
  | clusterMove (cluster : Nat)
  /-- `FORCED_MOVE` (R417). After 1 ms firmware forces a marked cluster's move. -/
  | forcedMove (cluster : Nat) (force : ForcedVacate)
  /-- `TOKEN_REFILL` (R422). Every 256 cycles a bucket gains tokens and deferred requests are served. -/
  | tokenRefill (slice : Nat)
  /-- `FRESH_PAGE_CLEAR_COMPLETE` (R425). A fresh page's clear finishes and waiting writes proceed. -/
  | freshPageClearComplete (page : Nat)
  /-- `BACKGROUND_CLEAR` (R425). An idle controller clears a fresh page. -/
  | backgroundClear (page : Nat)
  /-- `SCRATCHPAD_UNIT_CLEAR` (R426). A bank clears a fresh 4 KiB unit for its first write. -/
  | scratchpadUnitClear (cluster : Nat) (unit : Nat)
  /-- `INTEGRITY_CHECK_COMPLETE` (R432). A block's integrity check completes, releasing outward transfers or halting the world. -/
  | integrityCheckComplete (block : Nat) (good : Bool)
  /-- `SERVICE_VACATE` (R415). Service ring code 1: vacate without WHOLE. -/
  | serviceVacate (part : Nat) (granted : Bool)
  /-- `SERVICE_FE_LIMITS` (R415). Service ring code 2: set full/empty limits. -/
  | serviceFeLimits (part : Nat) (granted : Bool)
  /-- `SERVICE_TARGET` (R415). Service ring code 3: set the service target. -/
  | serviceTarget (part : Nat) (granted : Bool)
  /-- `SERVICE_BARS` (R415). Service ring code 4: set lending and borrowing bars. -/
  | serviceBars (part : Nat) (granted : Bool)
  /-- `SERVICE_GIVE_BACK` (R415). Service ring code 5: give back a cluster. -/
  | serviceGiveBack (part : Nat) (granted : Bool)
  /-- `HOSTQ_LAUNCH` (R438). A host queue entry with code 1 performs LAUNCH at level S. -/
  | hostqLaunch (fn : Nat)
  /-- `HOSTQ_DEPDEC` (R438). A host queue entry with code 2 performs DEPDEC. -/
  | hostqDepdec (fn : Nat)
  /-- `HOSTQ_STFF` (R438). A host queue entry with code 3 performs an STFF of system scope. -/
  | hostqStff (fn : Nat)
  /-- `QWR` (R439). Host write of QWR checks programming and offers new entries. -/
  | qwr (fn : Nat) (value : BitVec 64)
  /-- `QBASE` (R439). Host write of QBASE checked against the DMA window. -/
  | qbase (fn : Nat) (value : BitVec 64)
  /-- `QSIZE` (R439). Host write of QSIZE checked for a valid size. -/
  | qsize (fn : Nat) (value : BitVec 64)
  /-- `QUEUE_KEYING` (R434). A queue is keyed from an SPDM session, resetting E and discarding entries. -/
  | queueKeying (fn : Nat)
  /-- `HOST_BAR2_ACCESS` (R436). A host access through BAR 2 reaches partition IPA space. -/
  | hostBar2Access (fn : Nat) (place : BarPlace) (size : Nat) (data : Option (List (BitVec 8)))
  /-- `HOST_SIDEBAND_READ` (R436). A host read through BAR 4 returns a block's sideband bits. -/
  | hostSidebandRead (fn : Nat) (addr : Nat)
  /-- `GET_VERSION` (R433). SPDM request for supported versions. -/
  | getVersion (fn : Nat)
  /-- `GET_CAPABILITIES` (R433). SPDM request for capabilities. -/
  | getCapabilities (fn : Nat)
  /-- `NEGOTIATE_ALGORITHMS` (R433). SPDM algorithm negotiation. -/
  | negotiateAlgorithms (fn : Nat)
  /-- `GET_DIGESTS` (R433). SPDM certificate digests request. -/
  | getDigests (fn : Nat)
  /-- `GET_CERTIFICATE` (R433). SPDM certificate chain request. -/
  | getCertificate (fn : Nat)
  /-- `CHALLENGE` (R433). SPDM challenge of the responder. -/
  | challenge (fn : Nat) (nonce : Nat)
  /-- `GET_MEASUREMENTS` (R433). SPDM request for measurements 1-6. -/
  | getMeasurements (fn : Nat) (index : Nat)
  /-- `KEY_EXCHANGE` (R433). SPDM session key exchange. -/
  | keyExchange (fn : Nat)
  /-- `FINISH` (R433). SPDM session finish. -/
  | finish (fn : Nat)
  /-- `HEARTBEAT` (R433). SPDM session heartbeat. -/
  | heartbeat (fn : Nat)
  /-- `KEY_UPDATE` (R433). SPDM session key update. -/
  | keyUpdate (fn : Nat)
  /-- `END_SESSION` (R433). SPDM session end. -/
  | endSession (fn : Nat)
  /-- `COLD_RESET` (R440). PERST# or the management controller resets the device and runs bring-up. -/
  | coldReset
  /-- `FUNDAMENTAL_RESET` (R440). Fundamental reset of function 0 reruns the whole bring-up. -/
  | fundamentalReset
  /-- `FUNCTION_LEVEL_RESET` (R440). Reset of one virtual function's queue, sessions and registers. -/
  | functionLevelReset (fn : Nat)
  /-- `ISLAND_POINT_CHANGE` (R441). Firmware changes an island's voltage and frequency. -/
  | islandPointChange (cluster : Nat) (mhz : Nat) (power : IslandPower)
  /-- `CURRENT_CAP_THROTTLE` (R443). An island drawing over its cap has clock cycles removed. -/
  | currentCapThrottle (cluster : Nat) (excess : Throttle)
  /-- `THERMTRIP` (R444). At 115 °C the hardware stops every island and asserts THERMTRIP#. -/
  | thermtrip
  /-- `ILLEGAL_INSTRUCTION` (R54). A word that the opcode map does not assign, including major 0x00 and 0x3F kind 11, traps ILL precisely. -/
  | illegalInstruction (w : BitVec 32)
  /-- `FETCH_MISS_FILL` (R88). A 64-byte block missed by the instruction cache arrives from the scratchpad or LLC, and the waiting slot rejoins the rotation. -/
  | fetchMissFill (slot : Nat)
  /-- `LEAVE_HOLD_EXPIRY` (R234). 256 cycles after the Ox command queue last held an MMA, the Ox gives up its leave and leave.OX clears. -/
  | leaveHoldExpiry (cluster : Nat)
  /-- `FLIT_SEND` (R390). On each link clock, each lane group sends one flit in its current direction within its send window, and an owned group with no flit waiting for 64 clocks becomes idle for borrowing. -/
  | flitSend (bundle : Nat)
  /-- `PORT_STATE_CHANGE` (R403). An Ultra Ethernet port goes up or down, which changes the ports that NPOST and packet spraying may use. -/
  | portStateChange (port : Nat) (up : Bool)
  /-- `LINE_RESET` (R371). Firmware resets a line stopped at an impossible row, dropping every copy without write-back and answering the waiting requests through state 0. -/
  | lineReset (release : LineRelease)
  /-- `CHANNEL_MOVE` (R420). Firmware moves a memory channel to another partition, dropping its lines, making it fresh and setting every protocol id to 1. -/
  | channelMove (channel : Nat) (part : Nat)
  /-- `PARTITION_CREATION` (R429). Firmware creates a partition with a new world identifier, and the security processor makes and loads its AES-256 key. -/
  | partitionCreation (part : Nat) (record : Nat) (world : Nat)
  /-- `ADD` (R75). Adds two general registers modulo 2^64, or in 32 bits with W. -/
  | add (d : BitVec 4) (a : BitVec 4) (b : BitVec 4) (w : Bool)
  /-- `SUB` (R75). Subtracts g[b] from g[a]. -/
  | sub (d : BitVec 4) (a : BitVec 4) (b : BitVec 4) (w : Bool)
  /-- `AND` (R75). Bitwise AND of two registers. -/
  | and (d : BitVec 4) (a : BitVec 4) (b : BitVec 4) (w : Bool)
  /-- `OR` (R75). Bitwise OR of two registers. -/
  | or (d : BitVec 4) (a : BitVec 4) (b : BitVec 4) (w : Bool)
  /-- `XOR` (R75). Bitwise XOR of two registers. -/
  | xor (d : BitVec 4) (a : BitVec 4) (b : BitVec 4) (w : Bool)
  /-- `ANDN` (R75). A AND NOT B. -/
  | andn (d : BitVec 4) (a : BitVec 4) (b : BitVec 4) (w : Bool)
  /-- `ORN` (R75). A OR NOT B. -/
  | orn (d : BitVec 4) (a : BitVec 4) (b : BitVec 4) (w : Bool)
  /-- `SHL` (R75). Shifts left by the register amount. -/
  | shl (d : BitVec 4) (a : BitVec 4) (b : BitVec 4) (w : Bool)
  /-- `SHR` (R75). Logical shift right by the register amount. -/
  | shr (d : BitVec 4) (a : BitVec 4) (b : BitVec 4) (w : Bool)
  /-- `SRA` (R75). Arithmetic shift right by the register amount. -/
  | sra (d : BitVec 4) (a : BitVec 4) (b : BitVec 4) (w : Bool)
  /-- `ROL` (R75). Rotates left within N bits. -/
  | rol (d : BitVec 4) (a : BitVec 4) (b : BitVec 4) (w : Bool)
  /-- `ROR` (R75). Rotates right within N bits. -/
  | ror (d : BitVec 4) (a : BitVec 4) (b : BitVec 4) (w : Bool)
  /-- `MIN` (R75). Signed minimum. -/
  | min (d : BitVec 4) (a : BitVec 4) (b : BitVec 4) (w : Bool)
  /-- `MAX` (R75). Signed maximum. -/
  | max (d : BitVec 4) (a : BitVec 4) (b : BitVec 4) (w : Bool)
  /-- `MINN` (R75). Natural minimum. -/
  | minn (d : BitVec 4) (a : BitVec 4) (b : BitVec 4) (w : Bool)
  /-- `MAXN` (R75). Natural maximum. -/
  | maxn (d : BitVec 4) (a : BitVec 4) (b : BitVec 4) (w : Bool)
  /-- `SLT` (R75). Sets 1 if A < B signed. -/
  | slt (d : BitVec 4) (a : BitVec 4) (b : BitVec 4) (w : Bool)
  /-- `SLTN` (R75). Sets 1 if A < B natural. -/
  | sltn (d : BitVec 4) (a : BitVec 4) (b : BitVec 4) (w : Bool)
  /-- `SEQ` (R75). Sets 1 if A equals B. -/
  | seq (d : BitVec 4) (a : BitVec 4) (b : BitVec 4) (w : Bool)
  /-- `SNE` (R75). Sets 1 if A differs from B. -/
  | sne (d : BitVec 4) (a : BitVec 4) (b : BitVec 4) (w : Bool)
  /-- `MUL` (R75). Low N bits of the product. -/
  | mul (d : BitVec 4) (a : BitVec 4) (b : BitVec 4) (w : Bool)
  /-- `MULH` (R75). High N bits of the signed product. -/
  | mulh (d : BitVec 4) (a : BitVec 4) (b : BitVec 4) (w : Bool)
  /-- `MULHN` (R75). High N bits of the natural product. -/
  | mulhn (d : BitVec 4) (a : BitVec 4) (b : BitVec 4) (w : Bool)
  /-- `CLZ` (R75). Counts leading zeros in N bits. -/
  | clz (d : BitVec 4) (a : BitVec 4) (w : Bool)
  /-- `CTZ` (R75). Counts trailing zeros in N bits. -/
  | ctz (d : BitVec 4) (a : BitVec 4) (w : Bool)
  /-- `POPC` (R75). Counts one bits in N bits. -/
  | popc (d : BitVec 4) (a : BitVec 4) (w : Bool)
  /-- `BREV` (R75). Reverses the bit order of N bits. -/
  | brev (d : BitVec 4) (a : BitVec 4) (w : Bool)
  /-- `BSWAP` (R75). Reverses the byte order of N bits. -/
  | bswap (d : BitVec 4) (a : BitVec 4) (w : Bool)
  /-- `SEL` (R75). Selects A if g[c] is non-zero, else B. -/
  | sel (d : BitVec 4) (a : BitVec 4) (b : BitVec 4) (c : BitVec 4) (w : Bool)
  /-- `EXTR` (R76). Extracts a zero-extended bit field. -/
  | extr (d : BitVec 4) (a : BitVec 4) (b : BitVec 4) (c : BitVec 4) (w : Bool)
  /-- `EXTRS` (R76). Extracts a sign-extended bit field. -/
  | extrs (d : BitVec 4) (a : BitVec 4) (b : BitVec 4) (c : BitVec 4) (w : Bool)
  /-- `INSB` (R76). Inserts a bit field into g[d]. -/
  | insb (d : BitVec 4) (a : BitVec 4) (b : BitVec 4) (c : BitVec 4) (w : Bool)
  /-- `DIV` (R77). Queues a signed division on the core divider. -/
  | div (d : BitVec 4) (a : BitVec 4) (b : BitVec 4) (l : BitVec 4) (w : Bool)
  /-- `DIVN` (R77). Queues a natural division. -/
  | divn (d : BitVec 4) (a : BitVec 4) (b : BitVec 4) (l : BitVec 4) (w : Bool)
  /-- `REM` (R77). Queues a signed remainder. -/
  | rem (d : BitVec 4) (a : BitVec 4) (b : BitVec 4) (l : BitVec 4) (w : Bool)
  /-- `REMN` (R77). Queues a natural remainder. -/
  | remn (d : BitVec 4) (a : BitVec 4) (b : BitVec 4) (l : BitVec 4) (w : Bool)
  /-- `ADDI` (R79). Adds a sign-extended immediate. -/
  | addi (d : BitVec 4) (a : BitVec 4) (i : BitVec 18)
  /-- `ANDI` (R79). ANDs with an immediate. -/
  | andi (d : BitVec 4) (a : BitVec 4) (i : BitVec 18)
  /-- `ORI` (R79). ORs with an immediate. -/
  | ori (d : BitVec 4) (a : BitVec 4) (i : BitVec 18)
  /-- `XORI` (R79). XORs with an immediate. -/
  | xori (d : BitVec 4) (a : BitVec 4) (i : BitVec 18)
  /-- `SHLI` (R80). Shifts left by an immediate amount. -/
  | shli (d : BitVec 4) (a : BitVec 4) (n : BitVec 6)
  /-- `SHRI` (R80). Logical shift right by an immediate amount. -/
  | shri (d : BitVec 4) (a : BitVec 4) (n : BitVec 6)
  /-- `SRAI` (R80). Arithmetic shift right by an immediate amount. -/
  | srai (d : BitVec 4) (a : BitVec 4) (n : BitVec 6)
  /-- `ROLI` (R80). Rotates left by an immediate amount. -/
  | roli (d : BitVec 4) (a : BitVec 4) (n : BitVec 6)
  /-- `SLTI` (R79). Sets 1 if g[a] < imm signed. -/
  | slti (d : BitVec 4) (a : BitVec 4) (i : BitVec 18)
  /-- `SLTNI` (R79). Sets 1 if g[a] < imm natural. -/
  | sltni (d : BitVec 4) (a : BitVec 4) (i : BitVec 18)
  /-- `LI` (R79). Loads an immediate. -/
  | li (d : BitVec 4) (i : BitVec 18)
  /-- `LPC` (R79). Loads pc plus imm times 4. -/
  | lpc (d : BitVec 4) (i : BitVec 18)
  /-- `MULI` (R79). Multiplies by an immediate. -/
  | muli (d : BitVec 4) (a : BitVec 4) (i : BitVec 18)
  /-- `BEQ` (R81). Branches if g[a] equals g[b]. -/
  | beq (a : BitVec 4) (b : BitVec 4) (i : BitVec 14)
  /-- `BNE` (R81). Branches if g[a] differs from g[b]. -/
  | bne (a : BitVec 4) (b : BitVec 4) (i : BitVec 14)
  /-- `BLT` (R81). Branches if g[a] < g[b] signed. -/
  | blt (a : BitVec 4) (b : BitVec 4) (i : BitVec 14)
  /-- `BGE` (R81). Branches if g[a] >= g[b] signed. -/
  | bge (a : BitVec 4) (b : BitVec 4) (i : BitVec 14)
  /-- `BLTN` (R81). Branches if g[a] < g[b] natural. -/
  | bltn (a : BitVec 4) (b : BitVec 4) (i : BitVec 14)
  /-- `BGEN` (R81). Branches if g[a] >= g[b] natural. -/
  | bgen (a : BitVec 4) (b : BitVec 4) (i : BitVec 14)
  /-- `BEQZ` (R82). Branches if g[a] is zero. -/
  | beqz (a : BitVec 4) (i : BitVec 18)
  /-- `BNEZ` (R82). Branches if g[a] is not zero. -/
  | bnez (a : BitVec 4) (i : BitVec 18)
  /-- `BLTZ` (R82). Branches if g[a] is negative. -/
  | bltz (a : BitVec 4) (i : BitVec 18)
  /-- `BGEZ` (R82). Branches if g[a] >= 0. -/
  | bgez (a : BitVec 4) (i : BitVec 18)
  /-- `BGTZ` (R82). Branches if g[a] > 0. -/
  | bgtz (a : BitVec 4) (i : BitVec 18)
  /-- `BLEZ` (R82). Branches if g[a] <= 0. -/
  | blez (a : BitVec 4) (i : BitVec 18)
  /-- `J` (R83). Jumps by a 26-bit displacement. -/
  | j (i : BitVec 26)
  /-- `JL` (R83). Jumps and writes pc + 4 to lk. -/
  | jl (i : BitVec 26)
  /-- `JR` (R84). Jumps to the address in g[a]. -/
  | jr (a : BitVec 4)
  /-- `JLR` (R84). Jumps to g[a] and writes the link to g[d]. -/
  | jlr (d : BitVec 4) (a : BitVec 4)
  /-- `TRAP` (R340). Takes TRAPINS with the 8-bit code, resuming after the TRAP. -/
  | trap (n : BitVec 8)
  /-- `ERET` (R341). Returns from a trap to the previous level, resuming a repetition if rstate.ACT. -/
  | eret
  /-- `SREAD` (R342). Reads a state register into g[d]. -/
  | sread (d : BitVec 4) (n : BitVec 8)
  /-- `SWRITE` (R342). Writes g[a] to a state register within its access rules. -/
  | swrite (a : BitVec 4) (n : BitVec 8)
  /-- `ICINV` (R90). Invalidates instruction-cache blocks of a range in every core of a scope. -/
  | icinv (a : BitVec 4) (b : BitVec 4) (s : BitVec 3)
  /-- `BRK` (R340). Takes the BRK trap at the instruction. -/
  | brk
  /-- `HALT` (R343). Takes the slot out of the rotation until a level-F event. -/
  | halt
  /-- `FENCE` (R274). Orders earlier and later accesses at a scope, optionally waiting for engine commands. -/
  | fence (e : Bool) (k : BitVec 2) (s : BitVec 3)
  /-- `HIMM` (R47). Hint word supplying immediate bits to the governed instruction. -/
  | himm (p : BitVec 24)
  /-- `HMOD` (R48). Hint word giving rounding, saturation, ordering, scope, cache policy, wait and likelihood. -/
  | hmod (p : BitVec 24)
  /-- `HSCHED` (R51). Scheduling hint with no effect. -/
  | hsched (p : BitVec 24)
  /-- `HSCHED_HOLD` (R51). Holds the slot out of the rotation for n cycles before the governed instruction. -/
  | hschedHold (p : BitVec 21)
  /-- `HSCHED_IFETCH` (R51). Allows prefetch of n fetch blocks after the governed instruction. -/
  | hschedIfetch (p : BitVec 21)
  /-- `VADD` (R101). Element-wise integer add, optionally saturating. -/
  | vadd (d : BitVec 4) (a : BitVec 4) (b : BitVec 4) (m : BitVec 2) (w : BitVec 2)
  /-- `VSUB` (R101). Element-wise integer subtract. -/
  | vsub (d : BitVec 4) (a : BitVec 4) (b : BitVec 4) (m : BitVec 2) (w : BitVec 2)
  /-- `VADDS` (R101). Signed saturating add. -/
  | vadds (d : BitVec 4) (a : BitVec 4) (b : BitVec 4) (m : BitVec 2) (w : BitVec 2)
  /-- `VADDSN` (R101). Natural saturating add. -/
  | vaddsn (d : BitVec 4) (a : BitVec 4) (b : BitVec 4) (m : BitVec 2) (w : BitVec 2)
  /-- `VSUBS` (R101). Signed saturating subtract. -/
  | vsubs (d : BitVec 4) (a : BitVec 4) (b : BitVec 4) (m : BitVec 2) (w : BitVec 2)
  /-- `VSUBSN` (R101). Natural saturating subtract. -/
  | vsubsn (d : BitVec 4) (a : BitVec 4) (b : BitVec 4) (m : BitVec 2) (w : BitVec 2)
  /-- `VMUL` (R101). Low half of element products. -/
  | vmul (d : BitVec 4) (a : BitVec 4) (b : BitVec 4) (m : BitVec 2) (w : BitVec 2)
  /-- `VMULH` (R101). High half of signed element products. -/
  | vmulh (d : BitVec 4) (a : BitVec 4) (b : BitVec 4) (m : BitVec 2) (w : BitVec 2)
  /-- `VMULHN` (R101). High half of natural element products. -/
  | vmulhn (d : BitVec 4) (a : BitVec 4) (b : BitVec 4) (m : BitVec 2) (w : BitVec 2)
  /-- `VMIN` (R101). Signed element minimum. -/
  | vmin (d : BitVec 4) (a : BitVec 4) (b : BitVec 4) (m : BitVec 2) (w : BitVec 2)
  /-- `VMAX` (R101). Signed element maximum. -/
  | vmax (d : BitVec 4) (a : BitVec 4) (b : BitVec 4) (m : BitVec 2) (w : BitVec 2)
  /-- `VMINN` (R101). Natural element minimum. -/
  | vminn (d : BitVec 4) (a : BitVec 4) (b : BitVec 4) (m : BitVec 2) (w : BitVec 2)
  /-- `VMAXN` (R101). Natural element maximum. -/
  | vmaxn (d : BitVec 4) (a : BitVec 4) (b : BitVec 4) (m : BitVec 2) (w : BitVec 2)
  /-- `VAND` (R101). Element AND. -/
  | vand (d : BitVec 4) (a : BitVec 4) (b : BitVec 4) (m : BitVec 2) (w : BitVec 2)
  /-- `VOR` (R101). Element OR. -/
  | vor (d : BitVec 4) (a : BitVec 4) (b : BitVec 4) (m : BitVec 2) (w : BitVec 2)
  /-- `VXOR` (R101). Element XOR. -/
  | vxor (d : BitVec 4) (a : BitVec 4) (b : BitVec 4) (m : BitVec 2) (w : BitVec 2)
  /-- `VANDN` (R101). Element A AND NOT B. -/
  | vandn (d : BitVec 4) (a : BitVec 4) (b : BitVec 4) (m : BitVec 2) (w : BitVec 2)
  /-- `VSHL` (R101). Element shift left. -/
  | vshl (d : BitVec 4) (a : BitVec 4) (b : BitVec 4) (m : BitVec 2) (w : BitVec 2)
  /-- `VSHR` (R101). Element logical shift right. -/
  | vshr (d : BitVec 4) (a : BitVec 4) (b : BitVec 4) (m : BitVec 2) (w : BitVec 2)
  /-- `VSRA` (R101). Element arithmetic shift right. -/
  | vsra (d : BitVec 4) (a : BitVec 4) (b : BitVec 4) (m : BitVec 2) (w : BitVec 2)
  /-- `VABS` (R101). Element absolute value. -/
  | vabs (d : BitVec 4) (a : BitVec 4) (m : BitVec 2) (w : BitVec 2)
  /-- `VAVG` (R101). Signed rounding average. -/
  | vavg (d : BitVec 4) (a : BitVec 4) (b : BitVec 4) (m : BitVec 2) (w : BitVec 2)
  /-- `VAVGN` (R101). Natural rounding average. -/
  | vavgn (d : BitVec 4) (a : BitVec 4) (b : BitVec 4) (m : BitVec 2) (w : BitVec 2)
  /-- `VDOT4` (R102). Signed four-way byte dot product accumulated into 32-bit elements. -/
  | vdot4 (d : BitVec 4) (a : BitVec 4) (b : BitVec 4) (m : BitVec 2)
  /-- `VDOT4N` (R102). Natural four-way byte dot product. -/
  | vdot4n (d : BitVec 4) (a : BitVec 4) (b : BitVec 4) (m : BitVec 2)
  /-- `VCMPEQ` (R103). Writes a mask of equal elements. -/
  | vcmpeq (d : BitVec 2) (a : BitVec 4) (b : BitVec 4) (m : BitVec 2) (w : BitVec 2)
  /-- `VCMPLT` (R103). Writes a mask of signed less-than elements. -/
  | vcmplt (d : BitVec 2) (a : BitVec 4) (b : BitVec 4) (m : BitVec 2) (w : BitVec 2)
  /-- `VCMPLTN` (R103). Writes a mask of natural less-than elements. -/
  | vcmpltn (d : BitVec 2) (a : BitVec 4) (b : BitVec 4) (m : BitVec 2) (w : BitVec 2)
  /-- `VSEL` (R101). Selects A or B by C per element. -/
  | vsel (d : BitVec 4) (a : BitVec 4) (b : BitVec 4) (c : BitVec 4) (m : BitVec 2) (w : BitVec 2)
  /-- `VFADD` (R112). Float element add. -/
  | vfadd (d : BitVec 4) (a : BitVec 4) (b : BitVec 4) (m : BitVec 2) (f : BitVec 2)
  /-- `VFSUB` (R112). Float element subtract. -/
  | vfsub (d : BitVec 4) (a : BitVec 4) (b : BitVec 4) (m : BitVec 2) (f : BitVec 2)
  /-- `VFMUL` (R112). Float element multiply. -/
  | vfmul (d : BitVec 4) (a : BitVec 4) (b : BitVec 4) (m : BitVec 2) (f : BitVec 2)
  /-- `VFMIN` (R112). IEEE minimum per element. -/
  | vfmin (d : BitVec 4) (a : BitVec 4) (b : BitVec 4) (m : BitVec 2) (f : BitVec 2)
  /-- `VFMAX` (R112). IEEE maximum per element. -/
  | vfmax (d : BitVec 4) (a : BitVec 4) (b : BitVec 4) (m : BitVec 2) (f : BitVec 2)
  /-- `VFABS` (R112). Clears sign bits. -/
  | vfabs (d : BitVec 4) (a : BitVec 4) (m : BitVec 2) (f : BitVec 2)
  /-- `VFNEG` (R112). Inverts sign bits. -/
  | vfneg (d : BitVec 4) (a : BitVec 4) (m : BitVec 2) (f : BitVec 2)
  /-- `VFCMPEQ` (R112). Float equality mask. -/
  | vfcmpeq (d : BitVec 2) (a : BitVec 4) (b : BitVec 4) (m : BitVec 2) (f : BitVec 2)
  /-- `VFCMPLT` (R112). Float less-than mask. -/
  | vfcmplt (d : BitVec 2) (a : BitVec 4) (b : BitVec 4) (m : BitVec 2) (f : BitVec 2)
  /-- `VFCMPLE` (R112). Float less-or-equal mask. -/
  | vfcmple (d : BitVec 2) (a : BitVec 4) (b : BitVec 4) (m : BitVec 2) (f : BitVec 2)
  /-- `VFCMPUN` (R112). Unordered (NaN) mask. -/
  | vfcmpun (d : BitVec 2) (a : BitVec 4) (b : BitVec 4) (m : BitVec 2) (f : BitVec 2)
  /-- `VFMA` (R113). Fused A*B+C. -/
  | vfma (d : BitVec 4) (a : BitVec 4) (b : BitVec 4) (c : BitVec 4) (m : BitVec 2) (f : BitVec 2)
  /-- `VFMS` (R113). Fused A*B-C. -/
  | vfms (d : BitVec 4) (a : BitVec 4) (b : BitVec 4) (c : BitVec 4) (m : BitVec 2) (f : BitVec 2)
  /-- `VFNMA` (R113). Fused -(A*B)+C. -/
  | vfnma (d : BitVec 4) (a : BitVec 4) (b : BitVec 4) (c : BitVec 4) (m : BitVec 2) (f : BitVec 2)
  /-- `VRCP` (R114). Correctly rounded reciprocal, long-latency. -/
  | vrcp (d : BitVec 4) (a : BitVec 4) (l : BitVec 4) (m : BitVec 2) (f : BitVec 2)
  /-- `VRSQ` (R114). Correctly rounded reciprocal square root. -/
  | vrsq (d : BitVec 4) (a : BitVec 4) (l : BitVec 4) (m : BitVec 2) (f : BitVec 2)
  /-- `VSQRT` (R114). Correctly rounded square root. -/
  | vsqrt (d : BitVec 4) (a : BitVec 4) (l : BitVec 4) (m : BitVec 2) (f : BitVec 2)
  /-- `VDIV` (R114). Correctly rounded division. -/
  | vdiv (d : BitVec 4) (a : BitVec 4) (b : BitVec 4) (l : BitVec 4) (m : BitVec 2) (f : BitVec 2)
  /-- `VEXP2` (R138). 2^x by the reference algorithm. -/
  | vexp2 (d : BitVec 4) (a : BitVec 4) (l : BitVec 4) (m : BitVec 2) (f : BitVec 2)
  /-- `VLOG2` (R139). log2 x by the reference algorithm. -/
  | vlog2 (d : BitVec 4) (a : BitVec 4) (l : BitVec 4) (m : BitVec 2) (f : BitVec 2)
  /-- `VTANH` (R140). tanh x by the reference algorithm. -/
  | vtanh (d : BitVec 4) (a : BitVec 4) (l : BitVec 4) (m : BitVec 2) (f : BitVec 2)
  /-- `VSHUF` (R116). Shuffles elements of two vectors by an index vector. -/
  | vshuf (d : BitVec 4) (a : BitVec 4) (b : BitVec 4) (c : BitVec 4) (m : BitVec 2) (w : BitVec 2)
  /-- `VZIP` (R116). Interleaves halves of two vectors. -/
  | vzip (d : BitVec 4) (a : BitVec 4) (b : BitVec 4) (h : Bool) (m : BitVec 2) (w : BitVec 2)
  /-- `VUNZIP` (R116). Selects even or odd elements of two vectors. -/
  | vunzip (d : BitVec 4) (a : BitVec 4) (b : BitVec 4) (h : Bool) (m : BitVec 2) (w : BitVec 2)
  /-- `VROTL` (R116). Rotates elements by a general register amount. -/
  | vrotl (d : BitVec 4) (a : BitVec 4) (b : BitVec 4) (m : BitVec 2) (w : BitVec 2)
  /-- `VBCST` (R116). Broadcasts one element. -/
  | vbcst (d : BitVec 4) (a : BitVec 4) (b : BitVec 4) (m : BitVec 2) (w : BitVec 2)
  /-- `VCOMPRESS` (R116). Packs active elements to the bottom, zeroing the rest. -/
  | vcompress (d : BitVec 4) (a : BitVec 4) (m : BitVec 2) (w : BitVec 2)
  /-- `MAND` (R117). Mask AND. -/
  | mand (d : BitVec 2) (a : BitVec 2) (b : BitVec 2)
  /-- `MOR` (R117). Mask OR. -/
  | mor (d : BitVec 2) (a : BitVec 2) (b : BitVec 2)
  /-- `MXOR` (R117). Mask XOR. -/
  | mxor (d : BitVec 2) (a : BitVec 2) (b : BitVec 2)
  /-- `MNOT` (R117). Mask NOT. -/
  | mnot (d : BitVec 2) (a : BitVec 2)
  /-- `MCNT` (R117). Counts mask bits into a general register. -/
  | mcnt (d : BitVec 4) (a : BitVec 2)
  /-- `MFF` (R117). Finds the lowest set mask bit. -/
  | mff (d : BitVec 4) (a : BitVec 2)
  /-- `MFROMG` (R117). Moves a general register into a mask. -/
  | mfromg (d : BitVec 2) (a : BitVec 4)
  /-- `MTOG` (R117). Moves a mask into a general register. -/
  | mtog (d : BitVec 4) (a : BitVec 2)
  /-- `VSPLAT` (R118). Splats a general register into active elements. -/
  | vsplat (d : BitVec 4) (a : BitVec 4) (m : BitVec 2) (w : BitVec 2)
  /-- `VINS` (R118). Inserts a general register into one element. -/
  | vins (d : BitVec 4) (a : BitVec 4) (b : BitVec 4) (m : BitVec 2) (w : BitVec 2)
  /-- `VEXT` (R118). Extracts one element into a general register. -/
  | vext (d : BitVec 4) (a : BitVec 4) (b : BitVec 4) (w : BitVec 2)
  /-- `VMOV` (R118). Moves active elements. -/
  | vmov (d : BitVec 4) (a : BitVec 4) (m : BitVec 2) (w : BitVec 2)
  /-- `VRADD` (R118). Sums active elements into a general register. -/
  | vradd (d : BitVec 4) (a : BitVec 4) (m : BitVec 2) (w : BitVec 2)
  /-- `VRMAX` (R118). Largest active element. -/
  | vrmax (d : BitVec 4) (a : BitVec 4) (m : BitVec 2) (w : BitVec 2)
  /-- `VRMIN` (R118). Smallest active element. -/
  | vrmin (d : BitVec 4) (a : BitVec 4) (m : BitVec 2) (w : BitVec 2)
  /-- `VFRADD` (R119). Float tree reduction of active elements. -/
  | vfradd (d : BitVec 4) (a : BitVec 4) (m : BitVec 2) (f : BitVec 2)
  /-- `NSEND` (R110). Sends a vector to the neighbouring core's receive queue, waiting on the send window. -/
  | nsend (a : BitVec 4) (r : Bool)
  /-- `NRECV` (R110). Receives the oldest neighbour vector and returns a credit. -/
  | nrecv (d : BitVec 4) (r : Bool)
  /-- `NWIN` (R110). Reads and sets the neighbour send-window limit. -/
  | nwin (d : BitVec 4) (a : BitVec 4) (r : Bool)
  /-- `VCVTF` (R146). Converts between float formats. -/
  | vcvtf (d : BitVec 4) (a : BitVec 4) (s : BitVec 4) (t : BitVec 4) (m : BitVec 2) (p : BitVec 2)
  /-- `VCVTFI` (R146). Converts float to integer. -/
  | vcvtfi (d : BitVec 4) (a : BitVec 4) (s : BitVec 4) (t : BitVec 4) (m : BitVec 2) (p : BitVec 2)
  /-- `VCVTIF` (R146). Converts integer to float. -/
  | vcvtif (d : BitVec 4) (a : BitVec 4) (s : BitVec 4) (t : BitVec 4) (m : BitVec 2) (p : BitVec 2)
  /-- `VPACK8` (R146). Packs to 8-bit integers. -/
  | vpack8 (d : BitVec 4) (a : BitVec 4) (s : BitVec 4) (t : BitVec 4) (m : BitVec 2) (p : BitVec 2)
  /-- `VUNPK8` (R146). Unpacks 8-bit integers. -/
  | vunpk8 (d : BitVec 4) (a : BitVec 4) (s : BitVec 4) (t : BitVec 4) (m : BitVec 2) (p : BitVec 2)
  /-- `VPACK4` (R147). Packs to i4o nibbles. -/
  | vpack4 (d : BitVec 4) (a : BitVec 4) (s : BitVec 4) (t : BitVec 4) (m : BitVec 2) (p : BitVec 2)
  /-- `VUNPK4` (R146). Decodes i4o quads. -/
  | vunpk4 (d : BitVec 4) (a : BitVec 4) (s : BitVec 4) (t : BitVec 4) (m : BitVec 2) (p : BitVec 2)
  /-- `VSCALE` (R148). Applies a block descriptor's scale to float elements. -/
  | vscale (d : BitVec 4) (a : BitVec 4) (b : BitVec 4) (t : BitVec 4) (m : BitVec 2)
  /-- `LDB` (R169). Loads a zero-extended byte. -/
  | ldb (d : BitVec 4) (b : BitVec 4) (o : BitVec 10) (v : Bool) (l : BitVec 4)
  /-- `LDBS` (R169). Loads a sign-extended byte. -/
  | ldbs (d : BitVec 4) (b : BitVec 4) (o : BitVec 10) (v : Bool) (l : BitVec 4)
  /-- `LDH` (R169). Loads a zero-extended halfword. -/
  | ldh (d : BitVec 4) (b : BitVec 4) (o : BitVec 10) (v : Bool) (l : BitVec 4)
  /-- `LDHS` (R169). Loads a sign-extended halfword. -/
  | ldhs (d : BitVec 4) (b : BitVec 4) (o : BitVec 10) (v : Bool) (l : BitVec 4)
  /-- `LDW` (R169). Loads a zero-extended word. -/
  | ldw (d : BitVec 4) (b : BitVec 4) (o : BitVec 10) (v : Bool) (l : BitVec 4)
  /-- `LDWS` (R169). Loads a sign-extended word. -/
  | ldws (d : BitVec 4) (b : BitVec 4) (o : BitVec 10) (v : Bool) (l : BitVec 4)
  /-- `LDD` (R169). Loads a doubleword. -/
  | ldd (d : BitVec 4) (b : BitVec 4) (o : BitVec 10) (v : Bool) (l : BitVec 4)
  /-- `STB` (R169). Stores a byte. -/
  | stb (d : BitVec 4) (b : BitVec 4) (o : BitVec 10) (v : Bool)
  /-- `STH` (R169). Stores a halfword. -/
  | sth (d : BitVec 4) (b : BitVec 4) (o : BitVec 10) (v : Bool)
  /-- `STW` (R169). Stores a word. -/
  | stw (d : BitVec 4) (b : BitVec 4) (o : BitVec 10) (v : Bool)
  /-- `STD` (R169). Stores a doubleword. -/
  | std (d : BitVec 4) (b : BitVec 4) (o : BitVec 10) (v : Bool)
  /-- `VLD` (R169). Loads a 16-byte vector. -/
  | vld (d : BitVec 4) (b : BitVec 4) (o : BitVec 10) (v : Bool) (l : BitVec 4)
  /-- `VST` (R169). Stores a 16-byte vector. -/
  | vst (d : BitVec 4) (b : BitVec 4) (o : BitVec 10) (v : Bool)
  /-- `LDXD` (R173). Indexed doubleword load. -/
  | ldxd (d : BitVec 4) (a : BitVec 4) (b : BitVec 4) (l : BitVec 4)
  /-- `STXD` (R173). Indexed doubleword store. -/
  | stxd (d : BitVec 4) (a : BitVec 4) (b : BitVec 4)
  /-- `VLDX` (R173). Indexed vector load. -/
  | vldx (d : BitVec 4) (a : BitVec 4) (b : BitVec 4) (l : BitVec 4)
  /-- `VSTX` (R173). Indexed vector store. -/
  | vstx (d : BitVec 4) (a : BitVec 4) (b : BitVec 4)
  /-- `VLDM` (R174). Byte-masked vector load. -/
  | vldm (d : BitVec 4) (a : BitVec 4) (b : BitVec 4) (l : BitVec 4) (m : BitVec 2)
  /-- `VSTM` (R174). Byte-masked vector store. -/
  | vstm (d : BitVec 4) (a : BitVec 4) (b : BitVec 4) (m : BitVec 2)
  /-- `VGATH` (R175). Gathers one element per active lane. -/
  | vgath (d : BitVec 4) (a : BitVec 4) (b : BitVec 4) (l : BitVec 4) (m : BitVec 2) (w : BitVec 2)
  /-- `PREF` (R186). Prefetches a range into the L1 or LLC. -/
  | pref (a : BitVec 4) (b : BitVec 4) (p : Bool)
  /-- `TRES` (R185). Sets a tensor's residency priority. -/
  | tres (d : BitVec 4) (a : BitVec 4) (b : BitVec 4)
  /-- `STMAP` (R177). Maps a scratchpad area as a stash of a global range. -/
  | stmap (d : BitVec 4) (a : BitVec 4) (b : BitVec 4) (c : BitVec 4)
  /-- `STUNMAP` (R179). Writes back and frees a stash entry. -/
  | stunmap (d : BitVec 4) (a : BitVec 4)
  /-- `STWB` (R179). Writes back dirty stash lines of a range. -/
  | stwb (a : BitVec 4) (b : BitVec 4)
  /-- `TILEREG` (R183). Registers or removes a tensor for the tiled slice map. -/
  | tilereg (d : BitVec 4) (a : BitVec 4)
  /-- `LDF` (R199). Waits for the word full and reads it; an acquire. -/
  | ldf (d : BitVec 4) (b : BitVec 4) (o : BitVec 10) (l : BitVec 4)
  /-- `LDFE` (R199). Waits for full, reads and sets empty. -/
  | ldfe (d : BitVec 4) (b : BitVec 4) (o : BitVec 10) (l : BitVec 4)
  /-- `STF` (R199). Waits for empty, writes and sets full. -/
  | stf (d : BitVec 4) (b : BitVec 4) (o : BitVec 10)
  /-- `STFF` (R199). Writes and sets full without waiting. -/
  | stff (d : BitVec 4) (b : BitVec 4) (o : BitVec 10)
  /-- `FEGET` (R199). Reads the full/empty code of a word. -/
  | feget (d : BitVec 4) (b : BitVec 4) (o : BitVec 10) (l : BitVec 4)
  /-- `FEEMPTY` (R199). Sets a word empty. -/
  | feempty (b : BitVec 4) (o : BitVec 10)
  /-- `FEMARK` (R199). Sets or clears the marked bit of a word. -/
  | femark (d : BitVec 4) (b : BitVec 4) (o : BitVec 10)
  /-- `MONA` (R203). Arms a monitor entry on a line. -/
  | mona (a : BitVec 4)
  /-- `MONC` (R203). Disarms all monitor entries. -/
  | monc
  /-- `MWAIT` (R205). Sleeps until a monitored write, timeout or event. -/
  | mwait (d : BitVec 4) (a : BitVec 4)
  /-- `RSV` (R207). Queues for a word's reservation and receives it when granted. -/
  | rsv (d : BitVec 4) (b : BitVec 4) (o : BitVec 10) (l : BitVec 4)
  /-- `REL` (R207). Writes the reserved word and passes it on. -/
  | rel (d : BitVec 4) (b : BitVec 4) (o : BitVec 10)
  /-- `RELC` (R207). As REL, skipping the next word on success. -/
  | relc (d : BitVec 4) (b : BitVec 4) (o : BitVec 10)
  /-- `RSVT` (R207). Takes a reservation only if none is held or queued. -/
  | rsvt (d : BitVec 4) (b : BitVec 4) (o : BitVec 10) (l : BitVec 4)
  /-- `FADD` (R214). Far atomic add, combined in the Saddle. -/
  | fadd (d : BitVec 4) (a : BitVec 4) (b : BitVec 4) (l : BitVec 4) (w : Bool) (r : BitVec 2)
  /-- `FAND` (R214). Far atomic AND. -/
  | fand (d : BitVec 4) (a : BitVec 4) (b : BitVec 4) (l : BitVec 4) (w : Bool) (r : BitVec 2)
  /-- `FOR` (R214). Far atomic OR. -/
  | fOr (d : BitVec 4) (a : BitVec 4) (b : BitVec 4) (l : BitVec 4) (w : Bool) (r : BitVec 2)
  /-- `FXOR` (R214). Far atomic XOR. -/
  | fxor (d : BitVec 4) (a : BitVec 4) (b : BitVec 4) (l : BitVec 4) (w : Bool) (r : BitVec 2)
  /-- `FMAX` (R214). Far atomic signed maximum. -/
  | fmax (d : BitVec 4) (a : BitVec 4) (b : BitVec 4) (l : BitVec 4) (w : Bool) (r : BitVec 2)
  /-- `FMIN` (R214). Far atomic signed minimum. -/
  | fmin (d : BitVec 4) (a : BitVec 4) (b : BitVec 4) (l : BitVec 4) (w : Bool) (r : BitVec 2)
  /-- `FMAXN` (R214). Far atomic natural maximum. -/
  | fmaxn (d : BitVec 4) (a : BitVec 4) (b : BitVec 4) (l : BitVec 4) (w : Bool) (r : BitVec 2)
  /-- `FMINN` (R214). Far atomic natural minimum. -/
  | fminn (d : BitVec 4) (a : BitVec 4) (b : BitVec 4) (l : BitVec 4) (w : Bool) (r : BitVec 2)
  /-- `FSWP` (R214). Far atomic swap. -/
  | fswp (d : BitVec 4) (a : BitVec 4) (b : BitVec 4) (l : BitVec 4) (w : Bool) (r : BitVec 2)
  /-- `FCAS` (R214). Far compare-and-swap. -/
  | fcas (d : BitVec 4) (a : BitVec 4) (b : BitVec 4) (l : BitVec 4) (w : Bool) (r : BitVec 2)
  /-- `FINCB` (R214). Bounded far increment. -/
  | fincb (d : BitVec 4) (a : BitVec 4) (b : BitVec 4) (l : BitVec 4) (w : Bool) (r : BitVec 2)
  /-- `FINCW` (R214). Wrapping far increment. -/
  | fincw (d : BitVec 4) (a : BitVec 4) (b : BitVec 4) (l : BitVec 4) (w : Bool) (r : BitVec 2)
  /-- `FDECP` (R214). Far decrement unless zero. -/
  | fdecp (d : BitVec 4) (a : BitVec 4) (l : BitVec 4) (w : Bool) (r : BitVec 2)
  /-- `FADDL` (R214). Far add within a limit word. -/
  | faddl (d : BitVec 4) (a : BitVec 4) (b : BitVec 4) (l : BitVec 4) (w : Bool) (r : BitVec 2)
  /-- `GATH` (R224). Queues a fill of an A latch through an index list. -/
  | gath (d : BitVec 4) (a : BitVec 4) (b : BitVec 4) (c : Bool) (n : BitVec 2)
  /-- `BLD` (R224). Queues a fill of a B latch with consecutive rows. -/
  | bld (a : BitVec 4) (b : BitVec 4) (c : Bool) (n : BitVec 2)
  /-- `MMA` (R233). Queues a matrix multiply-accumulate into a tile and locks it. -/
  | mma (d : BitVec 3) (a : Bool) (b : Bool) (l : BitVec 4)
  /-- `ACZ` (R235). Zeroes a tile and its flags. -/
  | acz (d : BitVec 3)
  /-- `ACLD` (R236). Loads a tile from the local window. -/
  | acld (d : BitVec 3) (a : BitVec 4) (b : BitVec 4)
  /-- `ACST` (R236). Stores a tile converted to fp32, fp16 or bf16. -/
  | acst (d : BitVec 3) (a : BitVec 4) (b : BitVec 4) (f : BitVec 2)
  /-- `ACRD` (R237). Reads 16 tile elements into four vectors. -/
  | acrd (d : BitVec 4) (a : BitVec 3) (b : BitVec 4)
  /-- `ACWR` (R237). Writes 16 tile elements from four vectors. -/
  | acwr (d : BitVec 3) (a : BitVec 4) (b : BitVec 4)
  /-- `MXSTAT` (R238). Reads Ox status and clears selected tile flags. -/
  | mxstat (d : BitVec 4) (a : BitVec 4)
  /-- `REPT` (R240). Re-issues a body of up to 8 words N times with staggered fields. -/
  | rept (n : BitVec 3) (c : BitVec 4) (s : BitVec 4) (m : BitVec 4)
  /-- `CPY` (R250). Queues a 1D Mule copy. -/
  | cpy (d : BitVec 4) (a : BitVec 4) (b : BitVec 4) (l : BitVec 4)
  /-- `CPY2` (R250). Queues a 2D Mule copy. -/
  | cpy2 (d : BitVec 4) (a : BitVec 4) (b : BitVec 4) (l : BitVec 4)
  /-- `CPYG` (R250). Queues a Mule gather copy. -/
  | cpyg (d : BitVec 4) (a : BitVec 4) (b : BitVec 4) (l : BitVec 4)
  /-- `CPYS` (R250). Queues a Mule scatter copy. -/
  | cpys (d : BitVec 4) (a : BitVec 4) (b : BitVec 4) (l : BitVec 4)
  /-- `CPYCB` (R250). Queues a Mule fill of circular-buffer slots. -/
  | cpycb (d : BitVec 4) (a : BitVec 4) (b : BitVec 4) (l : BitVec 4)
  /-- `CBINIT` (R260). Initialises or releases a circular buffer. -/
  | cbinit (d : BitVec 4) (a : BitVec 4) (b : BitVec 4)
  /-- `CBACQ` (R261). Takes a filled slot, waiting while empty. -/
  | cbacq (d : BitVec 4) (a : BitVec 4)
  /-- `CBREL` (R261). Frees a held slot. -/
  | cbrel (a : BitVec 4) (b : BitVec 4)
  /-- `CBSTAT` (R262). Reads a buffer's counters. -/
  | cbstat (d : BitVec 4) (a : BitVec 4)
  /-- `CBRES` (R261). Reserves a free slot. -/
  | cbres (d : BitVec 4) (a : BitVec 4)
  /-- `CBPUB` (R261). Publishes a reserved slot in reservation order. -/
  | cbpub (a : BitVec 4) (b : BitVec 4)
  /-- `TSPAWN` (R321). Creates a persistent task with ports and queues it. -/
  | tspawn (d : BitVec 4) (a : BitVec 4) (b : BitVec 4)
  /-- `PARK` (R325). Returns the ready port mask or parks the task and traps. -/
  | park (d : BitVec 4) (a : BitVec 4)
  /-- `QSEND` (R323). Sends a 64-byte message to a task port, waking a parked task. -/
  | qsend (d : BitVec 4) (a : BitVec 4) (b : BitVec 4)
  /-- `QRECV` (R324). Receives a message or token from a port. -/
  | qrecv (d : BitVec 4) (a : BitVec 4) (b : BitVec 4)
  /-- `EOS` (R323). Sends an end-of-stream token to a port. -/
  | eos (d : BitVec 4) (a : BitVec 4)
  /-- `RQPUSH` (R326). Queues a task on the core's ready queue. -/
  | rqpush (d : BitVec 4) (a : BitVec 4)
  /-- `RQPOP` (R326). Makes the highest-priority ready task the slot's current task. -/
  | rqpop (d : BitVec 4) (a : BitVec 4)
  /-- `TIMER` (R327). Reads and arms the slot timer. -/
  | timer (d : BitVec 4) (a : BitVec 4)
  /-- `LAUNCH` (R316). Copies a launch record into the launch table, queued or pending. -/
  | launch (d : BitVec 4) (a : BitVec 4)
  /-- `DEPDEC` (R317). Decrements a record's wait count. -/
  | depdec (d : BitVec 4) (a : BitVec 4)
  /-- `EXIT` (R318). Ends the thread or the current task. -/
  | exit
  /-- `YIELD` (R328). Traps to the task kernel or yields the rotation. -/
  | yield
  /-- `BDLD` (R149). Loads a block descriptor. -/
  | bdld (d : BitVec 4) (a : BitVec 4)
  /-- `BDST` (R149). Stores a block descriptor. -/
  | bdst (a : BitVec 4) (b : BitVec 4)
  /-- `GCALL` (R294). Calls through a gate into another domain, pushing a frame. -/
  | gcall (a : BitVec 4) (b : BitVec 4) (c : BitVec 4)
  /-- `GRET` (R297). Ends the innermost frame and returns to the caller. -/
  | gret
  /-- `GABT` (R297). Ends the innermost frame with a failure code. -/
  | gabt (a : BitVec 4)
  /-- `DINFO` (R298). Reads domain and frame information. -/
  | dinfo (d : BitVec 4) (a : BitVec 4)
  /-- `GPUB` (R299). Publishes a gate descriptor and creates a handle. -/
  | gpub (d : BitVec 4) (a : BitVec 4) (b : BitVec 4)
  /-- `GREV` (R300). Closes, revokes, reopens a gate or kills a domain. -/
  | grev (d : BitVec 4) (a : BitVec 4) (b : BitVec 4)
  /-- `HGIVE` (R301). Copies a handle to another domain with reduced rights. -/
  | hgive (d : BitVec 4) (a : BitVec 4) (b : BitVec 4) (c : BitVec 4)
  /-- `HDROP` (R301). Empties a handle entry. -/
  | hdrop (d : BitVec 4) (a : BitVec 4)
  /-- `PTLOAD` (R381). Checks and installs a signed protocol table. -/
  | ptload (d : BitVec 4) (a : BitVec 4) (b : BitVec 4)
  /-- `PTBIND` (R382). Binds a range to a protocol id after cleaning it. -/
  | ptbind (d : BitVec 4) (a : BitVec 4) (b : BitVec 4) (c : BitVec 4)
  /-- `PTUNBIND` (R382). Rebinds a range to INV. -/
  | ptunbind (d : BitVec 4) (a : BitVec 4) (b : BitVec 4)
  /-- `DIRQ` (R383). Reads a line's directory entry. -/
  | dirq (d : BitVec 4) (a : BitVec 4)
  /-- `LINV` (R384). Invalidates all cached copies of a range's lines. -/
  | linv (a : BitVec 4) (b : BitVec 4)
  /-- `LWB` (R384). Writes back dirty copies of a range's lines. -/
  | lwb (a : BitVec 4) (b : BitVec 4)
  /-- `LBIAS` (R396). Sets the partition's lane-direction target and queues turns. -/
  | lbias (d : BitVec 4) (a : BitVec 4) (b : BitVec 4)
  /-- `LSTAT` (R397). Reads a bundle's state for the partition. -/
  | lstat (d : BitVec 4) (a : BitVec 4)
  /-- `NPOST` (R403). Queues a Steppe WRITE or READ request. -/
  | npost (d : BitVec 4) (a : BitVec 4)
  /-- `NCWAIT` (R409). Waits for a completion counter to reach a threshold. -/
  | ncwait (d : BitVec 4) (a : BitVec 4) (b : BitVec 4) (c : BitVec 4)
  /-- `NCRD` (R409). Reads, resets or clears errors of a counter. -/
  | ncrd (d : BitVec 4) (a : BitVec 4)
  /-- `NREG` (R407). Registers or deregisters a remote-access region. -/
  | nreg (d : BitVec 4) (a : BitVec 4) (b : BitVec 4) (c : BitVec 4)
  deriving DecidableEq, Repr

end Sys2Proof
end

