-- ==== Sys2Proof/Machine/State.lean ====
section
/-! DEFINITION. The state of the device: plain data that holds everything the spec gives the machine, the faults,
the refusals, and the state after reset. Defaults are reset values; where the spec gives none, log entry 1. -/
namespace Sys2Proof.Machine

/-- Why the machine stops. -/
inductive Fault where
  /-- Raised by `step` when the agenda names no event and every island has been stopped (R440 error, R444
  THERMTRIP): nothing runs until a reset. Safe: the device does nothing either. -/
  | deviceStopped
  deriving DecidableEq, Repr

/-- Why a step has no meaning. -/
inductive Refusal where
  /-- Raised by the dispatcher alone for an instruction without a meaning. Safe. -/
  | notModelled (mnemonic : String)
  /-- Raised by `step` when the head of the agenda is not a well-formed device event of this device, such as the
  event of a cluster that does not exist. Safe: the agenda is the model's own schedule (log entry 4). -/
  | illFormedTurn
  deriving DecidableEq, Repr

/-- One turn of the schedule (log entry 4): a device event, an issue cycle of a core, or fabric cycles that pass. -/
inductive Turn where
  | event (i : Instr)
  | core (n : Nat)
  | elapse (cycles : Nat)
  deriving DecidableEq, Repr

/-- What a long-latency instruction has yet to write (R44): a register, or the tile of an MMA (R233). -/
inductive Dest where
  | gen (r : Reg)
  | vec (r : Reg)
  | mask (r : BitVec 2)
  | tile (t : Nat)
  deriving DecidableEq, Repr

/-- A pending destination: the value it receives on completion (for a tile, the number of its MMA), what is left of the window, the address of the
long-latency instruction, whether it is a queued divide (R78), and whether the body stream issued it (R243). -/
structure Pending where
  dest : Dest
  value : Vec
  window : Nat
  at_ : Word
  divide : Bool := false
  body : Bool := false
  deriving DecidableEq, Repr

/-- The hint words issued so far in the current hint group (R46): payloads of HIMM, HMOD and HSCHED words in
address order; an HSCHED payload keeps its operation in [23:21] (R51). -/
structure Hints where
  himms : List (BitVec 24) := []
  hmods : List (BitVec 24) := []
  hscheds : List (BitVec 24) := []
  deriving DecidableEq, Repr

/-- An impossible row met at run time, as PROTOCOL tells it (R371): the engine (an agent's number, 0xFFFE the home), the
number of the row in its table, the directory entry then, and the partition, slice and page of the line. -/
structure LineStop where
  engine : Nat
  row : Nat
  entry : Nat
  part : Nat := 0
  slice : Nat := 0
  page : Nat := 0
  deriving DecidableEq, Repr

/-- Why a stream is out of the rotation (R70). -/
inductive Wait where
  /-- HSCHED.hold: cycles left (R51). -/
  | hold (cycles : Nat)
  /-- HALT (R343), or a stop at a firmware vector that cannot be fetched (R337). -/
  | halt
  /-- In the wait list of the home of a full/empty word (R193). -/
  | fe (word : Nat)
  /-- A full/empty or reservation request was refused: refusals so far, cycles of backoff left, its address (R194). -/
  | refused (refusals : Nat) (backoff : Nat) (va : Word)
  /-- In the reservation queue of a word (R209). -/
  | rsv (word : Nat)
  /-- MWAIT: its destination and the cycles left, none for no timeout (R205). -/
  | monitor (d : Reg) (cycles : Option Nat)
  /-- Parked by a demand fault on the page request of this number, with the address it faulted on (R163). -/
  | page (request : Nat) (va : Nat)
  /-- Window buffers of the core: those to be full and those to be empty, by index (R104). -/
  | windows (full empty : List Nat)
  /-- NSEND at its limit, in this direction (R110). -/
  | nsend (dir : Bool)
  /-- NRECV on an empty queue of this direction (R110). -/
  | nrecv (dir : Bool)
  /-- A command for the full command queue of the Ox, with the order of the first attempt (R222). -/
  | oxRoom (order : Nat)
  /-- A latch fill that this stream issued (R226). -/
  | fill
  /-- A tile that is held (R223). -/
  | tile (t : Nat)
  /-- An MMA into a tile for which another access waits (R223). -/
  | mmaTurn (t : Nat)
  /-- The completion of the MMAs of a tile (R233). -/
  | mmaDone (t : Nat)
  /-- An ACLD or ACST that this stream issued (R236). -/
  | transfer
  /-- Room for a Mule command (R248). -/
  | muleRoom
  /-- CBACQ on an empty buffer, CBRES on a full one (R261): buffer, order of arrival, destination. -/
  | cbacq (buf order : Nat) (d : Reg)
  | cbres (buf order : Nat) (d : Reg)
  /-- QSEND or EOS with the wait variant on a full port: cluster and buffer (R323). -/
  | qsend (cluster buf : Nat)
  /-- QRECV with the wait variant on an empty port (R324). -/
  | qrecv (buf : Nat)
  /-- RQPOP with wait on an empty ready queue (R326). -/
  | rqpop
  /-- ICINV until its cores have acknowledged (R91). -/
  | icinv
  /-- NCWAIT: its destination, counter, threshold and cycles left (R409). -/
  | counter (d : Reg) (c : Nat) (t : Nat) (cycles : Option Nat)
  /-- NPOST with the wait variant, until the send queue has room (R403). -/
  | sendRoom
  /-- NPOST of 64 KiB or more, until leave is granted: its registers, and its wait variant (R403). -/
  | leave (d a : Reg) (wait : Bool)
  /-- A line stopped at an impossible row, which the access met where one is named (R371), with the address where the request
  can be exhausted (R194). -/
  | line (l : Nat) (stop : Option LineStop) (va : Option Word := none)
  /-- A word behind the grant of a reservation (R211), with its address where the request can be exhausted (R194). -/
  | word (w : Nat) (va : Option Word := none)
  /-- A slice port that refused a request, for want of a transaction or of room in its deferral queue: cycles of backoff
  left, and the address where the request can be exhausted (R423, R446). -/
  | port (refusals : Nat) (backoff : Nat) (va : Option Word := none)
  /-- A token of the bucket at 32 x slice + partition (R423). -/
  | token (bucket : Nat) (va : Option Word := none)
  /-- A way of the full set in which a line comes to its slice: no candidate is stable (R421). -/
  | way (l : Nat) (va : Option Word := none)
  /-- The pending destinations that the next instruction touches, all registers where it drains the scoreboard, room for
  a ninth long-latency instruction (R44, R70). -/
  | scoreboard (dests : List Dest) (drain room : Bool)
  /-- The block of an instruction-cache miss, by the address fetched (R70, R86). -/
  | fetch (va : Word)
  /-- An access that is ordered after an access of the slot's other stream that has not been performed (R226, R243, R267). -/
  | behind
  /-- An instruction that is ordered after the slot's STFF, FEEMPTY and FEMARK until these have been performed (R196, R200,
  R267, R274). -/
  | posted
  /-- A full queue of the core's divider (R78). -/
  | divider
  /-- YIELD: the local slots of the core still to issue once (R328). -/
  | yield (slots : List Nat)
  /-- A travelling thread until the core beside its data accepts or refuses it (R189). -/
  | travel (core : Nat)
  /-- FENCE with ENG until the thread's engine commands have completed (R276). -/
  | engines
  /-- A run-ahead instruction that waits for the body, or for the end of the repetition (R242). -/
  | ahead
  deriving DecidableEq, Repr

/-- An active repetition (R240): the REPT word's address, its captured body words, its fields, the stagger offset,
the body word to issue next, the hint group of the body, its wait, and whether the body has the next turn (R243). -/
structure Rep where
  addr : Word
  words : List (BitVec 32)
  creg : Reg
  stride : Nat
  smask : BitVec 4
  off : Nat
  j : Nat
  /-- The iterations that are not completed, with the one under way (R240). -/
  left : Nat := 1
  hints : Hints := {}
  wait : Option Wait := none
  /-- Refusals met so far and cycles waited by the body instruction that waits (R194). -/
  refusals : Nat := 0
  waited : Nat := 0
  /-- Tokens that the instruction that waits has taken already, by bucket (R422). -/
  paid : SMap Nat := []
  bodyNext : Bool := true
  /-- The stream of the instruction being issued: the body. -/
  issuing : Bool := false
  deriving DecidableEq, Repr

/-- One monitor entry (R203): the line armed (by its first address), the order of arming, its flags, and the
lines of translation tables that the arming used (R165). -/
structure Monitor where
  armed : Bool := false
  line : Nat := 0
  order : Nat := 0
  written : Bool := false
  lost : Bool := false
  tables : List Nat := []
  deriving DecidableEq, Repr

/-- A reservation of a slot (R207): the word, its virtual address, whether it is granted, whether it was revoked,
and the fabric cycle of the grant. -/
structure Reservation where
  word : Nat
  va : Word
  granted : Bool
  revoked : Bool := false
  since : Nat := 0
  /-- The destination of the RSV that waits, and whether the next register receives an RSVT's status. -/
  d : Reg := 0
  pair : Bool := false
  /-- The pool that holds the request: the number of the home's list (R209). -/
  home : Nat := 0
  deriving DecidableEq, Repr

/-- An asynchronous event posted to a slot (R338) with its eaddr. -/
structure Posted where
  cause : Nat
  eaddr : Word
  /-- A FEFILL that IE does not hold yet: 1 until an entry goes before it, 2 taken before the next instruction (R196). -/
  fresh : Nat := 0
  deriving DecidableEq, Repr

/-- What kills and revocations have marked a thread for (R303-R305): the outermost frame that unwinding ends, its
cause (1 revocation, 2 kill), the handler that runs, the depth of the frame whose handler was entered last, its budget, the
state of an orphan, its grace and whether that has still to be read, whether the thread
ends, by itself or with the unit of a killed launch, and the handlers inside which
frames are unwound: the outermost frame, the handler's own and its budget, of each. -/
structure Unwind where
  target : Option Nat := none
  cause : Nat := 0
  running : Bool := false
  frame : Nat := 0
  budget : Nat := 0
  orphan : Bool := false
  grace : Nat := 0
  unread : Bool := false
  dying : Bool := false
  unit : Bool := false
  outer : List (Nat × Nat × Nat) := []
  deriving DecidableEq, Repr

/-- A task switch that RQPOP made and ERET to U applies (R326): the task whose ports the slot has until then; the root
domain is the task's own (R283). -/
structure TaskSwitch where
  ports : Option Nat
  root : BitVec 12
  dom : BitVec 12
  dsp : Word
  depth : BitVec 3
  spbase : Nat
  splen : Nat
  deriving DecidableEq, Repr

/-- A thread context in a slot (R15), with everything the slot keeps for it. -/
structure Thread where
  occupied : Bool := false
  pc : Word := 0
  g : Vector Word 16 := Vector.replicate 16 0
  v : Vector Vec 16 := Vector.replicate 16 0
  m : Vector Mask 4 := Vector.replicate 4 0
  /-- tstat (R331): [10] PIE, [9:8] PLEV, [7:5] DEPTH, [4] IE, [3] VX, [2] WIN, [1:0] LEVEL. -/
  tstat : Word := 0x10
  epc : Word := 0
  ecause : Word := 0
  eaddr : Word := 0
  tvec : Word := 0
  sdeleg : Word := 0
  rstate : Word := 0
  fstat : Word := 0
  dom : BitVec 12 := 0
  /-- The domain the thread started in (R283). -/
  root : BitVec 12 := 0
  dsp : Word := 0
  charge : Word := 0
  slice : Word := 0
  timer : Word := 0
  /-- The timer has run down and TIMER is not posted yet (R327). -/
  timerDue : Bool := false
  /-- The allocation (R152). -/
  spbase : Nat := 0
  splen : Nat := 0
  /-- The home cluster (R190). -/
  home : Nat := 0
  /-- The work unit that the thread belongs to (R190). -/
  unit : Option Nat := none
  /-- The slot's current task (R320). -/
  task : Option Nat := none
  taskSwitch : Option TaskSwitch := none
  hints : Hints := {}
  pending : List Pending := []
  rep : Option Rep := none
  wait : Option Wait := none
  /-- The migration of the access being issued was refused (R189). -/
  noTravel : Bool := false
  /-- Refusals met so far and cycles waited by the instruction that waits (R194), and tokens it has taken, by bucket (R422). -/
  refusals : Nat := 0
  waited : Nat := 0
  paid : SMap Nat := []
  events : List Posted := []
  rsv : Option Reservation := none
  monitors : Vector Monitor 4 := Vector.replicate 4 {}
  wakePending : Bool := false
  unwind : Option Unwind := none
  /-- The frames have still to be checked before the thread issues at level U (R306). -/
  recheck : Bool := false
  /-- A restored repetition is taken up at the point of rstate before the next instruction (R246, R353). -/
  resumes : Bool := false
  /-- The cycle of the previous issue, none since the thread was loaded (R68). -/
  lastIssue : Option Nat := none
  /-- The next fetch is that of a vector's first instruction (R337). -/
  atVector : Bool := false
  /-- The fetch buffer: the number of the 64-byte block and its words (R88). -/
  fetchBuf : Option (Nat × List (BitVec 32)) := none
  deriving DecidableEq, Repr

/-- A block of an instruction cache (R88): number of the 64-byte block, partition, its 16 words. -/
structure IBlock where
  block : Nat
  part : Nat
  words : List (BitVec 32)
  deriving DecidableEq, Repr

/-- A receive queue with the send window of its direction (R109). -/
structure Neighbour where
  queue : List Vec := []
  count : Nat := 0
  limit : Nat := 4
  deriving DecidableEq, Repr

/-- The states of a task (R320). -/
inductive TaskState where
  | free | queued | current | parked | idle
  deriving DecidableEq, Repr

/-- A port of a task (R320): its buffer, and whether the task is marked as its sleeper (R325). -/
structure Port where
  buf : Nat
  sleeper : Bool := false
  deriving DecidableEq, Repr

/-- An entry of a core's task table (R320). -/
structure Task where
  gen : BitVec 16 := 0
  state : TaskState := .free
  /-- The slot that took the task last. -/
  slot : Option Nat := none
  dom : BitVec 12 := 0
  prio : Nat := 0
  ox : Bool := false
  spbase : Nat := 0
  splen : Nat := 0
  ports : Vector (Option Port) 4 := Vector.replicate 4 none
  savedDom : BitVec 12 := 0
  savedDsp : Word := 0
  savedDepth : BitVec 3 := 0
  block : Word := 0
  deriving DecidableEq, Repr

/-- A migrating thread as its message carries it (R188), with its unit (R190). -/
structure Migrant where
  thread : Thread
  source : Nat
  deriving DecidableEq, Repr

/-- A translation that a TLB holds (R164): partition, domain, number of the 64 KiB page, number of its physical page, and
the lines of the table entries from which it was derived (R165). -/
structure Translation where
  part : Nat
  dom : BitVec 12
  page : Nat
  frame : Nat
  tables : List Nat
  deriving DecidableEq, Repr

/-- The state of a core that its slots share. -/
structure CoreState where
  icache : List IBlock := []
  /-- Replacements made so far (R89). -/
  victims : Nat := 0
  /-- B(s, x) at 4s + x - 12; none is empty (R104). -/
  windows : SMap (Option Vec) := []
  /-- Receive queue and send window of slot s and direction r at 2s + r (R109). -/
  neighbours : SMap Neighbour := []
  tasks : SMap Task := []
  /-- The ready queue: ids by priority 0-3 (R326). -/
  ready : SMap (List Nat) := []
  /-- The divider's queue: local slots, oldest first (R78). -/
  divides : List Nat := []
  /-- The island cycle in which the core issued last (R68). -/
  issued : Option Nat := none
  arrivals : List Migrant := []
  /-- Migration messages on their way to the core (R189). -/
  incoming : List Migrant := []
  /-- The work unit on the core (R314). -/
  unit : Option Nat := none
  /-- The TLB of the core: at most 32 entries, the oldest first (R164). -/
  tlb : List Translation := []
  deriving DecidableEq, Repr

/-- The context in which an agent translates and accesses memory: partition, cluster, domain, level, the argument
window (base, length, R, W, owner), whether the local window is open, its allocation, the L1 that serves it
(none for an engine, whose requests are uncached, R357), and the slot whose instruction it is (none for an engine). -/
structure Ctx where
  part : Nat := 0
  cluster : Nat := 0
  dom : BitVec 12 := 0
  level : Nat := 0
  depth : Nat := 0
  win : Option (Nat × Nat × Bool × Bool × BitVec 12) := none
  localOpen : Bool := false
  spbase : Nat := 0
  splen : Nat := 0
  agent : Option Nat := none
  slot : Option Nat := none
  /-- The IO die of a requester that stands on one (R12). -/
  io : Option Nat := none
  /-- The number under which a requester that is no slot waits at homes and slice ports (R211, R423). -/
  engine : Option Nat := none
  deriving DecidableEq, Repr

/-- A latch of the Ox (R220): bytes at 256 x row + byte, captured descriptors at 4 x row + block, width class
(0 none, 4, 8, 16), non-finite flags at 4 x column + block. -/
structure Latch where
  bytes : SMap Byte := []
  descs : SMap (BitVec 16) := []
  cls : Nat := 0
  nonFinite : SMap Bool := []
  deriving DecidableEq, Repr

/-- An accumulator tile: element (i, j) at 64 x i + j, and its flags (R220, R232). -/
structure Tile where
  elems : SMap (BitVec 32) := []
  nv : Bool := false
  ovf : Bool := false
  deriving DecidableEq, Repr

/-- A queued command of the Ox (R222): a fill of a latch (0-3: xa0, xa1, xb0, xb1) by a stream of a slot, with its
operands; or an MMA with its number, its issuer and the issuer's unit. `started` marks the executing MMA. -/
inductive OxCmd where
  | fill (latch : Nat) (gather : Bool) (slot : Nat) (body : Bool) (base pitch list : Word) (n : Nat)
  | mma (tile a b : Nat) (number slot : Nat) (unit : Option Nat) (started : Bool)
  deriving DecidableEq, Repr

/-- An accumulator transfer in flight (R236). -/
structure Transfer where
  tile : Nat
  slot : Nat
  body : Bool
  deriving DecidableEq, Repr

/-- The Ox of a cluster (R220). Latches 0-3 are xa0, xa1, xb0, xb1. -/
structure Ox where
  latches : SMap Latch := []
  tiles : SMap Tile := []
  queue : List OxCmd := []
  transfers : List Transfer := []
  /-- The local core at which the next free queue entry is offered first (R222). -/
  turn : Nat := 0
  /-- Leave is held (R234), and the cycles since the queue last held an MMA. -/
  leave : Bool := false
  leaveIdle : Nat := 0
  deriving DecidableEq, Repr

/-- A destination block that a copy command has written (R253): the one source block at the same place, if one, the bytes
written, and the descriptor that the source's has replaced. -/
structure Cover where
  src : Option Nat
  mask : Nat := 0
  old : Option (BitVec 16) := none
  deriving DecidableEq, Repr

/-- A copy command (R250): fn 0-4, number, issuing slot, its unit or task, the quad, the completion object, the
context, and how far it has come: row or slot index, bytes written, the slot taken, and why it waits. -/
structure CopyCmd where
  fn : Nat
  number : Nat
  slot : Nat
  unit : Option Nat
  task : Option Nat
  quad : Vector Word 4
  comp : Word
  ctx : Ctx
  pos : Nat := 0
  written : Nat := 0
  taken : Option Nat := none
  status : Option (Int × Word) := none
  /-- The page request it waits on, and the address that faulted. -/
  request : Option (Nat × Nat) := none
  /-- Leave: 0 none, 1 asked for, 2 held (R255). -/
  leave : Nat := 0
  /-- The row whose index has been read, and the index (R251). -/
  index : Option (Nat × Nat) := none
  track : SMap Cover := []
  deriving DecidableEq, Repr

/-- A circular buffer (R258): slot phases are in `phase` (0 free, 1 reserved, 2 filled, 3 held), with done bits,
released bits, end-of-stream tokens, and the waiters in order of arrival. -/
structure Buffer where
  live : Bool := false
  dom : BitVec 12 := 0
  eng : Bool := false
  base : Nat := 0
  size : Nat := 0
  slots : Nat := 0
  filled : Nat := 0
  free : Nat := 0
  held : Nat := 0
  resv : Nat := 0
  rd : Nat := 0
  wr : Nat := 0
  done : List Nat := []
  released : List Nat := []
  tokens : List Nat := []
  /-- The owner: a unit, or a task by core and id; none for a kernel's buffer. -/
  unit : Option Nat := none
  task : Option (Nat × Nat) := none
  port : Bool := false
  deriving DecidableEq, Repr

/-- A page's part of the range of a stash entry, as it was translated last: range, physical address, and the lines of
translation tables that the translation rests on (R165). -/
structure StashPage where
  va : Nat
  len : Nat
  pa : Nat
  tables : List Nat
  deriving DecidableEq, Repr

/-- A stash entry (R177): area, range, W, domain, its creator, its pages, and whether a translation of one of them is no
longer valid (R180). -/
structure StashEntry where
  live : Bool := false
  area : Nat := 0
  va : Nat := 0
  len : Nat := 0
  writable : Bool := false
  dom : BitVec 12 := 0
  stale : Bool := false
  pages : List StashPage := []
  unit : Option Nat := none
  task : Option (Nat × Nat) := none
  deriving DecidableEq, Repr

/-- The register leave's state and the island's figures (R441-R443). -/
structure Island where
  mhz : Nat := 1400
  mv : Nat := 400
  /-- The point that power firmware has set, and what a started millivolt of the ramp has come to (R441). -/
  toMhz : Nat := 1400
  toMv : Nat := 400
  ramp : Nat := 0
  /-- The current cap in amperes (R443), and what the temperature and process monitors show (R444). -/
  amps : Nat := 39
  temp : Nat := 0
  process : Nat := 0
  /-- The cap throttled the island in the last microsecond: fabric cycles left of it. -/
  cap : Nat := 0
  /-- Fabric cycles in which the cap still removes island cycles (R443). -/
  throttled : Nat := 0
  /-- The remainder of the conversion of fabric cycles to island cycles. -/
  phase : Nat := 0
  /-- Island cycles since the cluster came into use, from which R68 counts. -/
  cycles : Nat := 0
  deriving DecidableEq, Repr

/-- The state of a cluster. -/
structure Cluster where
  part : Option Nat := none
  world : BitVec 17 := 0
  ctxbase : Word := 0
  fvec : Word := 0
  forecast : Word := 0
  /-- The fabric cycle of its last update (R330). -/
  forecastAt : Nat := 0
  ox : Ox := {}
  mule : List CopyCmd := []
  /-- Accepted copy commands (R249). -/
  muleCount : Nat := 0
  /-- The slot whose command moved the last chunk (R248). -/
  muleTurn : Nat := 0
  /-- The command whose write waits for the fill-event port, which holds all later writes of the Mule (R197). -/
  muleHeld : Option Nat := none
  bufs : SMap Buffer := []
  stash : SMap StashEntry := []
  /-- Allocated ranges of the scratchpad: first byte and length (R313, R321). -/
  allocs : List (Nat × Nat) := []
  /-- The unit or task that occupies the Ox: a unit, or core and task id (R312). -/
  oxUnit : Option Nat := none
  oxTask : Option (Nat × Nat) := none
  /-- 4 KiB units of the scratchpad that are no longer fresh (R426). -/
  clear : SMap Bool := []
  /-- Marked to leave its partition for another (R416), stopped dispatch (R350), given back (R415). -/
  leaving : Option Nat := none
  /-- The fabric cycle at which it was marked (R417). -/
  leavingAt : Nat := 0
  /-- The report IPA of the forced move under way, 0 for none (R428). -/
  moveReport : Word := 0
  givenBack : Bool := false
  stopped : Bool := false
  /-- A vacate deferred by CRIT: cycles left (R418). -/
  deferral : Option Nat := none
  /-- The order in which waiters on buffers arrived (R261). -/
  arrivals : Nat := 0
  /-- The TLB of the cluster: at most 4096 entries, the oldest first (R164). -/
  tlb : List Translation := []
  island : Island := {}
  deriving DecidableEq, Repr

/-- A waiter in the list of a home (R193): its slot, whether its body stream waits, the word, the operation
(0 LDF, 1 LDFE, 2 STF), the destination register, the value to store, and the virtual address. -/
structure FeWaiter where
  slot : Nat
  body : Bool
  word : Nat
  op : Nat
  d : Reg
  value : Word
  va : Word
  deriving DecidableEq, Repr

/-- An access that waits at a home behind the grant of a word (R211): a stream of a slot, another requester by its number
beyond the slots (an engine, a host function, a control core), or an STFF, FEEMPTY or FEMARK whose slot went on (R200): its
code, value and virtual address, whether its page is of class UO, and whether a release-side FENCE has come after it (R274). -/
structure Held where
  slot : Nat
  body : Bool
  op : Option (Nat × Word × Word) := none
  uo : Bool := false
  fenced : Bool := false
  deriving DecidableEq, Repr

/-- The content of a line: 128 bytes and the sideband of its two blocks (R22). -/
structure LineData where
  bytes : List Byte
  side : List (BitVec 32)
  deriving DecidableEq, Repr

/-- What a message carries (R362): a line, listed only where it is not the newest content (which `State.mem` holds), runs of
bytes with their places in the line, the operation of an ATOM that no instruction of this machine performs, the place and
length of what an UREAD asks for, the sideband that comes with the bytes of an UWRITE, and the result of such an ATOM. -/
structure Payload where
  line : Option LineData := none
  bytes : List (Nat × List Byte) := []
  op : Option LineAtom := none
  reads : Option (Nat × Nat) := none
  side : List (BitVec 32) := []
  result : Option Nat := none
  deriving DecidableEq, Repr

/-- A directory entry (R359) and what the slice keeps beside it: the request being completed (code, sender) and what it
carried, the messages still to send of a count above 255 (R365), the stalled requests in order (R363), whether the line
is dirty in the LLC, the partition that filled it, its slice, whether it was filled at the lowest rank (R167), the clock
of its last use (R185), the translation bit (R165). -/
structure Dir where
  state : Nat := 0
  prot : Nat := 1
  coarse : Bool := false
  pend : Nat := 0
  ownreq : Nat := 0xFFFF
  sharers : BitVec 64 := 0
  req : Option (Nat × Nat) := none
  reqData : Payload := {}
  left : List (Nat × Nat) := []
  stalled : List (Nat × Nat × Payload) := []
  dirty : Bool := false
  part : Nat := 0
  slice : Nat := 0
  low : Bool := false
  used : Nat := 0
  trans : Bool := false
  /-- The tensor of that partition in which the line lies (R184). -/
  tensor : Option Nat := none
  /-- The number of the 64 KiB page by whose id the line was filled (R358). -/
  page : Nat := 0
  /-- The impossible row at which the home stopped handling the line (R371). -/
  stopped : Option LineStop := none
  deriving DecidableEq, Repr

/-- An agent's state for a line (R374): state, whether it holds a copy, the copy's content where it is not the newest,
the accesses it holds in order (0 LOAD, 1 STORE, with the bytes of a store), whether an access was refused (R379), the
clock of its last access by the agent (R385), the set of an L1 in which the line lies: bits 12-7 of its stage-2 address
(R385), and the impossible row at which the agent stopped handling the line, with the events that wait there (R371). -/
structure AgentLine where
  state : Nat := 0
  copy : Bool := false
  old : Option LineData := none
  held : List (Nat × List (Nat × List Byte)) := []
  refused : Bool := false
  used : Nat := 0
  set : Nat := 0
  stopped : Option LineStop := none
  later : List (Nat × Payload) := []
  deriving DecidableEq, Repr

/-- An uncached transaction of a slice (R446): its line, and the die of its requester: 0-7 a base die, 8 and 9 the IO dies. -/
structure Txn where
  line : Nat
  die : Nat
  deriving DecidableEq, Repr

/-- A message in flight (R362): code, sender and receiver (0-2175 an agent, 0x8000 + t a transaction of the slice, 0xFFFE
the home), line, the slice that is its home, what it carries, whether it refuses the request, and the die of a transaction's
requester. -/
structure Msg where
  code : Nat
  src : Nat
  dst : Nat
  line : Nat
  slice : Nat := 0
  data : Payload := {}
  refused : Bool := false
  die : Option Nat := none
  deriving DecidableEq, Repr

/-- A protocol table (R366): MCA, state classes and rows, all as in the image. -/
structure ProtoTable where
  mca : Bool
  homeClass : List Nat
  agentClass : List Nat
  home : SMap (BitVec 64)
  agent : SMap (BitVec 64)
  deriving DecidableEq, Repr

/-- The coherence plane: which copies exist and where requests stand. The content written last to a line, in a copy or at
its home, is in `State.mem` and `State.side`; `backing` lists what the LLC holds of a line where that is another content. -/
structure Coh where
  dir : SMap Dir := []
  /-- Agent a and line l at 4096 l + a. -/
  agents : SMap AgentLine := []
  msgs : List Msg := []
  /-- The last answer to transaction t of slice n, at 64 n + t: whether it refused, and what it carried (R362, R379). -/
  answers : SMap (Option (Bool × Payload)) := []
  /-- Transaction t of slice n while it is in use, at 64 n + t (R446). -/
  txns : SMap (Option Txn) := []
  /-- The count of uses of lines, by which they are told older and newer (R167, R185). -/
  clock : Nat := 0
  tables : SMap (Option ProtoTable) := []
  /-- Protocol ids of 64 KiB pages (R358). -/
  ids : SMap Nat := []
  backing : SMap LineData := []
  /-- What DRAM holds of a line that a slice holds, as it was when the line was filled (R432). -/
  dram : SMap LineData := []
  /-- Refused host and control-core writes counted by slice (R379). -/
  refusedWrites : SMap Nat := []
  deriving DecidableEq, Repr

/-- A registered tensor (R182-R185). -/
structure Tensor where
  base : Nat
  pa : Nat
  pitch : Nat
  rows : Nat
  tileRows : Nat
  tileWidth : Nat
  prio : Nat := 2
  dom : BitVec 12
  /-- Demoted below priority 0 until its next access (R185). -/
  demoted : Bool := false
  deriving DecidableEq, Repr

/-- A page request (R163, R427): number, page, domain, kind, whether it is posted, the physical address of its
reply word, the slots parked on it, and the engine commands that wait on it (by a number of their own). -/
structure PageReq where
  number : Nat
  va : Nat
  dom : BitVec 12
  kind : Nat
  posted : Bool
  record : Nat := 0
  slots : List Nat := []
  engines : List Nat := []
  deriving DecidableEq, Repr

/-- A launch (R310-R318): its record's address, virtual and canonical, and fields, its place in the table, its
counters. `groups` die groups hand out `units / groups` indices each; a unit has `cores` groups of `threads`. -/
structure Launch where
  addr : Word
  key : Nat
  dom : BitVec 12
  entry : Word
  args : Word
  prio : Nat
  restart : Bool
  ox : Bool
  groups : Nat
  cores : Nat
  threads : Nat
  units : Nat
  dieLevel : Bool
  spad : Nat
  cycles : Nat
  done : Word
  succ : List Word
  queued : Bool
  order : Nat
  counters : SMap Nat := []
  groupDie : SMap (Option Nat) := []
  returned : List (Nat × Nat) := []
  finished : Nat := 0
  killed : Bool := false
  /-- Fabric cycles since its last dispatch, and the hold of R312. -/
  holdClock : Nat := 0
  held : Bool := false
  /-- The next write of its completion (R319): 0 none due, 1 word 1, 2 word 0, 3-6 successors 0-3. -/
  completing : Nat := 0
  request : Option (Nat × Nat) := none
  deriving DecidableEq, Repr

/-- A placed work unit (R311-R318), with the canonical address of its launch's record. -/
structure WorkUnit where
  part : Nat
  launch : Nat
  index : Nat
  group : Nat
  u : Nat
  cluster : Nat
  cores : List Nat
  spbase : Nat
  splen : Nat
  threads : Nat
  started : Nat
  cycles : Nat
  ox : Bool
  restart : Bool
  saved : Bool := false
  deriving DecidableEq, Repr

/-- A completion counter of the Steppe engine (R408, R409): VALUE, ERR, LASTERR. Its domain is in the counter
assignments of the partition's Steppe state. -/
structure Counter where
  value : BitVec 48 := 0
  err : BitVec 8 := 0
  lasterr : BitVec 8 := 0
  deriving DecidableEq, Repr

/-- A remote endpoint (R401): its fabric address, the partition that the entry reaches there, its security association. -/
structure Peer where
  address : Nat := 0
  part : Nat := 0
  association : Nat := 0
  deriving DecidableEq, Repr

/-- A region of the Steppe engine (R407): its generation, its range in the domain, its rights and counter, the physical
address of each 64 KiB page that it meets, and the lines of tables that its translation rests on. -/
structure Region where
  live : Bool := false
  gen : BitVec 4 := 0
  dom : BitVec 12 := 0
  base : Nat := 0
  len : Nat := 0
  rr : Bool := false
  rw : Bool := false
  counter : Option Nat := none
  cbytes : Bool := false
  pages : List Nat := []
  tables : List Nat := []
  /-- Deregistered, with placements in flight still to perform. -/
  closing : Bool := false
  deriving DecidableEq, Repr

/-- A packet that a request has sent (R404-R406): its number in the message, its sequence number, its port, how often it
was sent, its bytes, whether it is acknowledged, its failure code, whether three higher packets have caused its one
resend, and the fabric cycle at which its timer expires. -/
structure Sent where
  j : Nat
  seq : Nat
  port : Nat
  sends : Nat := 1
  bytes : List Byte := []
  acked : Bool := false
  code : Nat := 0
  fast : Bool := false
  expires : Nat := 0
  deriving DecidableEq, Repr

/-- A work request (R402-R404), or the data that answers a peer's READ (R404): then `answers` gives the region and the
number of the peer's request. -/
structure NetReq where
  number : Nat
  slot : Nat
  unit : Option Nat
  task : Option Nat := none
  quad : Vector Word 4
  ctx : Ctx
  dest : Peer := {}
  answers : Option (Nat × Nat) := none
  /-- The next packet to send; packets of a READ that have been placed. -/
  next : Nat := 0
  sent : List Sent := []
  placed : List Nat := []
  /-- The bytes of the next packet, read before it may leave (R411, R432). -/
  staged : Option (List Byte) := none
  /-- Leave is held for it (R403, R442). -/
  leave : Bool := false
  /-- The page request on which it waits, and the address that faulted. -/
  request : Option (Nat × Nat) := none
  error : Option Nat := none
  deriving DecidableEq, Repr

/-- What has been received of a peer's flow (R405, R412): the lowest number not received, the numbers above it that
were, and the packets that failed a check, with their codes. -/
structure Flow where
  low : Nat := 0
  above : List Nat := []
  failed : List (Nat × Nat) := []
  deriving DecidableEq, Repr

/-- The Steppe state of a partition beside what stands at the record's Steppe state base (R401): the send queue, counters,
regions, next sequence numbers and received flows by peer, packets placed of the messages that peers write (by peer and
message). -/
structure Steppe where
  queue : List NetReq := []
  accepted : Nat := 0
  counters : SMap Counter := []
  regions : SMap Region := []
  flows : SMap Nat := []
  received : SMap Flow := []
  incoming : List ((Nat × Nat) × List Nat) := []
  /-- Packets that have arrived and are not placed: one that the fill-event port holds back, and those after it (R197). -/
  waiting : List Packet := []
  /-- Peers that are owed an acknowledgement, and the acknowledgements that have left, in order (R412). -/
  owed : List Nat := []
  acks : List Ack := []
  /-- Packets sent by requests that have ended (R413). -/
  sentBefore : Nat := 0
  deriving DecidableEq, Repr

/-- One cluster's part of a vacate (R350, R352): whether its choice is deferred (R418) or it still drains, the fabric
cycle from which its deadline counts, the outcome of a save that waits for accesses of its threads (R351), its outcome
(0 drained, 1 saved, 2 discarded, 3 saved late), FAIL, and the cycles from the acceptance to its finish. -/
structure VacateCluster where
  cluster : Nat
  deferred : Bool := false
  draining : Bool := false
  finished : Bool := false
  since : Nat
  saving : Option Nat := none
  outcome : Nat := 0
  fail : Bool := false
  took : Nat := 0
  deriving DecidableEq, Repr

/-- A vacate in progress (R349): its report (none for a forced move, R417), the slot to notify, the fabric cycle of its
acceptance. -/
structure Vacate where
  clusters : List VacateCluster
  deadline : Nat
  whole : Bool
  report : Option Word
  notify : Option Nat
  accepted : Nat
  deriving DecidableEq, Repr

/-- What only the device reads of a save area (R348): the area's address, the cluster it came from, the threads by their slot in it,
the threads that were away or queued, the units, the core state, the Ox, the Mule remainders, the buffers, the stash
entries, the allocations, and what the keyed check values cover: the bytes of each page of the device's parts. -/
structure SavedCluster where
  area : Nat := 0
  cluster : Nat
  whole : Bool
  threads : SMap Thread
  away : List Thread
  units : List Nat
  cores : SMap CoreState
  ox : Option Ox
  oxUnit : Option Nat
  oxTask : Option (Nat × Nat)
  mule : List CopyCmd
  bufs : SMap Buffer
  stash : SMap StashEntry
  allocs : List (Nat × Nat)
  check : List (List (Nat × Byte)) := []
  deriving DecidableEq, Repr

/-- The state the device keeps for a partition beside its record in memory (R414). -/
structure Partition where
  record : Option Nat := none
  launches : List Launch := []
  requests : List PageReq := []
  /-- Notices that wait for ring space: kind, +0x08, +0x18 (R428). -/
  notices : List (Nat × Word × Word) := []
  tensors : SMap Tensor := []
  steppe : Steppe := {}
  vacates : List Vacate := []
  /-- Saved clusters by the number of their save. -/
  saved : SMap SavedCluster := []
  /-- The kind-7 notice of a port condition has been given (R197). -/
  portNoticed : Bool := false
  /-- The number of the partition's memory key (R430). -/
  key : Nat := 0
  halted : Bool := false
  /-- The debug setting of the attested configuration (R431). -/
  debugOn : Bool := false
  deriving DecidableEq, Repr

/-- What is told to firmware or to the security processor: WORLD with a partition (R432), PROTOCOL with a line and its
impossible row (R371), 0x100 with a slot that stops (R337). -/
structure Report where
  cause : Nat
  detail : Nat
  stop : Option LineStop := none
  deriving DecidableEq, Repr

/-- A flit on a link (R390, R398): its class, its partition (none for firmware), its direction, its place in the order in
which flits entered the bundle, its sequence number on its group and direction, whether its CRC arrives good is drawn on
arrival; and what its header carries: the units returned, by 2 x group + direction, and the sequence numbers up to which
flits are acknowledged. An empty control flit has class 3. -/
structure Flit where
  cls : Nat
  part : Option Nat
  up : Bool
  order : Nat := 0
  seq : Nat := 0
  returns : List Nat := []
  acks : SMap Nat := []
  deriving DecidableEq, Repr

/-- A Col bundle (R388-R399): owners and directions of the 16 groups, queued turns (group, new direction up), running
turns with the link clock at which the dead time ends (none while flits are in flight), the owners' targets, the link
clocks of the last turn of a group and of the recent starts, counts, windows, flits. Windows, flits ever sent, units ever
freed, retry buffers, sequence numbers expected and receive entries are at 2 x group + direction, the direction 1 for up. -/
structure Bundle where
  owner : SMap (Option Nat) := []
  up : BitVec 16 := 0x5555
  queue : List (Nat × Bool) := []
  turning : List (Nat × Bool × Option Nat) := []
  targets : SMap Nat := []
  lastTurn : SMap Nat := []
  starts : List Nat := []
  replay : SMap Nat := []
  repair : SMap Nat := []
  window : SMap Nat := []
  sent : SMap Nat := []
  freed : SMap Nat := []
  /-- Units freed whose return has not left yet, and groups whose acknowledgement has not. -/
  due : List Nat := []
  ackDue : List Nat := []
  /-- Flits sent and not acknowledged, in order: at most 128 of a group and direction. -/
  retry : SMap (List Flit) := []
  /-- The sequence number that the receiver expects next, and the flits that hold its receive entries. -/
  expected : SMap Nat := []
  entries : SMap (List Flit) := []
  /-- The link clock at which the owner of a group last had a flit waiting for it (R399). -/
  wanted : SMap Nat := []
  /-- Flits that wait to enter, in order, and flits in flight by group, in order. -/
  waiting : List Flit := []
  flight : List (Nat × Flit) := []
  /-- Flits that have entered so far, the first link clock in which no group has sent yet, the last audit's number. -/
  entered : Nat := 0
  nextClock : Nat := 0
  audits : Nat := 0
  deriving DecidableEq, Repr

/-- An SPDM responder (R433). -/
structure Spdm where
  version : Bool := false
  capabilities : Bool := false
  algorithms : Bool := false
  /-- The session being set up or established, by its number. -/
  session : Option Nat := none
  established : Bool := false
  keyUpdates : Nat := 0
  /-- The last answer: the response code and its data, as numbers. -/
  answer : List Nat := []
  deriving DecidableEq, Repr

/-- How a request of the host to a function completes (R435, R436): with the bytes read, none for a write, or with Completer
Abort or Unsupported Request. -/
inductive Completion where
  | data (l : List Byte)
  | abort
  | unsupported
  deriving DecidableEq, Repr

/-- What a function sends over the host link (R432): the result of an entry to its place in host memory, the completion of a
request, or an interrupt. -/
inductive Outward where
  | result (addr : Nat) (x : Word)
  | answer (x : Completion)
  | interrupt
  deriving DecidableEq, Repr

/-- A function of the host link (R435-R439): its partition, the registers of BAR 0, the queue's state (0 running, 1
stalled, 2 exhausted, 3 error), KEYED, error cause, expected number, what firmware set for it (DMA window, size of BAR 2),
its responder, the completion of the last request, and MSI-X vector 0. -/
structure HostFn where
  bound : Option Nat := none
  qbase : Word := 0
  qsize : Word := 0
  qwr : BitVec 32 := 0
  qrd : BitVec 32 := 0
  qstate : Nat := 0
  keyed : Bool := false
  cause : Nat := 0
  expected : Nat := 1
  dmaBase : Nat := 0
  dmaLen : Nat := 0
  bar2 : Nat := 0
  spdm : Spdm := {}
  completion : Option Completion := none
  msix : Bool := false
  /-- The page request on whose reply the entry at the head of the queue waits (R163). -/
  request : Option Nat := none
  /-- What the function has to send and may not yet, oldest first (R432). -/
  outward : List Outward := []
  deriving DecidableEq, Repr

/-- The whole device. -/
structure State where
  /-- Fabric cycles since reset (R332). -/
  now : Nat := 0
  /-- The model's own: the schedule, the current slot, and the count of free values drawn (log entry 4). -/
  agenda : List Turn := []
  cur : Nat := 0
  drawn : Nat := 0
  /-- The reset or stop that ended all running (R440, R444). -/
  stopped : Bool := false
  /-- THERMTRIP# is asserted (R444). -/
  tripped : Bool := false
  ready : Bool := true
  bringUpError : Nat := 0
  /-- Memory by canonical physical address; an unlisted byte reads 0 (R22, R425). -/
  mem : List Host.Cell := []
  /-- Sideband of the 64-byte block of number n: [15:0] descriptor, [31:16] full/empty (R126, R191). -/
  side : SMap (BitVec 32) := []
  /-- Clears of fresh 64 KiB pages: 1 under way, 2 done (R425). -/
  pageClear : SMap Nat := []
  threads : SMap Thread := []
  cores : SMap CoreState := []
  clusters : SMap Cluster := []
  parts : SMap Partition := []
  units : SMap WorkUnit := []
  /-- Numbers given out: units, page requests, launches, armings. -/
  serial : Nat := 0
  /-- Wait lists of homes: bank b of cluster c at 32 c + b, slice n at 4096 + n (R193). -/
  feLists : SMap (List FeWaiter) := []
  /-- Reservation queues by word address: slots in order, the holder first (R209). -/
  rsvQueues : SMap (List Nat) := []
  /-- The accesses that wait behind the grant of a word, in order of arrival (R211). -/
  held : SMap (List Held) := []
  coh : Coh := {}
  /-- Tokens of slice s and partition p at 32 s + p, and the requesters (slot and stream, or a number beyond the slots) whose
  requests are deferred there, in order (R422, R423). -/
  tokens : SMap (Option Nat) := []
  deferred : SMap (List (Nat × Bool)) := []
  /-- Tokens that requesters beyond the slots have taken for requests that they send again: of bucket b by requester r at
  8192 r + b (R422). -/
  credits : SMap Nat := []
  /-- The 256-cycle window in which the buckets of a slice last refilled; the tokens of bucket 32 s + p that overflowed then and
  are not borrowed; the tokens that its partition has borrowed since (R422, R424). -/
  refills : SMap Nat := []
  spill : SMap Nat := []
  borrowed : SMap Nat := []
  /-- The 140,000-cycle period in which the border controller last ran (R416). -/
  borderRuns : Nat := 0
  /-- Requests of control cores and of the host that are not performed yet (R23, R211, R423). -/
  coreRequests : List Instr := []
  /-- Integrity checks in flight: the number of the 64-byte block, the partition (R432). -/
  checks : List (Nat × Nat) := []
  bundles : SMap Bundle := []
  /-- Ethernet ports that are up (R403). -/
  ports : BitVec 8 := 0
  hostFns : SMap HostFn := []
  hostMem : List Host.Cell := []
  /-- What was told to firmware and to the security processor, oldest first. -/
  reports : List Report := []
  usedWorlds : List Nat := []
  deriving DecidableEq, Repr

/-- The machine right after a cold reset and a bring-up without error (R440): no partition, no thread, fresh
memory. Log entries 1 and 6. -/
def State.reset : State := {}

end Sys2Proof.Machine
end

