-- ==== Sys2Proof/Machine/Ops.lean ====
section
/-! DEFINITION. The named operations over memory and registers; trap entry, and the level and pc of a return. -/
namespace Sys2Proof.Machine

/-! ### Where things stand in the device (R17) -/

/-- The core of a device slot. -/
def coreOf (k : Nat) : Nat := k / 8
/-- The cluster of a device slot. -/
def clusterOf (k : Nat) : Nat := k / 128
/-- The slot within its core. -/
def localSlot (k : Nat) : Nat := k % 8

def State.thread (s : State) (k : Nat) : Thread := s.threads.get {} k
def State.setThread (s : State) (k : Nat) (t : Thread) : State := { s with threads := s.threads.set k t }
def State.mapThread (s : State) (k : Nat) (f : Thread → Thread) : State := s.setThread k (f (s.thread k))
def State.core (s : State) (n : Nat) : CoreState := s.cores.get {} n
def State.setCore (s : State) (n : Nat) (c : CoreState) : State := { s with cores := s.cores.set n c }
def State.cluster (s : State) (c : Nat) : Cluster := s.clusters.get {} c
def State.setCluster (s : State) (c : Nat) (x : Cluster) : State := { s with clusters := s.clusters.set c x }
def State.part (s : State) (p : Nat) : Partition := s.parts.get {} p
def State.setPart (s : State) (p : Nat) (x : Partition) : State := { s with parts := s.parts.set p x }
/-- The current slot's thread. -/
def State.thr (s : State) : Thread := s.thread s.cur
/-- The current slot's thread replaced. -/
def State.setThr (s : State) (t : Thread) : State := s.setThread s.cur t
def State.mapThr (s : State) (f : Thread → Thread) : State := s.setThr (f s.thr)
/-- The partition that owns a cluster; 0 where none does. -/
def State.partOf (s : State) (c : Nat) : Nat := (s.cluster c).part.getD 0
/-- A fresh serial number. -/
def State.next (s : State) : State := { s with serial := s.serial + 1 }

/-! ### Registers (R7, R56, R60, R72) and the fields of tstat (R331) -/

/-- g[r]; g0 reads zero. -/
def Thread.rg (t : Thread) (r : Reg) : Word := if r = 0 then 0 else t.g[r.toNat]
/-- g[r] written; a write to g0 is discarded. -/
def Thread.wg (t : Thread) (r : Reg) (x : Word) : Thread :=
  if r = 0 then t else { t with g := t.g.set r.toNat x }
/-- v[r] of the thread's own registers. -/
def Thread.rv (t : Thread) (r : Reg) : Vec := t.v[r.toNat]
def Thread.wv (t : Thread) (r : Reg) (x : Vec) : Thread := { t with v := t.v.set r.toNat x }
/-- m[r]; m0 reads all ones. -/
def Thread.rm (t : Thread) (r : BitVec 2) : Mask := if r = 0 then 0xFFFF else t.m[r.toNat]
/-- m[r] written; a write to m0 is discarded. -/
def Thread.wm (t : Thread) (r : BitVec 2) (x : Mask) : Thread :=
  if r = 0 then t else { t with m := t.m.set r.toNat x }

def Thread.level (t : Thread) : Nat := field t.tstat 1 0
def Thread.winMode (t : Thread) : Bool := bit t.tstat 2
def Thread.vx (t : Thread) : Bool := bit t.tstat 3
def Thread.ie (t : Thread) : Bool := bit t.tstat 4
def Thread.depth (t : Thread) : Nat := field t.tstat 7 5
def Thread.plev (t : Thread) : Nat := field t.tstat 9 8
def Thread.pie (t : Thread) : Bool := bit t.tstat 10
def Thread.withLevel (t : Thread) (l : Nat) : Thread := { t with tstat := setField t.tstat 1 0 l }
def Thread.withIe (t : Thread) (b : Bool) : Thread := { t with tstat := setField t.tstat 4 4 b.toNat }
def Thread.withVx (t : Thread) (b : Bool) : Thread := { t with tstat := setField t.tstat 3 3 b.toNat }
/-- tstat.DEPTH with dsp[9:0] beside it (R289). -/
def Thread.withDepth (t : Thread) (d : Nat) : Thread :=
  { t with tstat := setField t.tstat 7 5 d, dsp := setField t.dsp 9 0 (d * 128) }

/-- slice.REMAIN and slice.ON (R344). -/
def Thread.remain (t : Thread) : Nat := field t.slice 31 0
def Thread.sliceOn (t : Thread) : Bool := bit t.slice 32

/-! ### The hint group (R46) and the streams of a slot (R243) -/

def Hints.count (h : Hints) : Nat := h.himms.length + h.hmods.length + h.hscheds.length

/-- The instruction being issued belongs to the body of the active repetition. -/
def Thread.inBody (t : Thread) : Bool := match t.rep with | some r => r.issuing | none => false

/-- The hint group of the stream that issues. -/
def Thread.grp (t : Thread) : Hints :=
  match t.rep with
  | some r => if r.issuing then r.hints else t.hints
  | none => t.hints

/-- The address of the instruction being issued (R39). -/
def Thread.ipc (t : Thread) : Word :=
  match t.rep with
  | some r => if r.issuing then r.addr + 4 * BitVec.ofNat 64 (1 + r.j) else t.pc
  | none => t.pc

/-- The first word of the main stream's hint group, the resumption pc of a trap (R52, R244). -/
def Thread.resumePc (t : Thread) : Word := t.pc - 4 * BitVec.ofNat 64 t.hints.count

/-! ### Pending destinations (R44, R45) and the divider (R78) -/

/-- The destination written with the completed value. -/
def Thread.commit (t : Thread) (p : Pending) : Thread :=
  match p.dest with
  | .gen r => t.wg r (p.value.setWidth 64)
  | .vec r => t.wv r p.value
  | .mask r => t.wm r (p.value.setWidth 16)
  | .tile _ => t

/-- The destination is a register; that of an MMA is not (R45). -/
def Pending.register (p : Pending) : Bool :=
  match p.dest with
  | .tile _ => false
  | _ => true

/-- Pending registers that satisfy q completed, in order of issue. -/
def Thread.complete (t : Thread) (q : Pending → Bool) : Thread :=
  (t.pending.filter (fun p => p.register && q p)).foldl Thread.commit
    { t with pending := t.pending.filter (fun p => !(p.register && q p)) }

/-- The oldest queued divide of a thread completed. -/
def Thread.completeDivide (t : Thread) : Thread :=
  match t.pending.find? (·.divide) with
  | some p => { t.commit p with pending := t.pending.erase p }
  | none => t

/-- The head of a core's divider queue leaves it by completing (R78). -/
def divideComplete (n : Nat) (s : State) : State :=
  match (s.core n).divides with
  | [] => s
  | j :: r => (s.setCore n { s.core n with divides := r }).mapThread (8 * n + j) Thread.completeDivide

/-- Heads complete until slot k has no queued divide that satisfies q; the queue holds at most 8 (R78). -/
def completeDivides (k : Nat) (q : Pending → Bool) : Nat → State → State
  | 0, s => s
  | fuel + 1, s =>
    if (s.thread k).pending.any (fun p => p.divide && q p) then
      completeDivides k q fuel (divideComplete (coreOf k) s)
    else s

/-- Slot k's pending destinations that satisfy q are written (R44); divides leave the divider in order. -/
def completePending (k : Nat) (q : Pending → Bool) (s : State) : State :=
  let s := completeDivides k q 8 s
  s.mapThread k (fun t => t.complete q)

/-- Every pending destination of slot k is written, as trap entry requires (R45). -/
def completeAll (k : Nat) (s : State) : State := completePending k (fun _ => true) s

/-! ### Memory -/

/-- One byte of memory: an unlisted byte reads 0 (R22, R425). -/
def Memory.get : List Host.Cell → Nat → Byte
  | [], _ => 0
  | (a', b) :: r, a => if a' = a then b else Memory.get r a

/-- A non-zero byte stored at its place. -/
def Memory.put : List Host.Cell → Nat → Byte → List Host.Cell
  | [], a, b => [(a, b)]
  | (a', b') :: r, a, b =>
    if a < a' then (a, b) :: (a', b') :: r
    else if a' = a then (a, b) :: r
    else (a', b') :: Memory.put r a b

/-- A byte stored; storing what an unlisted address reads as removes the entry. -/
def Memory.set (m : List Host.Cell) (a : Nat) (b : Byte) : List Host.Cell :=
  if b = 0 then m.filter (fun c => c.1 != a) else Memory.put m a b

/-- The canonical form: addresses rise strictly and no entry is the unlisted byte. -/
def Memory.wf : List Host.Cell → Bool
  | [] => true
  | [c] => c.2 != 0
  | c :: d :: r => c.2 != 0 && decide (c.1 < d.1) && Memory.wf (d :: r)

/-- Bytes stored at the given addresses, in order. -/
def Memory.setAll (m : List Host.Cell) (l : List (Nat × Byte)) : List Host.Cell :=
  l.foldl (fun m c => Memory.set m c.1 c.2) m

/-- A 64-bit word at an address of the linear map. -/
def State.raw64 (s : State) (a : Nat) : Word :=
  BitVec.ofNat 64 (ofBytes ((List.range 8).map (fun i => Memory.get s.mem (a + i))))

/-- A word of the partition record (R414); 0 where the partition has none. -/
def State.prec (s : State) (p off : Nat) : Word :=
  match (s.part p).record with
  | some a => s.raw64 (a + off)
  | none => 0

/-- The near channels that partition p owns, ascending (R154, R414). -/
def State.nearChannels (s : State) (p : Nat) : List Nat :=
  let lo := s.prec p 0x90
  let hi := s.prec p 0x98
  (List.range 128).filter (fun c => if c < 64 then bit lo c else bit hi (c - 64))

/-- The canonical address of a physical address: the interleaved view of partition p reaches its channels line by
line (R153, R154). Log entry 7. -/
def State.key (s : State) (a : Nat) : Nat :=
  if a < 0x100000000000 then a
  else
    let p := (a - 0x100000000000) / 0x8000000000
    let o := (a - 0x100000000000) % 0x8000000000
    let list := s.nearChannels p
    let l := o / 128
    list.getD (l % list.length) 0 * 0xC0000000 + l / list.length * 128 + o % 128

/-- Partition p owns near channel c (R414). -/
def State.ownsNear (s : State) (p c : Nat) : Bool :=
  if c < 64 then bit (s.prec p 0x90) c else bit (s.prec p 0x98) (c - 64)

/-- Whether partition p may reach the physical address a (R153-R155); level F is exempt from ownership. R20 leaves open
which modules of the far tier are fitted and how large they are: the model takes the 32 rows of R153 as fitted, of 256 GiB
each (log entry 45). -/
def State.reachable (s : State) (p : Nat) (firmware : Bool) (a : Nat) : Bool :=
  if a < 0x6000000000 then firmware || s.ownsNear p (a / 0xC0000000)
  else if 0x10000000000 ≤ a && a < 0x90000000000 then
    firmware || bit (s.prec p 0xA0) ((a - 0x10000000000) / 0x4000000000)
  else if 0xA0000000000 ≤ a && a < 0xA0020000000 then
    firmware || (s.cluster ((a - 0xA0000000000) / 0x400000)).part == some p
  else if 0x100000000000 ≤ a && a < 0x200000000000 then
    let q := (a - 0x100000000000) / 0x8000000000
    decide (q < 32) && (firmware || q == p) &&
      decide ((a - 0x100000000000) % 0x8000000000 < (s.nearChannels q).length * 0xC0000000)
  else false

/-- The bytes that n consecutive physical addresses hold. -/
def State.readBytes (s : State) (a n : Nat) : List Byte :=
  (List.range n).map (fun i => Memory.get s.mem (s.key (a + i)))

/-- The number that n consecutive bytes hold, little-endian (R3). -/
def State.readNat (s : State) (a n : Nat) : Nat := ofBytes (s.readBytes a n)

/-- mem64 at a physical address. -/
def State.read64 (s : State) (a : Nat) : Word := BitVec.ofNat 64 (s.readNat a 8)

/-- What a write to a line does to a thread's monitors: a written line, a lost translation (R204). -/
def Thread.lineWritten (line : Nat) (t : Thread) : Thread :=
  if t.monitors.any (fun m => m.armed && (m.line == line || m.tables.contains line)) then
    { t with
      monitors := t.monitors.map (fun m =>
        if m.armed && m.line == line then { m with written := true }
        else if m.armed && m.tables.contains line then { m with lost := true } else m)
      wakePending := true }
  else t

/-- The translation of a page of the entry rests on the line. -/
def StashEntry.restsOn (e : StashEntry) (line : Nat) : Bool := e.live && e.pages.any (fun p => p.tables.contains line)

/-- A stash entry whose translation rested on the line becomes stale (R180). -/
def StashEntry.lineWritten (line : Nat) (e : StashEntry) : StashEntry :=
  if e.restsOn line then { e with stale := true } else e

/-- The translations that were not derived from the line (R165). -/
def keepTranslations (line : Nat) (l : List Translation) : List Translation := l.filter (fun x => !x.tables.contains line)

/-- A core's TLB after a write to the line. -/
def CoreState.lineWritten (line : Nat) (c : CoreState) : CoreState :=
  if c.tlb.isEmpty then c else { c with tlb := keepTranslations line c.tlb }

/-- A cluster's stash entries and TLB after a write to the line. -/
def Cluster.lineWritten (line : Nat) (c : Cluster) : Cluster :=
  { c with stash := c.stash.mapVals (fun _ e => e.lineWritten line), tlb := keepTranslations line c.tlb }

/-- A region whose translation rested on the line loses its key (R407). -/
def Region.lineWritten (line : Nat) (r : Region) : Region :=
  if r.live && r.tables.contains line then { r with live := false } else r

/-- A change of any byte, descriptor or full/empty state of a line is seen by monitors, and by what rests on the
line as a line of translation tables (R165, R180, R204, R407). -/
def lineWritten (line : Nat) (s : State) : State :=
  { s with
    threads := s.threads.mapVals (fun _ t => t.lineWritten line)
    cores := s.cores.mapVals (fun _ c => c.lineWritten line)
    clusters := s.clusters.mapVals (fun _ c => c.lineWritten line)
    parts := s.parts.mapVals (fun _ p =>
      { p with steppe := { p.steppe with regions := p.steppe.regions.mapVals (fun _ r => r.lineWritten line) } }) }

/-- What the eviction of a line by its home does to a thread's monitors: that of the line is lost, and where the line held
entries of translation tables, so are those that rest on it (R165, R204). -/
def Thread.lineEvicted (line : Nat) (trans : Bool) (t : Thread) : Thread :=
  let gone := fun (m : Monitor) => m.armed && (m.line == line || (trans && m.tables.contains line))
  if t.monitors.any gone then
    { t with monitors := t.monitors.map (fun m => if gone m then { m with lost := true } else m), wakePending := true }
  else t

/-- A line has been evicted by its home: monitors of it are lost, and with its translation bit set what rests on it as a
line of tables is dropped (R165, R180, R204, R407). -/
def lineEvicted (line : Nat) (trans : Bool) (s : State) : State :=
  let s := { s with threads := s.threads.mapVals (fun _ t => t.lineEvicted line trans) }
  if trans then
    { s with
      cores := s.cores.mapVals (fun _ c => c.lineWritten line)
      clusters := s.clusters.mapVals (fun _ c => c.lineWritten line)
      parts := s.parts.mapVals (fun _ p =>
        { p with steppe := { p.steppe with regions := p.steppe.regions.mapVals (fun _ r => r.lineWritten line) } }) }
  else s

/-- A write clears the fresh state of its page, or of its scratchpad unit (R425, R426). -/
def touchPage (a : Nat) (s : State) : State :=
  if 0xA0000000000 ≤ a && a < 0xA0020000000 then
    let c := (a - 0xA0000000000) / 0x400000
    let u := (a - 0xA0000000000) % 0x400000 / 4096
    s.setCluster c { s.cluster c with clear := (s.cluster c).clear.set u true }
  else { s with pageClear := s.pageClear.set (a / 65536) 2 }

/-- The frequency of an island falls to its point at once, and rises to it when the supply has arrived (R441). -/
def Island.settle (i : Island) : Island := if i.toMhz < i.mhz || i.mv = i.toMv then { i with mhz := i.toMhz } else i

/-- k fabric cycles of the ramp of a supply, 10 mV in each 1,400 (R441). -/
def Island.ramped (i : Island) (k : Nat) : Island :=
  if i.mv = i.toMv then i
  else
    let n := (i.ramp + 10 * k) / 1400
    if (if i.mv < i.toMv then i.toMv - i.mv else i.mv - i.toMv) ≤ n then { i with mv := i.toMv, ramp := 0 }.settle
    else { i with mv := if i.mv < i.toMv then i.mv + n else i.mv - n, ramp := (i.ramp + 10 * k) % 1400 }

/-- The canonical lines of n bytes at a, each once. -/
def State.linesOf (s : State) (a n : Nat) : List Nat :=
  ((List.range n).map (fun i => s.key (a + i) / 128 * 128)).eraseDups

/-- Bytes written at consecutive physical addresses: the data, then what the change of the lines causes. -/
def State.writeBytes (s : State) (a : Nat) (l : List Byte) : State :=
  let ks := (List.range l.length).map (fun i => s.key (a + i))
  let s1 := { s with mem := Memory.setAll s.mem (ks.zip l) }
  (s.linesOf a l.length).foldl (fun s n => lineWritten n (touchPage n s)) s1

/-- n bytes of a number written little-endian. -/
def State.writeNat (s : State) (a n x : Nat) : State := s.writeBytes a (toBytes n x)
def State.write64 (s : State) (a : Nat) (x : Word) : State := s.writeNat a 8 x.toNat

/-- The sideband of the block that holds a physical address (R22). -/
def State.sideband (s : State) (a : Nat) : BitVec 32 := s.side.get 0 (s.key a / 64)
/-- desc[a] (R126). -/
def State.desc (s : State) (a : Nat) : BitVec 16 := (s.sideband a).setWidth 16
/-- fe[a]: the code of R191 of the word that contains a. -/
def State.fe (s : State) (a : Nat) : BitVec 2 := (s.sideband a).extractLsb' (16 + 2 * (s.key a % 64 / 8)) 2
/-- The empty bit of a word (R191). -/
def State.empty (s : State) (a : Nat) : Bool := bit (s.fe a) 0
/-- The marked bit of a word (R191). -/
def State.marked (s : State) (a : Nat) : Bool := bit (s.fe a) 1

/-- The sideband of a block replaced; the change is a write of the line (R204). -/
def State.setSideband (s : State) (a : Nat) (x : BitVec 32) : State :=
  lineWritten (s.key a / 128 * 128) (touchPage (s.key a) { s with side := s.side.set (s.key a / 64) x })
/-- The descriptor of a block replaced (R126). -/
def State.setDesc (s : State) (a : Nat) (d : BitVec 16) : State :=
  s.setSideband a (setField (s.sideband a) 15 0 d.toNat)
/-- fe[a] replaced (R191). -/
def State.setFe (s : State) (a : Nat) (x : BitVec 2) : State :=
  s.setSideband a (setField (s.sideband a) (17 + 2 * (s.key a % 64 / 8)) (16 + 2 * (s.key a % 64 / 8)) x.toNat)

/-- Bytes and sideband of a range of canonical addresses made fresh: they read as zero (R425, R426). A line whose bytes,
descriptors or full/empty states change is seen as written (R204). -/
def freshRange (lo n : Nat) (s : State) : State :=
  let inside := fun (a : Nat) => decide (lo ≤ a) && decide (a < lo + n)
  let blocks := s.side.filter (fun (b : Nat × BitVec 32) => decide (lo / 64 ≤ b.1) && decide (b.1 < (lo + n) / 64) && b.2 != 0)
  let lines := ((s.mem.filter (fun (c : Host.Cell) => inside c.1)).map (fun (c : Host.Cell) => c.1 / 128 * 128)
    ++ blocks.map (fun (b : Nat × BitVec 32) => b.1 * 64 / 128 * 128)).eraseDups
  lines.foldl (fun s l => lineWritten l s)
    { s with mem := s.mem.filter (fun c => !inside c.1), side := s.side.dropRange (lo / 64) ((lo + n) / 64) }

/-! ### Events of slots (R338) -/

/-- FEFILL reported to a slot (R196): 1 for an STFF or FEEMPTY, whose slot went on; 2 for a waiter that the home served,
which takes it before its next instruction. -/
def reportFill (k how : Nat) (eaddr : Word) (s : State) : State :=
  s.mapThread k (fun t => { t with events := t.events ++ [{ cause := 9, eaddr := eaddr, fresh := how }] })

/-- An event posted to a slot; each kind is pending at most once (R338). -/
def post (k cause : Nat) (eaddr : Word) (s : State) : State :=
  s.mapThread k (fun t =>
    if t.events.any (fun e => e.cause == cause) then t
    else { t with events := t.events ++ [{ cause := cause, eaddr := eaddr }] })

/-- WORLD or PROTOCOL goes to firmware: it is recorded, and posted to a slot with a thread, which the spec does not name
and the model leaves free, with a free eaddr (R334, R371, R432; log entry 48). -/
def tellFirmware (r : Report) (s : State) : State :=
  let n := s.drawn
  let s := { s with reports := s.reports ++ [r], drawn := n + 1 }
  match (s.threads.filter (fun e => e.2.occupied))[Config.firmwareSlot n % (s.threads.filter (fun e => e.2.occupied)).length]? with
  | some e => post e.1 r.cause (Config.firmwareDetail n) s
  | none => s

/-! ### Trap entry (R333, R336, R337) -/

/-- A trap as a rule raises it: its cause, its eaddr, and whether it goes to firmware (stage 2, a refused access). -/
structure Trap where
  cause : Nat
  eaddr : Word
  firmware : Bool := false
  /-- The memory system refused the access (R155). -/
  refused : Bool := false
  deriving DecidableEq, Repr

/-- The target level of a cause (R333). -/
def targetLevel (t : Thread) (cause : Nat) (firmware : Bool) : Nat :=
  if firmware || cause == 0x16 || cause == 0x17 || t.level == 2 then 2
  else if cause == 0x07 || cause == 0x10 || cause == 0x18 || cause == 0x1B then 1
  else if cause == 0x0D || cause == 0x0E then 0
  else if bit t.sdeleg cause then 0 else 1

/-- The vector of a level (R336). -/
def State.vector (s : State) (k level : Nat) : Word :=
  if level = 0 then (s.thread k).tvec
  else if level = 1 then s.prec (s.partOf (clusterOf k)) 0x18
  else (s.cluster (clusterOf k)).fvec

/-- rstate at trap entry: the body's resumption point, or 0 without a repetition (R244, R245). -/
def Thread.repPoint (t : Thread) : Word :=
  match t.rep with
  | none => 0
  | some r =>
    BitVec.ofNat 64 (2 ^ 63 + r.off % 16 * 2 ^ 59 + (r.j - r.hints.count) % 8 * 2 ^ 56
      + r.addr.toNat % 2 ^ 52 / 4 * 4)

/-- g[C] of an active repetition holds the iterations that are not completed (R244). -/
def Thread.countLeft (t : Thread) : Thread :=
  match t.rep with
  | none => t
  | some r => t.wg r.creg (BitVec.ofNat 64 r.left)

/-- The registers and the status at trap entry to level l (R336), and the slot's stream reset: the group, the
repetition and the wait end there. A FEFILL that this entry goes before is held by IE from now on (R196). -/
def Thread.enter (t : Thread) (resume : Word) (cause : Nat) (eaddr : Word) (l : Nat) : Thread :=
  { t.countLeft with
    epc := resume &&& ~~~3
    ecause := BitVec.ofNat 64 cause
    eaddr := eaddr
    rstate := t.repPoint
    tstat := setField (setField (setField (setField t.tstat 9 8 t.level) 10 10 t.ie.toNat) 1 0 l) 4 4 0
    hints := {}
    rep := none
    wait := none
    refusals := 0
    waited := 0
    paid := []
    noTravel := false
    events := t.events.map (fun e => { e with fresh := 0 }) }

/-- A slot that cannot enter its firmware vector stops as HALT does, and the security processor is told (R337). -/
def stopSlot (k : Nat) (s : State) : State :=
  { s.mapThread k (fun t => { t with wait := some .halt }) with reports := s.reports ++ [{ cause := 0x100, detail := k }] }

/-- Entry at level l: registers, status, and the pc at the vector. A vector that is not 4-aligned takes ALIGN at
the next higher level with epc at the vector; at F the slot stops (R337). The fuel counts levels. -/
def enterLevel : Nat → Nat → Word → Nat → Word → Nat → State → State
  | 0, k, _, _, _, _, s => stopSlot k s
  | fuel + 1, k, resume, cause, eaddr, l, s =>
    let vec := s.vector k l
    let s := s.mapThread k (fun t => { t.enter resume cause eaddr l with pc := vec, atVector := true })
    if vec.toNat % 4 = 0 then s
    else if l ≥ 2 then stopSlot k s
    else enterLevel fuel k vec 3 vec (l + 1) s

/-- Trap entry of slot k at level l: pending destinations complete first (R45), then the entry (R336). -/
def enterTrap (k : Nat) (resume : Word) (cause : Nat) (eaddr : Word) (l : Nat) (s : State) : State :=
  enterLevel 3 k resume cause eaddr l (completeAll k s)

/-- A synchronous trap of slot k with a resumption pc: at the higher of target level and current level (R333). -/
def trapAt (k : Nat) (resume : Word) (t : Trap) (s : State) : State :=
  let th := s.thread k
  enterTrap k resume t.cause t.eaddr (max (targetLevel th t.cause t.firmware) th.level) s

/-- A synchronous trap of slot k whose resumption pc is its hint group (R52). -/
def trap (k : Nat) (t : Trap) (s : State) : State := trapAt k (s.thread k).resumePc t s

/-! ### Return from a trap (R341) -/

/-- The level, IE and pc of ERET: PLEV, PIE, epc and the other trap registers stay (R341). -/
def Thread.returned (t : Thread) : Thread :=
  { t with
    tstat := setField (setField t.tstat 1 0 t.plev) 4 4 t.pie.toNat
    pc := t.epc
    hints := {} }

/-! ### The end of an instruction -/

/-- Windows of the issuing stream shrink by one instruction (R44, R243). -/
def Thread.slideWindows (t : Thread) (body : Bool) : Thread :=
  { t with pending := t.pending.map (fun p => if p.body == body then { p with window := p.window - 1 } else p) }

/-- The body moves to its next word; after its last word the iteration ends: g[C] receives the iterations left and the
stagger steps, and the repetition ends with its last iteration, which closes the body's windows (R240, R242, R243). -/
def Thread.bodyAdvance (t : Thread) (r : Rep) : Thread :=
  let r := { r with hints := {}, issuing := false, bodyNext := false, wait := none, refusals := 0, waited := 0, paid := [] }
  if r.j + 1 < r.words.length then { t with rep := some { r with j := r.j + 1 } }
  else
    let t := t.wg r.creg (BitVec.ofNat 64 (r.left - 1))
    if r.left ≤ 1 then
      { t with rep := none, pending := t.pending.map (fun p => if p.body then { p with window := 0 } else p) }
    else { t with rep := some { r with j := 0, left := r.left - 1, off := (r.off + r.stride) % 16 } }

/-- The instruction has completed: its stream goes on at the next word, or the main stream at pc `target`. -/
def Thread.retireTo (t : Thread) (target : Word) : Thread :=
  match t.rep with
  | some r =>
    if r.issuing then (t.slideWindows true).bodyAdvance r
    else
      { t.slideWindows false with
        pc := target, hints := {}, wait := none, refusals := 0, waited := 0, paid := [], noTravel := false
        rep := some { r with bodyNext := true } }
  | none =>
    { t.slideWindows false with
      pc := target, hints := {}, wait := none, refusals := 0, waited := 0, paid := [], noTravel := false }

/-- The instruction has completed and its stream goes on at the next word. -/
def Thread.retire (t : Thread) : Thread := t.retireTo (t.pc + 4)

/-- Slot k's instruction has completed. -/
def retireSlot (k : Nat) (s : State) : State := s.mapThread k Thread.retire

/-- The current slot's instruction has completed. -/
def retire (s : State) : State := s.mapThr Thread.retire

/-- The current slot's main stream goes on at pc. -/
def retireTo (pc : Word) (s : State) : State := s.mapThr (fun t => t.retireTo pc)

end Sys2Proof.Machine
end

