-- ==== Sys2Proof/Machine/FullEmpty.lean ====
section
/-! DEFINITION. Full/empty operations at the home of a word, and the examination of its waiters (R192, R193, R196). -/
namespace Sys2Proof.Machine

/-! ### What waits behind the grant of a reservation (R211) -/

/-- The slot whose grant of a word stands. -/
def grantedTo (s : State) (w : Nat) : Option Nat :=
  match s.rsvQueues.get [] w with
  | k :: _ =>
    match (s.thread k).rsv with
    | some r => if r.granted && !r.revoked && r.word == w then some k else none
    | none => none
  | [] => none

/-- The stream's own place among the accesses that wait behind a grant. -/
def Held.isStream (x : Held) (me : Nat × Bool) : Bool := x.op.isNone && x.slot == me.1 && x.body == me.2

/-- The word among n bytes at pa behind which an access of this stream waits: granted to a slot, or awaited by an
access that came before (R211). -/
def heldBack (s : State) (me : Option (Nat × Bool)) (pa n : Nat) : Option Nat :=
  if s.rsvQueues.isEmpty && s.held.isEmpty then none
  else ((stepsFrom (pa / 8 * 8) (pa + n) 8).map s.key).find? (fun w =>
    (grantedTo s w).isSome ||
      (match s.held.get [] w with
        | [] => false
        | x :: _ => !(match me with | some m => x.isStream m | none => false)))

/-! ### Full/empty operations (R192, R193, R199) -/

/-- The operations of major 0x26, by wd. -/
inductive FeOp where
  | ldf | ldfe | stf | stff | feget | feempty | femark
  deriving DecidableEq, Repr

def FeOp.code : FeOp → Nat
  | .ldf => 0 | .ldfe => 1 | .stf => 2 | .stff => 3 | .feget => 4 | .feempty => 5 | .femark => 6

/-- The operation may change the word's data or state (R193). -/
def FeOp.changes : FeOp → Bool
  | .ldf => false
  | .feget => false
  | _ => true

/-- The condition that the operation waits for (R192). -/
def FeOp.ready (op : FeOp) (empty : Bool) : Bool :=
  match op with
  | .ldf | .ldfe => !empty
  | .stf => empty
  | _ => true

/-- The empty bit after the operation. -/
def FeOp.after (op : FeOp) (empty : Bool) : Bool :=
  match op with
  | .ldfe | .feempty => true
  | .stf | .stff => false
  | _ => empty

/-- The operation at the home, its condition met: the new state, the value it answers, and whether it changed the
empty bit of a marked word (R192, R196). -/
def fePerform (op : FeOp) (pa : Nat) (value : Word) (s : State) : State × Word × Bool :=
  let fe := s.fe pa
  let e := bit fe 0
  let e2 := op.after e
  let answer := if op = .feget then fe.setWidth 64 else s.read64 pa
  let s := if op = .stf || op = .stff then s.write64 pa value else s
  let s := if e2 != e then s.setFe pa (setField fe 0 0 e2.toNat) else s
  let s := if op = .femark then s.setFe pa (setField fe 1 1 (bit value 0).toNat) else s
  (s, answer, bit fe 1 && e2 != e)

def feOpOf : Nat → FeOp
  | 0 => .ldf
  | 1 => .ldfe
  | 2 => .stf
  | 3 => .stff
  | 4 => .feget
  | 5 => .feempty
  | _ => .femark

/-- A thread's waiting stream completes its instruction: the body stream where that one waits (R243). -/
def Thread.serve (t : Thread) (body : Bool) : Thread :=
  match t.rep with
  | some r => if body then { t with rep := some { r with issuing := true, wait := none } } else { t with wait := none }
  | none => { t with wait := none }

/-- A waiter's operation is performed: its register is written, its instruction completes, FEFILL follows a change
of a marked word before the next instruction (R193, R196). -/
def serveWaiter (w : FeWaiter) (pa : Nat) (s : State) : State :=
  let (s, answer, filled) := fePerform (feOpOf w.op) pa w.value s
  let s := s.mapThread w.slot (fun t =>
    let t := t.serve w.body
    let t := if w.op ≤ 1 then t.wg w.d answer else t
    t.retire)
  if filled then reportFill w.slot 2 w.va s else s

/-- The home examines the waiters of a word: the oldest whose condition holds is performed, again until none holds
(R193). The fuel is the length of the list. -/
def examine : Nat → Nat → Nat → State → State
  | 0, _, _, s => s
  | fuel + 1, list, pa, s =>
    let l := s.feLists.get [] list
    match l.find? (fun w => w.word == s.key pa && (feOpOf w.op).ready (s.empty pa)) with
    | none => s
    | some w => examine fuel list pa (serveWaiter w pa { s with feLists := s.feLists.set list (l.erase w) })

/-- The waiters of a word are examined after a change of its state. -/
def examineWord (pa : Nat) (s : State) : State :=
  ((s.feLists.filter (fun e => e.2.any (fun w => w.word == s.key pa))).map (·.1)).foldl
    (fun s list => examine (s.feLists.get [] list).length list pa s) s

/-- A change of the full/empty state of a word by the device itself, with the examination of its waiters in the same step
(R193). -/
def setFeNow (pa : Nat) (x : BitVec 2) (s : State) : State := examineWord pa (s.setFe pa x)

/-- The words of the wait lists that lie in a range of canonical addresses, each once. -/
def waitedWords (s : State) (lo n : Nat) : List Nat :=
  (((s.feLists.map (fun e => e.2.map (·.word))).flatten).filter (fun w => decide (lo ≤ w) && decide (w < lo + n))).eraseDups

/-- A range made fresh, its words full, with the examination of the waiters on them (R193, R425, R426). -/
def freshNow (lo n : Nat) (s : State) : State := (waitedWords s lo n).foldl (fun s w => examineWord w s) (freshRange lo n s)

/-- n bytes at an offset of a cluster's scratchpad made fresh (R426). -/
def freshScratch (c off n : Nat) (s : State) : State :=
  let s := freshNow (0xA0000000000 + c * 0x400000 + off) n s
  s.setCluster c { s.cluster c with clear := (s.cluster c).clear.dropRange ((off + 4095) / 4096) ((off + n) / 4096) }

/-- The words of n bytes at pa that an engine has written: the empty bit of each is cleared, the marked bit kept, the waiters
examined (R192, R253). -/
def fillWords (pa n : Nat) (s : State) : State :=
  (stepsFrom (pa / 8 * 8) (pa + n) 8).foldl
    (fun s w => if s.empty w then setFeNow w (setField (s.fe w) 0 0 0) s else s) s

/-- Bytes written by the device where no line of a slice stands, as an engine writes them. -/
def engineWrite (pa : Nat) (l : List Byte) (s : State) : State := fillWords pa l.length (s.writeBytes pa l)

end Sys2Proof.Machine
end

