-- ==== Sys2Proof/Machine/Mmu.lean ====
section
/-! DEFINITION. Address spaces and translation (R151-R166, R177-R180, R289, R295, R431). A walk reads the tables
in memory at each access, so no stale translation is ever used (R165). -/
namespace Sys2Proof.Machine

/-- The three kinds of access that permissions tell apart (R161). -/
inductive Access where
  | load | store | fetch
  deriving DecidableEq, Repr

/-- The kind of a page request (R163). -/
def Access.kind : Access → Nat
  | .load => 0
  | .store => 1
  | .fetch => 2

/-- The permission bit of an entry that an access needs (R158, R160). -/
def Access.permission : Access → Nat
  | .load => 1
  | .store => 2
  | .fetch => 3

/-- How an instruction ends without its effect: a trap, a demand fault that parks the thread (R163), or a wait out
of the rotation (R70). -/
inductive Stop where
  | trap (t : Trap)
  | demand (va : Nat) (dom : BitVec 12) (kind eaddr : Nat)
  | wait (w : Wait)
  deriving DecidableEq, Repr

def causeXlate : Nat := 5
def causeProt : Nat := 6

/-- A trap of a data or fetch access. -/
def Stop.fault (cause va : Nat) (firmware : Bool := false) : Stop :=
  .trap { cause := cause, eaddr := BitVec.ofNat 64 va, firmware := firmware }

/-! ### Stage 2 (R157, R160) -/

/-- Reserved bits of a stage-2 entry are zero (R160). -/
def s2Ok (e : Word) : Bool := field e 63 48 == 0 && field e 15 10 == 0 && field e 8 4 == 0

/-- The leaf entry and the address that stage 2 of partition p gives for an IPA, with the lines of the entries
read; the error is XLATE, or PROT where a table stands at an address that the partition does not own or that is reserved
(R155). The requests of a walk carry the partition and the level of the access that it is for. -/
def stage2Leaf (s : State) (p ipa : Nat) (fw : Bool := false) : Except Nat (Word × Nat × List Nat) :=
  if ipa ≥ 2 ^ 48 then .error causeXlate
  else
    let a1 := (s.prec p 0x08).toNat + 8 * (ipa / 2 ^ 42)
    let e1 := s.read64 a1
    if !s.reachable p fw a1 then .error causeProt
    else if !bit e1 0 || !s2Ok e1 || bit e1 9 then .error causeXlate
    else
      let a2 := field e1 47 16 * 65536 + 8 * (ipa / 2 ^ 29 % 8192)
      let e2 := s.read64 a2
      let l2 := [a1 / 128 * 128, a2 / 128 * 128]
      if !s.reachable p fw a2 then .error causeProt
      else if !bit e2 0 || !s2Ok e2 then .error causeXlate
      else if bit e2 9 then
        if field e2 28 16 ≠ 0 then .error causeXlate
        else .ok (e2, field e2 47 29 * 2 ^ 29 + ipa % 2 ^ 29, l2)
      else
        let a3 := field e2 47 16 * 65536 + 8 * (ipa / 65536 % 8192)
        let e3 := s.read64 a3
        if !s.reachable p fw a3 then .error causeProt
        else if !bit e3 0 || !s2Ok e3 || !bit e3 9 then .error causeXlate
        else .ok (e3, field e3 47 16 * 65536 + ipa % 65536, a3 / 128 * 128 :: l2)

/-- Stage 2 with its permission: the address, or the cause at level F (R160, R161). -/
def stage2 (s : State) (p ipa : Nat) (k : Access) (fw : Bool := false) : Except Nat (Nat × List Nat) :=
  match stage2Leaf s p ipa fw with
  | .error c => .error c
  | .ok (e, pa, l) => if bit e k.permission then .ok (pa, l) else .error causeProt

/-- mem64 at an IPA through stage 2 alone (R447); PROT where the partition does not reach the word (R155). -/
def ipaRead (s : State) (p ipa : Nat) (fw : Bool := false) : Except Nat Word :=
  match stage2 s p ipa .load fw with
  | .ok (pa, _) => if s.reachable p fw pa then .ok (s.read64 pa) else .error causeProt
  | .error c => .error c

/-- As a stop: a failure of stage 2 traps at level F with eaddr = the address (R160, R447). -/
def orFirmware {α : Type} (va : Nat) : Except Nat α → Except Stop α
  | .ok a => .ok a
  | .error c => .error (.fault c va true)

/-! ### Domain records (R282) -/

/-- The IPA of a word of a domain record. -/
def State.domIpa (s : State) (p : Nat) (d : BitVec 12) (off : Nat) : Nat :=
  (s.prec p 0x10).toNat + 256 * d.toNat + off

/-- A word of a domain record, 0 where stage 2 refuses it. -/
def State.domWord (s : State) (p : Nat) (d : BitVec 12) (off : Nat) : Word :=
  match ipaRead s p (s.domIpa p d off) with
  | .ok x => x
  | .error _ => 0

/-- The domain is live (R282). -/
def State.domLive (s : State) (p : Nat) (d : BitVec 12) : Bool := field (s.domWord p d 0) 1 0 == 1

/-! ### Stage 1 (R157-R159) -/

/-- What a translation yields for one page's part of an access. -/
structure Piece where
  va : Nat
  len : Nat
  /-- The address that stage 2 produced. -/
  pa : Nat
  /-- 0 SO, 1 RC, 2 UO (R166). -/
  cls : Nat
  cp : Nat
  travel : Bool
  /-- Where the leaf entry stands, for its A and D bits; none in the local window. -/
  leaf : Option Nat
  big : Bool
  /-- The domain that owns the stage-1 table. -/
  dom : BitVec 12
  /-- The lines of table entries that were read (R165): canonical, and as stage 2 gave them. -/
  tables : List Nat
  walked : List Nat := []
  /-- The number of the 64 KiB page in the domain space. -/
  page : Nat := 0
  /-- Served through the stash of the cluster (R178), by this entry. -/
  stashed : Bool := false
  entry : Nat := 0
  deriving DecidableEq, Repr

/-- An entry of a stage-1 table at an IPA: its address, the entry, the lines read; it fails at level F (R155, R160). -/
def stage1Entry (s : State) (p ipa eaddr : Nat) (fw : Bool) : Except Stop (Nat × Word × List Nat) := do
  let (a, l) ← orFirmware eaddr (stage2 s p ipa .load fw)
  if s.reachable p fw a then .ok (a, s.read64 a, a / 128 * 128 :: l) else .error (.fault causeProt eaddr true)

/-- What stage 1 finds: a leaf (its address, the entry, the page's size in bits, the lines read), or a stop. -/
def stage1Leaf (s : State) (p : Nat) (d : BitVec 12) (va eaddr : Nat) (k : Access) (fw : Bool := false) :
    Except Stop (Nat × Word × Bool × List Nat) := do
  let absent := fun (e : Word) =>
    if bit e 1 then Except.error (Stop.demand va d k.kind eaddr) else .error (.fault causeXlate eaddr)
  let root ← orFirmware eaddr (ipaRead s p (s.domIpa p d 0x08) fw)
  let (_, e1, l1) ← stage1Entry s p (root.toNat + 8 * (va / 2 ^ 42)) eaddr fw
  if !bit e1 0 then absent e1
  else if field e1 63 48 ≠ 0 || field e1 15 12 ≠ 0 || bit e1 9 || field e1 8 1 ≠ 0 || field e1 11 10 ≠ 0 then
    .error (.fault causeXlate eaddr)
  else
    let (a2, e2, l2) ← stage1Entry s p (field e1 47 16 * 65536 + 8 * (va / 2 ^ 29 % 8192)) eaddr fw
    let lines := l1 ++ l2
    if !bit e2 0 then absent e2
    else if field e2 63 48 ≠ 0 || field e2 15 12 ≠ 0 then .error (.fault causeXlate eaddr)
    else if bit e2 9 then
      if field e2 28 16 ≠ 0 || field e2 11 10 == 3 || field e2 5 4 == 3 then .error (.fault causeXlate eaddr)
      else .ok (a2, e2, true, lines)
    else if field e2 8 1 ≠ 0 || field e2 11 10 ≠ 0 then .error (.fault causeXlate eaddr)
    else
      let (a3, e3, l3) ← stage1Entry s p (field e2 47 16 * 65536 + 8 * (va / 65536 % 8192)) eaddr fw
      if !bit e3 0 then absent e3
      else if field e3 63 48 ≠ 0 || field e3 15 12 ≠ 0 || !bit e3 9 || field e3 11 10 == 3 || field e3 5 4 == 3 then
        .error (.fault causeXlate eaddr)
      else .ok (a3, e3, false, l3 ++ lines)

/-- A request at level F to what a confidential partition owns is refused unless its debug setting is on (R431;
log entry 13). -/
def State.confRefused (s : State) (pa : Nat) : Bool :=
  (List.range 32).any (fun q => (s.part q).record.isSome && bit (s.prec q 0) 5 && !(s.part q).debugOn &&
    s.reachable q false pa)

/-- Whether the memory system takes the access (R155, R431). -/
def State.admits (s : State) (c : Ctx) (pa len : Nat) : Bool :=
  s.reachable c.part (c.level == 2) pa && s.reachable c.part (c.level == 2) (pa + len - 1) &&
    !(c.level == 2 && s.confRefused pa)

/-- The lines read to find the root of a domain's table: that of its record, and those of stage 2 (R157, R282). -/
def rootLines (s : State) (p : Nat) (d : BitVec 12) (fw : Bool) : List Nat :=
  match stage2 s p (s.domIpa p d 0x08) .load fw with
  | .ok (a, l) => a / 128 * 128 :: l
  | .error _ => []

/-- An access of domain d to a virtual address of its domain space (R55, R157-R161): the leaves of both stages, then the
permission at each, then the memory system. `eaddr` is the address the instruction named. -/
def domainPiece (s : State) (c : Ctx) (d : BitVec 12) (va len eaddr : Nat) (k : Access) : Except Stop Piece := do
  let fw := c.level == 2
  let (at_, e, big, lines) ← stage1Leaf s c.part d va eaddr k fw
  let ipa := if big then field e 47 29 * 2 ^ 29 + va % 2 ^ 29 else field e 47 16 * 65536 + va % 65536
  let (e2, pa, l2) ← orFirmware eaddr (stage2Leaf s c.part ipa fw)
  if !bit e k.permission then .error (.fault causeProt eaddr)
  else if !bit e2 k.permission then .error (.fault causeProt eaddr true)
  else if !s.admits c pa len then
    .error (.trap { cause := causeProt, eaddr := BitVec.ofNat 64 eaddr, firmware := true, refused := true })
  else
    .ok { va := eaddr, len := len, pa := pa, cls := field e 5 4, cp := field e 11 10, travel := bit e 6
          leaf := some at_, big := big, dom := d, tables := (lines ++ l2).map (fun l => s.key l / 128 * 128)
          walked := (rootLines s c.part d fw ++ lines ++ l2).eraseDups, page := va / 65536 }

def localBase : Nat := 0xFFFFFFFC00000
def apertureBase : Nat := 0x7FFF000000000
def apertureTop : Nat := 0x8000000000000

/-- The first byte of a cluster's scratchpad (R153). -/
def scratchBase (c : Nat) : Nat := 0xA0000000000 + c * 0x400000

/-- The live stash entry of a cluster whose area holds a scratchpad offset (R178). -/
def stashOfArea (cl : Cluster) (off : Nat) : Option (Nat × StashEntry) :=
  cl.stash.find? (fun e => e.2.live && e.2.area ≤ off && off < e.2.area + e.2.len)

/-- The live stash entry of a cluster whose range holds an address of a domain (R178). -/
def stashOfRange (cl : Cluster) (d : BitVec 12) (va : Nat) : Option (Nat × StashEntry) :=
  cl.stash.find? (fun e => e.2.live && e.2.dom == d && e.2.va ≤ va && va < e.2.va + e.2.len)

/-- A demand fault of a stash map posts a request of kind 3 (R163). -/
def asStashMap {α : Type} : Except Stop α → Except Stop α
  | .error (.demand va dom _ eaddr) => .error (.demand va dom 3 eaddr)
  | x => x

/-- The pages of a global range as STMAP translates them: each is checked for R, then for W where the stash may be written,
before the next (R177). R177 names no fault for a range that reaches the local window, which no table maps: XLATE (log entry
69). The fuel counts pages. -/
def stashPages (s : State) (c : Ctx) (d : BitVec 12) (w : Bool) : Nat → Nat → Nat → Except Stop (List Piece)
  | 0, _, _ => .ok []
  | fuel + 1, va, hi =>
    if hi ≤ va then .ok []
    else if apertureBase ≤ va then .error (.fault causeXlate va)
    else do
      let next := min hi (va / 65536 * 65536 + 65536)
      let p ← asStashMap (domainPiece s c d va (next - va) va .load)
      if w then
        let _ ← asStashMap (domainPiece s c d va (next - va) va .store)
      let r ← stashPages s c d w fuel next hi
      .ok (p :: r)

/-- What a stash entry keeps of its translation. -/
def stashPage (p : Piece) : StashPage := { va := p.va, len := p.len, pa := p.pa, tables := p.tables }

/-- The range of a stash entry translated as STMAP translates it. -/
def StashEntry.translate (s : State) (c : Ctx) (e : StashEntry) : Except Stop (List Piece) :=
  stashPages s c e.dom e.writable (e.len / 65536 + 2) e.va (e.va + e.len)

/-- A domain access as entry i of the cluster's stash serves it: a store needs W of the entry (R178). Through a stale
entry, the whole entry is translated again first, with the faults of STMAP (R180). -/
def stashedPiece (s : State) (c : Ctx) (d : BitVec 12) (va len eaddr : Nat) (k : Access) (i : Nat) (e : StashEntry) :
    Except Stop Piece := do
  if e.stale then
    let _ ← e.translate s c
  if k == .store && !e.writable then .error (.fault causeProt eaddr)
  else
    let p ← domainPiece s c d va len eaddr k
    .ok { p with stashed := true, entry := i }

/-- One page's part of an access (R151, R152, R178, R295). A fetch through the aperture needs R of the window, which R295
leaves open (log entry 46). -/
def piece (s : State) (c : Ctx) (va len : Nat) (k : Access) : Except Stop Piece :=
  if va < apertureBase then
    match if c.agent.isSome && k != .fetch then stashOfRange (s.cluster c.cluster) c.dom va else none with
    | some (i, e) => stashedPiece s c c.dom va len va k i e
    | none => domainPiece s c c.dom va len va k
  else if va < apertureTop then
    match c.win with
    | none => .error (.fault causeXlate va)
    | some (base, wlen, r, w, owner) =>
      let o := va - apertureBase
      if c.depth = 0 then .error (.fault causeXlate va)
      else if o + len > wlen then .error (.fault causeProt va)
      else do
        let p ← domainPiece s c owner (base + o) len va k
        if k == .load && !r || k == .store && !w || k == .fetch && !r then .error (.fault causeProt va) else .ok p
  else if va < localBase then .error (.fault causeXlate va)
  else if va < 2 ^ 52 then
    let o := va - localBase
    if k == .fetch || !c.localOpen || o + len > c.splen then .error (.fault causeProt va)
    else
      match stashOfArea (s.cluster c.cluster) (c.spbase + o) with
      | some (i, e) => stashedPiece s c e.dom (e.va + (c.spbase + o - e.area)) len va k i e
      | none =>
        if c.level == 2 && s.confRefused (scratchBase c.cluster + c.spbase + o) then
          .error (.trap { cause := causeProt, eaddr := BitVec.ofNat 64 va, firmware := true, refused := true })
        else
          .ok { va := va, len := len, pa := scratchBase c.cluster + c.spbase + o, cls := 1, cp := 0, travel := false
                leaf := none, big := false, dom := c.dom, tables := [] }
  else .error (.fault causeXlate va)

/-- An access of n bytes at va passes the end of the argument window, or of the allocation (R152, R295). -/
def pastWindow (c : Ctx) (va n : Nat) : Bool :=
  if apertureBase ≤ va && va < apertureTop then
    match c.win with
    | some (_, wlen, _) => c.depth != 0 && decide (va - apertureBase + n > wlen)
    | none => false
  else decide (localBase ≤ va) && decide (va < 2 ^ 52) && decide (va - localBase + n > c.splen)

/-- The bytes from va up to the next place where its translation changes: the end of the 64 KiB page of the space in
which it is translated, or a bound of a stash entry (both on 4 KiB). -/
def cutOf (s : State) (c : Ctx) (va : Nat) : Nat :=
  let left := fun (x : Nat) => 65536 - x % 65536
  let live := !(s.cluster c.cluster).stash.isEmpty
  if va < apertureBase then if live then 4096 - va % 4096 else left va
  else if va < apertureTop then
    match c.win with
    | some (base, _) => left (base + (va - apertureBase))
    | none => left va
  else if live then 4096 - va % 4096
  else left va

/-- The parts of an access of n bytes at va: one, or two where it straddles pages (R170). -/
def pieces (s : State) (c : Ctx) (va n : Nat) (k : Access) : Except Stop (List Piece) :=
  let room := cutOf s c va
  if pastWindow c va n then .error (.fault causeProt va)
  else if n ≤ room then (piece s c va n k).map (fun p => [p])
  else do
    let p ← piece s c va room k
    let q ← piece s c (va + room) (n - room) k
    .ok [p, q]

/-- The parts of a long range, page by page, ascending; the first page that fails ends the walk. The fuel counts
pages. -/
def rangePieces (s : State) (c : Ctx) (k : Access) : Nat → Nat → Nat → Except Stop (List Piece)
  | 0, _, _ => .ok []
  | fuel + 1, va, hi =>
    if hi ≤ va then .ok []
    else
      let next := min hi (va + cutOf s c va)
      match piece s c va (next - va) k with
      | .error e => .error e
      | .ok p =>
        match rangePieces s c k fuel next hi with
        | .error e => .error e
        | .ok r => .ok (p :: r)

/-- The parts of the range of n bytes at va. -/
def rangeOf (s : State) (c : Ctx) (va n : Nat) (k : Access) : Except Stop (List Piece) :=
  rangePieces s c k (n / 4096 + 2) va (va + n)

/-- The mapped parts of a range, page by page; pages that fail are skipped. The fuel counts pages. -/
def mappedFrom (s : State) (c : Ctx) (k : Access) : Nat → Nat → Nat → List Piece
  | 0, _, _ => []
  | fuel + 1, va, hi =>
    if hi ≤ va then []
    else
      let next := min hi (va + cutOf s c va)
      match piece s c va (next - va) k with
      | .error _ => mappedFrom s c k fuel next hi
      | .ok p => p :: mappedFrom s c k fuel next hi

/-- The mapped parts of the range of n bytes at va. -/
def mappedPieces (s : State) (c : Ctx) (va n : Nat) (k : Access) : List Piece :=
  mappedFrom s c k (n / 4096 + 2) va (va + n)

/-! ### ORDCONF (R55, R166) -/

/-- The protocol id of the page of a physical address (R358). -/
def State.protId (s : State) (pa : Nat) : Nat := s.coh.ids.get 1 (pa / 65536)

/-- The MCA attribute of a protocol (R166, R377). -/
def State.mca (s : State) (id : Nat) : Bool :=
  if id == 2 then false
  else if id < 5 then true
  else match s.coh.tables.get none id with
    | some t => t.mca
    | none => true

/-- The scratchpads (R153), which take no part in coherence (R156). -/
def isScratch (pa : Nat) : Bool := decide (0xA0000000000 ≤ pa) && decide (pa < 0xA0020000000)

/-- ORDCONF: an SO access to a range whose protocol lacks MCA (R166). -/
def ordCheck (s : State) : List Piece → Except Stop Unit
  | [] => .ok ()
  | p :: r =>
    if p.cls == 0 && !isScratch p.pa && !s.mca (s.protId p.pa) then .error (.fault 0x13 p.va) else ordCheck s r

/-- The bytes of the parts of an access. -/
def State.readPieces (s : State) (ps : List Piece) : List Byte := (ps.map (fun p => s.readBytes p.pa p.len)).flatten

/-- Bytes written over the parts of an access. -/
def State.writePieces (s : State) : List Piece → List Byte → State
  | [], _ => s
  | p :: r, l => (s.writeBytes p.pa (l.take p.len)).writePieces r (l.drop p.len)

/-! ### The context of a thread (R152, R283, R289, R290, R295) -/

/-- The IPA of the frame of depth d of a thread (R289). -/
def frameIpa (dsp : Word) (d : Nat) : Nat := field dsp 47 10 * 1024 + (d - 1) * 128

/-- The argument window of the innermost frame (R290): base, length (0 without a window), R, W, owner; none at depth 0. -/
def State.windowOf (s : State) (p : Nat) (t : Thread) : Option (Nat × Nat × Bool × Bool × BitVec 12) :=
  if t.depth = 0 then none
  else
    match ipaRead s p (frameIpa t.dsp t.depth + 0x18), ipaRead s p (frameIpa t.dsp t.depth + 0x20) with
    | .ok b, .ok x => some (b.toNat, field x 39 0, bit x 40, bit x 41, x.extractLsb' 44 12)
    | _, _ => none

/-- The context in which slot k translates and accesses memory. An urgent slot at S or F reaches its whole
scratchpad (R152); a thread away from its home, or inside a gate call, has no local window (R152, R190). -/
def ctxOf (s : State) (k : Nat) : Ctx :=
  let t := s.thread k
  let c := clusterOf k
  let whole := localSlot k == 7 && t.level ≥ 1
  { part := s.partOf c
    cluster := c
    dom := t.dom
    level := t.level
    depth := t.depth
    win := s.windowOf (s.partOf c) t
    localOpen := t.depth == 0 && t.home == c
    spbase := if whole then 0 else t.spbase
    splen := if whole then 0x400000 else t.splen
    agent := some (coreOf k)
    slot := some k }

/-- The context of the current slot. -/
def State.ctx (s : State) : Ctx := ctxOf s s.cur

end Sys2Proof.Machine
end

