-- ==== Sys2Proof/Machine/Routes.lean ====
section
/-! DEFINITION. The bundles of the package and the way of a message over them (R11-R13, R388, R389). A message enters one flit
for each bundle that it crosses; bundles change timing alone (R391; log entry 19). -/
namespace Sys2Proof.Machine

/-- A die that sends or receives messages: a base die, for what stands on it or on its compute die, or an IO die. -/
inductive Die where
  | base (d : Nat)
  | io (i : Nat)
  deriving DecidableEq, Repr

def State.bundle (s : State) (b : Nat) : Bundle := s.bundles.get {} b
def State.setBundle (s : State) (b : Nat) (x : Bundle) : State := { s with bundles := s.bundles.set b x }

/-- The bundle of die d under a selector (R388). The 20 bundles are numbered 0 to 19 (log entry 19): cube bundles at 4 x axis
+ the number of their lower die without the bit of the axis, IO bundles at 12 + die. -/
def bundleOf (d sel : Nat) : Nat := if sel = 3 then 12 + d else 4 * sel + (d % 2 ^ sel + d / 2 ^ (sel + 1) * 2 ^ sel)
/-- Outward from die d is up: toward the higher-numbered die, or the IO die (R388). -/
def outwardUp (d sel : Nat) : Bool := sel == 3 || !d.testBit sel

/-- The die at the other end of a cube bundle. -/
def across (d axis : Nat) : Nat := if d.testBit axis then d - 2 ^ axis else d + 2 ^ axis

/-- The bundles that a message from base die d to base die e crosses, with its direction, over the given axes in turn. -/
def cubeRoute : List Nat → Nat → Nat → List (Nat × Bool)
  | [], _, _ => []
  | x :: r, d, e =>
    if d.testBit x != e.testBit x then (bundleOf d x, outwardUp d x) :: cubeRoute r (across d x) e else cubeRoute r d e

/-- The bundles that a message crosses (R389): stage 1 along axis 2, stage 2 along axis 1, stage 3 along axis 0; to or from an
IO die, the IO bundle of the die on that side of the cube that differs from the base die in axis 2 alone. No message goes from
one IO die to the other. -/
def route : Die → Die → List (Nat × Bool)
  | .base d, .base e => cubeRoute [2, 1, 0] d e
  | .base d, .io i => cubeRoute [2, 1, 0] d (4 * i + d % 4) ++ [(bundleOf (4 * i + d % 4) 3, true)]
  | .io i, .base e => (bundleOf (4 * i + e % 4) 3, false) :: cubeRoute [2, 1, 0] (4 * i + e % 4) e
  | .io _, .io _ => []

/-- The die of a cluster, of a slice, and of the memory that holds a canonical address (R12). -/
def clusterDie (c : Nat) : Die := .base (c / 16)
def sliceDie (n : Nat) : Die := .base (n / 32)
def memoryDie (a : Nat) : Die :=
  if a < 0x10000000000 then .base (a / 0xC0000000 / 16) else .io ((a - 0x10000000000) / 0x4000000000 / 16)

/-- A flit enters a bundle, behind those that entered before it. -/
def Bundle.enter (b : Bundle) (cls : Nat) (part : Option Nat) (up : Bool) : Bundle :=
  { b with
    entered := b.entered + 1
    waiting := b.waiting ++ [{ cls := cls, part := part, up := up, order := b.entered }] }

/-- A message of a class enters the bundles between two dies, for a partition, or for firmware (R389, R392). -/
def enterRoute (part : Option Nat) (cls : Nat) (a b : Die) (s : State) : State :=
  (route a b).foldl (fun s x =>
    s.setBundle x.1 ((s.bundle x.1).enter cls part x.2)) s

/-- A request and its response between two dies. -/
def enterBoth (part : Option Nat) (a b : Die) (s : State) : State := enterRoute part 2 b a (enterRoute part 0 a b s)

end Sys2Proof.Machine
end

