-- ==== Sys2Proof/Machine/Coherence.lean ====
section
/-! DEFINITION. The protocol engines (R357-R379): directory entries, agent states, messages and what they carry; the LLC's
sets and quotas (R167, R185, R421) and the tokens of the slice ports (R422, R423). The content written last to a line
stands in `State.mem` and `State.side`; a copy, the LLC or a message that holds another content lists it (log entry 47). -/
namespace Sys2Proof.Machine

/-! ### Codes (R362, R363) -/

def mGETS : Nat := 0x01
def mGETM : Nat := 0x02
def mPUTS : Nat := 0x03
def mPUTM : Nat := 0x04
def mUREAD : Nat := 0x05
def mUWRITE : Nat := 0x06
def mATOM : Nat := 0x07
def mUPDW : Nat := 0x08
def mLINV : Nat := 0x09
def mLWB : Nat := 0x0A
def mINV : Nat := 0x0C
def mDOWN : Nat := 0x0D
def mRECALL : Nat := 0x0E
def mUPD : Nat := 0x0F
def mDATAS : Nat := 0x14
def mDATAM : Nat := 0x15
def mACK : Nat := 0x16
def mODATA : Nat := 0x17
def mPUTACK : Nat := 0x18
def mUDATA : Nat := 0x19
def mWACK : Nat := 0x1A
def mUPDACK : Nat := 0x1B
def mNACKW : Nat := 0x1C
def mREPLY : Nat := 0x1D
def evDONE : Nat := 0x1D
def evEVICT : Nat := 0x1E
def evPUTMX : Nat := 0x1F
/-- No owner and no requester (R359). -/
def noAgent : Nat := 0xFFFF
/-- The home as a party of a message. -/
def atHome : Nat := 0xFFFE

/-- The class of a message or home event (R362, R363): 0 request, 1 forward, 2 response or internal. -/
def msgClass (c : Nat) : Nat := if c ≤ 0x0A then 0 else if c ≤ 0x0F then 1 else 2

/-! ### Rows (R368) -/

structure Row where
  next : Nat := 0
  v : Bool := true
  imp : Bool := false
  stall : Bool := false
  toReq : Nat := 0
  toSh : Nat := 0
  toOwn : Nat := 0
  dsrc : Nat := 0
  set : Nat := 0
  ackc : Nat := 0
  cz : Bool := false
  wllc : Bool := false
  exec : Bool := false
  merge : Bool := false
  perf : Bool := false
  refuse : Bool := false
  drop : Bool := false
  deriving DecidableEq, Repr

/-- A row of a table image (R368). -/
def rowOf (x : BitVec 64) : Row :=
  { next := field x 3 0, v := bit x 4, imp := bit x 5, stall := bit x 6, toReq := field x 11 7
    toSh := field x 16 12, toOwn := field x 21 17, dsrc := field x 24 22, set := field x 28 25
    ackc := field x 30 29, cz := bit x 31, wllc := bit x 32, exec := bit x 33, merge := bit x 34
    perf := bit x 35, refuse := bit x 36, drop := bit x 37 }

def impossible : Row := { v := false, imp := true }

/-! ### INV (R372-R374) -/

/-- INV to the covered set, counted, with the request recorded: the row that starts an invalidation. -/
def invCovered (next : Nat) : Row := { next := next, toSh := mINV, ackc := 1, cz := true, set := 5 }

/-- The home rows of INV (R372, R373). -/
def invHome (st ev : Nat) : Row :=
  if ev = mGETS then
    if st = 0 || st = 1 then { next := 1, toReq := mDATAS, dsrc := 1, set := 1 }
    else if st = 2 then { next := 4, toOwn := mDOWN, set := 4 }
    else if st ≤ 7 then { next := st, stall := true } else impossible
  else if ev = mGETM then
    if st = 0 then { next := 2, toReq := mDATAM, dsrc := 1, set := 3 }
    else if st = 1 then invCovered 3
    else if st = 2 then { next := 5, toOwn := mRECALL, set := 5 }
    else if st ≤ 7 then { next := st, stall := true } else impossible
  else if ev = mPUTS then
    if st = 0 || st = 2 then { next := st, toReq := mPUTACK }
    else if st ≤ 7 then { next := st, toReq := mPUTACK, set := 2 } else impossible
  else if ev = mPUTM then
    if st = 2 then { next := 0, toReq := mPUTACK, set := 8, wllc := true }
    else if st = 4 || st = 5 || st = 6 then { next := st, stall := true } else impossible
  else if ev = evPUTMX then
    if st = 4 || st = 5 || st = 6 then { next := st, stall := true }
    else if st ≤ 7 then { next := st, toReq := mPUTACK } else impossible
  else if ev = mUREAD then
    if st = 0 || st = 1 then { next := st, toReq := mUDATA, dsrc := 1 }
    else if st = 2 then { next := 4, toOwn := mDOWN, set := 4 }
    else if st ≤ 7 then { next := st, stall := true } else impossible
  else if ev = mUWRITE || ev = mATOM then
    if st = 0 then { next := 0, toReq := mWACK, dsrc := 4, exec := true }
    else if st = 1 then invCovered 7
    else if st = 2 then { next := 6, toOwn := mRECALL, set := 5 }
    else if st ≤ 7 then { next := st, stall := true } else impossible
  else if ev = mLINV || ev = evEVICT then
    if st = 0 then { next := 0, toReq := mREPLY, exec := true }
    else if st = 1 then invCovered 7
    else if st = 2 then { next := 6, toOwn := mRECALL, set := 5 }
    else if st ≤ 7 then { next := st, stall := true } else impossible
  else if ev = mLWB then
    if st = 0 || st = 1 then { next := st, toReq := mWACK }
    else if st = 2 then { next := 4, toOwn := mDOWN, set := 4 }
    else if st ≤ 7 then { next := st, stall := true } else impossible
  else if ev = mACK then
    if st = 3 || st = 7 then { next := st, ackc := 2, cz := true } else impossible
  else if ev = mODATA then
    if st = 4 then { next := 1, wllc := true, toReq := mREPLY, dsrc := 2, set := 6 }
    else if st = 5 then { next := 2, wllc := true, toReq := mDATAM, dsrc := 2, set := 7 }
    else if st = 6 then { next := 0, wllc := true, exec := true, toReq := mREPLY, dsrc := 4, set := 8 }
    else impossible
  else if ev = evDONE then
    if st = 3 then { next := 2, toReq := mDATAM, dsrc := 1, set := 7 }
    else if st = 7 then { next := 0, exec := true, toReq := mREPLY, dsrc := 4, set := 8 }
    else impossible
  else impossible

/-- The agent rows of INV (R374): states I 0, S 1, M 2, IS_D 3, IM_D 4, MI_A 5, SI_A 6, II_A 7. -/
def invAgent (st ev : Nat) : Row :=
  match st, ev with
  | 0, 0 => { next := 3, toReq := mGETS, stall := true }
  | 0, 1 => { next := 4, toReq := mGETM, stall := true }
  | 0, 3 => { next := 0, toReq := mACK }
  | 1, 0 => { next := 1, perf := true }
  | 1, 1 => { next := 4, toReq := mGETM, stall := true, drop := true }
  | 1, 2 => { next := 6, toReq := mPUTS }
  | 1, 3 => { next := 0, toReq := mACK }
  | 2, 0 => { next := 2, perf := true }
  | 2, 1 => { next := 2, perf := true }
  | 2, 2 => { next := 5, toReq := mPUTM, dsrc := 3 }
  | 2, 4 => { next := 1, toReq := mODATA, dsrc := 3 }
  | 2, 5 => { next := 0, toReq := mODATA, dsrc := 3 }
  | 3, 0 => { next := 3, stall := true }
  | 3, 1 => { next := 3, stall := true }
  | 3, 3 => { next := 3, toReq := mACK }
  | 3, 7 => { next := 1, perf := true, dsrc := 2 }
  | 4, 0 => { next := 4, stall := true }
  | 4, 1 => { next := 4, stall := true }
  | 4, 3 => { next := 4, toReq := mACK }
  | 4, 8 => { next := 2, perf := true, dsrc := 2 }
  | 5, 0 => { next := 5, stall := true }
  | 5, 1 => { next := 5, stall := true }
  | 5, 3 => { next := 7, toReq := mACK }
  | 5, 4 => { next := 7, toReq := mODATA, dsrc := 3 }
  | 5, 5 => { next := 7, toReq := mODATA, dsrc := 3 }
  | 5, 9 => { next := 0 }
  | 6, 0 => { next := 6, stall := true }
  | 6, 1 => { next := 6, stall := true }
  | 6, 3 => { next := 7, toReq := mACK }
  | 6, 9 => { next := 0 }
  | 7, 0 => { next := 7, stall := true }
  | 7, 1 => { next := 7, stall := true }
  | 7, 3 => { next := 7, toReq := mACK }
  | 7, 9 => { next := 0 }
  | _, _ => impossible

/-! ### NOC, UPD, MIG, WON (R376-R379) -/

def nocHome (st ev : Nat) : Row :=
  if st = 0 && (ev = mUREAD || ev = mUWRITE || ev = mATOM || ev = mLINV || ev = mLWB || ev = evEVICT) then invHome 0 ev
  else impossible

def updHome (st ev : Nat) : Row :=
  if ev = mGETM || ev = mPUTM then impossible
  else if st = 9 then
    if ev = mACK then { next := 9, ackc := 2, cz := true }
    else if ev = evDONE then { next := 1, toReq := mUPDACK, set := 9 }
    else if ev = mPUTS then { next := 9, toReq := mPUTACK, set := 2 }
    else if ev = evPUTMX then { next := 9, toReq := mPUTACK }
    else if ev = mGETS || ev = mUREAD || ev = mUWRITE || ev = mATOM || ev = mLINV || ev = evEVICT || ev = mLWB
        || ev = mUPDW then { next := 9, stall := true }
    else impossible
  else if ev = mUPDW then
    if st = 0 then { next := 0, merge := true, toReq := mUPDACK }
    else if st = 1 then { next := 9, merge := true, toSh := mUPD, ackc := 1, cz := true, set := 5 }
    else if st = 3 then { next := 3, stall := true } else impossible
  else if st = 3 then
    let r := invHome 7 ev
    if r.stall || ev = mPUTS || ev = evPUTMX || ev = mACK then { r with next := 3 } else r
  else if st ≤ 1 then
    let r := invHome st ev
    if r.next = 7 then { r with next := 3 } else r
  else impossible

def updAgent (st ev : Nat) : Row :=
  match st, ev with
  | 1, 1 => { next := 8, toReq := mUPDW, stall := true }
  | 0, 1 => { next := 9, toReq := mUPDW, stall := true }
  | 1, 6 => { next := 1, merge := true, toReq := mACK }
  | 8, 6 => { next := 8, merge := true, toReq := mACK }
  | 9, 6 => { next := 9, merge := true, toReq := mACK }
  | 8, 10 => { next := 1, merge := true, perf := true }
  | 9, 10 => { next := 0, perf := true }
  | 8, 3 => { next := 9, toReq := mACK }
  | 9, 3 => { next := 9, toReq := mACK }
  | 8, 0 => { next := 8, stall := true }
  | 8, 1 => { next := 8, stall := true }
  | 9, 0 => { next := 9, stall := true }
  | 9, 1 => { next := 9, stall := true }
  | _, _ => if st = 0 || st = 1 || st = 3 || st = 6 || st = 7 then invAgent st ev else impossible

def migHome (st ev : Nat) : Row :=
  if st = 0 && ev = mGETS then { next := 2, toReq := mDATAM, dsrc := 1, set := 3 }
  else if st = 2 && ev = mGETS then { next := 5, toOwn := mRECALL, set := 5 }
  else invHome st ev

def migAgent (st ev : Nat) : Row :=
  if st = 3 && ev = 8 then { next := 2, perf := true, dsrc := 2 } else invAgent st ev

def wonHome (st ev : Nat) : Row :=
  if (st = 2 || st = 8) && ev = mGETM then { next := st, toReq := mNACKW, refuse := true }
  else if (st = 2 || st = 8) && (ev = mUWRITE || ev = mATOM) then { next := st, toReq := mWACK, refuse := true }
  else if (st = 1 || st = 8) && (ev = mLINV || ev = evEVICT) then invCovered 9
  else if st = 2 && ev = mPUTM then { next := 8, wllc := true, toReq := mPUTACK, set := 8 }
  else if st = 0 && (ev = mUWRITE || ev = mATOM) then { next := 8, exec := true, toReq := mWACK, dsrc := 4 }
  else if st = 4 && ev = mODATA then { invHome 4 mODATA with next := 8 }
  else if st = 7 && ev = evDONE then { invHome 7 evDONE with next := 8 }
  else if st = 9 then
    if ev = mACK then { next := 9, ackc := 2, cz := true }
    else if ev = evDONE then { next := 0, toReq := mREPLY, exec := true, set := 8 }
    else
      let r := invHome 7 ev
      if r.imp then r else { r with next := 9 }
  else if st = 8 then
    if ev = mGETS || ev = mUREAD || ev = mPUTS || ev = evPUTMX || ev = mLWB then { invHome 1 ev with next := 8 }
    else impossible
  else invHome st ev

def wonAgent (st ev : Nat) : Row :=
  if st = 4 && ev = 11 then { next := 0, refuse := true } else invAgent st ev

/-- The home row of a protocol (R366, R376-R379). -/
def homeRow (c : Coh) (prot st ev : Nat) : Row :=
  match prot with
  | 0 => nocHome st ev
  | 1 => invHome st ev
  | 2 => updHome st ev
  | 3 => migHome st ev
  | 4 => wonHome st ev
  | _ => match c.tables.get none prot with
    | some t => rowOf (t.home.get 0x20 (32 * st + ev))
    | none => impossible

/-- The agent row of a protocol. -/
def agentRow (c : Coh) (prot st ev : Nat) : Row :=
  match prot with
  | 0 => impossible
  | 1 => invAgent st ev
  | 2 => updAgent st ev
  | 3 => migAgent st ev
  | 4 => wonAgent st ev
  | _ => match c.tables.get none prot with
    | some t => rowOf (t.agent.get 0x20 (16 * st + ev))
    | none => impossible

/-- The class of a home state: 0 transient, 1 U, 2 S, 3 M (R367). -/
def homeClass (c : Coh) (prot st : Nat) : Nat :=
  match prot with
  | 0 | 1 | 3 => if st = 0 then 1 else if st = 1 then 2 else if st = 2 then 3 else 0
  | 2 => if st = 0 then 1 else if st = 1 then 2 else 0
  | 4 => if st = 0 then 1 else if st = 1 || st = 8 then 2 else if st = 2 then 3 else 0
  | _ => match c.tables.get none prot with
    | some t => t.homeClass.getD st 0
    | none => 0

/-- The class of an agent state: 0 transient, 1 I, 2 S, 3 M. -/
def agentClass (c : Coh) (prot st : Nat) : Nat :=
  if prot ≤ 4 then (if st = 0 then 1 else if st = 1 then 2 else if st = 2 then 3 else 0)
  else match c.tables.get none prot with
    | some t => t.agentClass.getD st 0
    | none => 0

/-! ### Directory entries (R359-R361) -/

/-- The 96 bits of a directory entry (R359). -/
def Dir.bits (d : Dir) : Nat :=
  d.state % 16 * 2 ^ 92 + d.prot % 8 * 2 ^ 89 + d.coarse.toNat * 2 ^ 88 + min d.pend 255 * 2 ^ 80
    + d.ownreq % 2 ^ 16 * 2 ^ 64 + d.sharers.toNat

/-- An impossible row of a line: its engine and the number of the row (R371). -/
def Dir.stop (d : Dir) (engine row : Nat) : LineStop :=
  { engine := engine, row := row, entry := d.bits, part := d.part, slice := d.slice, page := d.page }

def Coh.entry (c : Coh) (line : Nat) : Dir := c.dir.get {} line
def Coh.setEntry (c : Coh) (line : Nat) (d : Dir) : Coh := { c with dir := c.dir.set line d }
def Coh.agentLine (c : Coh) (a line : Nat) : AgentLine := c.agents.get {} (4096 * line + a)
def Coh.setAgentLine (c : Coh) (a line : Nat) (x : AgentLine) : Coh :=
  { c with agents := c.agents.set (4096 * line + a) x }
/-- The impossible row at which an engine stopped handling the line: the home, or else an agent (R371). -/
def Coh.stopOf (c : Coh) (line : Nat) : Option LineStop :=
  (c.entry line).stopped.or ((c.agents.find? (fun e => e.1 / 4096 == line && e.2.stopped.isSome)).bind (·.2.stopped))
/-- The slice holds the line (R361). -/
def Coh.holds (c : Coh) (line : Nat) : Bool := c.dir.any (fun e => e.1 == line)

/-- The cluster of an agent (R357). -/
def agentCluster (a : Nat) : Nat := if a < 2048 then a / 16 else a - 2048
/-- Pointer k of the pointer form. -/
def pointer (x : BitVec 64) (k : Nat) : Option Nat := if bit x (16 * k + 15) then some (field x (16 * k + 11) (16 * k)) else none
def pointers (x : BitVec 64) : List Nat := (List.range 4).filterMap (pointer x)

/-- An agent added to the sharer set (R360); an uncached requester never is (R364). -/
def Dir.add (d : Dir) (a : Nat) : Dir :=
  if 0x880 ≤ a then d
  else if d.coarse then { d with sharers := d.sharers ||| BitVec.ofNat 64 (2 ^ (agentCluster a / 2)) }
  else if (pointers d.sharers).contains a then d
  else match (List.range 4).find? (fun k => !bit d.sharers (16 * k + 15)) with
    | some k => { d with sharers := setField d.sharers (16 * k + 15) (16 * k) (0x8000 + a) }
    | none =>
      { d with coarse := true
               sharers := (a :: pointers d.sharers).foldl
                 (fun x b => x ||| BitVec.ofNat 64 (2 ^ (agentCluster b / 2))) 0 }

/-- An agent removed from the sharer set (R360). -/
def Dir.remove (d : Dir) (a : Nat) : Dir :=
  if d.coarse then d
  else match (List.range 4).find? (fun k => pointer d.sharers k == some a) with
    | some k => { d with sharers := setField d.sharers (16 * k + 15) (16 * k) 0 }
    | none => d

def Dir.clear (d : Dir) : Dir := { d with coarse := false, sharers := 0 }

/-- The covered set in ascending agent order (R360). -/
def Dir.covered (d : Dir) : List Nat :=
  if d.coarse then
    let ks := (List.range 64).filter (fun k => bit d.sharers k)
    (ks.map (fun k => (List.range 32).map (fun i => 32 * k + i))).flatten ++
      (ks.map (fun k => [2048 + 2 * k, 2048 + 2 * k + 1])).flatten
  else (List.range 2176).filter (fun a => (pointers d.sharers).contains a)

/-- The SET action (R369). -/
def Dir.act (d : Dir) (code r : Nat) : Dir :=
  match code with
  | 1 => d.add r
  | 2 => d.remove r
  | 3 => { d.clear with ownreq := r }
  | 4 => { d.add d.ownreq with ownreq := r }
  | 5 => { d with ownreq := r }
  | 6 => { d.add d.ownreq with ownreq := noAgent }
  | 7 => d.clear
  | 8 => { d.clear with ownreq := noAgent }
  | 9 => { d with ownreq := noAgent }
  | _ => d

/-- The completion of the recorded request, by its code (R362). -/
def replyCode (req : Nat) : Nat :=
  if req = mGETS then mDATAS else if req = mGETM then mDATAM else if req = mUREAD then mUDATA
  else if req = mUPDW then mUPDACK else if req = evEVICT then 0 else mWACK

/-! ### Contents of a line -/

/-- The protocol plane with the content of the line at hand that was written last, the runs of bytes written to it in this
exchange, whether another content took its place, the messages that left, the engines that stopped, and whether the line
left its slice and came to it again. -/
structure Plane where
  coh : Coh
  now : LineData
  patch : List (Nat × List Byte) := []
  whole : Bool := false
  sent : List Msg := []
  stops : List LineStop := []
  refilled : Bool := false
  deriving DecidableEq, Repr

/-- A run of bytes written over a content. -/
def LineData.put (d : LineData) (r : Nat × List Byte) : LineData :=
  { d with bytes := d.bytes.take r.1 ++ r.2 ++ d.bytes.drop (r.1 + r.2.length) }
def LineData.puts (d : LineData) (rs : List (Nat × List Byte)) : LineData := rs.foldl LineData.put d

/-- A message carries a line (R362). -/
def carriesLine (code : Nat) : Bool :=
  code == mPUTM || code == mODATA || code == mDATAS || code == mDATAM || code == mUDATA

/-- Before the place that holds the newest content is written, every other place that holds it lists it: the copies but
that of agent `keep`, the lines in messages, and the LLC but where it is the place. -/
def Plane.split (p : Plane) (line : Nat) (llc : Bool) (keep : Option Nat) : Plane :=
  let c := p.coh
  let agents := c.agents.mapVals (fun k x =>
    if k / 4096 == line && x.copy && x.old.isNone && some (k % 4096) != keep then { x with old := some p.now } else x)
  let msgs := c.msgs.map (fun m =>
    if m.line == line && carriesLine m.code && m.data.line.isNone then { m with data := { m.data with line := some p.now } } else m)
  let backing := if llc || c.backing.any (fun e => e.1 == line) then c.backing else c.backing.set line p.now
  { p with coh := { c with agents := agents, msgs := msgs, backing := backing } }

/-- A place that lists another content becomes the newest content. -/
def Plane.adopt (p : Plane) (d : LineData) : Plane := { p with now := d, patch := [], whole := true }

/-- Runs of bytes written over the newest content. -/
def Plane.put (p : Plane) (rs : List (Nat × List Byte)) : Plane :=
  { p with now := p.now.puts rs, patch := p.patch ++ rs }

/-- What the LLC holds of a line, where it is not the newest content. -/
def Coh.llc (c : Coh) (line : Nat) : Option LineData := (c.backing.find? (fun e => e.1 == line)).map (·.2)

/-- The LLC's content becomes the newest. -/
def Plane.llcNow (p : Plane) (line : Nat) : Plane :=
  match p.coh.llc line with
  | none => p
  | some d => let q := p.split line true none; { q with coh := { q.coh with backing := q.coh.backing.erase line } }.adopt d

/-- Bytes written to the LLC's content of a line. -/
def Plane.writeLlc (p : Plane) (line : Nat) (rs : List (Nat × List Byte)) : Plane :=
  if rs.isEmpty then p else ((p.llcNow line).split line true none).put rs

/-- Bytes written to the copy of agent a. -/
def Plane.writeCopy (p : Plane) (a line : Nat) (rs : List (Nat × List Byte)) : Plane :=
  let q := p.split line false (some a)
  let x := q.coh.agentLine a line
  match x.old with
  | none => q.put rs
  | some d => ({ q with coh := q.coh.setAgentLine a line { x with old := none } }.adopt d).put rs

/-- Bytes merged into the copy of agent a by an update that it received (R377). -/
def Plane.mergeCopy (p : Plane) (a line : Nat) (rs : List (Nat × List Byte)) : Plane :=
  let x := p.coh.agentLine a line
  match x.old with
  | none => p
  | some d =>
    let d2 := d.puts rs
    { p with coh := p.coh.setAgentLine a line { x with old := if d2 = p.now then none else some d2 } }

/-- Some place holds the newest content. -/
def Coh.holdsNewest (c : Coh) (line : Nat) : Bool :=
  (c.llc line).isNone || c.agents.any (fun e => e.1 / 4096 == line && e.2.copy && e.2.old.isNone)
    || c.msgs.any (fun m => m.line == line && carriesLine m.code && m.data.line.isNone)

/-- Where the newest content was in a copy that has been discarded, the LLC's content stands (R371). -/
def Plane.close (p : Plane) (line : Nat) : Plane := if p.coh.holdsNewest line then p else p.llcNow line

/-! ### Messages (R362) -/

/-- The number of a transaction of a slice among the parties to a message. -/
def isTxn (party : Nat) : Bool := decide (0x8000 ≤ party) && decide (party < 0x8040)

/-- The die of the requester of a transaction that is a party to a message (R446). -/
def Coh.txnDie (c : Coh) (slice src dst : Nat) : Option Nat :=
  (([src, dst].find? isTxn).bind (fun x => c.txns.get none (64 * slice + (x - 0x8000)))).map (·.die)

/-- A message of a line leaves; the slice is the line's home. Code 0 is no message. -/
def Plane.send (p : Plane) (code src dst line : Nat) (data : Payload := {}) (refused : Bool := false) : Plane :=
  if code = 0 then p
  else
    let slice := (p.coh.entry line).slice
    let m : Msg := { code := code, src := src, dst := dst, line := line, slice := slice, data := data, refused := refused
                     die := p.coh.txnDie slice src dst }
    { p with coh := { p.coh with msgs := p.coh.msgs ++ [m] }, sent := p.sent ++ [m] }

/-- Two messages use one network between one sender and one receiver, and keep their order (R362). -/
def Msg.sameWay (m n : Msg) : Bool :=
  m.src == n.src && m.dst == n.dst && m.slice == n.slice && msgClass m.code == msgClass n.code

/-- The message that must arrive first of those on the way of m. -/
def Coh.ahead (c : Coh) (m : Msg) : Msg := (c.msgs.find? (fun n => n.sameWay m)).getD m

/-- The number of a requester in `Coh.answers`: transaction t of slice n, or an agent. -/
def answerKey (slice dst : Nat) : Nat := if 0x8000 ≤ dst then 64 * slice + (dst - 0x8000) else 16384 + dst

/-- The reply to a request ends its transaction (R446). -/
def Coh.endTxn (c : Coh) (line dst : Nat) : Coh :=
  if isTxn dst then { c with txns := c.txns.erase (64 * (c.entry line).slice + (dst - 0x8000)) } else c

/-! ### The home (R363-R365, R368) -/

/-- The home drops the line and its entry: EXEC of EVICT (R372). Where messages of the line are on their way or requests of it
wait, the line comes to its slice again for them (R361). -/
def Plane.dropLine (p : Plane) (line clock : Nat) (stalled : Bool) : Plane :=
  let d := p.coh.entry line
  if stalled || p.coh.msgs.any (fun m => m.line == line) then
    { p with
      refilled := true
      coh := p.coh.setEntry line { prot := p.coh.ids.get 1 d.page, page := d.page, part := d.part, slice := d.slice
                                   low := d.low, tensor := d.tensor, used := clock } }
  else { p with coh := { p.coh with dir := p.coh.dir.erase line, dram := p.coh.dram.erase line } }

/-- An event that the home raises itself (R363). -/
def internalEvent (ev : Nat) : Bool := ev == evDONE || ev == evEVICT

/-- The word after an atomic operation on m, by its place among the first ten rows of R214. -/
def atomNew (o : LineAtom) (m : Nat) : Nat :=
  let n := 8 * o.size
  let x := o.operand % 2 ^ n
  match o.op with
  | 0 => (m + x) % 2 ^ n
  | 1 => m &&& x
  | 2 => m ||| x
  | 3 => m ^^^ x
  | 4 => if signed n m < signed n x then x else m
  | 5 => if signed n x < signed n m then x else m
  | 6 => max m x
  | 7 => min m x
  | 8 => x
  | _ => if m = o.expected % 2 ^ n then x else m

/-- The bytes at the home on which an atomic operation acts. -/
def Plane.operand (p : Plane) (line : Nat) (o : LineAtom) : List Byte :=
  (((p.coh.llc line).getD p.now).bytes.drop o.off).take o.size

/-- EXEC of the recorded request: an uncached write writes the LLC, an atomic operation finds its word there, and is
performed there where no instruction of this machine does so; an eviction and an invalidation change no byte (R368, R372). -/
def Plane.exec (p : Plane) (line : Nat) (req : Nat) (data : Payload) : Plane :=
  if req = mUWRITE then p.writeLlc line data.bytes
  else if req = mATOM then
    match data.op with
    | none => (p.llcNow line).split line true none
    | some o => p.writeLlc line [(o.off, toBytes o.size (atomNew o (ofBytes (p.operand line o))))]
  else p

/-- The line of a message whose row names no source for it: any content (R368; log entry 47). -/
def Coh.unsourced (c : Coh) : LineData :=
  let x := (Config.unsourced c.clock).toNat
  { bytes := toBytes 128 x, side := [BitVec.ofNat 32 (x / 2 ^ 1024), BitVec.ofNat 32 (x / 2 ^ 1056)] }

/-- What a row of the home sends to the requester: the LLC's line, the received one, or the result of EXEC, which for an
ATOM is the word as it was (R362, R368). -/
def Plane.source (p : Plane) (line code dsrc : Nat) (data : Payload) (result : Option Nat) : Payload :=
  if dsrc = 1 || dsrc = 4 then { line := p.coh.llc line, result := if dsrc = 4 then result else none }
  else if dsrc = 2 then { line := data.line }
  else if carriesLine code then { line := some p.coh.unsourced }
  else {}

/-- WLLC and MERGE: the received line, or the received bytes, written to the LLC (R368). -/
def Plane.toLlc (p : Plane) (line code : Nat) (row : Row) (data : Payload) : Plane :=
  let p := if row.wllc && carriesLine code then
      { p with coh := { p.coh with backing := match data.line with
                                     | none => p.coh.backing.erase line
                                     | some d => p.coh.backing.set line d } }
    else p
  if row.merge then p.writeLlc line data.bytes else p

/-- The home handles one event of a line: the event code, its sender, and what it carried. An impossible row stops the line
(R371); a stalled request queues under its own code. The fuel bounds the chain of internal events and of requests handled
again. -/
def homeEvent : Nat → Nat → Nat → Nat → Payload → Plane → Plane
  | 0, _, _, _, _, p => p
  | fuel + 1, line, code, src, data, p =>
    let d := p.coh.entry line
    let ev := if code = mPUTM && d.ownreq ≠ src then evPUTMX else code
    let row := homeRow p.coh d.prot d.state ev
    if d.stopped.isSome then
      { p with coh := p.coh.setEntry line { d with stalled := d.stalled ++ [(code, src, data)] } }
    else if row.imp || !row.v then
      let stop := d.stop atHome (32 * d.state + ev)
      { p with
        coh := p.coh.setEntry line { d with stopped := some stop, stalled := d.stalled ++ [(code, src, data)] }
        stops := p.stops ++ [stop] }
    else if row.stall then
      { p with coh := p.coh.setEntry line { d with stalled := d.stalled ++ [(code, src, data)] } }
    else
      let request := decide (code ≤ 0x0A)
      let recorded := (request && code ≠ mPUTS && code ≠ mPUTM) || code == evEVICT
      let (req, reqData) := if recorded then (some (code, src), data) else (d.req, d.reqData)
      let reqCode := (req.getD (0, 0)).1
      let dst := if request then src else d.ownreq
      let clock := p.coh.clock + 1
      let p := { p with coh := { p.coh with clock := clock } }
      let p := p.toLlc line code row data
      let result := if row.exec && reqCode == mATOM then reqData.op.map (fun o => ofBytes (p.operand line o)) else none
      let p := if row.exec then p.exec line reqCode reqData else p
      let covered := if row.toSh = 0 then [] else d.covered.filter (· ≠ src)
      let (first, later) := if row.ackc = 1 then (covered.take 255, covered.drop 255) else (covered, [])
      let out : Payload := { bytes := if row.toSh = mUPD then reqData.bytes else [] }
      let p := first.foldl (fun p a => p.send row.toSh atHome a line out) p
      let p := p.send row.toOwn atHome d.ownreq line
      let answer := if row.toReq = mREPLY then replyCode reqCode else row.toReq
      let p := p.send answer atHome dst line (p.source line answer row.dsrc data result) row.refuse
      let p := if answer = 0 then p else { p with coh := p.coh.endTxn line dst }
      let (left, p) :=
        if ev = mACK then
          match d.left with
          | (m, a) :: r => (r, p.send m atHome a line { bytes := if m = mUPD then d.reqData.bytes else [] })
          | [] => ([], p)
        else (d.left ++ later.map (fun a => (row.toSh, a)), p)
      let pend := if row.ackc = 1 then covered.length else if row.ackc = 2 then d.pend - 1 else d.pend
      let stable := homeClass p.coh d.prot row.next ≠ 0
      let dropped := row.exec && reqCode == evEVICT && row.next == 0
      let d2 := { d.act row.set src with
        state := row.next, req := req, reqData := reqData, pend := pend, left := left
        dirty := d.dirty || row.wllc || row.merge || (row.exec && (reqCode == mUWRITE || reqCode == mATOM))
        used := if request then clock else d.used, stalled := if stable then [] else d.stalled }
      let p :=
        if dropped then p.dropLine line clock (!d.stalled.isEmpty) else { p with coh := p.coh.setEntry line d2 }
      if row.cz && pend = 0 && left.isEmpty then homeEvent fuel line evDONE atHome {} p
      else if stable then d.stalled.foldl (fun p e => homeEvent fuel line e.1 e.2.1 e.2.2 p) p
      else p

/-! ### The agents (R363, R368, R374) -/

/-- The agent event of a message (R363). -/
def agentEventOf (code : Nat) : Nat :=
  if code = mINV then 3 else if code = mDOWN then 4 else if code = mRECALL then 5 else if code = mUPD then 6
  else if code = mDATAS then 7 else if code = mDATAM then 8 else if code = mPUTACK then 9
  else if code = mUPDACK then 10 else 11

/-- What a row of an agent sends carries: its copy, or the bytes of the store that it holds. -/
def Coh.agentSends (c : Coh) (row : Row) (x : AgentLine) (data : Payload) (store : List (Nat × List Byte)) : Payload :=
  { line := if !carriesLine row.toReq then none
            else if row.dsrc = 3 && x.copy then x.old
            else if row.dsrc = 2 then data.line
            else some c.unsourced
    bytes := if row.toReq = mUPDW then store else [] }

/-- PERF of a store: it is performed in the copy where the row leaves the agent the owner of one (R368, R375). -/
def Plane.perform (p : Plane) (a line prot : Nat) (row : Row) (e : Option (Nat × List (Nat × List Byte))) : Plane :=
  match e with
  | some (1, rs) => if row.perf && agentClass p.coh prot row.next = 3 then p.writeCopy a line rs else p
  | _ => p

/-- An agent handles one event of a line, with what it carried or the bytes of a store; accesses that it holds are tried
again in order when the line's state changes (R368). An impossible row stops the agent, and later events of the line wait
(R371). -/
def agentEvent : Nat → Nat → Nat → Nat → Payload → Plane → Plane
  | 0, _, _, _, _, p => p
  | fuel + 1, line, a, ev, data, p =>
    let x := p.coh.agentLine a line
    let prot := (p.coh.entry line).prot
    let row := agentRow p.coh prot x.state ev
    let later := if ev ≤ 1 then x.later else x.later ++ [(ev, data)]
    if x.stopped.isSome then { p with coh := p.coh.setAgentLine a line { x with later := later } }
    else if row.imp || !row.v then
      let stop := (p.coh.entry line).stop a (16 * x.state + ev)
      { p with
        coh := p.coh.setAgentLine a line { x with stopped := some stop, later := later }
        stops := p.stops ++ [stop] }
    else
      let own := if ev ≤ 1 then some (ev, data.bytes) else x.held.head?
      let store := (own.getD (0, [])).2
      let held :=
        if ev ≤ 1 then (if row.stall then x.held ++ [(ev, data.bytes)] else x.held)
        else if row.perf || row.refuse then x.held.drop 1 else x.held
      let keeps := !row.drop && agentClass p.coh prot row.next ≠ 1
      let fills := decide (ev = 7 ∨ ev = 8) && row.dsrc == 2
      let sent := p.coh.agentSends row x data store
      let x2 : AgentLine :=
        { x with
          state := row.next, copy := keeps && (x.copy || fills)
          old := if !keeps then none else if fills then data.line else x.old
          held := held, refused := x.refused || row.refuse
          used := if ev ≤ 1 then p.coh.clock + 1 else x.used }
      let p := { p with coh := { p.coh with clock := p.coh.clock + 1 } }
      let p := { p with coh := p.coh.setAgentLine a line x2 }
      let p := p.perform a line prot row own
      let p := if row.merge then p.mergeCopy a line (if ev = 6 then data.bytes else store) else p
      let p := p.send row.toReq a atHome line sent
      if row.next ≠ x.state && !row.stall then
        let again := (p.coh.agentLine a line).held
        let p := { p with coh := p.coh.setAgentLine a line { p.coh.agentLine a line with held := [] } }
        again.foldl (fun p e => agentEvent fuel line a e.1 { bytes := e.2 } p) p
      else p

/-! ### Delivery -/

/-- One message is delivered: to the home, to an agent, or to the requester of an uncached request, of LINV or of LWB. -/
def deliver (m : Msg) (p : Plane) : Plane :=
  if m.dst = atHome then homeEvent 64 m.line m.code m.src m.data p
  else if isTxn m.dst || (m.code == mWACK && m.dst < 0x880) then
    { p with coh := { p.coh with answers := p.coh.answers.set (answerKey m.slice m.dst) (some (m.refused, m.data)) } }
  else if m.dst < 0x880 then agentEvent 8 m.line m.dst (agentEventOf m.code) m.data p
  else p

/-- The first message that satisfies q is delivered, or the one that its network keeps before it. -/
def deliverFirst (q : Msg → Bool) (p : Plane) : Plane :=
  match p.coh.msgs.find? q with
  | none => p
  | some m =>
    let n := p.coh.ahead m
    deliver n { p with coh := { p.coh with msgs := p.coh.msgs.erase n } }

/-- Messages of a line are delivered until none is in flight; the fuel bounds them. -/
def drain : Nat → Nat → Plane → Plane
  | 0, _, p => p
  | fuel + 1, line, p =>
    if p.coh.msgs.any (fun m => m.line == line) then drain fuel line (deliverFirst (fun m => m.line == line) p) else p

/-! ### Homes (R181, R184) -/

/-- The slice hash of R181. -/
def sliceHash (pa : Nat) : Nat :=
  ((pa / 2 ^ 7 % 256) ^^^ (pa / 2 ^ 15 % 256) ^^^ (pa / 2 ^ 23 % 256) ^^^ (pa / 2 ^ 31 % 256) ^^^
    (pa / 2 ^ 39 % 256) ^^^ (pa / 2 ^ 47 % 2))

/-- The tensor of partition p that holds a physical address (R182). -/
def tensorAt (s : State) (p pa : Nat) : Option (Nat × Tensor) :=
  (s.part p).tensors.find? (fun e => decide (e.2.pa ≤ pa) && decide (pa < e.2.pa + e.2.rows * e.2.pitch))

/-- The home slice of an address of partition p (R181, R184). -/
def sliceOf (s : State) (p pa : Nat) : Nat :=
  match tensorAt s p pa with
  | some (_, t) =>
    let x := pa - t.pa
    (sliceHash t.pa + x / t.pitch / t.tileRows * (t.pitch / t.tileWidth) + x % t.pitch / t.tileWidth) % 256
  | none => sliceHash pa

/-- The lines that an access of n bytes at pa meets. -/
def linesFrom (pa n : Nat) : List Nat := stepsFrom (pa / 128 * 128) (pa + n) 128

/-! ### The plane and the state -/

/-- The content of a line that was written last. -/
def State.lineData (s : State) (line : Nat) : LineData :=
  { bytes := s.readBytes line 128, side := [s.sideband line, s.sideband (line + 64)] }

/-- What an exchange of messages changed: the plane, then the bytes that it wrote. -/
def State.putPlane (s : State) (line : Nat) (p : Plane) : State :=
  let s := { s with coh := p.coh }
  if p.whole then ((s.writeBytes line p.now.bytes).setSideband line (p.now.side.getD 0 0)).setSideband (line + 64) (p.now.side.getD 1 0)
  else p.patch.foldl (fun s r => s.writeBytes (line + r.1) r.2) s

/-- The plane of a line taken through f. -/
def State.plane (s : State) (line : Nat) (f : Plane → Plane) : Plane := (f { coh := s.coh, now := s.lineData line }).close line

/-- An agent replaces a line that it holds in a stable state (R363, R374). -/
def Plane.replace (a line : Nat) (p : Plane) : Plane :=
  if (p.coh.agentLine a line).copy && agentClass p.coh (p.coh.entry line).prot (p.coh.agentLine a line).state ≠ 0 then
    drain 9000 line (agentEvent 8 line a 2 {} p)
  else p

/-- The home evicts a line (R361). -/
def Plane.evict (line : Nat) (p : Plane) : Plane := drain 9000 line (homeEvent 64 line evEVICT atHome {} p)

/-- An agent asks the home for LINV or LWB of a line, and takes its answer. -/
def Plane.maintain (code a line : Nat) (p : Plane) : Plane :=
  let p := drain 9000 line (p.send code a atHome line)
  { p with coh := { p.coh with answers := p.coh.answers.erase (answerKey (p.coh.entry line).slice a) } }

/-- A line of memory lies in n bytes at a physical address, which may stand in an interleaved view (R153, R154). -/
def lineIn (s : State) (pa n line : Nat) : Bool :=
  let inside := fun (x : Nat) => decide (pa / 128 * 128 ≤ x) && decide (x < pa + n)
  if pa < 0x100000000000 then inside line
  else
    let p := (pa - 0x100000000000) / 0x8000000000
    let l := s.nearChannels p
    match l.idxOf? (line / 0xC0000000) with
    | some i => inside (0x100000000000 + p * 0x8000000000 + (line % 0xC0000000 / 128 * l.length + i) * 128)
    | none => false

/-- Lines that agent a holds in the given ranges of physical addresses, with q of their states. -/
def heldLines (s : State) (a : Nat) (q : AgentLine → Nat → Bool) (ranges : List (Nat × Nat)) : List Nat :=
  (s.coh.agents.filterMap (fun e => if e.1 % 4096 == a && e.2.copy && q e.2 (e.1 / 4096) then some (e.1 / 4096) else none)).filter
    (fun l => ranges.any (fun r => lineIn s r.1 r.2 l))

/-- Lines that the slices hold in n bytes at a physical address. -/
def linesHeld (s : State) (pa n : Nat) : List Nat := (s.coh.dir.map (·.1)).filter (lineIn s pa n)

/-- The agent owns the line: its copy may be newer than the LLC's. -/
def dirtyAt (c : Coh) (x : AgentLine) (line : Nat) : Bool := agentClass c (c.entry line).prot x.state == 3

/-- Before a line of translation tables is written, the dirty lines of the stash pages whose translation rests on it are
written back (R180). -/
def writeBackStash (line : Nat) (s : State) : State :=
  s.clusters.foldl (fun s e =>
    (e.2.stash.filter (fun x => x.2.restsOn line)).foldl (fun s x =>
      (heldLines s (2048 + e.1) (dirtyAt s.coh) ((x.2.pages.filter (fun p => p.tables.contains line)).map (fun p => (p.pa, p.len)))).foldl
        (fun s l => s.putPlane l (s.plane l (Plane.maintain mLWB (2048 + e.1) l))) s) s) s

/-- The die of a number: a base die, or an IO die from 8 on. -/
def dieOf (n : Nat) : Die := if n < 8 then .base n else .io (n - 8)
def Die.number : Die → Nat
  | .base d => d
  | .io i => 8 + i

/-- The die of a party to a message. -/
def Msg.dieAt (m : Msg) (party : Nat) : Option Die :=
  if party = atHome then some (sliceDie m.slice)
  else if party < 2176 then some (clusterDie (agentCluster party))
  else m.die.map dieOf

/-- The messages that left in an exchange enter the bundles that they cross, for the partition of their line, or as
firmware's (R389, R392). -/
def enterSent (fw : Bool) (l : List Msg) (s : State) : State :=
  l.foldl (fun s m =>
    match m.dieAt m.src, m.dieAt m.dst with
    | some a, some b => enterRoute (if fw then none else some (s.coh.entry m.line).part) (msgClass m.code) a b s
    | _, _ => s) s

/-- A line read from DRAM for a partition starts the integrity checks of its blocks (R432). -/
def startCheck (p line : Nat) (s : State) : State :=
  { s with checks := s.checks ++ ([(line / 64, p), (line / 64 + 1, p)].filter (fun x => !s.checks.contains x)) }

/-- An exchange of messages about a line, for a requester at level F or another. For every engine that stopped in it,
PROTOCOL goes to firmware (R371); a line that left its slice and came again was read from DRAM. -/
def exchange (line : Nat) (f : Plane → Plane) (s : State) (fw : Bool := false) : State :=
  let p := s.plane line f
  let t :=
    if p.patch.isEmpty && !p.whole then { s with coh := p.coh }
    else
      let s := writeBackStash line s
      s.putPlane line (s.plane line f)
  let t := enterSent fw p.sent t
  let d := t.coh.entry line
  let t := if p.refilled then startCheck d.part line (enterBoth (some d.part) (sliceDie d.slice) (memoryDie line) t) else t
  p.stops.foldl (fun t x => tellFirmware { cause := 0x17, detail := line, stop := some x } t) t

/-! ### The LLC (R185, R421) -/

/-- A partition's guaranteed and greatest number of ways in a set; a record that gives no WMAX bounds none. -/
def wmin (s : State) (p : Nat) : Nat := field (s.prec p 0x60) 4 0
def wmax (s : State) (p : Nat) : Nat :=
  if field (s.prec p 0x60) 12 8 = 0 then 16 else min 16 (field (s.prec p 0x60) 12 8)

/-- The rank of a line (R167, R185): 0 for a demoted tensor, else one above its priority; a line that came with a streaming
access has the lowest priority. -/
def rankOf (s : State) (d : Dir) : Nat :=
  match d.tensor.bind (fun i => ((s.part d.part).tensors.find? (fun e => e.1 == i)).map (·.2)) with
  | some t => if t.demoted then 0 else if d.low then 1 else t.prio + 1
  | none => if d.low then 1 else 3

/-- The lines of a slice that stand in one set with the line. -/
def inSet (s : State) (slice line : Nat) : SMap Dir :=
  s.coh.dir.filter (fun e => e.2.slice == slice && Config.llcSet e.1 == Config.llcSet line)

/-- Lines of the set held for a partition. -/
def waysOf (l : SMap Dir) (p : Nat) : Nat := (l.filter (fun e => e.2.part == p)).length

/-- The lines among which the victim for a fill of partition p is chosen (R421). -/
def candidates (s : State) (p : Nat) (l : SMap Dir) : SMap Dir :=
  l.filter (fun e => e.2.stopped.isNone && homeClass s.coh e.2.prot e.2.state ≠ 0 &&
    (e.2.part == p || (decide (waysOf l p < wmax s p) && decide (wmin s e.2.part < waysOf l e.2.part))))

/-- The victim: of the lowest rank, least recently used first (R185). -/
def victim (s : State) (l : SMap Dir) : Option (Nat × Dir) :=
  l.foldl (fun b e => match b with
    | none => some e
    | some x => if rankOf s e.2 < rankOf s x.2 || (rankOf s e.2 == rankOf s x.2 && decide (e.2.used < x.2.used)) then some e else some x) none

/-- The tensor of a line is demoted, or taken up again by an access (R185). -/
def demote (p : Nat) (i : Option Nat) (b : Bool) (s : State) : State :=
  match i with
  | none => s
  | some i =>
    if (s.part p).tensors.any (fun e => e.1 == i && e.2.demoted != b) then
      s.setPart p { s.part p with tensors := (s.part p).tensors.mapVals (fun j t => if j == i then { t with demoted := b } else t) }
    else s

/-- The home evicts a line: every copy returns, and the line leaves the slice (R361). -/
def evictLine (line : Nat) (s : State) : State :=
  let d := s.coh.entry line
  let t := exchange line (Plane.evict line) s
  if t.coh.holds line then t
  else
    let written := d.dirty || homeClass s.coh d.prot d.state == 3
    let t := if d.trans then writeBackStash line t else t
    lineEvicted line d.trans (if written then enterRoute (some d.part) 0 (sliceDie d.slice) (memoryDie line) t else t)

/-- A way for a line that a fill of partition p brings to a slice (R421): none is needed while the set has room and the
partition is below its most; a set without a stable candidate makes the fill wait. The fuel counts evictions. -/
def makeRoom : Nat → Nat → Nat → Nat → State → Except Stop State
  | 0, _, _, line, _ => .error (.wait (.way line))
  | fuel + 1, p, slice, line, s =>
    if s.coh.dir.length < wmax s p then .ok s
    else
      let l := inSet s slice line
      if l.length < 16 && waysOf l p < wmax s p then .ok s
      else
        match victim s (candidates s p l) with
        | none => .error (.wait (.way line))
        | some (v, d) =>
          let s' := evictLine v (demote d.part d.tensor true s)
          if (s'.coh.stopOf v).isSome then .error (.wait (.line v (s'.coh.stopOf v)))
          else if s'.coh.holds v then .error (.wait (.way line)) else makeRoom fuel p slice line s'

/-- The die of a requester. -/
def Ctx.die (c : Ctx) : Die := match c.io with | some i => .io i | none => clusterDie c.cluster
/-- The tag of a requester's traffic: none for firmware (R392, R422). -/
def Ctx.tag (c : Ctx) : Option Nat := if c.level == 2 then none else some c.part

/-- A read of DRAM starts the clear of a fresh page (R425). -/
def startClear (line : Nat) (s : State) : State :=
  if isScratch line || s.pageClear.get 0 (line / 65536) ≠ 0 then s else { s with pageClear := s.pageClear.set (line / 65536) 1 }

/-- A line comes to its slice for a requester's partition, with the protocol id of its page (R358, R361, R421). -/
def fillLine (c : Ctx) (at_ line : Nat) (low : Bool) (s : State) : Except Stop State :=
  if s.coh.holds line then .ok s
  else do
    let p := c.part
    let slice := sliceOf s p at_
    let s ← makeRoom 17 p slice line s
    let d : Dir := { prot := s.protId at_, page := at_ / 65536, part := p, slice := slice, low := low, used := s.coh.clock
                     tensor := (tensorAt s p at_).map (·.1) }
    let coh := s.coh.setEntry line d
    .ok (startCheck p line (startClear line (enterBoth c.tag (sliceDie slice) (memoryDie line)
      { s with coh := { coh with dram := coh.dram.set line (s.lineData line) } })))

/-! ### Tokens (R422, R423) -/

def tokenRate (s : State) (p : Nat) : Nat := max 1 (field (s.prec p 0x60) 24 16)
def tokenDepth (s : State) (p : Nat) : Nat := max 16 (min 1024 (field (s.prec p 0x60) 42 32))
/-- The tokens of partition p at a slice; a bucket starts full. -/
def tokensOf (s : State) (slice p : Nat) : Nat := (s.tokens.get none (32 * slice + p)).getD (tokenDepth s p)

/-- The tokens that the instruction of a stream has taken already. -/
def Thread.credit (t : Thread) (body : Bool) : SMap Nat :=
  match t.rep with
  | some r => if body then r.paid else t.paid
  | none => t.paid

def Thread.withCredit (t : Thread) (body : Bool) (m : SMap Nat) : Thread :=
  match t.rep with
  | some r => if body then { t with rep := some { r with paid := m } } else { t with paid := m }
  | none => { t with paid := m }

/-- A stream is given n tokens of bucket i. -/
def Thread.earn (t : Thread) (body : Bool) (i n : Nat) : Thread :=
  t.withCredit body ((t.credit body).set i ((t.credit body).get 0 i + n))

/-- The tokens of bucket i that a requester beyond the slots has taken for a request that it sends again. -/
def State.creditOf (s : State) (r i : Nat) : Nat := s.credits.get 0 (8192 * r + i)
def State.setCredit (s : State) (r i n : Nat) : State :=
  { s with credits := if n = 0 then s.credits.erase (8192 * r + i) else s.credits.set (8192 * r + i) n }

/-- A number of a requester is that of a slot. -/
def isSlot (k : Nat) : Bool := decide (k < 16384)

/-- A requester, a stream of a slot or a number beyond the slots, is given n tokens of bucket i. -/
def State.earn (s : State) (me : Nat × Bool) (i n : Nat) : State :=
  if isSlot me.1 then s.mapThread me.1 (fun t => t.earn me.2 i n) else s.setCredit me.1 i (s.creditOf me.1 i + n)

/-- The lowest partition that may lend a token at a slice: its bucket is full, and tokens of this window have overflowed it
(R424). -/
def lenderFor (slice p : Nat) (s : State) : Option Nat :=
  (List.range 32).find? (fun q => q != p && decide (0 < s.spill.get 0 (32 * slice + q)) && !bit (s.prec q 0x48) 0
    && tokensOf s slice q == tokenDepth s q)

/-- An empty bucket takes an overflowing token, at most its own rate in a window of 256 fabric cycles (R424). -/
def borrowToken (slice p : Nat) (s : State) : Option State :=
  let i := 32 * slice + p
  if s.spill.isEmpty || bit (s.prec p 0x48) 1 || tokenRate s p ≤ s.borrowed.get 0 i then none
  else
    (lenderFor slice p s).map (fun q =>
      { s with spill := s.spill.set (32 * slice + q) (s.spill.get 0 (32 * slice + q) - 1)
               borrowed := s.borrowed.set i (s.borrowed.get 0 i + 1) })

/-- A metered request takes a token of its partition (R422); firmware's traffic takes none. It waits where the bucket is
empty, or others wait before it (R423). -/
def takeToken (c : Ctx) (slice : Nat) (s : State) : Except Stop State :=
  let i := 32 * slice + c.part
  let credit := match c.slot, c.engine with
    | some k, _ => ((s.thread k).credit (s.thread k).inBody).get 0 i
    | none, some r => s.creditOf r i
    | none, none => 0
  if c.level == 2 then .ok s
  else if credit ≠ 0 then
    .ok (match c.slot, c.engine with
      | some k, _ => s.mapThread k (fun t => t.withCredit t.inBody ((t.credit t.inBody).set i (credit - 1)))
      | none, some r => s.setCredit r i (credit - 1)
      | none, none => s)
  else if !(s.deferred.get [] i).isEmpty then .error (.wait (.token i))
  else if tokensOf s slice c.part ≠ 0 then .ok { s with tokens := s.tokens.set i (some (tokensOf s slice c.part - 1)) }
  else
    match borrowToken slice c.part s with
    | some s => .ok s
    | none => .error (.wait (.token i))

/-- A requester joins the deferral queue of a bucket; what the bucket holds has been taken for it (R423). A full queue
refuses it: the wait becomes that of the slice port. -/
def deferToken (i k : Nat) (body : Bool) (s : State) : Option State :=
  let q := s.deferred.get [] i
  if q.contains (k, body) then some s
  else if 32 ≤ q.length then none
  else
    let n := tokensOf s (i / 32) (i % 32)
    let s := { s with deferred := s.deferred.set i (q ++ [(k, body)]) }
    if q.isEmpty && n ≠ 0 then
      some ({ s with tokens := s.tokens.set i (some 0) }.earn (k, body) i n)
    else some s

/-! ### Requests run to their end -/

/-- How a request of an access ends. -/
inductive Granted where
  | performed | refused | blocked
  deriving DecidableEq, Repr

/-- An agent's access (0 LOAD, 1 STORE with its bytes) run to its end (R374-R379). One that waits issues again: the agent keeps
none of it. -/
def agentAccess (a line ev : Nat) (runs : List (Nat × List Byte)) (s : State) (fw : Bool := false) : State × Granted :=
  let x := s.coh.agentLine a line
  if x.stopped.isSome then (s, .blocked)
  else
    let s := { s with coh := s.coh.setAgentLine a line { x with refused := false } }
    let s := exchange line (fun p => drain 9000 line (agentEvent 8 line a ev { bytes := runs } p)) s fw
    let x := s.coh.agentLine a line
    if x.refused then ({ s with coh := s.coh.setAgentLine a line { x with refused := false } }, .refused)
    else if !x.held.isEmpty then ({ s with coh := s.coh.setAgentLine a line { x with held := [] } }, .blocked)
    else if x.stopped.isSome then (s, .blocked)
    else (s, .performed)

/-- The lowest transaction that a slice has free (R446). -/
def freeTxn (c : Coh) (slice : Nat) : Option Nat := (List.range 64).find? (fun t => (c.txns.get none (64 * slice + t)).isNone)

/-- The context of a requester that is the home itself, for a line of partition p in a slice. -/
def homeCtx (p slice : Nat) : Ctx := { part := p, cluster := slice / 32 * 16 }

/-- An uncached request under the lowest free transaction, run to its end (R357, R446), with what it answers. A slice
without one refuses it. -/
def uncached (c : Ctx) (code line : Nat) (data : Payload) (s : State) : Except Stop (State × Granted × Payload) :=
  let slice := (s.coh.entry line).slice
  match freeTxn s.coh slice with
  | none => .error (.wait (.port 0 0))
  | some t =>
    let i := 64 * slice + t
    let s := { s with coh := { s.coh with txns := s.coh.txns.set i (some { line := line, die := c.die.number })
                                          answers := s.coh.answers.erase i } }
    let s := exchange line (fun p => drain 9000 line (p.send code (0x8000 + t) atHome line data)) s (c.level == 2)
    match s.coh.answers.get none i with
    | none => .ok (s, .blocked, {})
    | some (refused, x) =>
      .ok ({ s with coh := { s.coh with answers := s.coh.answers.erase i } }, if refused then .refused else .performed, x)

/-- LINV or LWB of a line by an agent, metered, run to its end (R362, R422). -/
def maintainLine (c : Ctx) (code a line : Nat) (s : State) : Except Stop State := do
  let s ← takeToken c (s.coh.entry line).slice s
  let s := exchange line (Plane.maintain code a line) s (c.level == 2)
  if (s.coh.stopOf line).isSome then .error (.wait (.line line (s.coh.stopOf line))) else .ok s

/-- Every line of a range leaves the slices: dirty copies are written back, every copy is invalidated (R183, R382). -/
def cleanRange (pa n : Nat) (s : State) : State := (linesHeld s pa n).foldl (fun s l => evictLine l s) s

/-- The lines that take a way in the set of the L1 of agent a in which a line lies, but for that line (R385): those of which
it is in a state of another class than I. -/
def l1Lines (c : Coh) (a line : Nat) : List (Nat × AgentLine) :=
  (c.agents.filter (fun e => e.1 % 4096 == a && e.1 / 4096 != line && e.2.set == (c.agentLine a line).set &&
    agentClass c (c.entry (e.1 / 4096)).prot e.2.state != 1)).map (fun e => (e.1 / 4096, e.2))

/-- The line accessed longest ago. -/
def oldestLine (l : List (Nat × AgentLine)) : Option (Nat × AgentLine) :=
  l.foldl (fun b e => match b with
    | none => some e
    | some x => if e.2.used < x.2.used then some e else some x) none

/-- A way of an L1 for a line that comes to it: the set keeps at most 8 lines, and the one accessed longest ago leaves
through its REPL row; the way is free when that copy has reached a state of class I (R167, R385). The fuel counts
replacements. -/
def makeWay : Nat → Nat → Nat → State → Except Stop State
  | 0, _, line, _ => .error (.wait (.way line))
  | fuel + 1, a, line, s =>
    if s.coh.agents.length < 8 then .ok s
    else
      let l := l1Lines s.coh a line
      if l.length < 8 then .ok s
      else
        match oldestLine l with
        | none => .ok s
        | some (v, x) =>
          let prot := (s.coh.entry v).prot
          let s := exchange v (if agentClass s.coh prot x.state = 0 then drain 9000 v else Plane.replace a v) s
          if agentClass s.coh prot (s.coh.agentLine a v).state == 1 then makeWay fuel a line s
          else .error (.wait (.line v (s.coh.stopOf v)))

/-- The set of an L1 in which a line lies, by its stage-2 address, and its way there (R385). -/
def takeWay (a at_ line : Nat) (s : State) : Except Stop State :=
  let x := s.coh.agentLine a line
  if 2048 ≤ a then .ok s
  else
    makeWay 9 a line (if agentClass s.coh (s.coh.entry line).prot x.state = 1 then
      { s with coh := s.coh.setAgentLine a line { x with set := at_ / 128 % 64 } } else s)

/-- What the reader of a line finds: nothing where it is the content that was written last. -/
abbrev View := Option LineData

def View.bytes (v : View) (s : State) (pa n : Nat) : List Byte :=
  match v with
  | none => s.readBytes pa n
  | some d => (d.bytes.drop (pa % 128)).take n

/-- The sideband of the block that holds a physical address, as the reader of its line finds it. -/
def View.sideband (v : View) (s : State) (pa : Nat) : BitVec 32 :=
  match v with
  | none => s.sideband pa
  | some d => d.side.getD (pa % 128 / 64) 0

/-- The cache policy of an access (R167): 0 normal, 1 stream, 2 no-L1-allocate, 3 `.nt`, 4 at the home (R269). -/
abbrev Policy := Nat

/-- The L1 may allocate. -/
def Policy.allocates (x : Policy) : Bool := decide (x ≤ 1)
/-- The LLC allocates at the lowest rank. -/
def Policy.low (x : Policy) : Bool := x == 1 || x == 3

/-- The access goes through the agent, not to the home: a stash always fills, an L1 allocates or hits a line that it has
(R167, R178); lines of NOC are never held, and an access that is ordered at the home goes there (R269, R376). -/
def viaAgent (s : State) (a line code prot : Nat) (pol : Policy) : Bool :=
  prot ≠ 0 && (code == mUREAD || code == mUWRITE) && pol != 4 &&
    (decide (2048 ≤ a) || pol.allocates || (s.coh.agentLine a line).copy)

/-- The request of one access to one line, by its stage-2 address: by an agent or uncached; `code` is the uncached request
that stands for it, with what it carries: the bytes of a store and their sidebands, or the place of what it reads. A request
that leaves for the home takes a token (R422) and finds its line there (R421). Before a line of translation tables takes an
ATOM, the dirty lines of the stash that rest on it are written back (R180). Scratchpad lines take no part (R156). -/
def lineAccess (c : Ctx) (pol : Policy) (at_ va code : Nat) (data : Payload) (s : State) : Except Stop (State × View) :=
  let line := s.key at_ / 128 * 128
  if isScratch at_ then
    let s := enterBoth c.tag c.die (clusterDie ((at_ - 0xA0000000000) / 0x400000)) s
    .ok (if code = mUWRITE then data.bytes.foldl (fun s r => s.writeBytes (at_ / 128 * 128 + r.1) r.2) s else s, none)
  else do
    let prot := if s.coh.holds line then (s.coh.entry line).prot else s.protId at_
    let ev := if code = mUREAD then 0 else 1
    let agent := match c.agent with
      | some a => if viaAgent s a line code prot pol then some a else none
      | none => none
    let request := match agent with
      | some a => (agentRow s.coh prot (s.coh.agentLine a line).state ev).toReq
      | none => code
    let s ← if request = 0 then .ok s else takeToken c (sliceOf s c.part at_) s
    let s ← fillLine c at_ line pol.low s
    let s := demote c.part ((tensorAt s c.part at_).map (·.1)) false s
    match agent with
    | some a =>
      let had := (s.coh.agentLine a line).copy
      let s ← if request = mGETS || request = mGETM then takeWay a at_ line s else .ok s
      let (s, g) := agentAccess a line ev data.bytes s (c.level == 2)
      (match g with
        | .performed =>
          let x := s.coh.agentLine a line
          .ok (if pol == 1 && !had && x.copy then { s with coh := s.coh.setAgentLine a line { x with used := 0 } } else s, x.old)
        | .refused => .error (.fault causeProt va)
        | .blocked => .error (.wait (.line line (s.coh.stopOf line))))
    | none =>
      let (s, g, x) ← uncached c code line data s
      (match g with
        | .performed => .ok (if code = mATOM then writeBackStash line s else s, x.line)
        | .refused => .error (.fault causeProt va)
        | .blocked => .error (.wait (.line line (s.coh.stopOf line))))

/-! ### Requesters outside this machine (R23, R357) -/

/-- The partition to which a line's memory belongs; the device's own where none owns it. -/
def ownerOf (s : State) (line : Nat) : Nat := ((List.range 32).find? (fun p => s.reachable p false line)).getD 0

/-- A line of DRAM, by its canonical address. -/
def isLine (s : State) (line : Nat) : Bool :=
  decide (line % 128 = 0) && !isScratch line && decide (line < 0x100000000000) && s.reachable 0 true line

/-- A write of a control core or of the host that a line refused is dropped and counted at its slice (R379). -/
def countRefused (slice : Nat) (s : State) : State :=
  { s with coh := { s.coh with refusedWrites := s.coh.refusedWrites.set slice (s.coh.refusedWrites.get 0 slice + 1) } }

/-! ### Accesses of parts -/

/-- The part of n bytes at pa that lies in a line. -/
def within (pa n line : Nat) : Nat × Nat := (max pa line, min (pa + n) (line + 128) - max pa line)

/-- The context by which a part is accessed: through the stash of the cluster where that serves it (R178). -/
def partCtx (c : Ctx) (p : Piece) : Ctx := if p.stashed then { c with agent := some (2048 + c.cluster) } else c

/-- The place in its line of what a part reads of it. -/
def readsOf (pa n line : Nat) : Payload := { reads := some ((within pa n line).1 - line, (within pa n line).2) }

/-- The bytes of a part, line by line. -/
def loadPiece (c : Ctx) (pol : Policy) (p : Piece) (s : State) : Except Stop (State × List Byte) :=
  (linesFrom p.pa p.len).foldlM (fun (r : State × List Byte) l => do
    let (s, v) ← lineAccess (partCtx c p) pol l p.va mUREAD (readsOf p.pa p.len l) r.1
    let (a, n) := within p.pa p.len l
    .ok (s, r.2 ++ v.bytes s a n)) (s, [])

/-- The sidebands of the blocks of a part, line by line. -/
def loadSides (c : Ctx) (pol : Policy) (p : Piece) (s : State) : Except Stop (State × List (BitVec 32)) :=
  (linesFrom p.pa p.len).foldlM (fun (r : State × List (BitVec 32)) l => do
    let (s, v) ← lineAccess (partCtx c p) pol l p.va mUREAD (readsOf p.pa p.len l) r.1
    let (a, n) := within p.pa p.len l
    .ok (s, r.2 ++ (stepsFrom (a / 64 * 64) (a + n) 64).map (v.sideband s))) (s, [])

/-- Bytes stored to a part, line by line. -/
def storePiece (c : Ctx) (pol : Policy) (p : Piece) (l : List Byte) (s : State) : Except Stop State :=
  (linesFrom p.pa p.len).foldlM (fun s x => do
    let (a, n) := within p.pa p.len x
    let data : Payload := { bytes := [(a - x, (l.drop (a - p.pa)).take n)]
                            side := (stepsFrom (a / 64 * 64) (a + n) 64).map s.sideband }
    let (s, _) ← lineAccess (partCtx c p) pol x p.va mUWRITE data s
    .ok s) s

/-- The lines of a part brought to their homes for an operation there: under ATOM, or under UREAD (R193, R216). -/
def atHomes (c : Ctx) (p : Piece) (code : Nat) (s : State) : Except Stop State :=
  (linesFrom p.pa p.len).foldlM (fun s l => (lineAccess { c with agent := none } 0 l p.va code (readsOf p.pa p.len l) s).map (·.1)) s

/-- The bytes of the parts of an access, each under its own policy (R170). -/
def loadPieces (c : Ctx) : List (Policy × Piece) → State → Except Stop (State × List Byte)
  | [], s => .ok (s, [])
  | (pol, p) :: r, s => do
    let (s, x) ← loadPiece c pol p s
    let (s, y) ← loadPieces c r s
    .ok (s, x ++ y)

/-- Bytes stored over the parts of an access, each under its own policy (R170). -/
def storePieces (c : Ctx) : List (Policy × Piece) → List Byte → State → Except Stop State
  | [], _, s => .ok s
  | (pol, p) :: r, l, s => do
    let s ← storePiece c pol p (l.take p.len) s
    storePieces c r (l.drop p.len) s

/-! ### Words that the device itself keeps in memory (R357, R447) -/

/-- A 64-bit word written by the device at the home of its line: as an uncached write where a slice holds the line, so that
every copy takes part; one that is refused is dropped (R379). -/
def State.homeWrite (s : State) (pa : Nat) (x : Word) : State :=
  let line := s.key pa / 128 * 128
  if isScratch pa || !s.coh.holds line then s.write64 pa x
  else
    let d := s.coh.entry line
    match uncached (homeCtx d.part d.slice) mUWRITE line { bytes := [(pa % 128, toBytes 8 x.toNat)] } s with
    | .ok (s, _, _) => s
    | .error _ => s.write64 pa x

/-- A 64-bit word written at an IPA through stage 2 alone (R447); PROT where the partition does not reach the word. -/
def ipaWrite (s : State) (p ipa : Nat) (x : Word) (fw : Bool := false) : Except Nat State :=
  match stage2 s p ipa .store fw with
  | .ok (pa, _) => if s.reachable p fw pa then .ok (s.homeWrite pa x) else .error causeProt
  | .error c => .error c

/-- A word of a domain record written; nothing changes where stage 2 refuses it. -/
def State.setDomWord (s : State) (p : Nat) (d : BitVec 12) (off : Nat) (x : Word) : State :=
  match ipaWrite s p (s.domIpa p d off) x with
  | .ok s => s
  | .error _ => s

end Sys2Proof.Machine
end

