-- ==== Sys2Proof/Machine/Grants.lean ====
section
/-! DEFINITION. Grants of reservations and what waits behind them at the home of a word (R200, R207-R211): the places of
streams and of other requesters, and the operations that a home performs after their slot has gone on. -/
namespace Sys2Proof.Machine

/-! ### Reservations (R207-R211) -/

/-- A line brought home for an operation on it there (R193, R209); nothing is done for one that no slice holds. -/
def recallLine (line : Nat) (s : State) : State :=
  if !isScratch line && s.coh.holds line then
    match uncached (homeCtx (s.coh.entry line).part (s.coh.entry line).slice) mATOM line {} s with
    | .ok (s, _, _) => writeBackStash line s
    | .error _ => s
  else s

/-- The STFF, FEEMPTY and FEMARK at the head of those that wait behind the grant of a word are performed in order, as far as
they stand before any stream (R200, R211). The fuel is the length of the list. -/
def performPosted : Nat → Nat → State → State
  | 0, _, s => s
  | fuel + 1, w, s =>
    if (grantedTo s w).isSome then s
    else
      match s.held.get [] w with
      | { slot := k, op := some (code, value, va), .. } :: r =>
        let s := recallLine (w / 128 * 128) { s with held := if r.isEmpty then s.held.erase w else s.held.set w r }
        let (s, _, filled) := fePerform (feOpOf code) w value s
        let s := examineWord w s
        performPosted fuel w (if filled then reportFill k 1 va s else s)
      | _ => s

/-- The head of a word's queue is granted the word: its destination is written and its RSV completes (R209); the second
register of an RSVT receives 0 (R207). -/
def grantHead (w : Nat) (s : State) : State :=
  match s.rsvQueues.get [] w with
  | [] => s
  | k :: _ =>
    let x := s.read64 w
    s.mapThread k (fun t =>
      match t.rsv with
      | some r =>
        let t := { t with rsv := some { r with granted := true, since := s.now }, wait := none }
        ((if r.pair then t.wg (r.d + 1) 0 else t).wg r.d x).retire
      | none => t)

/-- The next queued slot is granted the word, whose line is recalled, once no access waits behind the last grant (R209,
R211). -/
def grantNext (w : Nat) (s : State) : State :=
  let s := performPosted (s.held.get [] w).length w s
  if (s.held.get [] w).isEmpty && (grantedTo s w).isNone then
    grantHead w (if (s.rsvQueues.get [] w).isEmpty then s else recallLine (w / 128 * 128) s)
  else s

/-- The grant of a word ends; the next queued slot is granted (R209, R210). -/
def passOn (w : Nat) (s : State) : State :=
  let q := (s.rsvQueues.get [] w).drop 1
  grantNext w { s with rsvQueues := if q.isEmpty then s.rsvQueues.erase w else s.rsvQueues.set w q }

/-- A stream no longer waits behind the grant of a word. -/
def leaveHeld (me : Nat × Bool) (w : Nat) (s : State) : State :=
  let l := (s.held.get [] w).filter (fun x => !x.isStream me)
  grantNext w { s with held := if l.isEmpty then s.held.erase w else s.held.set w l }

/-- A stream waits behind no grant any more: its access has ended some other way. -/
def leaveAllHeld (me : Nat × Bool) (s : State) : State :=
  if s.held.isEmpty then s
  else ((s.held.filter (fun e => e.2.any (fun x => x.isStream me))).map (·.1)).foldl (fun s w => leaveHeld me w s) s

/-- An access of a stream to n bytes at pa has been performed: it waits behind no grant any more. -/
def performedAt (me : Nat × Bool) (pa n : Nat) (s : State) : State :=
  if s.held.isEmpty then s
  else ((stepsFrom (pa / 8 * 8) (pa + n) 8).map s.key).foldl
    (fun s w => if (s.held.get [] w).any (fun x => x.isStream me) then leaveHeld me w s else s) s

/-- A requester takes its place among the accesses that wait behind the grant of a word (R211). -/
def takePlace (me : Nat × Bool) (w : Nat) (s : State) : State :=
  let l := s.held.get [] w
  if l.any (fun x => x.isStream me) then s else { s with held := s.held.set w (l ++ [{ slot := me.1, body := me.2 }]) }

/-- The requester of a context: a stream of its slot, or a number beyond the slots. -/
def Ctx.me (c : Ctx) (s : State) : Option (Nat × Bool) :=
  match c.slot with
  | some k => some (k, (s.thread k).inBody)
  | none => c.engine.map (fun r => (r, false))

/-- An access of a requester has been performed: it waits behind no grant any more. -/
def performedBy (me : Option (Nat × Bool)) (pa n : Nat) (s : State) : State :=
  match me with
  | some m => performedAt m pa n s
  | none => s

/-- An operation of slot k that its home has still to perform. -/
def Held.postedOf (x : Held) (k : Nat) : Bool := x.op.isSome && x.slot == k

/-- Operations of a slot that the home has still to perform although the slot went on (R200). -/
def postedBy (s : State) (k : Nat) : Bool := s.held.any (fun e => e.2.any (fun x => x.postedOf k))

/-- Some of them are to words of n bytes at pa. -/
def postedAt (s : State) (k pa n : Nat) : Bool :=
  !s.held.isEmpty &&
    ((stepsFrom (pa / 8 * 8) (pa + n) 8).map s.key).any (fun w => (s.held.get [] w).any (fun x => x.postedOf k))

/-- Some of them come before a release-side FENCE of the slot (R274). -/
def fencedBy (s : State) (k : Nat) : Bool := s.held.any (fun e => e.2.any (fun x => x.postedOf k && x.fenced))

end Sys2Proof.Machine
end

