-- ==== Sys2Proof/Machine/Access.lean ====
section
/-! DEFINITION. An access checked and charged: TLBs and walkers (R164, R165), stale stash entries (R180), first touch and
the dirty bit (R162), in the order of R55. -/
namespace Sys2Proof.Machine

/-! ### TLBs and walkers (R164, R165) -/

/-- A table line read by a walker: an uncached read at its home, where the translation bit is set (R165, R357). -/
def walkerRead (c : Ctx) (va at_ : Nat) (s : State) : Except Stop State := do
  let line := s.key at_ / 128 * 128
  let (s, _) ← lineAccess { c with agent := none } 0 at_ va mUREAD { reads := some (0, 128) } s
  .ok (if s.coh.holds line then { s with coh := s.coh.setEntry line { s.coh.entry line with trans := true } } else s)

/-- A TLB of n entries takes a translation in the place of the one it has had longest (log entry 49). -/
def insertTlb (n : Nat) (x : Translation) (l : List Translation) : List Translation :=
  (if l.length < n then l else l.drop 1) ++ [x]

/-- The TLB holds the translation of a page of a domain. -/
def inTlb (part : Nat) (p : Piece) (l : List Translation) : Bool :=
  l.any (fun x => x.part == part && x.dom == p.dom && x.page == p.page)

/-- The translation of a part comes to the TLBs that the access uses: that of the core where a slot makes it, and that of
the cluster. One that the cluster does not hold is walked for, the entries read at their homes (R164, R357). -/
def lookup (c : Ctx) (p : Piece) (s : State) : Except Stop State :=
  if p.leaf.isNone then .ok s
  else
    let x : Translation := { part := c.part, dom := p.dom, page := p.page, frame := p.pa / 65536, tables := p.tables }
    let here := match c.slot with
      | some k => inTlb c.part p (s.core (coreOf k)).tlb
      | none => false
    if here then .ok s
    else do
      let s ← if inTlb c.part p (s.cluster c.cluster).tlb then .ok s
        else do
          let s ← p.walked.foldlM (fun s l => walkerRead c p.va l s) s
          .ok (s.setCluster c.cluster { s.cluster c.cluster with tlb := insertTlb 4096 x (s.cluster c.cluster).tlb })
      .ok (match c.slot with
        | some k => s.setCore (coreOf k) { s.core (coreOf k) with tlb := insertTlb 32 x (s.core (coreOf k)).tlb }
        | none => s)

/-! ### First touch and the dirty bit (R162) -/

/-- An entry of a stage-1 table replaced atomically at its home (R162). It is a write of the entry's line, as any change of
it is (R165, R204; log entry 50). -/
def updateEntry (c : Ctx) (va a : Nat) (e : Word) (s : State) : Except Stop State := do
  let (s, _) ← lineAccess { c with agent := none } 0 (a / 128 * 128) va mATOM {} s
  .ok (s.write64 a e)

/-- A word of a domain record that the device writes for a requester, at its place among the accesses to the word (R211). -/
def writeRecordWord (me : Option (Nat × Bool)) (p : Nat) (d : BitVec 12) (off : Nat) (x : Word) (s : State) :
    Except Stop State :=
  match stage2 s p (s.domIpa p d off) .store with
  | .error _ => .ok s
  | .ok (pa, _) =>
    match heldBack s me pa 8 with
    | some w => .error (.wait (.word w))
    | none => .ok (performedBy me pa 8 (s.setDomWord p d off x))

/-- First touch and the dirty bit of one page's part: the quota check, then A (and D) at the entry, then qused of the
domain that owns the table (R162). -/
def touch (c : Ctx) (k : Access) (p : Piece) (s : State) : Except Stop State :=
  match p.leaf with
  | none => .ok s
  | some a =>
    let e := s.read64 a
    let marked := if k == .store then setField (setField e 7 7 1) 8 8 1 else setField e 7 7 1
    if bit e 7 then
      if k == .store && !bit e 8 then updateEntry c p.va a marked s else .ok s
    else
      let size := if p.big then 2 ^ 29 else 65536
      let used := s.domWord c.part p.dom 0x38
      if used.toNat + size > (s.domWord c.part p.dom 0x30).toNat then .error (.fault 0x07 p.va)
      else do
        let s ← updateEntry c p.va a marked s
        writeRecordWord (c.me s) c.part p.dom 0x38 (used + BitVec.ofNat 64 size) s

/-- First touch of every part, in ascending address. -/
def touchAll (c : Ctx) (k : Access) : List Piece → State → Except Stop State
  | [], s => .ok s
  | p :: r, s =>
    match touch c k p s with
    | .ok s' => touchAll c k r s'
    | .error e => .error e

/-! ### Stale stash entries (R180) -/

/-- Lines of ranges that an agent holds are written back and dropped (R179). -/
def dropLines (a : Nat) (ranges : List (Nat × Nat)) (s : State) : State :=
  (heldLines s a (fun _ _ => true) ranges).foldl (fun s l => exchange l (Plane.replace a l) s) s

/-- A stale entry of the cluster's stash takes its new translation and is charged as STMAP charges; the lines of pages that
map elsewhere now are dropped. -/
def refreshEntry (c : Ctx) (i : Nat) (s : State) : Except Stop State :=
  let e := (s.cluster c.cluster).stash.get {} i
  if e.stale then do
    let ps ← e.translate s c
    ordCheck s ps
    let s ← touchAll c .load ps s
    let gone := e.pages.filter (fun q => ps.all (fun p => p.va != q.va || p.pa != q.pa))
    let s := dropLines (2048 + c.cluster) (gone.map (fun q => (q.pa, q.len))) s
    .ok (s.setCluster c.cluster { s.cluster c.cluster with
      stash := (s.cluster c.cluster).stash.set i { e with stale := false, pages := ps.map stashPage } })
  else .ok s

/-! ### Accesses -/

/-- The parts of an access that has passed its checks are translated in earnest and charged. -/
def charge (c : Ctx) (k : Access) (ps : List Piece) (s : State) : Except Stop State := do
  let s ← ps.foldlM (fun s p => lookup c p s) s
  let s ← ps.foldlM (fun s p => if p.stashed then refreshEntry c p.entry s else .ok s) s
  touchAll c k ps s

/-- An access checked in the order of R55 (translation and permission, ORDCONF, quota) and charged: the state
with the touched entries, and the parts. A fetch is checked as any access, ORDCONF among the checks (log entry 46). -/
def access (s : State) (c : Ctx) (va n : Nat) (k : Access) : Except Stop (State × List Piece) := do
  let ps ← pieces s c va n k
  ordCheck s ps
  let s' ← charge c k ps s
  .ok (s', ps)

/-- The stop of an element of a gather names the address of the element (R175). -/
def Stop.ofElement (va : Nat) : Stop → Stop
  | .trap t => .trap { t with eaddr := BitVec.ofNat 64 va }
  | .demand x dom kind _ => .demand x dom kind va
  | e => e

/-- Accesses of one instruction, in order: the first that fails ends them, at its own address (R175). -/
def accesses (c : Ctx) (k : Access) : List (Nat × Nat) → State → Except Stop (State × List Piece)
  | [], s => .ok (s, [])
  | r :: l, s => do
    let (s, ps) ← match access s c r.1 r.2 k with | .ok x => .ok x | .error e => .error (e.ofElement r.1)
    let (s, qs) ← accesses c k l s
    .ok (s, ps ++ qs)

/-- One access to several ranges, ascending: each check of R55 is made of all of them before the next (R174). -/
def splitAccess (c : Ctx) (k : Access) (l : List (Nat × Nat)) (s : State) : Except Stop (State × List Piece) := do
  let ps ← l.mapM (fun r => pieces s c r.1 r.2 k)
  ordCheck s ps.flatten
  let s' ← charge c k ps.flatten s
  .ok (s', ps.flatten)

end Sys2Proof.Machine
end

