-- ==== Sys2Proof/Machine/Pages.lean ====
section
/-! DEFINITION. Page requests, their ring, and the notices on it (R163, R319, R427, R428). -/
namespace Sys2Proof.Machine

/-- The reply word of a posted request is full (R163). -/
def PageReq.answered (s : State) (r : PageReq) : Bool := r.posted && !s.empty (r.record + 0x10)

/-- Open records of a partition: posted, with the reply word not yet full (R427). -/
def openRecords (s : State) (p : Nat) : Nat :=
  ((s.part p).requests.filter (fun r => r.posted && s.empty (r.record + 0x10))).length

/-- An entry of the device is available to partition p: its guarantee of 16, then the shared pool (R427). -/
def entryFree (s : State) (p : Nat) : Bool :=
  let n := openRecords s p
  let pool := ((List.range 32).map (fun q => openRecords s q - 16)).sum
  decide (n < 16) || (decide (n - 16 < 1024) && decide (pool < 3584))

/-- Whether the ring of p has room, and the physical address of its next record (R427): none where stage 2 refuses
the ring, and while a reservation of one of the record's words is granted (R211). -/
def ringNext (s : State) (p : Nat) : Option Nat :=
  let ring := (s.prec p 0x20).toNat
  match ipaRead s p ring, ipaRead s p (ring + 8) with
  | .ok head, .ok tail =>
    if (tail - head).toNat < 2048 then
      match stage2 s p (ring + 0x40 + 32 * (tail.toNat % 2048)) .store with
      | .ok (pa, _) => if (heldBack s none pa 32).isSome then none else some pa
      | .error _ => none
    else none
  | _, _ => none

/-- The tail of the ring advances by one record (R427). -/
def ringAdvance (s : State) (p : Nat) : State :=
  let ring := (s.prec p 0x20).toNat
  match ipaRead s p (ring + 8) with
  | .ok tail =>
    match ipaWrite s p (ring + 8) (tail + 1) with
    | .ok s => s
    | .error _ => s
  | .error _ => s

/-- A request posted at the physical address pa: the record of R163 with its reply word empty. -/
def writeRecord (s : State) (p : Nat) (r : PageReq) (pa : Nat) : State :=
  let s := s.homeWrite pa (BitVec.ofNat 64 (r.va / 65536 * 65536 + r.kind))
  let s := s.homeWrite (pa + 8) (BitVec.ofNat 64 (r.dom.toNat + 65536 * (r.slots.headD 0)))
  let s := s.homeWrite (pa + 0x10) 0
  let s := setFeNow (pa + 0x10) (setField (s.fe (pa + 0x10)) 0 0 1) s
  let s := s.homeWrite (pa + 0x18) (BitVec.ofNat 64 r.slots.length)
  ringAdvance (s.setPart p { s.part p with
    requests := (s.part p).requests.map (fun q => if q.number == r.number then { r with posted := true, record := pa } else q) }) p

/-- The oldest request not yet posted is posted where an entry and ring space are free (R427). -/
def postDeferred (p : Nat) (s : State) : State :=
  match (s.part p).requests.find? (fun r => !r.posted) with
  | none => s
  | some r =>
    if entryFree s p then
      match ringNext s p with
      | some pa => writeRecord s p r pa
      | none => s
    else s

/-- A notice of R428 written with its reply word full: kind in +0x00, then +0x08 and +0x18. -/
def writeNotice (s : State) (p : Nat) (n : Nat × Word × Word) (pa : Nat) : State :=
  let s := s.homeWrite pa (BitVec.ofNat 64 n.1)
  let s := s.homeWrite (pa + 8) n.2.1
  let s := s.homeWrite (pa + 0x10) 0
  let s := setFeNow (pa + 0x10) (setField (s.fe (pa + 0x10)) 0 0 0) s
  ringAdvance (s.homeWrite (pa + 0x18) n.2.2) p

/-- Waiting notices go to the ring in order while it has room. -/
def postNotices (p : Nat) (s : State) : State :=
  match (s.part p).notices with
  | [] => s
  | n :: r =>
    match ringNext s p with
    | some pa => writeNotice (s.setPart p { s.part p with notices := r }) p n pa
    | none => s

/-- A notice for the supervisor of p (R428). -/
def notice (p kind : Nat) (a b : Word) (s : State) : State :=
  postNotices p (s.setPart p { s.part p with notices := (s.part p).notices ++ [(kind, a, b)] })

/-- A demand fault of a slot (or an engine, with none) joins the open request of its page and domain, or makes a
new one, which is posted when it can be (R163, R427). The answer is the request's number. -/
def joinRequest (p : Nat) (slot : Option Nat) (va : Nat) (dom : BitVec 12) (kind : Nat) (s : State) : Nat × State :=
  let page := va / 65536 * 65536
  match (s.part p).requests.find? (fun r => r.va / 65536 * 65536 == page && r.dom == dom && !r.answered s) with
  | some r =>
    let r' := { r with slots := r.slots ++ slot.toList }
    let s := s.setPart p { s.part p with
      requests := (s.part p).requests.map (fun q => if q.number == r.number then r' else q) }
    (r.number, if r.posted then s.homeWrite (r.record + 0x18) (BitVec.ofNat 64 r'.slots.length) else s)
  | none =>
    let r : PageReq := { number := s.serial, va := va, dom := dom, kind := kind, posted := false, slots := slot.toList }
    let s := { s with serial := s.serial + 1 }
    let s := s.setPart p { s.part p with requests := (s.part p).requests ++ [r] }
    (r.number, if ((s.part p).requests.filter (fun q => !q.posted)).length ≤ 1 then postDeferred p s else s)

/-- The reply to a request: none while it is open; otherwise the value of its reply word. -/
def replyOf (s : State) (p number : Nat) : Option Word :=
  match (s.part p).requests.find? (fun r => r.number == number) with
  | some r => if r.answered s then some (s.read64 (r.record + 0x10)) else none
  | none => some 0

/-- Requests on which nothing waits are forgotten, once they are answered, or while nothing of them is posted (R427). -/
def forgetRequests (p : Nat) (s : State) : State :=
  s.setPart p { s.part p with
    requests := (s.part p).requests.filter (fun q => !(q.slots.isEmpty && q.engines.isEmpty && (!q.posted || q.answered s))) }

/-- A request changed. -/
def mapRequest (p number : Nat) (f : PageReq → PageReq) (s : State) : State :=
  s.setPart p { s.part p with requests := (s.part p).requests.map (fun q => if q.number == number then f q else q) }

/-- The record of an open request says how many threads are parked on it (R163). -/
def countParked (p number : Nat) (s : State) : State :=
  match (s.part p).requests.find? (fun q => q.number == number) with
  | some q => if q.posted && !q.answered s then s.homeWrite (q.record + 0x18) (BitVec.ofNat 64 q.slots.length) else s
  | none => s

/-- A slot leaves a request, answered or withdrawn. -/
def leaveRequest (p number slot : Nat) (s : State) : State :=
  forgetRequests p (countParked p number (mapRequest p number (fun q => { q with slots := q.slots.filter (· != slot) }) s))

/-- A demand fault of an engine's command joins or makes a request (R252); `tag` is the command's own number. -/
def joinEngine (p tag va : Nat) (dom : BitVec 12) (kind : Nat) (s : State) : Nat × State :=
  let (n, s) := joinRequest p none va dom kind s
  (n, mapRequest p n (fun q => { q with engines := q.engines ++ [tag] }) s)

/-- An engine's command leaves a request. -/
def leaveEngine (p number tag : Nat) (s : State) : State :=
  forgetRequests p (mapRequest p number (fun q => { q with engines := q.engines.filter (· != tag) }) s)

end Sys2Proof.Machine
end

