-- ==== Sys2Proof/Machine/Home.lean ====
section
/-! DEFINITION. Homes of words: their wait lists (R193, R194), revocation (R210), and the withdrawal of a wait (R198). -/
namespace Sys2Proof.Machine

/-! ### Homes -/

/-- The wait list of a word's home, and how many requests it takes (R193). -/
def homeList (s : State) (p pa : Nat) : Nat × Nat :=
  if isScratch pa then
    ((pa - 0xA0000000000) / 0x400000 * 32 + (pa - 0xA0000000000) % 0x400000 / 0x20000, 16)
  else (4096 + sliceOf s p pa, 256)

/-- The retry limit and the wait limit of a partition, with their defaults (R194, R414). -/
def retryLimit (s : State) (p : Nat) : Nat := if field (s.prec p 0x30) 7 0 = 0 then 64 else field (s.prec p 0x30) 7 0
def waitLimit (s : State) (p : Nat) : Nat :=
  if field (s.prec p 0x30) 56 32 = 0 then 65536 else field (s.prec p 0x30) 56 32

/-- The backoff after the k-th refusal (R194). -/
def backoff (k : Nat) : Nat := 64 * 2 ^ min (k - 1) 5

/-! ### Revocation (R210) -/

/-- A slot's grant is revoked: the word is as before the grant, the record stays until REL (R210). A queued
request is withdrawn instead. -/
def revoke (k : Nat) (s : State) : State :=
  match (s.thread k).rsv with
  | none => s
  | some r =>
    if r.revoked then s
    else if r.granted then
      passOn r.word (s.mapThread k (fun t => { t with rsv := some { r with revoked := true } }))
    else
      { s.mapThread k (fun t => { t with rsv := none }) with
        rsvQueues := s.rsvQueues.set r.word ((s.rsvQueues.get [] r.word).filter (· != k)) }

/-! ### Withdrawal of a wait (R198) -/

/-- A wait that ends only by itself: no event is taken before (R92, R189, R226, R236). -/
def Wait.firm : Wait → Bool
  | .fill | .transfer | .icinv => true
  | .travel _ => true
  | _ => false

/-- A stream of the slot is in such a wait. -/
def Thread.firm (t : Thread) : Bool :=
  t.wait.any Wait.firm || (match t.rep with | some r => r.wait.any Wait.firm | none => false)

/-- A wait inside a hint group, after which the group goes on: no boundary (R51, R52, R70). -/
def Wait.inside : Wait → Bool
  | .hold _ | .fetch _ | .scoreboard _ _ _ => true
  | _ => false

/-- A stream stands between two hint groups, or waits inside one, which then starts over (R52). -/
def Hints.boundary (h : Hints) (w : Option Wait) : Bool := h.count == 0 || w.any (fun x => !x.inside)

/-- The slot stands at an instruction boundary in both streams (R52, R338). -/
def Thread.atBoundary (t : Thread) : Bool :=
  t.hints.boundary t.wait && (match t.rep with | none => true | some r => r.hints.boundary r.wait)

/-- A command of the Ox is the fill that a stream waits for. -/
def OxCmd.fillOf (x : OxCmd) (k : Nat) (body : Bool) : Bool :=
  match x with
  | .fill _ _ slot b .. => slot == k && b == body
  | .mma .. => false

/-- A stream leaves the deferral queues of the slice ports (R423). -/
def leaveDeferred (k : Nat) (body : Bool) (s : State) : State :=
  if s.deferred.isEmpty then s
  else { s with deferred := s.deferred.mapVals (fun _ l => l.filter (· != (k, body))) }

/-- What the home, the partition, the Ox or a slice port holds of a stream's wait is withdrawn; the instruction issues again
later (R198, R244). An accumulator transfer has been made and goes on to its end without its stream. -/
def withdrawWait (k : Nat) (body : Bool) (w : Wait) (s : State) : State :=
  let c := clusterOf k
  let ox := (s.cluster c).ox
  match w with
  | .fe _ => { s with feLists := s.feLists.mapVals (fun _ l => l.filter (fun x => !(x.slot == k && x.body == body))) }
  | .rsv _ => revoke k s
  | .page n _ => leaveRequest (s.partOf c) n k s
  | .word _ _ => leaveAllHeld (k, body) s
  | .token _ _ => leaveDeferred k body s
  | .fill =>
    (leaveDeferred k body s).setCluster c { s.cluster c with ox := { ox with queue := ox.queue.filter (fun x => !x.fillOf k body) } }
  | _ => s

/-- Both streams' waits of a slot are withdrawn, and the hint groups start over (R52, R198). -/
def withdraw (k : Nat) (s : State) : State :=
  let t := s.thread k
  let s := match t.wait with | some w => withdrawWait k false w s | none => s
  let s := match t.rep with
    | some r => (match r.wait with | some w => withdrawWait k true w s | none => s)
    | none => s
  s.mapThread k (fun t =>
    { t with wait := none, rep := t.rep.map (fun r => { r with wait := none }) })

/-- A synchronous trap of slot k: what the other stream of a repetition waits for is withdrawn first, so that its
instruction re-executes from the recorded point (R244). -/
def trapNow (k : Nat) (t : Trap) (s : State) : State :=
  match (s.thread k).rep with
  | some _ => trap k t (withdraw k s)
  | none => trap k t s

/-- FEFILL of slot k for the word at an address is taken before its next instruction (R196, R244). -/
def feFill (k : Nat) (ea : Word) (s : State) : State := trapNow k { cause := 9, eaddr := ea } s

end Sys2Proof.Machine
end

