-- ==== Sys2Proof/Machine/Issue.lean ====
section
/-! DEFINITION. The issue of one instruction word: hint groups (R46-R52), the order of traps (R55), the scoreboard
(R43-R45), repetitions (R241-R243) and window mode (R59, R104-R106). Every meaning goes through `issue`. -/
namespace Sys2Proof.Machine

/-- What every meaning answers. -/
abbrev Out := Host.Outcome State Fault Refusal

/-- The hint fields an instruction accepts (R47, R49). -/
structure Accept where
  himm : Bool := false
  rm : Bool := false
  sat : Bool := false
  tv : Bool := false
  acq : Bool := false
  rel : Bool := false
  scope : Bool := false
  cp : Bool := false
  wait : Bool := false
  likely : Bool := false
  deriving DecidableEq, Repr

/-- Some HMOD field is accepted. -/
def Accept.hmod (a : Accept) : Bool :=
  a.rm || a.sat || a.tv || a.acq || a.rel || a.scope || a.cp || a.wait || a.likely

/-- What an instruction is to the issue stage: its word, whether an operand limit or a level requirement is broken,
the hints it accepts, whether it may stand in a body or run ahead (R241, R242), the registers it reads and writes,
whether it waits for the whole scoreboard (R292, R318), whether it is long-latency (R43), whether it sets VX (R96). -/
structure Use where
  word : Nat
  ill : Bool := false
  priv : Bool := false
  accept : Accept := {}
  body : Bool := false
  ahead : Bool := false
  gr : List Reg := []
  gw : List Reg := []
  vr : List Reg := []
  vw : List Reg := []
  mr : List (BitVec 2) := []
  mw : List (BitVec 2) := []
  /-- The tile that it accesses, but for an MMA (R233). -/
  tiles : List Nat := []
  drain : Bool := false
  long : Bool := false
  vx : Bool := false
  deriving DecidableEq, Repr

/-- ILL of an instruction word: eaddr is the word (R55, R334). -/
def illegal (word : Nat) : Stop := .trap { cause := 1, eaddr := BitVec.ofNat 64 word }

/-! ### Hint groups -/

/-- The payload of the group's HMOD; 0, every field absent, without one (R48). -/
def Hints.hmod (h : Hints) : BitVec 24 := h.hmods.headD 0

/-- No reserved value in an HMOD payload (R48, R50). -/
def hmodLegal (p : BitVec 24) : Bool :=
  (bit p 23 || field p 22 21 == 0) && field p 18 17 != 3 && (bit p 16 || field p 15 13 == 0) &&
    field p 15 13 < 6 && (bit p 12 || field p 11 10 == 0) && field p 11 10 != 3 && field p 8 7 != 3 &&
    field p 6 0 == 0

/-- No reserved value in an HSCHED payload (R51). -/
def hschedLegal (p : BitVec 24) : Bool :=
  match field p 23 21 with
  | 0 => field p 20 0 == 0
  | 1 => field p 5 0 != 0 && field p 20 6 == 0
  | 2 => field p 7 0 != 0 && field p 20 8 == 0
  | _ => false

/-- Every HMOD field that is present is accepted (R49). -/
def Accept.takes (a : Accept) (p : BitVec 24) : Bool :=
  (a.rm || !bit p 23) && (a.sat || !bit p 20) && (a.tv || !bit p 19) &&
    (a.acq || field p 18 17 != 1) && (a.rel || field p 18 17 != 2) &&
    (a.scope || field p 18 17 != 0 || !bit p 16) && (a.cp || !bit p 12) && (a.wait || !bit p 9) &&
    (a.likely || field p 8 7 == 0)

/-- The group is one that the governed instruction accepts (R46, R47, R49, R51). -/
def Hints.legal (h : Hints) (a : Accept) : Bool :=
  decide (h.himms.length ≤ 2) && decide (h.hmods.length ≤ 1) && decide (h.hscheds.length ≤ 1) &&
    (h.himms.isEmpty || a.himm) && (h.himms.length != 2 || field (h.himms.headD 0) 23 22 == 0) &&
    (h.hmods.isEmpty || a.hmod) && h.hmods.all (fun p => hmodLegal p && a.takes p) && h.hscheds.all hschedLegal

/-- The immediate that the group widens (R47). -/
def Hints.imm (h : Hints) (i : BitVec 18) : Word :=
  match h.himms with
  | [] => i.signExtend 64
  | [p] => (p ++ i).signExtend 64
  | p :: q :: _ => p.extractLsb' 0 22 ++ q ++ i

/-- The group of the instruction being issued. -/
def State.grp (s : State) : Hints := s.thr.grp
/-- Its HMOD payload. -/
def State.hmod (s : State) : BitVec 24 := s.grp.hmod
/-- HMOD.SAT (R48). -/
def State.satHint (s : State) : Bool := bit s.hmod 20
/-- HMOD.TV. -/
def State.travelHint (s : State) : Bool := bit s.hmod 19
/-- HMOD.WAIT. -/
def State.waitHint (s : State) : Bool := bit s.hmod 9
/-- HMOD.RM, or RNE (R48, R60). -/
def State.rounding (s : State) : Nat := if bit s.hmod 23 then field s.hmod 22 21 else 0

/-! ### The body of a repetition (R240-R242) -/

/-- A field stepped by the offset where the mask flags it (R58, R240). -/
def staggerField (w : BitVec 32) (hi lo : Nat) (flagged : Bool) (o : Nat) : BitVec 32 :=
  if flagged then setField w hi lo ((field w hi lo + o) % 16) else w

/-- Which of the fields d, a, b, c name a register in a body word (R240): a lookahead count, an offset or an
immediate is never staggered, c of a copy instruction, its lookahead, among them (log entry 51). -/
def registerFields (w : BitVec 32) : Bool × Bool × Bool × Bool :=
  let fn := field w 9 4
  match field w 31 26 with
  | 0x14 => (true, true, fn != 0x14, fn == 0x1C)
  | 0x15 => (true, true, fn != 5 && fn != 6, false)
  | 0x16 => (true, true, true, true)
  | 0x17 => (true, true, fn == 3, false)
  | 0x18 => (true, true, fn != 5, fn == 0)
  | 0x19 => (true, true, fn < 3, false)
  | 0x1A => (true, true, fn == 1 || fn == 2, false)
  | 0x1C => (true, true, fn == 7, false)
  | 0x22 => (true, true, false, false)
  | 0x23 => (true, true, false, false)
  | 0x24 => (true, true, true, false)
  | 0x26 => (field w 7 5 != 5, true, false, false)
  | 0x2A =>
    match fn with
    | 0 => (true, true, true, true)
    | 1 => (false, true, true, true)
    | 2 => (true, true, true, false)
    | 3 => (true, false, false, false)
    | 8 => (true, true, false, false)
    | _ => (true, true, true, false)
  | 0x2C => (true, true, true, false)
  | _ => (false, false, false, false)

/-- A body word with the stagger of an iteration (R58, R240). -/
def stagger (w : BitVec 32) (mask : BitVec 4) (o : Nat) : BitVec 32 :=
  let f := registerFields w
  let w := staggerField w 25 22 (f.1 && bit mask 3) o
  let w := staggerField w 21 18 (f.2.1 && bit mask 2) o
  let w := staggerField w 17 14 (f.2.2.1 && bit mask 1) o
  staggerField w 13 10 (f.2.2.2 && bit mask 0) o

/-- The operation codes of a major that may stand in a body, from the first to the last: fn, or wd in the M format (R53,
R241); none for the other majors. -/
def bodyCodes (major : Nat) : Option (Nat × Nat) :=
  match major with
  | 0x14 => some (0, 0x1C)
  | 0x15 => some (0, 0x0A)
  | 0x16 => some (0, 2)
  | 0x17 => some (0, 6)
  | 0x18 => some (0, 5)
  | 0x19 => some (0, 7)
  | 0x1A => some (0, 7)
  | 0x1C => some (0, 7)
  | 0x22 => some (0, 0)
  | 0x23 => some (0, 0)
  | 0x24 => some (2, 6)
  | 0x26 => some (0, 6)
  | 0x2A => some (0, 8)
  | 0x2C => some (0, 4)
  | _ => none

/-- The major has the M format, with its operation in wd (R40). -/
def mFormat (major : Nat) : Bool := major == 0x22 || major == 0x23 || major == 0x26

/-- A body word is allowed in a body: an instruction of R241 by its assigned code, or a HMOD or HSCHED word. What else
makes such a word illegal traps at the body instruction itself (log entry 51). -/
def bodyAllows (w : BitVec 32) : Bool :=
  let mj := field w 31 26
  (match bodyCodes mj with
    | some (lo, hi) =>
      let code := if mFormat mj then field w 7 5 else field w 9 4
      decide (lo ≤ code) && decide (code ≤ hi)
    | none => false) || (mj == 0x3F && (field w 25 24 == 1 || field w 25 24 == 2))

/-- General registers that a staggered body word reads or writes; quads of copies take four (R249). -/
def bodyGenerals (w : BitVec 32) : List Reg :=
  let d := BitVec.ofNat 4 (field w 25 22)
  let a := BitVec.ofNat 4 (field w 21 18)
  let b := BitVec.ofNat 4 (field w 17 14)
  match field w 31 26 with
  | 0x19 => match field w 9 4 with
    | 4 => [d] | 5 => [d] | 6 => [a] | 7 => [d] | _ => []
  | 0x1A => match field w 9 4 with
    | 0 => [a] | 1 => [a, b] | 2 => [d, b] | 4 => [d] | 5 => [d] | 6 => [d] | _ => []
  | 0x1C => if field w 9 4 = 7 then [b] else []
  | 0x18 => match field w 9 4 with
    | 3 => [b] | 4 => [b] | _ => []
  | 0x22 => [a]
  | 0x23 => [a]
  | 0x24 => if field w 9 4 = 6 then [a] else [a, b]
  | 0x26 => [d, a]
  | 0x2A => match field w 9 4 with
    | 0 => [d, a, b] | 1 => [a, b] | 4 => [a, b] | 5 => [a, b] | 6 => [b] | 7 => [b] | 8 => [d, a] | _ => []
  | 0x2C => [d, a, a + 1, a + 2, a + 3, b]
  | _ => []

/-- The offsets of the iterations that remain, each once (R240). -/
def Rep.offsets (r : Rep) (left : Nat) : List Nat :=
  ((List.range (min left 16)).map (fun i => (r.off + i * r.stride) % 16)).eraseDups

/-- General registers that a remaining iteration uses, the count register among them (R242). Run-ahead
instructions name general registers only. -/
def Rep.uses (r : Rep) : List Reg :=
  r.creg :: ((r.offsets r.left).map (fun o =>
    (r.words.map (fun w => bodyGenerals (stagger w r.smask o))).flatten)).flatten

/-! ### Scoreboard and windows -/

/-- An instruction touches a pending destination. A window name touches the thread's own register of that number while that
is pending from before WIN was set: R104 leaves it open (log entry 52). -/
def Use.touches (u : Use) (p : Pending) : Bool :=
  match p.dest with
  | .gen r => r != 0 && (u.gr.contains r || u.gw.contains r)
  | .vec r => u.vr.contains r || u.vw.contains r
  | .mask r => r != 0 && (u.mr.contains r || u.mw.contains r)
  | .tile x => u.tiles.contains x

/-- The window buffers that an instruction consumes and fills in window mode, by index (R104, R59). -/
def Use.consumes (u : Use) : List Nat := ((u.vr.map BitVec.toNat).filter (fun i => decide (12 ≤ i))).eraseDups
def Use.fills (u : Use) : List Nat := ((u.vw.map BitVec.toNat).filter (fun i => decide (12 ≤ i))).eraseDups

/-- B(s, x) of a core (R104). -/
def State.windowBuf (s : State) (core slot x : Nat) : Option Vec := (s.core core).windows.get none (4 * slot + x - 12)

/-- Every buffer consumed is full and every buffer filled is empty (R104). -/
def State.windowsReady (s : State) (k : Nat) (full empty : List Nat) : Bool :=
  full.all (fun x => (s.windowBuf (coreOf k) ((localSlot k + 7) % 8) x).isSome) &&
    empty.all (fun x => (s.windowBuf (coreOf k) (localSlot k) x).isNone)

/-- No general register among these is pending, so that what an instruction tests of them at issue is their value. -/
def State.known (s : State) (l : List Reg) : Bool :=
  s.thr.pending.all (fun p => match p.dest with | .gen r => !l.contains r | _ => true)

/-- Destinations that the instruction may not find pending: those it touches (R44, R243). -/
def Use.awaited (u : Use) (t : Thread) : List Dest :=
  (t.pending.filter (fun p => p.register && u.touches p)).map (·.dest)

/-- What the instruction waits for on the scoreboard (R44, R292): the destinations that it touches beyond their windows, all
of them where it drains, room for a ninth. -/
def Use.scoreboard (u : Use) (t : Thread) : Option Wait :=
  let dests := u.awaited t
  let drain := u.drain && t.pending.any Pending.register
  let room := u.long && decide (8 ≤ t.pending.length)
  if dests.isEmpty && !drain && !room then none else some (.scoreboard dests drain room)

/-- A major accesses no memory, whatever its operation. -/
def majorApart (major : Nat) : Bool := decide (major ≤ 0x11) || (decide (0x14 ≤ major) && decide (major ≤ 0x1C)) || major == 0x2B || major == 0x31

/-- An instruction that a release-side FENCE lets issue at once: it accesses no memory, or it is an ordinary load (R274). -/
def passesRelease (word : Nat) (hmod : BitVec 24) : Bool :=
  let w := BitVec.ofNat 32 word
  let fn := field w 9 4
  majorApart (field w 31 26) || (field hmod 18 17 == 0 &&
    (match field w 31 26 with
      | 0x12 => fn != 4
      | 0x1D => fn == 0
      | 0x20 => true
      | 0x22 => true
      | 0x24 => fn == 0 || fn == 2 || fn == 4 || fn == 6
      | 0x25 => fn == 0
      | 0x27 => fn != 2
      | 0x2A => fn == 2 || fn == 3 || fn == 6 || fn == 7 || fn == 8
      | 0x2D => fn == 3
      | 0x2F => fn == 7 || fn == 0xB
      | 0x32 => fn == 2
      | _ => false))

/-- The issue stage's verdict on an instruction, none where it issues (R44, R55, R59, R104-R106, R242, R274). -/
def precheck (u : Use) (s : State) : Option Stop :=
  let t := s.thr
  let ahead := t.rep.isSome && !t.inBody
  if ahead && !u.ahead then some (.wait .ahead)
  else if u.ill || !t.grp.legal u.accept || (t.inBody && !u.body) ||
      (u.long && t.winMode && !u.fills.isEmpty) then
    some (illegal u.word)
  else if u.priv then some (.trap { cause := 2, eaddr := BitVec.ofNat 64 u.word })
  else
    match t.pending.find? (fun p => p.body == t.inBody && decide (0 < p.window) && u.touches p) with
    | some p => some (.trap { cause := 4, eaddr := p.at_ })
    | none =>
      if ahead && (match t.rep with
          | some r => (u.gr ++ u.gw).any (fun x => x != 0 && r.uses.contains x)
          | none => false) then some (.wait .ahead)
      else
        match u.scoreboard t with
        | some w => some (.wait w)
        | none =>
          if t.winMode && !s.windowsReady s.cur u.consumes u.fills then
            some (.wait (.windows u.consumes u.fills))
          else if fencedBy s s.cur && !passesRelease u.word t.grp.hmod then some (.wait .posted)
          else none

/-- An instruction that names a vector or mask register sets VX as it issues (R96); one that leaves for another core issues
there. -/
def setVx (u : Use) (s : State) : State :=
  if u.vx then s.mapThr (fun t => match t.wait with | some (.travel _) => t | _ => t.withVx true) else s

/-- The window buffers that an issued instruction consumed are empty (R104). -/
def consume (u : Use) (before after : State) : State :=
  if before.thr.winMode then
    let n := coreOf before.cur
    let sl := (localSlot before.cur + 7) % 8
    u.consumes.foldl (fun s x =>
      s.setCore n { s.core n with windows := (s.core n).windows.set (4 * sl + x - 12) none }) after
  else after

/-- The stream that issues leaves the rotation on a wait; the other stream has the next turn (R70, R243). -/
def Thread.park (t : Thread) (w : Wait) : Thread :=
  match t.rep with
  | some r =>
    if r.issuing then { t with rep := some { r with wait := some w, issuing := false, bodyNext := false } }
    else { t with wait := some w, rep := some { r with bodyNext := true } }
  | none => { t with wait := some w }

/-- A stream of the slot waits after its instruction has completed. -/
def Thread.await (t : Thread) (body : Bool) (w : Wait) : Thread :=
  match t.rep with
  | some r => if body then { t with rep := some { r with wait := some w } } else { t with wait := some w }
  | none => { t with wait := some w }

/-- An access met an impossible row: the engine that met it, the home or an agent, stops handling the line, and PROTOCOL goes
to firmware once (R371). -/
def stopLine (line : Nat) (stop : Option LineStop) (s : State) : State :=
  match stop with
  | none => s
  | some x =>
    let told := fun (s : State) => tellFirmware { cause := 0x17, detail := line, stop := stop } s
    if x.engine = atHome then
      let d := s.coh.dir.get { prot := x.entry / 2 ^ 89 % 8, part := x.part, slice := x.slice, page := x.page } line
      if d.stopped.isSome then s
      else told { s with coh := { s.coh with dir := s.coh.dir.set line { d with stopped := stop } } }
    else
      let a := s.coh.agentLine x.engine line
      if a.stopped.isSome then s else told { s with coh := s.coh.setAgentLine x.engine line { a with stopped := stop } }

/-- The order of arrival of a waiter on a buffer, given out once (R261). -/
def takeArrival (o : Nat) (s : State) : State :=
  let c := clusterOf s.cur
  if o = (s.cluster c).arrivals then s.setCluster c { s.cluster c with arrivals := o + 1 } else s

/-- The wait of a stream. -/
def Thread.waitOf (t : Thread) (body : Bool) : Option Wait :=
  if body then (match t.rep with | some r => r.wait | none => none) else t.wait

/-- The refusals that the issuing stream has met (R194). -/
def Thread.refusalsNow (t : Thread) : Nat :=
  match t.rep with
  | some r => if r.issuing then r.refusals else t.refusals
  | none => t.refusals

/-- The cycles that the issuing stream's instruction has waited (R194). -/
def Thread.waitedNow (t : Thread) : Nat :=
  match t.rep with
  | some r => if r.issuing then r.waited else t.waited
  | none => t.waited

def Thread.withRefusals (t : Thread) (n : Nat) : Thread :=
  match t.rep with
  | some r => if r.issuing then { t with rep := some { r with refusals := n } } else { t with refusals := n }
  | none => { t with refusals := n }

/-- A slice port refuses a request: its backoff grows with the refusals in a row (R194, R423, R446). -/
def portWait (s : State) (va : Option Word) : Wait :=
  let n := match s.thr.waitOf s.thr.inBody with
    | some (.port n _ _) => n + 1
    | _ => 1
  .port n (backoff n) va

/-- A wait as it is entered: a token is waited for in the deferral queue, or its slice port refuses the request. -/
def enterWait (w : Wait) (s : State) : Wait × State :=
  match w with
  | .token i va =>
    (match deferToken i s.cur s.thr.inBody s with
      | some s' => (w, s')
      | none => (portWait s va, s))
  | .port _ _ va => (portWait s va, s)
  | _ => (w, s)

/-- What a wait leaves behind beside the parked stream: a stopped line (R371), the count of refusals (R194), the
place among the accesses that wait behind a grant (R211), the place among the waiters of a buffer (R261). -/
def waitMarks (w : Wait) (s : State) : State :=
  match w with
  | .line l x _ => stopLine l x s
  | .refused n _ _ => s.mapThr (fun t => t.withRefusals n)
  | .cbacq _ o _ => takeArrival o s
  | .cbres _ o _ => takeArrival o s
  | .oxRoom o => if o = s.serial then s.next else s
  | .word x _ => takePlace (s.cur, s.thr.inBody) x s
  | _ => s

/-- The wait is for a word behind the grant of a reservation. -/
def Wait.isWord : Wait → Bool
  | .word _ _ => true
  | _ => false

/-- An instruction of the current slot ends without its effect. A stream that ends otherwise than waiting behind a grant
keeps no place there (R211). -/
def stopAt (e : Stop) (s : State) : State :=
  let me := (s.cur, s.thr.inBody)
  match e with
  | .trap t => trapNow s.cur t (leaveAllHeld me s)
  | .wait w =>
    let (w, s) := enterWait w (if w.isWord then s else leaveAllHeld me s)
    (waitMarks w s).mapThr (fun t => t.park w)
  | .demand va dom kind eaddr =>
    let s := leaveAllHeld me s
    let (n, s) := joinRequest (s.partOf (clusterOf s.cur)) (some s.cur) va dom kind s
    s.mapThr (fun t => t.park (.page n eaddr))

/-- The issue of one instruction: the issue stage's checks, then the body of the meaning, which retires the instruction
itself; an error of the body leaves everything as it was. -/
def issue (u : Use) (body : State → Except Stop State) (s : State) : Out :=
  match precheck u s with
  | some e => .next (stopAt e s)
  | none =>
    match body s with
    | .ok s2 => .next (consume u s (setVx u s2))
    | .error e => .next (stopAt e s)

/-! ### Requesters beyond the slots (R211, R423) -/

/-- The Mule of a cluster, the Steppe engine for a partition, the completions of a partition's launches, a function of the host,
and a transaction of a control core, as requesters that wait at homes and slice ports. -/
def muleNumber (c : Nat) : Nat := 0x20000 + c
def steppeNumber (p : Nat) : Nat := 0x21000 + p
def dispatchNumber (p : Nat) : Nat := 0x21800 + p
def hostNumber (fn : Nat) : Nat := 0x22000 + fn
def coreNumber (core txn : Nat) : Nat := 0x23000 + 64 * core + txn

/-- What a wait leaves for a requester beyond the slots: its place behind a grant, or in the deferral queue of a slice port
where that has room, or a line stopped (R211, R371, R423). It sends its request again. -/
def engineWaits (r : Nat) (w : Option Wait) (s : State) : State :=
  match w with
  | some (.word x _) => takePlace (r, false) x s
  | some (.token i _) => (deferToken i r false s).getD s
  | some (.line l x _) => stopLine l x s
  | _ => s

/-- A requester beyond the slots has given up what it waited for. -/
def engineLeaves (r : Nat) (s : State) : State := leaveDeferred r false (leaveAllHeld (r, false) s)

/-! ### Exhaustion -/

/-- The waits of a request that can be exhausted carry its address (R194, R423, R446). -/
def Stop.counted (va : Word) : Stop → Stop
  | .wait (.word w _) => .wait (.word w (some va))
  | .wait (.port n b _) => .wait (.port n b (some va))
  | .wait (.token i _) => .wait (.token i (some va))
  | .wait (.line l x _) => .wait (.line l x (some va))
  | .wait (.way l _) => .wait (.way l (some va))
  | e => e

/-- A request that can be exhausted. -/
def exhaustible {α : Type} (va : Word) (x : Except Stop α) : Except Stop α := x.mapError (Stop.counted va)

/-! ### Registers in an instruction -/

/-- g[r] of the current thread. -/
def State.rg (s : State) (r : Reg) : Word := s.thr.rg r
/-- g[r] of the current thread written. -/
def State.wg (s : State) (r : Reg) (x : Word) : State := s.mapThr (fun t => t.wg r x)

/-- v[r] as the instruction reads it: a window register reads its neighbour's buffer (R104). -/
def State.rv (s : State) (r : Reg) : Vec :=
  if s.thr.winMode && decide (12 ≤ r.toNat) then
    (s.windowBuf (coreOf s.cur) ((localSlot s.cur + 7) % 8) r.toNat).getD 0
  else s.thr.rv r

/-- v[r] as the instruction writes it: a window register fills its own buffer (R104). -/
def State.wv (s : State) (r : Reg) (x : Vec) : State :=
  if s.thr.winMode && decide (12 ≤ r.toNat) then
    let n := coreOf s.cur
    s.setCore n { s.core n with
      windows := (s.core n).windows.set (4 * localSlot s.cur + r.toNat - 12) (some x) }
  else s.mapThr (fun t => t.wv r x)

/-- The destination's old value for the merge of inactive elements; a window destination merges with zero (R95,
R105). -/
def State.oldv (s : State) (r : Reg) : Vec :=
  if s.thr.winMode && decide (12 ≤ r.toNat) then 0 else s.thr.rv r

/-- m[r] of the current thread; m0 reads all ones. -/
def State.rm (s : State) (r : BitVec 2) : Mask := s.thr.rm r
def State.wm (s : State) (r : BitVec 2) (x : Mask) : State := s.mapThr (fun t => t.wm r x)

/-- The current instruction is long-latency: it completes with its destination pending under a window of n (R44).
The entry joins before the retirement, which slides every window of the stream by one. -/
def retireLong (dest : Dest) (value : Vec) (n : Nat) (divide : Bool) (s : State) : State :=
  retire (s.mapThr (fun t =>
    { t with pending := t.pending ++
        [{ dest := dest, value := value, window := n + 1, at_ := t.ipc, divide := divide, body := t.inBody }] }))

end Sys2Proof.Machine
end

