-- ==== Sys2Proof/Machine/Fetch.lean ====
section
/-! DEFINITION. Instruction fetch (R88, R89, R337) and the delivery of asynchronous events (R333, R338, R343). -/
namespace Sys2Proof.Machine

/-! ### Fetch -/

/-- The 16 words of a 64-byte block as the scratchpad or the LLC home of its line holds them: a fetch miss takes no part in
coherence, so it reads older bytes where the newest stand in a data cache (R88, R89). -/
def blockWords (s : State) (block : Nat) : List (BitVec 32) :=
  let key := s.key (64 * block)
  match s.coh.llc (key / 128 * 128) with
  | some d => (List.range 16).map (fun i => BitVec.ofNat 32 (ofBytes ((d.bytes.drop (key % 128 + 4 * i)).take 4)))
  | none => (List.range 16).map (fun i => BitVec.ofNat 32 (s.readNat (64 * block + 4 * i) 4))

/-- A block's place in the set-associative cache of a core: 128 sets of 4 ways (R88, R89). The way that a full set
replaces is free (log entry 10). -/
def CoreState.insertBlock (c : CoreState) (core : Nat) (b : IBlock) : CoreState :=
  let set := c.icache.filter (fun x => x.block % 128 == b.block % 128)
  if set.length < 4 then { c with icache := c.icache ++ [b] }
  else
    match set[(Config.icacheVictim core (b.block % 128) c.victims).val]? with
    | some x => { c with icache := c.icache.erase x ++ [b], victims := c.victims + 1 }
    | none => c

/-- The block in the cache of a core, for the partition of its cluster. -/
def cachedBlock (s : State) (n block : Nat) : Option (List (BitVec 32)) :=
  ((s.core n).icache.find? (fun b => b.block == block && b.part == s.partOf (n / 16))).map (·.words)

/-- A copy of a block of memory as it stands joins the cache of core n (R89). -/
def cacheBlock (n block : Nat) (s : State) : List (BitVec 32) × State :=
  match cachedBlock s n block with
  | some ws => (ws, s)
  | none =>
    let ws := blockWords s block
    (ws, s.setCore n ((s.core n).insertBlock n { block := block, part := s.partOf (n / 16), words := ws }))

/-- The words of a block for slot k, and its fetch buffer filled: from the buffer, the cache, or, where a miss may be served,
memory (R88). -/
def fetchBlock (k block : Nat) (miss : Bool) (s : State) : Option (List (BitVec 32) × State) :=
  let fill := fun (r : List (BitVec 32) × State) =>
    some (r.1, r.2.mapThread k (fun t => { t with fetchBuf := some (block, r.1) }))
  match (s.thread k).fetchBuf with
  | some (b, ws) =>
    if b == block then some (ws, s)
    else if miss || (cachedBlock s (coreOf k) block).isSome then fill (cacheBlock (coreOf k) block s) else none
  | none => if miss || (cachedBlock s (coreOf k) block).isSome then fill (cacheBlock (coreOf k) block s) else none

/-- The word at a virtual address as slot k fetches it: translated in the current domain with X, charged as a first
touch, then from its block (R88, R162). A slot whose block misses waits for it (R70, R86), but where `miss` serves it. R38 and
R88 do not speak of an address that translates to one that is no multiple of 4, as an argument window with such a base gives:
that word is read from memory, past the buffer and the cache (log entry 46). -/
def fetchAt (miss : Bool) (k : Nat) (pc : Word) (s : State) : Except Stop (BitVec 32 × State) := do
  if pc.toNat % 4 ≠ 0 then .error (.trap { cause := 3, eaddr := pc })
  else
    let (s, ps) ← access s (ctxOf s k) pc.toNat 4 .fetch
    match ps with
    | p :: r =>
      if p.pa % 4 ≠ 0 || !r.isEmpty then .ok (BitVec.ofNat 32 (ofBytes (s.readPieces ps)), s)
      else
        match fetchBlock k (p.pa / 64) miss s with
        | some (ws, s) => .ok (ws.getD (p.pa % 64 / 4) 0, s)
        | none => .error (.wait (.fetch pc))
    | [] => .error (.fault causeXlate pc.toNat)

/-- A fetch of the current slot failed: at a vector's first instruction the fault goes to the next higher level,
or stops the slot at F (R337); otherwise it is a trap of the hint group (R52) or parks the thread. -/
def fetchFault (e : Stop) (s : State) : State :=
  let t := s.thr
  match e with
  | .trap x =>
    if t.atVector then
      if t.level ≥ 2 then stopSlot s.cur s
      else enterTrap s.cur t.pc x.cause x.eaddr (max (t.level + 1) (if x.firmware then 2 else 0)) s
    else trapNow s.cur x s
  | _ => stopAt e s

/-- A fetch miss of a slot ends: its block is in the cache and in the fetch buffer (R88), and the slot joins the rotation. -/
def execFetchMissFill (slot : Nat) (s : State) : Out :=
  match (s.thread slot).wait with
  | some (.fetch va) =>
    let s' := match fetchAt true slot va s with
      | .ok (_, s') => s'
      | .error _ => s
    .next (s'.mapThread slot (fun t => { t with wait := none }))
  | _ => .next s

/-- The fetch of a block that LIKELY starts (R86): it joins the core's cache where its page may be fetched and is touched. -/
def prefetchBlock (k : Nat) (pc : Word) (s : State) : State :=
  match piece s (ctxOf s k) pc.toNat 4 .fetch with
  | .ok p =>
    if (match p.leaf with | some a => bit (s.read64 a) 7 | none => true) && p.pa % 4 == 0 then (cacheBlock (coreOf k) (p.pa / 64) s).2
    else s
  | .error _ => s

/-! ### Asynchronous events (R333, R338) -/

/-- The delivery level of an event of a thread (R333). -/
def deliveryLevel (t : Thread) (cause : Nat) : Nat := targetLevel (t.withLevel 0) cause false

/-- The level at which an event is taken: a FEFILL at the first boundary after its report is synchronous (R196, R333). -/
def takenAt (t : Thread) (e : Posted) : Nat :=
  if e.fresh = 0 then deliveryLevel t e.cause else max (deliveryLevel t e.cause) t.level

/-- The event may be taken now (R338), a FEFILL at the first boundary after its report whatever IE holds (R196); a halted slot
takes events of level F alone (R343). -/
def deliverable (t : Thread) (e : Posted) : Bool :=
  let l := deliveryLevel t e.cause
  let free := decide (0 < e.fresh) || decide (t.level < l) || (l == t.level && t.ie)
  if t.firm then false
  else if t.wait == some .halt then l == 2
  else free

/-- The event that is taken first: a FEFILL of an instruction that the home completed (R196), then the highest delivery
level, then the lowest code (R338). -/
def firstEvent (t : Thread) : Option Posted :=
  let l := t.events.filter (deliverable t)
  match l.find? (fun e => e.fresh == 2) with
  | some e => some e
  | none =>
    l.foldl
      (fun best e => match best with
        | none => some e
        | some b =>
          if takenAt t b < takenAt t e || (takenAt t b == takenAt t e && decide (e.cause < b.cause)) then some e
          else some b) none

/-- An event of slot k is taken: the slot's wait is withdrawn (R198), and trap entry follows with epc at the
instruction before which the event is taken (R338). -/
def takeEvent (k : Nat) (e : Posted) (s : State) : State :=
  let s := withdraw k s
  let l := takenAt (s.thread k) e
  enterTrap k (s.thread k).resumePc e.cause e.eaddr l
    (s.mapThread k (fun t => { t with events := t.events.erase e }))

end Sys2Proof.Machine
end

