-- ==== Sys2Proof/Machine/Loader.lean ====
section
/-! DEFINITION. A program placed from outside the device, as firmware and the supervisor place one (log entry 6):
partition 0 with cluster 0 and near channel 0, one domain whose pages are the first 512 MiB of that channel, and a
thread of firmware level in slot 0 at the program's first word. -/
namespace Sys2Proof.Machine

/-- The address at which the program stands, virtual and physical. -/
def loadAddress : Nat := 0x50000

/-- The words of the load: the partition record (R414), the record of domain 0 (R282), the tables of stage 2 and of
stage 1 (R157-R160), by physical address. -/
def loadWords : List (Nat × Nat) :=
  [(0x0, 0x10040), (0x8, 0x10000), (0x10, 0x1000), (0x80, 1), (0x90, 1),
    (0x1000, 1), (0x1008, 0x30000), (0x1030, 0x10000000000),
    (0x10000, 0x20001), (0x20000, 0x20F), (0x30000, 0x40001), (0x40000, 0x39F)]

/-- The bytes of a number stored from an address on. -/
def placeBytes (m : List Host.Cell) (a n x : Nat) : List Host.Cell :=
  Memory.setAll m ((List.range n).map (fun i => (a + i, BitVec.ofNat 8 (x / 2 ^ (8 * i)))))

/-- The thread that runs the program: at level F (R14), in domain 0 at depth 0. -/
def loadThread : Thread := { occupied := true, pc := BitVec.ofNat 64 loadAddress, tstat := 0x02 }

/-- The device with the load in place, its next turn an issue of core 0. -/
def State.loaded (s : State) : State :=
  { s with
    agenda := [.core 0]
    stopped := false
    mem := loadWords.foldl (fun m e => placeBytes m e.1 8 e.2) s.mem
    threads := (s.threads.dropRange 0 8).set 0 loadThread
    cores := s.cores.set 0 { s.core 0 with icache := [] }
    clusters := s.clusters.set 0 { s.cluster 0 with part := some 0 }
    parts := s.parts.set 0 { s.part 0 with record := some 0, halted := false } }

/-- The device with an instruction, and zeros after it up to 32 bits, where the load's thread fetches: its block is in the
slot's fetch buffer, as after a fetch miss that has ended (R88). -/
def State.withProgram (s : State) (nbits w : Nat) : State :=
  let s := { s.loaded with mem := placeBytes s.loaded.mem loadAddress 4 (w % 2 ^ nbits) }
  s.setThread 0 { loadThread with fetchBuf := some (loadAddress / 64, blockWords s (loadAddress / 64)) }

end Sys2Proof.Machine
end

