-- ==== Sys2Proof/WellFormed.lean ====
section
/-! DEFINITION. Which terms of `Instr` are well-formed: no reserved format or scope code (R50, R54), an HSCHED
payload that is not another form's (R51), and, for a device event, a unit that the device has (R12-R17). -/
namespace Sys2Proof

/-- Format code 3 is reserved in majors 0x15 to 0x17 and in VFRADD (R54, R119). -/
def formatOk (f : BitVec 2) : Bool := f != 3

/-- Scope codes 6 and 7 are reserved (R50). -/
def scopeOk (s : BitVec 3) : Bool := s.toNat < 6

/-- The payload of `hsched` as its own constructor holds it: payload [23:21] is not that of `hsched.hold` or
`hsched.ifetch`, which have constructors of their own (R51). -/
def hschedOk (p : BitVec 24) : Bool := p.toNat / 2 ^ 21 != 1 && p.toNat / 2 ^ 21 != 2

/-- A term of the syntax that stands for a word of the map or for an event of this device. -/
def Instr.wellFormed : Instr → Bool
  | .add _ _ _ _ => true
  | .sub _ _ _ _ => true
  | .and _ _ _ _ => true
  | .or _ _ _ _ => true
  | .xor _ _ _ _ => true
  | .andn _ _ _ _ => true
  | .orn _ _ _ _ => true
  | .shl _ _ _ _ => true
  | .shr _ _ _ _ => true
  | .sra _ _ _ _ => true
  | .rol _ _ _ _ => true
  | .ror _ _ _ _ => true
  | .min _ _ _ _ => true
  | .max _ _ _ _ => true
  | .minn _ _ _ _ => true
  | .maxn _ _ _ _ => true
  | .slt _ _ _ _ => true
  | .sltn _ _ _ _ => true
  | .seq _ _ _ _ => true
  | .sne _ _ _ _ => true
  | .mul _ _ _ _ => true
  | .mulh _ _ _ _ => true
  | .mulhn _ _ _ _ => true
  | .clz _ _ _ => true
  | .ctz _ _ _ => true
  | .popc _ _ _ => true
  | .brev _ _ _ => true
  | .bswap _ _ _ => true
  | .sel _ _ _ _ _ => true
  | .extr _ _ _ _ _ => true
  | .extrs _ _ _ _ _ => true
  | .insb _ _ _ _ _ => true
  | .div _ _ _ _ _ => true
  | .divn _ _ _ _ _ => true
  | .rem _ _ _ _ _ => true
  | .remn _ _ _ _ _ => true
  | .divideComplete core => decide (core < 2048)
  | .addi _ _ _ => true
  | .andi _ _ _ => true
  | .ori _ _ _ => true
  | .xori _ _ _ => true
  | .shli _ _ _ => true
  | .shri _ _ _ => true
  | .srai _ _ _ => true
  | .roli _ _ _ => true
  | .slti _ _ _ => true
  | .sltni _ _ _ => true
  | .li _ _ => true
  | .lpc _ _ => true
  | .muli _ _ _ => true
  | .beq _ _ _ => true
  | .bne _ _ _ => true
  | .blt _ _ _ => true
  | .bge _ _ _ => true
  | .bltn _ _ _ => true
  | .bgen _ _ _ => true
  | .beqz _ _ => true
  | .bnez _ _ => true
  | .bltz _ _ => true
  | .bgez _ _ => true
  | .bgtz _ _ => true
  | .blez _ _ => true
  | .j _ => true
  | .jl _ => true
  | .jr _ => true
  | .jlr _ _ => true
  | .trap _ => true
  | .eret => true
  | .sread _ _ => true
  | .swrite _ _ => true
  | .icinv _ _ s => scopeOk s
  | .icinvComplete slot => decide (slot < 16384)
  | .brk => true
  | .halt => true
  | .fence _ _ s => scopeOk s
  | .himm _ => true
  | .hmod _ => true
  | .hsched p => hschedOk p
  | .hschedHold _ => true
  | .hschedIfetch _ => true
  | .holdExpiry slot => decide (slot < 16384)
  | .vadd _ _ _ _ _ => true
  | .vsub _ _ _ _ _ => true
  | .vadds _ _ _ _ _ => true
  | .vaddsn _ _ _ _ _ => true
  | .vsubs _ _ _ _ _ => true
  | .vsubsn _ _ _ _ _ => true
  | .vmul _ _ _ _ _ => true
  | .vmulh _ _ _ _ _ => true
  | .vmulhn _ _ _ _ _ => true
  | .vmin _ _ _ _ _ => true
  | .vmax _ _ _ _ _ => true
  | .vminn _ _ _ _ _ => true
  | .vmaxn _ _ _ _ _ => true
  | .vand _ _ _ _ _ => true
  | .vor _ _ _ _ _ => true
  | .vxor _ _ _ _ _ => true
  | .vandn _ _ _ _ _ => true
  | .vshl _ _ _ _ _ => true
  | .vshr _ _ _ _ _ => true
  | .vsra _ _ _ _ _ => true
  | .vabs _ _ _ _ => true
  | .vavg _ _ _ _ _ => true
  | .vavgn _ _ _ _ _ => true
  | .vdot4 _ _ _ _ => true
  | .vdot4n _ _ _ _ => true
  | .vcmpeq _ _ _ _ _ => true
  | .vcmplt _ _ _ _ _ => true
  | .vcmpltn _ _ _ _ _ => true
  | .vsel _ _ _ _ _ _ => true
  | .vfadd _ _ _ _ f => formatOk f
  | .vfsub _ _ _ _ f => formatOk f
  | .vfmul _ _ _ _ f => formatOk f
  | .vfmin _ _ _ _ f => formatOk f
  | .vfmax _ _ _ _ f => formatOk f
  | .vfabs _ _ _ f => formatOk f
  | .vfneg _ _ _ f => formatOk f
  | .vfcmpeq _ _ _ _ f => formatOk f
  | .vfcmplt _ _ _ _ f => formatOk f
  | .vfcmple _ _ _ _ f => formatOk f
  | .vfcmpun _ _ _ _ f => formatOk f
  | .vfma _ _ _ _ _ f => formatOk f
  | .vfms _ _ _ _ _ f => formatOk f
  | .vfnma _ _ _ _ _ f => formatOk f
  | .vrcp _ _ _ _ f => formatOk f
  | .vrsq _ _ _ _ f => formatOk f
  | .vsqrt _ _ _ _ f => formatOk f
  | .vdiv _ _ _ _ _ f => formatOk f
  | .vexp2 _ _ _ _ f => formatOk f
  | .vlog2 _ _ _ _ f => formatOk f
  | .vtanh _ _ _ _ f => formatOk f
  | .longLatencyComplete slot => decide (slot < 16384)
  | .vshuf _ _ _ _ _ _ => true
  | .vzip _ _ _ _ _ _ => true
  | .vunzip _ _ _ _ _ _ => true
  | .vrotl _ _ _ _ _ => true
  | .vbcst _ _ _ _ _ => true
  | .vcompress _ _ _ _ => true
  | .mand _ _ _ => true
  | .mor _ _ _ => true
  | .mxor _ _ _ => true
  | .mnot _ _ => true
  | .mcnt _ _ => true
  | .mff _ _ => true
  | .mfromg _ _ => true
  | .mtog _ _ => true
  | .vsplat _ _ _ _ => true
  | .vins _ _ _ _ _ => true
  | .vext _ _ _ _ => true
  | .vmov _ _ _ _ => true
  | .vradd _ _ _ _ => true
  | .vrmax _ _ _ _ => true
  | .vrmin _ _ _ _ => true
  | .vfradd _ _ _ f => formatOk f
  | .nsend _ _ => true
  | .nrecv _ _ => true
  | .nwin _ _ _ => true
  | .vcvtf _ _ _ _ _ _ => true
  | .vcvtfi _ _ _ _ _ _ => true
  | .vcvtif _ _ _ _ _ _ => true
  | .vpack8 _ _ _ _ _ _ => true
  | .vunpk8 _ _ _ _ _ _ => true
  | .vpack4 _ _ _ _ _ _ => true
  | .vunpk4 _ _ _ _ _ _ => true
  | .vscale _ _ _ _ _ => true
  | .bdld _ _ => true
  | .bdst _ _ => true
  | .ldb _ _ _ _ _ => true
  | .ldbs _ _ _ _ _ => true
  | .ldh _ _ _ _ _ => true
  | .ldhs _ _ _ _ _ => true
  | .ldw _ _ _ _ _ => true
  | .ldws _ _ _ _ _ => true
  | .ldd _ _ _ _ _ => true
  | .stb _ _ _ _ => true
  | .sth _ _ _ _ => true
  | .stw _ _ _ _ => true
  | .std _ _ _ _ => true
  | .vld _ _ _ _ _ => true
  | .vst _ _ _ _ => true
  | .migrationArrival core => decide (core < 2048)
  | .arrivalDequeue core => decide (core < 2048)
  | .ldxd _ _ _ _ => true
  | .stxd _ _ _ => true
  | .vldx _ _ _ _ => true
  | .vstx _ _ _ => true
  | .vldm _ _ _ _ _ => true
  | .vstm _ _ _ _ => true
  | .vgath _ _ _ _ _ _ => true
  | .pref _ _ _ => true
  | .tres _ _ _ => true
  | .stmap _ _ _ _ => true
  | .stunmap _ _ => true
  | .stwb _ _ => true
  | .tilereg _ _ => true
  | .pageRequestDeferredPost part => decide (part < 32)
  | .ldf _ _ _ _ => true
  | .ldfe _ _ _ _ => true
  | .stf _ _ _ => true
  | .stff _ _ _ => true
  | .feget _ _ _ _ => true
  | .feempty _ _ => true
  | .femark _ _ _ => true
  | .feRefusalRetry slot => decide (slot < 16384)
  | .feretry slot => decide (slot < 16384)
  | .mona _ => true
  | .monc => true
  | .mwait _ _ => true
  | .mwaitTimeout slot => decide (slot < 16384)
  | .rsv _ _ _ _ => true
  | .rel _ _ _ => true
  | .relc _ _ _ => true
  | .rsvt _ _ _ _ => true
  | .reservationTimeout _ => true
  | .fadd _ _ _ _ _ _ => true
  | .fand _ _ _ _ _ _ => true
  | .fOr _ _ _ _ _ _ => true
  | .fxor _ _ _ _ _ _ => true
  | .fmax _ _ _ _ _ _ => true
  | .fmin _ _ _ _ _ _ => true
  | .fmaxn _ _ _ _ _ _ => true
  | .fminn _ _ _ _ _ _ => true
  | .fswp _ _ _ _ _ _ => true
  | .fcas _ _ _ _ _ _ => true
  | .fincb _ _ _ _ _ _ => true
  | .fincw _ _ _ _ _ _ => true
  | .fdecp _ _ _ _ _ => true
  | .faddl _ _ _ _ _ _ => true
  | .gath _ _ _ _ _ => true
  | .bld _ _ _ _ => true
  | .latchFillComplete cluster => decide (cluster < 128)
  | .mma _ _ _ _ => true
  | .mmaStart cluster => decide (cluster < 128)
  | .mmaComplete cluster => decide (cluster < 128)
  | .acz _ => true
  | .acld _ _ _ => true
  | .acst _ _ _ _ => true
  | .accumTransferComplete cluster => decide (cluster < 128)
  | .acrd _ _ _ => true
  | .acwr _ _ _ => true
  | .mxstat _ _ => true
  | .rept _ _ _ _ => true
  | .leaveGrant cluster => decide (cluster < 128)
  | .cpy _ _ _ _ => true
  | .cpy2 _ _ _ _ => true
  | .cpyg _ _ _ _ => true
  | .cpys _ _ _ _ => true
  | .cpycb _ _ _ _ => true
  | .muleChunk cluster => decide (cluster < 128)
  | .muleCommandComplete cluster => decide (cluster < 128)
  | .cbinit _ _ _ => true
  | .cbacq _ _ => true
  | .cbrel _ _ => true
  | .cbstat _ _ => true
  | .cbres _ _ => true
  | .cbpub _ _ => true
  | .gcall _ _ _ => true
  | .gret => true
  | .gabt _ => true
  | .dinfo _ _ => true
  | .gpub _ _ _ => true
  | .grev _ _ _ => true
  | .hgive _ _ _ _ => true
  | .hdrop _ _ => true
  | .unwindBudgetExpiry slot => decide (slot < 16384)
  | .callergone slot => decide (slot < 16384)
  | .tspawn _ _ _ => true
  | .park _ _ => true
  | .qsend _ _ _ => true
  | .qrecv _ _ _ => true
  | .eos _ _ => true
  | .rqpush _ _ => true
  | .rqpop _ _ => true
  | .timer _ _ => true
  | .launch _ _ => true
  | .depdec _ _ => true
  | .exit => true
  | .yield => true
  | .launchDispatch cluster => decide (cluster < 128)
  | .holdLimitExpiry part => decide (part < 32)
  | .workUnitComplete part _ _ => decide (part < 32)
  | .forecastUpdate cluster _ => decide (cluster < 128)
  | .timerExpiry slot => decide (slot < 16384)
  | .sliceExpiry slot => decide (slot < 16384)
  | .ptload _ _ _ => true
  | .ptbind _ _ _ _ => true
  | .ptunbind _ _ _ => true
  | .dirq _ _ => true
  | .linv _ _ => true
  | .lwb _ _ => true
  | .gets agent _ => decide (agent < 2176)
  | .getm agent _ => decide (agent < 2176)
  | .puts agent _ => decide (agent < 2176)
  | .putm agent _ => decide (agent < 2176)
  | .uread t _ => decide (t.core < 32) && decide (t.number < 64)
  | .uwrite t w => decide (t.core < 32) && decide (t.number < 64) && decide (w.off + w.bytes.length ≤ 128)
  | .atom t o =>
    decide (t.core < 32) && decide (t.number < 64) && decide (o.op ≤ 9) && (o.size == 4 || o.size == 8) && decide (o.off % o.size = 0) && decide (o.off + o.size ≤ 128)
  | .updw agent _ => decide (agent < 2176)
  | .linvMsg agent _ => decide (agent < 2048)
  | .lwbMsg agent _ => decide (agent < 2048)
  | .ack agent _ => decide (agent < 2176)
  | .odata agent _ => decide (agent < 2176)
  | .inv agent _ => decide (agent < 2176)
  | .down agent _ => decide (agent < 2176)
  | .recall agent _ => decide (agent < 2176)
  | .upd agent _ => decide (agent < 2176)
  | .dataS agent _ => decide (agent < 2176)
  | .dataM agent _ => decide (agent < 2176)
  | .putack agent _ => decide (agent < 2176)
  | .updack agent _ => decide (agent < 2176)
  | .nackw agent _ => decide (agent < 2176)
  | .udata requester _ => decide (0x8000 ≤ requester) && decide (requester < 0x8040)
  | .wack requester _ => decide (requester < 2176) || (decide (0x8000 ≤ requester) && decide (requester < 0x8040))
  | .lbias _ _ _ => true
  | .lstat _ _ => true
  | .turnStart bundle => decide (bundle < 20)
  | .turnEnd bundle group => decide (bundle < 20) && decide (group < 16)
  | .laneGrant bundle part _ => decide (bundle < 20) && decide (part < 32)
  | .flitArrival bundle group _ => decide (bundle < 20) && decide (group < 16)
  | .creditAudit bundle => decide (bundle < 20)
  | .npost _ _ => true
  | .ncwait _ _ _ _ => true
  | .ncrd _ _ => true
  | .nreg _ _ _ _ => true
  | .packetSend part => decide (part < 32)
  | .packetArrival part pkt => decide (part < 32) && decide (pkt.mask < 256) && decide (pkt.port < 8)
  | .ackArrival part _ => decide (part < 32)
  | .retransmitTimerExpiry part _ _ => decide (part < 32)
  | .ncwaitTimeout slot => decide (slot < 16384)
  | .vacateRequest part _ => decide (part < 32)
  | .drainDeadlineExpiry cluster => decide (cluster < 128)
  | .vacateReport part => decide (part < 32)
  | .restore cluster _ => decide (cluster < 128)
  | .critDeferralExpiry cluster => decide (cluster < 128)
  | .borderControllerRun => true
  | .clusterMove cluster => decide (cluster < 128)
  | .forcedMove cluster _ => decide (cluster < 128)
  | .tokenRefill slice => decide (slice < 256)
  | .freshPageClearComplete _ => true
  | .backgroundClear _ => true
  | .scratchpadUnitClear cluster _ => decide (cluster < 128)
  | .integrityCheckComplete _ _ => true
  | .serviceVacate part _ => decide (part < 32)
  | .serviceFeLimits part _ => decide (part < 32)
  | .serviceTarget part _ => decide (part < 32)
  | .serviceBars part _ => decide (part < 32)
  | .serviceGiveBack part _ => decide (part < 32)
  | .hostqLaunch fn => decide (fn < 32)
  | .hostqDepdec fn => decide (fn < 32)
  | .hostqStff fn => decide (fn < 32)
  | .qwr fn _ => decide (fn < 32)
  | .qbase fn _ => decide (fn < 32)
  | .qsize fn _ => decide (fn < 32)
  | .queueKeying fn => decide (fn < 32)
  | .hostBar2Access fn _ size data => decide (fn < 32) && decide (size ≤ 4096) && data.all (fun l => l.length == size)
  | .hostSidebandRead fn _ => decide (fn < 32)
  | .getVersion fn => decide (fn < 32)
  | .getCapabilities fn => decide (fn < 32)
  | .negotiateAlgorithms fn => decide (fn < 32)
  | .getDigests fn => decide (fn < 32)
  | .getCertificate fn => decide (fn < 32)
  | .challenge fn _ => decide (fn < 32)
  | .getMeasurements fn _ => decide (fn < 32)
  | .keyExchange fn => decide (fn < 32)
  | .finish fn => decide (fn < 32)
  | .heartbeat fn => decide (fn < 32)
  | .keyUpdate fn => decide (fn < 32)
  | .endSession fn => decide (fn < 32)
  | .coldReset => true
  | .fundamentalReset => true
  | .functionLevelReset fn => decide (fn < 32)
  | .islandPointChange cluster _ _ => decide (cluster < 128)
  | .currentCapThrottle cluster _ => decide (cluster < 128)
  | .thermtrip => true
  | .illegalInstruction _ => false
  | .fetchMissFill slot => decide (slot < 16384)
  | .leaveHoldExpiry cluster => decide (cluster < 128)
  | .flitSend bundle => decide (bundle < 20)
  | .portStateChange port _ => decide (port < 8)
  | .lineReset _ => true
  | .channelMove channel part => decide (channel < 160) && decide (part < 32)
  | .partitionCreation part _ _ => decide (part < 32)

/-- Whether the constructor stands for a device event, which has no instruction word. -/
def Instr.isEvent : Instr → Bool
  | .add _ _ _ _ => false
  | .sub _ _ _ _ => false
  | .and _ _ _ _ => false
  | .or _ _ _ _ => false
  | .xor _ _ _ _ => false
  | .andn _ _ _ _ => false
  | .orn _ _ _ _ => false
  | .shl _ _ _ _ => false
  | .shr _ _ _ _ => false
  | .sra _ _ _ _ => false
  | .rol _ _ _ _ => false
  | .ror _ _ _ _ => false
  | .min _ _ _ _ => false
  | .max _ _ _ _ => false
  | .minn _ _ _ _ => false
  | .maxn _ _ _ _ => false
  | .slt _ _ _ _ => false
  | .sltn _ _ _ _ => false
  | .seq _ _ _ _ => false
  | .sne _ _ _ _ => false
  | .mul _ _ _ _ => false
  | .mulh _ _ _ _ => false
  | .mulhn _ _ _ _ => false
  | .clz _ _ _ => false
  | .ctz _ _ _ => false
  | .popc _ _ _ => false
  | .brev _ _ _ => false
  | .bswap _ _ _ => false
  | .sel _ _ _ _ _ => false
  | .extr _ _ _ _ _ => false
  | .extrs _ _ _ _ _ => false
  | .insb _ _ _ _ _ => false
  | .div _ _ _ _ _ => false
  | .divn _ _ _ _ _ => false
  | .rem _ _ _ _ _ => false
  | .remn _ _ _ _ _ => false
  | .divideComplete _ => true
  | .addi _ _ _ => false
  | .andi _ _ _ => false
  | .ori _ _ _ => false
  | .xori _ _ _ => false
  | .shli _ _ _ => false
  | .shri _ _ _ => false
  | .srai _ _ _ => false
  | .roli _ _ _ => false
  | .slti _ _ _ => false
  | .sltni _ _ _ => false
  | .li _ _ => false
  | .lpc _ _ => false
  | .muli _ _ _ => false
  | .beq _ _ _ => false
  | .bne _ _ _ => false
  | .blt _ _ _ => false
  | .bge _ _ _ => false
  | .bltn _ _ _ => false
  | .bgen _ _ _ => false
  | .beqz _ _ => false
  | .bnez _ _ => false
  | .bltz _ _ => false
  | .bgez _ _ => false
  | .bgtz _ _ => false
  | .blez _ _ => false
  | .j _ => false
  | .jl _ => false
  | .jr _ => false
  | .jlr _ _ => false
  | .trap _ => false
  | .eret => false
  | .sread _ _ => false
  | .swrite _ _ => false
  | .icinv _ _ _ => false
  | .icinvComplete _ => true
  | .brk => false
  | .halt => false
  | .fence _ _ _ => false
  | .himm _ => false
  | .hmod _ => false
  | .hsched _ => false
  | .hschedHold _ => false
  | .hschedIfetch _ => false
  | .holdExpiry _ => true
  | .vadd _ _ _ _ _ => false
  | .vsub _ _ _ _ _ => false
  | .vadds _ _ _ _ _ => false
  | .vaddsn _ _ _ _ _ => false
  | .vsubs _ _ _ _ _ => false
  | .vsubsn _ _ _ _ _ => false
  | .vmul _ _ _ _ _ => false
  | .vmulh _ _ _ _ _ => false
  | .vmulhn _ _ _ _ _ => false
  | .vmin _ _ _ _ _ => false
  | .vmax _ _ _ _ _ => false
  | .vminn _ _ _ _ _ => false
  | .vmaxn _ _ _ _ _ => false
  | .vand _ _ _ _ _ => false
  | .vor _ _ _ _ _ => false
  | .vxor _ _ _ _ _ => false
  | .vandn _ _ _ _ _ => false
  | .vshl _ _ _ _ _ => false
  | .vshr _ _ _ _ _ => false
  | .vsra _ _ _ _ _ => false
  | .vabs _ _ _ _ => false
  | .vavg _ _ _ _ _ => false
  | .vavgn _ _ _ _ _ => false
  | .vdot4 _ _ _ _ => false
  | .vdot4n _ _ _ _ => false
  | .vcmpeq _ _ _ _ _ => false
  | .vcmplt _ _ _ _ _ => false
  | .vcmpltn _ _ _ _ _ => false
  | .vsel _ _ _ _ _ _ => false
  | .vfadd _ _ _ _ _ => false
  | .vfsub _ _ _ _ _ => false
  | .vfmul _ _ _ _ _ => false
  | .vfmin _ _ _ _ _ => false
  | .vfmax _ _ _ _ _ => false
  | .vfabs _ _ _ _ => false
  | .vfneg _ _ _ _ => false
  | .vfcmpeq _ _ _ _ _ => false
  | .vfcmplt _ _ _ _ _ => false
  | .vfcmple _ _ _ _ _ => false
  | .vfcmpun _ _ _ _ _ => false
  | .vfma _ _ _ _ _ _ => false
  | .vfms _ _ _ _ _ _ => false
  | .vfnma _ _ _ _ _ _ => false
  | .vrcp _ _ _ _ _ => false
  | .vrsq _ _ _ _ _ => false
  | .vsqrt _ _ _ _ _ => false
  | .vdiv _ _ _ _ _ _ => false
  | .vexp2 _ _ _ _ _ => false
  | .vlog2 _ _ _ _ _ => false
  | .vtanh _ _ _ _ _ => false
  | .longLatencyComplete _ => true
  | .vshuf _ _ _ _ _ _ => false
  | .vzip _ _ _ _ _ _ => false
  | .vunzip _ _ _ _ _ _ => false
  | .vrotl _ _ _ _ _ => false
  | .vbcst _ _ _ _ _ => false
  | .vcompress _ _ _ _ => false
  | .mand _ _ _ => false
  | .mor _ _ _ => false
  | .mxor _ _ _ => false
  | .mnot _ _ => false
  | .mcnt _ _ => false
  | .mff _ _ => false
  | .mfromg _ _ => false
  | .mtog _ _ => false
  | .vsplat _ _ _ _ => false
  | .vins _ _ _ _ _ => false
  | .vext _ _ _ _ => false
  | .vmov _ _ _ _ => false
  | .vradd _ _ _ _ => false
  | .vrmax _ _ _ _ => false
  | .vrmin _ _ _ _ => false
  | .vfradd _ _ _ _ => false
  | .nsend _ _ => false
  | .nrecv _ _ => false
  | .nwin _ _ _ => false
  | .vcvtf _ _ _ _ _ _ => false
  | .vcvtfi _ _ _ _ _ _ => false
  | .vcvtif _ _ _ _ _ _ => false
  | .vpack8 _ _ _ _ _ _ => false
  | .vunpk8 _ _ _ _ _ _ => false
  | .vpack4 _ _ _ _ _ _ => false
  | .vunpk4 _ _ _ _ _ _ => false
  | .vscale _ _ _ _ _ => false
  | .bdld _ _ => false
  | .bdst _ _ => false
  | .ldb _ _ _ _ _ => false
  | .ldbs _ _ _ _ _ => false
  | .ldh _ _ _ _ _ => false
  | .ldhs _ _ _ _ _ => false
  | .ldw _ _ _ _ _ => false
  | .ldws _ _ _ _ _ => false
  | .ldd _ _ _ _ _ => false
  | .stb _ _ _ _ => false
  | .sth _ _ _ _ => false
  | .stw _ _ _ _ => false
  | .std _ _ _ _ => false
  | .vld _ _ _ _ _ => false
  | .vst _ _ _ _ => false
  | .migrationArrival _ => true
  | .arrivalDequeue _ => true
  | .ldxd _ _ _ _ => false
  | .stxd _ _ _ => false
  | .vldx _ _ _ _ => false
  | .vstx _ _ _ => false
  | .vldm _ _ _ _ _ => false
  | .vstm _ _ _ _ => false
  | .vgath _ _ _ _ _ _ => false
  | .pref _ _ _ => false
  | .tres _ _ _ => false
  | .stmap _ _ _ _ => false
  | .stunmap _ _ => false
  | .stwb _ _ => false
  | .tilereg _ _ => false
  | .pageRequestDeferredPost _ => true
  | .ldf _ _ _ _ => false
  | .ldfe _ _ _ _ => false
  | .stf _ _ _ => false
  | .stff _ _ _ => false
  | .feget _ _ _ _ => false
  | .feempty _ _ => false
  | .femark _ _ _ => false
  | .feRefusalRetry _ => true
  | .feretry _ => true
  | .mona _ => false
  | .monc => false
  | .mwait _ _ => false
  | .mwaitTimeout _ => true
  | .rsv _ _ _ _ => false
  | .rel _ _ _ => false
  | .relc _ _ _ => false
  | .rsvt _ _ _ _ => false
  | .reservationTimeout _ => true
  | .fadd _ _ _ _ _ _ => false
  | .fand _ _ _ _ _ _ => false
  | .fOr _ _ _ _ _ _ => false
  | .fxor _ _ _ _ _ _ => false
  | .fmax _ _ _ _ _ _ => false
  | .fmin _ _ _ _ _ _ => false
  | .fmaxn _ _ _ _ _ _ => false
  | .fminn _ _ _ _ _ _ => false
  | .fswp _ _ _ _ _ _ => false
  | .fcas _ _ _ _ _ _ => false
  | .fincb _ _ _ _ _ _ => false
  | .fincw _ _ _ _ _ _ => false
  | .fdecp _ _ _ _ _ => false
  | .faddl _ _ _ _ _ _ => false
  | .gath _ _ _ _ _ => false
  | .bld _ _ _ _ => false
  | .latchFillComplete _ => true
  | .mma _ _ _ _ => false
  | .mmaStart _ => true
  | .mmaComplete _ => true
  | .acz _ => false
  | .acld _ _ _ => false
  | .acst _ _ _ _ => false
  | .accumTransferComplete _ => true
  | .acrd _ _ _ => false
  | .acwr _ _ _ => false
  | .mxstat _ _ => false
  | .rept _ _ _ _ => false
  | .leaveGrant _ => true
  | .cpy _ _ _ _ => false
  | .cpy2 _ _ _ _ => false
  | .cpyg _ _ _ _ => false
  | .cpys _ _ _ _ => false
  | .cpycb _ _ _ _ => false
  | .muleChunk _ => true
  | .muleCommandComplete _ => true
  | .cbinit _ _ _ => false
  | .cbacq _ _ => false
  | .cbrel _ _ => false
  | .cbstat _ _ => false
  | .cbres _ _ => false
  | .cbpub _ _ => false
  | .gcall _ _ _ => false
  | .gret => false
  | .gabt _ => false
  | .dinfo _ _ => false
  | .gpub _ _ _ => false
  | .grev _ _ _ => false
  | .hgive _ _ _ _ => false
  | .hdrop _ _ => false
  | .unwindBudgetExpiry _ => true
  | .callergone _ => true
  | .tspawn _ _ _ => false
  | .park _ _ => false
  | .qsend _ _ _ => false
  | .qrecv _ _ _ => false
  | .eos _ _ => false
  | .rqpush _ _ => false
  | .rqpop _ _ => false
  | .timer _ _ => false
  | .launch _ _ => false
  | .depdec _ _ => false
  | .exit => false
  | .yield => false
  | .launchDispatch _ => true
  | .holdLimitExpiry _ => true
  | .workUnitComplete _ _ _ => true
  | .forecastUpdate _ _ => true
  | .timerExpiry _ => true
  | .sliceExpiry _ => true
  | .ptload _ _ _ => false
  | .ptbind _ _ _ _ => false
  | .ptunbind _ _ _ => false
  | .dirq _ _ => false
  | .linv _ _ => false
  | .lwb _ _ => false
  | .gets _ _ => true
  | .getm _ _ => true
  | .puts _ _ => true
  | .putm _ _ => true
  | .uread _ _ => true
  | .uwrite _ _ => true
  | .atom _ _ => true
  | .updw _ _ => true
  | .linvMsg _ _ => true
  | .lwbMsg _ _ => true
  | .ack _ _ => true
  | .odata _ _ => true
  | .inv _ _ => true
  | .down _ _ => true
  | .recall _ _ => true
  | .upd _ _ => true
  | .dataS _ _ => true
  | .dataM _ _ => true
  | .putack _ _ => true
  | .updack _ _ => true
  | .nackw _ _ => true
  | .udata _ _ => true
  | .wack _ _ => true
  | .lbias _ _ _ => false
  | .lstat _ _ => false
  | .turnStart _ => true
  | .turnEnd _ _ => true
  | .laneGrant _ _ _ => true
  | .flitArrival _ _ _ => true
  | .creditAudit _ => true
  | .npost _ _ => false
  | .ncwait _ _ _ _ => false
  | .ncrd _ _ => false
  | .nreg _ _ _ _ => false
  | .packetSend _ => true
  | .packetArrival _ _ => true
  | .ackArrival _ _ => true
  | .retransmitTimerExpiry _ _ _ => true
  | .ncwaitTimeout _ => true
  | .vacateRequest _ _ => true
  | .drainDeadlineExpiry _ => true
  | .vacateReport _ => true
  | .restore _ _ => true
  | .critDeferralExpiry _ => true
  | .borderControllerRun => true
  | .clusterMove _ => true
  | .forcedMove _ _ => true
  | .tokenRefill _ => true
  | .freshPageClearComplete _ => true
  | .backgroundClear _ => true
  | .scratchpadUnitClear _ _ => true
  | .integrityCheckComplete _ _ => true
  | .serviceVacate _ _ => true
  | .serviceFeLimits _ _ => true
  | .serviceTarget _ _ => true
  | .serviceBars _ _ => true
  | .serviceGiveBack _ _ => true
  | .hostqLaunch _ => true
  | .hostqDepdec _ => true
  | .hostqStff _ => true
  | .qwr _ _ => true
  | .qbase _ _ => true
  | .qsize _ _ => true
  | .queueKeying _ => true
  | .hostBar2Access _ _ _ _ => true
  | .hostSidebandRead _ _ => true
  | .getVersion _ => true
  | .getCapabilities _ => true
  | .negotiateAlgorithms _ => true
  | .getDigests _ => true
  | .getCertificate _ => true
  | .challenge _ _ => true
  | .getMeasurements _ _ => true
  | .keyExchange _ => true
  | .finish _ => true
  | .heartbeat _ => true
  | .keyUpdate _ => true
  | .endSession _ => true
  | .coldReset => true
  | .fundamentalReset => true
  | .functionLevelReset _ => true
  | .islandPointChange _ _ _ => true
  | .currentCapThrottle _ _ => true
  | .thermtrip => true
  | .illegalInstruction _ => false
  | .fetchMissFill _ => true
  | .leaveHoldExpiry _ => true
  | .flitSend _ => true
  | .portStateChange _ _ => true
  | .lineReset _ => true
  | .channelMove _ _ => true
  | .partitionCreation _ _ _ => true

end Sys2Proof
end

