-- ==== Sys2Proof/Decode.lean ====
section
/-! DEFINITION. The decoder and the encoder (R39-R42, R47-R54). Field positions are those of the opcode
table. `decode` is total: a word that the opcode map does not assign is `illegalInstruction` of that word. -/
namespace Sys2Proof

/-- Bits [hi:lo] of the word n, as a number (R3). -/
def fld (n hi lo : Nat) : Nat := n / 2 ^ lo % 2 ^ (hi - lo + 1)

/-- Bit lo of the word n. -/
def flag (n lo : Nat) : Bool := n / 2 ^ lo % 2 == 1

/-- Major 0x01 of the opcode map (R53). -/
def decodeMajor01 (n : Nat) : Option Instr :=
  if fld n 13 1 = 0 then some (.add (.ofNat 4 (fld n 25 22)) (.ofNat 4 (fld n 21 18)) (.ofNat 4 (fld n 17 14)) (flag n 0))
  else if fld n 13 1 = 8 then some (.sub (.ofNat 4 (fld n 25 22)) (.ofNat 4 (fld n 21 18)) (.ofNat 4 (fld n 17 14)) (flag n 0))
  else if fld n 13 1 = 16 then some (.and (.ofNat 4 (fld n 25 22)) (.ofNat 4 (fld n 21 18)) (.ofNat 4 (fld n 17 14)) (flag n 0))
  else if fld n 13 1 = 24 then some (.or (.ofNat 4 (fld n 25 22)) (.ofNat 4 (fld n 21 18)) (.ofNat 4 (fld n 17 14)) (flag n 0))
  else if fld n 13 1 = 32 then some (.xor (.ofNat 4 (fld n 25 22)) (.ofNat 4 (fld n 21 18)) (.ofNat 4 (fld n 17 14)) (flag n 0))
  else if fld n 13 1 = 40 then some (.andn (.ofNat 4 (fld n 25 22)) (.ofNat 4 (fld n 21 18)) (.ofNat 4 (fld n 17 14)) (flag n 0))
  else if fld n 13 1 = 48 then some (.orn (.ofNat 4 (fld n 25 22)) (.ofNat 4 (fld n 21 18)) (.ofNat 4 (fld n 17 14)) (flag n 0))
  else if fld n 13 1 = 56 then some (.shl (.ofNat 4 (fld n 25 22)) (.ofNat 4 (fld n 21 18)) (.ofNat 4 (fld n 17 14)) (flag n 0))
  else if fld n 13 1 = 64 then some (.shr (.ofNat 4 (fld n 25 22)) (.ofNat 4 (fld n 21 18)) (.ofNat 4 (fld n 17 14)) (flag n 0))
  else if fld n 13 1 = 72 then some (.sra (.ofNat 4 (fld n 25 22)) (.ofNat 4 (fld n 21 18)) (.ofNat 4 (fld n 17 14)) (flag n 0))
  else if fld n 13 1 = 80 then some (.rol (.ofNat 4 (fld n 25 22)) (.ofNat 4 (fld n 21 18)) (.ofNat 4 (fld n 17 14)) (flag n 0))
  else if fld n 13 1 = 88 then some (.ror (.ofNat 4 (fld n 25 22)) (.ofNat 4 (fld n 21 18)) (.ofNat 4 (fld n 17 14)) (flag n 0))
  else if fld n 13 1 = 96 then some (.min (.ofNat 4 (fld n 25 22)) (.ofNat 4 (fld n 21 18)) (.ofNat 4 (fld n 17 14)) (flag n 0))
  else if fld n 13 1 = 104 then some (.max (.ofNat 4 (fld n 25 22)) (.ofNat 4 (fld n 21 18)) (.ofNat 4 (fld n 17 14)) (flag n 0))
  else if fld n 13 1 = 112 then some (.minn (.ofNat 4 (fld n 25 22)) (.ofNat 4 (fld n 21 18)) (.ofNat 4 (fld n 17 14)) (flag n 0))
  else if fld n 13 1 = 120 then some (.maxn (.ofNat 4 (fld n 25 22)) (.ofNat 4 (fld n 21 18)) (.ofNat 4 (fld n 17 14)) (flag n 0))
  else if fld n 13 1 = 128 then some (.slt (.ofNat 4 (fld n 25 22)) (.ofNat 4 (fld n 21 18)) (.ofNat 4 (fld n 17 14)) (flag n 0))
  else if fld n 13 1 = 136 then some (.sltn (.ofNat 4 (fld n 25 22)) (.ofNat 4 (fld n 21 18)) (.ofNat 4 (fld n 17 14)) (flag n 0))
  else if fld n 13 1 = 144 then some (.seq (.ofNat 4 (fld n 25 22)) (.ofNat 4 (fld n 21 18)) (.ofNat 4 (fld n 17 14)) (flag n 0))
  else if fld n 13 1 = 152 then some (.sne (.ofNat 4 (fld n 25 22)) (.ofNat 4 (fld n 21 18)) (.ofNat 4 (fld n 17 14)) (flag n 0))
  else if fld n 13 1 = 160 then some (.mul (.ofNat 4 (fld n 25 22)) (.ofNat 4 (fld n 21 18)) (.ofNat 4 (fld n 17 14)) (flag n 0))
  else if fld n 13 1 = 168 then some (.mulh (.ofNat 4 (fld n 25 22)) (.ofNat 4 (fld n 21 18)) (.ofNat 4 (fld n 17 14)) (flag n 0))
  else if fld n 13 1 = 176 then some (.mulhn (.ofNat 4 (fld n 25 22)) (.ofNat 4 (fld n 21 18)) (.ofNat 4 (fld n 17 14)) (flag n 0))
  else if fld n 17 1 = 184 then some (.clz (.ofNat 4 (fld n 25 22)) (.ofNat 4 (fld n 21 18)) (flag n 0))
  else if fld n 17 1 = 192 then some (.ctz (.ofNat 4 (fld n 25 22)) (.ofNat 4 (fld n 21 18)) (flag n 0))
  else if fld n 17 1 = 200 then some (.popc (.ofNat 4 (fld n 25 22)) (.ofNat 4 (fld n 21 18)) (flag n 0))
  else if fld n 17 1 = 208 then some (.brev (.ofNat 4 (fld n 25 22)) (.ofNat 4 (fld n 21 18)) (flag n 0))
  else if fld n 17 1 = 216 then some (.bswap (.ofNat 4 (fld n 25 22)) (.ofNat 4 (fld n 21 18)) (flag n 0))
  else if fld n 9 1 = 224 then some (.sel (.ofNat 4 (fld n 25 22)) (.ofNat 4 (fld n 21 18)) (.ofNat 4 (fld n 17 14)) (.ofNat 4 (fld n 13 10)) (flag n 0))
  else if fld n 9 1 = 232 then some (.extr (.ofNat 4 (fld n 25 22)) (.ofNat 4 (fld n 21 18)) (.ofNat 4 (fld n 17 14)) (.ofNat 4 (fld n 13 10)) (flag n 0))
  else if fld n 9 1 = 240 then some (.extrs (.ofNat 4 (fld n 25 22)) (.ofNat 4 (fld n 21 18)) (.ofNat 4 (fld n 17 14)) (.ofNat 4 (fld n 13 10)) (flag n 0))
  else if fld n 9 1 = 248 then some (.insb (.ofNat 4 (fld n 25 22)) (.ofNat 4 (fld n 21 18)) (.ofNat 4 (fld n 17 14)) (.ofNat 4 (fld n 13 10)) (flag n 0))
  else none

/-- Major 0x02 of the opcode map (R53). -/
def decodeMajor02 (n : Nat) : Option Instr :=
  if fld n 9 1 = 0 then some (.div (.ofNat 4 (fld n 25 22)) (.ofNat 4 (fld n 21 18)) (.ofNat 4 (fld n 17 14)) (.ofNat 4 (fld n 13 10)) (flag n 0))
  else if fld n 9 1 = 8 then some (.divn (.ofNat 4 (fld n 25 22)) (.ofNat 4 (fld n 21 18)) (.ofNat 4 (fld n 17 14)) (.ofNat 4 (fld n 13 10)) (flag n 0))
  else if fld n 9 1 = 16 then some (.rem (.ofNat 4 (fld n 25 22)) (.ofNat 4 (fld n 21 18)) (.ofNat 4 (fld n 17 14)) (.ofNat 4 (fld n 13 10)) (flag n 0))
  else if fld n 9 1 = 24 then some (.remn (.ofNat 4 (fld n 25 22)) (.ofNat 4 (fld n 21 18)) (.ofNat 4 (fld n 17 14)) (.ofNat 4 (fld n 13 10)) (flag n 0))
  else none

/-- Major 0x03 of the opcode map (R53). -/
def decodeMajor03 (n : Nat) : Option Instr :=
  some (.addi (.ofNat 4 (fld n 25 22)) (.ofNat 4 (fld n 21 18)) (.ofNat 18 (fld n 17 0)))

/-- Major 0x04 of the opcode map (R53). -/
def decodeMajor04 (n : Nat) : Option Instr :=
  some (.andi (.ofNat 4 (fld n 25 22)) (.ofNat 4 (fld n 21 18)) (.ofNat 18 (fld n 17 0)))

/-- Major 0x05 of the opcode map (R53). -/
def decodeMajor05 (n : Nat) : Option Instr :=
  some (.ori (.ofNat 4 (fld n 25 22)) (.ofNat 4 (fld n 21 18)) (.ofNat 18 (fld n 17 0)))

/-- Major 0x06 of the opcode map (R53). -/
def decodeMajor06 (n : Nat) : Option Instr :=
  some (.xori (.ofNat 4 (fld n 25 22)) (.ofNat 4 (fld n 21 18)) (.ofNat 18 (fld n 17 0)))

/-- Major 0x07 of the opcode map (R53). -/
def decodeMajor07 (n : Nat) : Option Instr :=
  if fld n 17 6 = 0 then some (.shli (.ofNat 4 (fld n 25 22)) (.ofNat 4 (fld n 21 18)) (.ofNat 6 (fld n 5 0)))
  else if fld n 17 6 = 1024 then some (.shri (.ofNat 4 (fld n 25 22)) (.ofNat 4 (fld n 21 18)) (.ofNat 6 (fld n 5 0)))
  else if fld n 17 6 = 2048 then some (.srai (.ofNat 4 (fld n 25 22)) (.ofNat 4 (fld n 21 18)) (.ofNat 6 (fld n 5 0)))
  else if fld n 17 6 = 3072 then some (.roli (.ofNat 4 (fld n 25 22)) (.ofNat 4 (fld n 21 18)) (.ofNat 6 (fld n 5 0)))
  else none

/-- Major 0x08 of the opcode map (R53). -/
def decodeMajor08 (n : Nat) : Option Instr :=
  some (.slti (.ofNat 4 (fld n 25 22)) (.ofNat 4 (fld n 21 18)) (.ofNat 18 (fld n 17 0)))

/-- Major 0x09 of the opcode map (R53). -/
def decodeMajor09 (n : Nat) : Option Instr :=
  some (.sltni (.ofNat 4 (fld n 25 22)) (.ofNat 4 (fld n 21 18)) (.ofNat 18 (fld n 17 0)))

/-- Major 0x0A of the opcode map (R53). -/
def decodeMajor0A (n : Nat) : Option Instr :=
  if fld n 21 18 = 0 then some (.li (.ofNat 4 (fld n 25 22)) (.ofNat 18 (fld n 17 0)))
  else none

/-- Major 0x0B of the opcode map (R53). -/
def decodeMajor0B (n : Nat) : Option Instr :=
  if fld n 21 18 = 0 then some (.lpc (.ofNat 4 (fld n 25 22)) (.ofNat 18 (fld n 17 0)))
  else none

/-- Major 0x0C of the opcode map (R53). -/
def decodeMajor0C (n : Nat) : Option Instr :=
  some (.muli (.ofNat 4 (fld n 25 22)) (.ofNat 4 (fld n 21 18)) (.ofNat 18 (fld n 17 0)))

/-- Major 0x0D of the opcode map (R53). -/
def decodeMajor0D (n : Nat) : Option Instr :=
  if fld n 25 22 = 0 then some (.beq (.ofNat 4 (fld n 21 18)) (.ofNat 4 (fld n 17 14)) (.ofNat 14 (fld n 13 0)))
  else if fld n 25 22 = 1 then some (.bne (.ofNat 4 (fld n 21 18)) (.ofNat 4 (fld n 17 14)) (.ofNat 14 (fld n 13 0)))
  else if fld n 25 22 = 2 then some (.blt (.ofNat 4 (fld n 21 18)) (.ofNat 4 (fld n 17 14)) (.ofNat 14 (fld n 13 0)))
  else if fld n 25 22 = 3 then some (.bge (.ofNat 4 (fld n 21 18)) (.ofNat 4 (fld n 17 14)) (.ofNat 14 (fld n 13 0)))
  else if fld n 25 22 = 4 then some (.bltn (.ofNat 4 (fld n 21 18)) (.ofNat 4 (fld n 17 14)) (.ofNat 14 (fld n 13 0)))
  else if fld n 25 22 = 5 then some (.bgen (.ofNat 4 (fld n 21 18)) (.ofNat 4 (fld n 17 14)) (.ofNat 14 (fld n 13 0)))
  else none

/-- Major 0x0E of the opcode map (R53). -/
def decodeMajor0E (n : Nat) : Option Instr :=
  if fld n 25 22 = 0 then some (.beqz (.ofNat 4 (fld n 21 18)) (.ofNat 18 (fld n 17 0)))
  else if fld n 25 22 = 1 then some (.bnez (.ofNat 4 (fld n 21 18)) (.ofNat 18 (fld n 17 0)))
  else if fld n 25 22 = 2 then some (.bltz (.ofNat 4 (fld n 21 18)) (.ofNat 18 (fld n 17 0)))
  else if fld n 25 22 = 3 then some (.bgez (.ofNat 4 (fld n 21 18)) (.ofNat 18 (fld n 17 0)))
  else if fld n 25 22 = 4 then some (.bgtz (.ofNat 4 (fld n 21 18)) (.ofNat 18 (fld n 17 0)))
  else if fld n 25 22 = 5 then some (.blez (.ofNat 4 (fld n 21 18)) (.ofNat 18 (fld n 17 0)))
  else none

/-- Major 0x0F of the opcode map (R53). -/
def decodeMajor0F (n : Nat) : Option Instr :=
  some (.j (.ofNat 26 (fld n 25 0)))

/-- Major 0x10 of the opcode map (R53). -/
def decodeMajor10 (n : Nat) : Option Instr :=
  some (.jl (.ofNat 26 (fld n 25 0)))

/-- Major 0x11 of the opcode map (R53). -/
def decodeMajor11 (n : Nat) : Option Instr :=
  if fld n 25 22 = 0 ∧ fld n 17 0 = 0 then some (.jr (.ofNat 4 (fld n 21 18)))
  else if fld n 17 0 = 16 then some (.jlr (.ofNat 4 (fld n 25 22)) (.ofNat 4 (fld n 21 18)))
  else none

/-- Major 0x12 of the opcode map (R53). -/
def decodeMajor12 (n : Nat) : Option Instr :=
  if fld n 25 18 = 0 ∧ fld n 9 0 = 0 then some (.trap (.ofNat 8 (fld n 17 10)))
  else if fld n 25 0 = 16 then some (.eret)
  else if fld n 21 18 = 0 ∧ fld n 9 0 = 32 then some (.sread (.ofNat 4 (fld n 25 22)) (.ofNat 8 (fld n 17 10)))
  else if fld n 25 22 = 0 ∧ fld n 9 0 = 48 then some (.swrite (.ofNat 4 (fld n 21 18)) (.ofNat 8 (fld n 17 10)))
  else if fld n 25 22 = 0 ∧ fld n 13 3 = 8 then some (.icinv (.ofNat 4 (fld n 21 18)) (.ofNat 4 (fld n 17 14)) (.ofNat 3 (fld n 2 0)))
  else if fld n 25 0 = 80 then some (.brk)
  else if fld n 25 0 = 96 then some (.halt)
  else none

/-- Major 0x13 of the opcode map (R53). -/
def decodeMajor13 (n : Nat) : Option Instr :=
  if fld n 25 13 = 0 ∧ fld n 9 3 = 0 then some (.fence (flag n 12) (.ofNat 2 (fld n 11 10)) (.ofNat 3 (fld n 2 0)))
  else none

/-- Major 0x3F of the opcode map (R53). -/
def decodeMajor3F (n : Nat) : Option Instr :=
  if fld n 25 24 = 0 then some (.himm (.ofNat 24 (fld n 23 0)))
  else if fld n 25 24 = 1 then some (.hmod (.ofNat 24 (fld n 23 0)))
  else if fld n 25 21 = 17 then some (.hschedHold (.ofNat 21 (fld n 20 0)))
  else if fld n 25 21 = 18 then some (.hschedIfetch (.ofNat 21 (fld n 20 0)))
  else if fld n 25 24 = 2 then some (.hsched (.ofNat 24 (fld n 23 0)))
  else none

/-- Major 0x14 of the opcode map (R53). -/
def decodeMajor14 (n : Nat) : Option Instr :=
  if fld n 13 4 = 0 then some (.vadd (.ofNat 4 (fld n 25 22)) (.ofNat 4 (fld n 21 18)) (.ofNat 4 (fld n 17 14)) (.ofNat 2 (fld n 3 2)) (.ofNat 2 (fld n 1 0)))
  else if fld n 13 4 = 1 then some (.vsub (.ofNat 4 (fld n 25 22)) (.ofNat 4 (fld n 21 18)) (.ofNat 4 (fld n 17 14)) (.ofNat 2 (fld n 3 2)) (.ofNat 2 (fld n 1 0)))
  else if fld n 13 4 = 2 then some (.vadds (.ofNat 4 (fld n 25 22)) (.ofNat 4 (fld n 21 18)) (.ofNat 4 (fld n 17 14)) (.ofNat 2 (fld n 3 2)) (.ofNat 2 (fld n 1 0)))
  else if fld n 13 4 = 3 then some (.vaddsn (.ofNat 4 (fld n 25 22)) (.ofNat 4 (fld n 21 18)) (.ofNat 4 (fld n 17 14)) (.ofNat 2 (fld n 3 2)) (.ofNat 2 (fld n 1 0)))
  else if fld n 13 4 = 4 then some (.vsubs (.ofNat 4 (fld n 25 22)) (.ofNat 4 (fld n 21 18)) (.ofNat 4 (fld n 17 14)) (.ofNat 2 (fld n 3 2)) (.ofNat 2 (fld n 1 0)))
  else if fld n 13 4 = 5 then some (.vsubsn (.ofNat 4 (fld n 25 22)) (.ofNat 4 (fld n 21 18)) (.ofNat 4 (fld n 17 14)) (.ofNat 2 (fld n 3 2)) (.ofNat 2 (fld n 1 0)))
  else if fld n 13 4 = 6 then some (.vmul (.ofNat 4 (fld n 25 22)) (.ofNat 4 (fld n 21 18)) (.ofNat 4 (fld n 17 14)) (.ofNat 2 (fld n 3 2)) (.ofNat 2 (fld n 1 0)))
  else if fld n 13 4 = 7 then some (.vmulh (.ofNat 4 (fld n 25 22)) (.ofNat 4 (fld n 21 18)) (.ofNat 4 (fld n 17 14)) (.ofNat 2 (fld n 3 2)) (.ofNat 2 (fld n 1 0)))
  else if fld n 13 4 = 8 then some (.vmulhn (.ofNat 4 (fld n 25 22)) (.ofNat 4 (fld n 21 18)) (.ofNat 4 (fld n 17 14)) (.ofNat 2 (fld n 3 2)) (.ofNat 2 (fld n 1 0)))
  else if fld n 13 4 = 9 then some (.vmin (.ofNat 4 (fld n 25 22)) (.ofNat 4 (fld n 21 18)) (.ofNat 4 (fld n 17 14)) (.ofNat 2 (fld n 3 2)) (.ofNat 2 (fld n 1 0)))
  else if fld n 13 4 = 10 then some (.vmax (.ofNat 4 (fld n 25 22)) (.ofNat 4 (fld n 21 18)) (.ofNat 4 (fld n 17 14)) (.ofNat 2 (fld n 3 2)) (.ofNat 2 (fld n 1 0)))
  else if fld n 13 4 = 11 then some (.vminn (.ofNat 4 (fld n 25 22)) (.ofNat 4 (fld n 21 18)) (.ofNat 4 (fld n 17 14)) (.ofNat 2 (fld n 3 2)) (.ofNat 2 (fld n 1 0)))
  else if fld n 13 4 = 12 then some (.vmaxn (.ofNat 4 (fld n 25 22)) (.ofNat 4 (fld n 21 18)) (.ofNat 4 (fld n 17 14)) (.ofNat 2 (fld n 3 2)) (.ofNat 2 (fld n 1 0)))
  else if fld n 13 4 = 13 then some (.vand (.ofNat 4 (fld n 25 22)) (.ofNat 4 (fld n 21 18)) (.ofNat 4 (fld n 17 14)) (.ofNat 2 (fld n 3 2)) (.ofNat 2 (fld n 1 0)))
  else if fld n 13 4 = 14 then some (.vor (.ofNat 4 (fld n 25 22)) (.ofNat 4 (fld n 21 18)) (.ofNat 4 (fld n 17 14)) (.ofNat 2 (fld n 3 2)) (.ofNat 2 (fld n 1 0)))
  else if fld n 13 4 = 15 then some (.vxor (.ofNat 4 (fld n 25 22)) (.ofNat 4 (fld n 21 18)) (.ofNat 4 (fld n 17 14)) (.ofNat 2 (fld n 3 2)) (.ofNat 2 (fld n 1 0)))
  else if fld n 13 4 = 16 then some (.vandn (.ofNat 4 (fld n 25 22)) (.ofNat 4 (fld n 21 18)) (.ofNat 4 (fld n 17 14)) (.ofNat 2 (fld n 3 2)) (.ofNat 2 (fld n 1 0)))
  else if fld n 13 4 = 17 then some (.vshl (.ofNat 4 (fld n 25 22)) (.ofNat 4 (fld n 21 18)) (.ofNat 4 (fld n 17 14)) (.ofNat 2 (fld n 3 2)) (.ofNat 2 (fld n 1 0)))
  else if fld n 13 4 = 18 then some (.vshr (.ofNat 4 (fld n 25 22)) (.ofNat 4 (fld n 21 18)) (.ofNat 4 (fld n 17 14)) (.ofNat 2 (fld n 3 2)) (.ofNat 2 (fld n 1 0)))
  else if fld n 13 4 = 19 then some (.vsra (.ofNat 4 (fld n 25 22)) (.ofNat 4 (fld n 21 18)) (.ofNat 4 (fld n 17 14)) (.ofNat 2 (fld n 3 2)) (.ofNat 2 (fld n 1 0)))
  else if fld n 17 4 = 20 then some (.vabs (.ofNat 4 (fld n 25 22)) (.ofNat 4 (fld n 21 18)) (.ofNat 2 (fld n 3 2)) (.ofNat 2 (fld n 1 0)))
  else if fld n 13 4 = 21 then some (.vavg (.ofNat 4 (fld n 25 22)) (.ofNat 4 (fld n 21 18)) (.ofNat 4 (fld n 17 14)) (.ofNat 2 (fld n 3 2)) (.ofNat 2 (fld n 1 0)))
  else if fld n 13 4 = 22 then some (.vavgn (.ofNat 4 (fld n 25 22)) (.ofNat 4 (fld n 21 18)) (.ofNat 4 (fld n 17 14)) (.ofNat 2 (fld n 3 2)) (.ofNat 2 (fld n 1 0)))
  else if fld n 13 4 = 23 ∧ fld n 1 0 = 2 then some (.vdot4 (.ofNat 4 (fld n 25 22)) (.ofNat 4 (fld n 21 18)) (.ofNat 4 (fld n 17 14)) (.ofNat 2 (fld n 3 2)))
  else if fld n 13 4 = 24 ∧ fld n 1 0 = 2 then some (.vdot4n (.ofNat 4 (fld n 25 22)) (.ofNat 4 (fld n 21 18)) (.ofNat 4 (fld n 17 14)) (.ofNat 2 (fld n 3 2)))
  else if fld n 25 24 = 0 ∧ fld n 13 4 = 25 then some (.vcmpeq (.ofNat 2 (fld n 23 22)) (.ofNat 4 (fld n 21 18)) (.ofNat 4 (fld n 17 14)) (.ofNat 2 (fld n 3 2)) (.ofNat 2 (fld n 1 0)))
  else if fld n 25 24 = 0 ∧ fld n 13 4 = 26 then some (.vcmplt (.ofNat 2 (fld n 23 22)) (.ofNat 4 (fld n 21 18)) (.ofNat 4 (fld n 17 14)) (.ofNat 2 (fld n 3 2)) (.ofNat 2 (fld n 1 0)))
  else if fld n 25 24 = 0 ∧ fld n 13 4 = 27 then some (.vcmpltn (.ofNat 2 (fld n 23 22)) (.ofNat 4 (fld n 21 18)) (.ofNat 4 (fld n 17 14)) (.ofNat 2 (fld n 3 2)) (.ofNat 2 (fld n 1 0)))
  else if fld n 9 4 = 28 then some (.vsel (.ofNat 4 (fld n 25 22)) (.ofNat 4 (fld n 21 18)) (.ofNat 4 (fld n 17 14)) (.ofNat 4 (fld n 13 10)) (.ofNat 2 (fld n 3 2)) (.ofNat 2 (fld n 1 0)))
  else none

/-- Major 0x15 of the opcode map (R53). -/
def decodeMajor15 (n : Nat) : Option Instr :=
  if fld n 13 4 = 0 then some (.vfadd (.ofNat 4 (fld n 25 22)) (.ofNat 4 (fld n 21 18)) (.ofNat 4 (fld n 17 14)) (.ofNat 2 (fld n 3 2)) (.ofNat 2 (fld n 1 0)))
  else if fld n 13 4 = 1 then some (.vfsub (.ofNat 4 (fld n 25 22)) (.ofNat 4 (fld n 21 18)) (.ofNat 4 (fld n 17 14)) (.ofNat 2 (fld n 3 2)) (.ofNat 2 (fld n 1 0)))
  else if fld n 13 4 = 2 then some (.vfmul (.ofNat 4 (fld n 25 22)) (.ofNat 4 (fld n 21 18)) (.ofNat 4 (fld n 17 14)) (.ofNat 2 (fld n 3 2)) (.ofNat 2 (fld n 1 0)))
  else if fld n 13 4 = 3 then some (.vfmin (.ofNat 4 (fld n 25 22)) (.ofNat 4 (fld n 21 18)) (.ofNat 4 (fld n 17 14)) (.ofNat 2 (fld n 3 2)) (.ofNat 2 (fld n 1 0)))
  else if fld n 13 4 = 4 then some (.vfmax (.ofNat 4 (fld n 25 22)) (.ofNat 4 (fld n 21 18)) (.ofNat 4 (fld n 17 14)) (.ofNat 2 (fld n 3 2)) (.ofNat 2 (fld n 1 0)))
  else if fld n 17 4 = 5 then some (.vfabs (.ofNat 4 (fld n 25 22)) (.ofNat 4 (fld n 21 18)) (.ofNat 2 (fld n 3 2)) (.ofNat 2 (fld n 1 0)))
  else if fld n 17 4 = 6 then some (.vfneg (.ofNat 4 (fld n 25 22)) (.ofNat 4 (fld n 21 18)) (.ofNat 2 (fld n 3 2)) (.ofNat 2 (fld n 1 0)))
  else if fld n 25 24 = 0 ∧ fld n 13 4 = 7 then some (.vfcmpeq (.ofNat 2 (fld n 23 22)) (.ofNat 4 (fld n 21 18)) (.ofNat 4 (fld n 17 14)) (.ofNat 2 (fld n 3 2)) (.ofNat 2 (fld n 1 0)))
  else if fld n 25 24 = 0 ∧ fld n 13 4 = 8 then some (.vfcmplt (.ofNat 2 (fld n 23 22)) (.ofNat 4 (fld n 21 18)) (.ofNat 4 (fld n 17 14)) (.ofNat 2 (fld n 3 2)) (.ofNat 2 (fld n 1 0)))
  else if fld n 25 24 = 0 ∧ fld n 13 4 = 9 then some (.vfcmple (.ofNat 2 (fld n 23 22)) (.ofNat 4 (fld n 21 18)) (.ofNat 4 (fld n 17 14)) (.ofNat 2 (fld n 3 2)) (.ofNat 2 (fld n 1 0)))
  else if fld n 25 24 = 0 ∧ fld n 13 4 = 10 then some (.vfcmpun (.ofNat 2 (fld n 23 22)) (.ofNat 4 (fld n 21 18)) (.ofNat 4 (fld n 17 14)) (.ofNat 2 (fld n 3 2)) (.ofNat 2 (fld n 1 0)))
  else none

/-- Major 0x16 of the opcode map (R53). -/
def decodeMajor16 (n : Nat) : Option Instr :=
  if fld n 9 4 = 0 then some (.vfma (.ofNat 4 (fld n 25 22)) (.ofNat 4 (fld n 21 18)) (.ofNat 4 (fld n 17 14)) (.ofNat 4 (fld n 13 10)) (.ofNat 2 (fld n 3 2)) (.ofNat 2 (fld n 1 0)))
  else if fld n 9 4 = 1 then some (.vfms (.ofNat 4 (fld n 25 22)) (.ofNat 4 (fld n 21 18)) (.ofNat 4 (fld n 17 14)) (.ofNat 4 (fld n 13 10)) (.ofNat 2 (fld n 3 2)) (.ofNat 2 (fld n 1 0)))
  else if fld n 9 4 = 2 then some (.vfnma (.ofNat 4 (fld n 25 22)) (.ofNat 4 (fld n 21 18)) (.ofNat 4 (fld n 17 14)) (.ofNat 4 (fld n 13 10)) (.ofNat 2 (fld n 3 2)) (.ofNat 2 (fld n 1 0)))
  else none

/-- Major 0x17 of the opcode map (R53). -/
def decodeMajor17 (n : Nat) : Option Instr :=
  if fld n 17 14 = 0 ∧ fld n 9 4 = 0 then some (.vrcp (.ofNat 4 (fld n 25 22)) (.ofNat 4 (fld n 21 18)) (.ofNat 4 (fld n 13 10)) (.ofNat 2 (fld n 3 2)) (.ofNat 2 (fld n 1 0)))
  else if fld n 17 14 = 0 ∧ fld n 9 4 = 1 then some (.vrsq (.ofNat 4 (fld n 25 22)) (.ofNat 4 (fld n 21 18)) (.ofNat 4 (fld n 13 10)) (.ofNat 2 (fld n 3 2)) (.ofNat 2 (fld n 1 0)))
  else if fld n 17 14 = 0 ∧ fld n 9 4 = 2 then some (.vsqrt (.ofNat 4 (fld n 25 22)) (.ofNat 4 (fld n 21 18)) (.ofNat 4 (fld n 13 10)) (.ofNat 2 (fld n 3 2)) (.ofNat 2 (fld n 1 0)))
  else if fld n 9 4 = 3 then some (.vdiv (.ofNat 4 (fld n 25 22)) (.ofNat 4 (fld n 21 18)) (.ofNat 4 (fld n 17 14)) (.ofNat 4 (fld n 13 10)) (.ofNat 2 (fld n 3 2)) (.ofNat 2 (fld n 1 0)))
  else if fld n 17 14 = 0 ∧ fld n 9 4 = 4 then some (.vexp2 (.ofNat 4 (fld n 25 22)) (.ofNat 4 (fld n 21 18)) (.ofNat 4 (fld n 13 10)) (.ofNat 2 (fld n 3 2)) (.ofNat 2 (fld n 1 0)))
  else if fld n 17 14 = 0 ∧ fld n 9 4 = 5 then some (.vlog2 (.ofNat 4 (fld n 25 22)) (.ofNat 4 (fld n 21 18)) (.ofNat 4 (fld n 13 10)) (.ofNat 2 (fld n 3 2)) (.ofNat 2 (fld n 1 0)))
  else if fld n 17 14 = 0 ∧ fld n 9 4 = 6 then some (.vtanh (.ofNat 4 (fld n 25 22)) (.ofNat 4 (fld n 21 18)) (.ofNat 4 (fld n 13 10)) (.ofNat 2 (fld n 3 2)) (.ofNat 2 (fld n 1 0)))
  else none

/-- Major 0x18 of the opcode map (R53). -/
noncomputable def decodeMajor18 (n : Nat) : Option Instr :=
  if fld n 9 4 = 0 then some (.vshuf (.ofNat 4 (fld n 25 22)) (.ofNat 4 (fld n 21 18)) (.ofNat 4 (fld n 17 14)) (.ofNat 4 (fld n 13 10)) (.ofNat 2 (fld n 3 2)) (.ofNat 2 (fld n 1 0)))
  else if fld n 13 11 = 0 ∧ fld n 9 4 = 1 then some (.vzip (.ofNat 4 (fld n 25 22)) (.ofNat 4 (fld n 21 18)) (.ofNat 4 (fld n 17 14)) (flag n 10) (.ofNat 2 (fld n 3 2)) (.ofNat 2 (fld n 1 0)))
  else if fld n 13 11 = 0 ∧ fld n 9 4 = 2 then some (.vunzip (.ofNat 4 (fld n 25 22)) (.ofNat 4 (fld n 21 18)) (.ofNat 4 (fld n 17 14)) (flag n 10) (.ofNat 2 (fld n 3 2)) (.ofNat 2 (fld n 1 0)))
  else if fld n 13 4 = 3 then some (.vrotl (.ofNat 4 (fld n 25 22)) (.ofNat 4 (fld n 21 18)) (.ofNat 4 (fld n 17 14)) (.ofNat 2 (fld n 3 2)) (.ofNat 2 (fld n 1 0)))
  else if fld n 13 4 = 4 then some (.vbcst (.ofNat 4 (fld n 25 22)) (.ofNat 4 (fld n 21 18)) (.ofNat 4 (fld n 17 14)) (.ofNat 2 (fld n 3 2)) (.ofNat 2 (fld n 1 0)))
  else if fld n 17 4 = 5 then some (.vcompress (.ofNat 4 (fld n 25 22)) (.ofNat 4 (fld n 21 18)) (.ofNat 2 (fld n 3 2)) (.ofNat 2 (fld n 1 0)))
  else none

/-- Major 0x19 of the opcode map (R53). -/
noncomputable def decodeMajor19 (n : Nat) : Option Instr :=
  if fld n 25 24 = 0 ∧ fld n 21 20 = 0 ∧ fld n 17 16 = 0 ∧ fld n 13 0 = 0 then some (.mand (.ofNat 2 (fld n 23 22)) (.ofNat 2 (fld n 19 18)) (.ofNat 2 (fld n 15 14)))
  else if fld n 25 24 = 0 ∧ fld n 21 20 = 0 ∧ fld n 17 16 = 0 ∧ fld n 13 0 = 16 then some (.mor (.ofNat 2 (fld n 23 22)) (.ofNat 2 (fld n 19 18)) (.ofNat 2 (fld n 15 14)))
  else if fld n 25 24 = 0 ∧ fld n 21 20 = 0 ∧ fld n 17 16 = 0 ∧ fld n 13 0 = 32 then some (.mxor (.ofNat 2 (fld n 23 22)) (.ofNat 2 (fld n 19 18)) (.ofNat 2 (fld n 15 14)))
  else if fld n 25 24 = 0 ∧ fld n 21 20 = 0 ∧ fld n 17 0 = 48 then some (.mnot (.ofNat 2 (fld n 23 22)) (.ofNat 2 (fld n 19 18)))
  else if fld n 21 20 = 0 ∧ fld n 17 0 = 64 then some (.mcnt (.ofNat 4 (fld n 25 22)) (.ofNat 2 (fld n 19 18)))
  else if fld n 21 20 = 0 ∧ fld n 17 0 = 80 then some (.mff (.ofNat 4 (fld n 25 22)) (.ofNat 2 (fld n 19 18)))
  else if fld n 25 24 = 0 ∧ fld n 17 0 = 96 then some (.mfromg (.ofNat 2 (fld n 23 22)) (.ofNat 4 (fld n 21 18)))
  else if fld n 21 20 = 0 ∧ fld n 17 0 = 112 then some (.mtog (.ofNat 4 (fld n 25 22)) (.ofNat 2 (fld n 19 18)))
  else none

/-- Major 0x1A of the opcode map (R53). -/
noncomputable def decodeMajor1A (n : Nat) : Option Instr :=
  if fld n 17 4 = 0 then some (.vsplat (.ofNat 4 (fld n 25 22)) (.ofNat 4 (fld n 21 18)) (.ofNat 2 (fld n 3 2)) (.ofNat 2 (fld n 1 0)))
  else if fld n 13 4 = 1 then some (.vins (.ofNat 4 (fld n 25 22)) (.ofNat 4 (fld n 21 18)) (.ofNat 4 (fld n 17 14)) (.ofNat 2 (fld n 3 2)) (.ofNat 2 (fld n 1 0)))
  else if fld n 13 2 = 8 then some (.vext (.ofNat 4 (fld n 25 22)) (.ofNat 4 (fld n 21 18)) (.ofNat 4 (fld n 17 14)) (.ofNat 2 (fld n 1 0)))
  else if fld n 17 4 = 3 then some (.vmov (.ofNat 4 (fld n 25 22)) (.ofNat 4 (fld n 21 18)) (.ofNat 2 (fld n 3 2)) (.ofNat 2 (fld n 1 0)))
  else if fld n 17 4 = 4 then some (.vradd (.ofNat 4 (fld n 25 22)) (.ofNat 4 (fld n 21 18)) (.ofNat 2 (fld n 3 2)) (.ofNat 2 (fld n 1 0)))
  else if fld n 17 4 = 5 then some (.vrmax (.ofNat 4 (fld n 25 22)) (.ofNat 4 (fld n 21 18)) (.ofNat 2 (fld n 3 2)) (.ofNat 2 (fld n 1 0)))
  else if fld n 17 4 = 6 then some (.vrmin (.ofNat 4 (fld n 25 22)) (.ofNat 4 (fld n 21 18)) (.ofNat 2 (fld n 3 2)) (.ofNat 2 (fld n 1 0)))
  else if fld n 17 4 = 7 then some (.vfradd (.ofNat 4 (fld n 25 22)) (.ofNat 4 (fld n 21 18)) (.ofNat 2 (fld n 3 2)) (.ofNat 2 (fld n 1 0)))
  else none

/-- Major 0x1B of the opcode map (R53). -/
noncomputable def decodeMajor1B (n : Nat) : Option Instr :=
  if fld n 25 22 = 0 ∧ fld n 17 1 = 0 then some (.nsend (.ofNat 4 (fld n 21 18)) (flag n 0))
  else if fld n 21 1 = 8 then some (.nrecv (.ofNat 4 (fld n 25 22)) (flag n 0))
  else if fld n 17 1 = 16 then some (.nwin (.ofNat 4 (fld n 25 22)) (.ofNat 4 (fld n 21 18)) (flag n 0))
  else none

/-- Major 0x1C of the opcode map (R53). -/
noncomputable def decodeMajor1C (n : Nat) : Option Instr :=
  if fld n 9 4 = 0 then some (.vcvtf (.ofNat 4 (fld n 25 22)) (.ofNat 4 (fld n 21 18)) (.ofNat 4 (fld n 17 14)) (.ofNat 4 (fld n 13 10)) (.ofNat 2 (fld n 3 2)) (.ofNat 2 (fld n 1 0)))
  else if fld n 9 4 = 1 then some (.vcvtfi (.ofNat 4 (fld n 25 22)) (.ofNat 4 (fld n 21 18)) (.ofNat 4 (fld n 17 14)) (.ofNat 4 (fld n 13 10)) (.ofNat 2 (fld n 3 2)) (.ofNat 2 (fld n 1 0)))
  else if fld n 9 4 = 2 then some (.vcvtif (.ofNat 4 (fld n 25 22)) (.ofNat 4 (fld n 21 18)) (.ofNat 4 (fld n 17 14)) (.ofNat 4 (fld n 13 10)) (.ofNat 2 (fld n 3 2)) (.ofNat 2 (fld n 1 0)))
  else if fld n 9 4 = 3 then some (.vpack8 (.ofNat 4 (fld n 25 22)) (.ofNat 4 (fld n 21 18)) (.ofNat 4 (fld n 17 14)) (.ofNat 4 (fld n 13 10)) (.ofNat 2 (fld n 3 2)) (.ofNat 2 (fld n 1 0)))
  else if fld n 9 4 = 4 then some (.vunpk8 (.ofNat 4 (fld n 25 22)) (.ofNat 4 (fld n 21 18)) (.ofNat 4 (fld n 17 14)) (.ofNat 4 (fld n 13 10)) (.ofNat 2 (fld n 3 2)) (.ofNat 2 (fld n 1 0)))
  else if fld n 9 4 = 5 then some (.vpack4 (.ofNat 4 (fld n 25 22)) (.ofNat 4 (fld n 21 18)) (.ofNat 4 (fld n 17 14)) (.ofNat 4 (fld n 13 10)) (.ofNat 2 (fld n 3 2)) (.ofNat 2 (fld n 1 0)))
  else if fld n 9 4 = 6 then some (.vunpk4 (.ofNat 4 (fld n 25 22)) (.ofNat 4 (fld n 21 18)) (.ofNat 4 (fld n 17 14)) (.ofNat 4 (fld n 13 10)) (.ofNat 2 (fld n 3 2)) (.ofNat 2 (fld n 1 0)))
  else if fld n 9 4 = 7 ∧ fld n 1 0 = 0 then some (.vscale (.ofNat 4 (fld n 25 22)) (.ofNat 4 (fld n 21 18)) (.ofNat 4 (fld n 17 14)) (.ofNat 4 (fld n 13 10)) (.ofNat 2 (fld n 3 2)))
  else none

/-- Major 0x20 of the opcode map (R53). -/
noncomputable def decodeMajor20 (n : Nat) : Option Instr :=
  if fld n 7 5 = 0 then some (.ldb (.ofNat 4 (fld n 25 22)) (.ofNat 4 (fld n 21 18)) (.ofNat 10 (fld n 17 8)) (flag n 4) (.ofNat 4 (fld n 3 0)))
  else if fld n 7 5 = 1 then some (.ldbs (.ofNat 4 (fld n 25 22)) (.ofNat 4 (fld n 21 18)) (.ofNat 10 (fld n 17 8)) (flag n 4) (.ofNat 4 (fld n 3 0)))
  else if fld n 7 5 = 2 then some (.ldh (.ofNat 4 (fld n 25 22)) (.ofNat 4 (fld n 21 18)) (.ofNat 10 (fld n 17 8)) (flag n 4) (.ofNat 4 (fld n 3 0)))
  else if fld n 7 5 = 3 then some (.ldhs (.ofNat 4 (fld n 25 22)) (.ofNat 4 (fld n 21 18)) (.ofNat 10 (fld n 17 8)) (flag n 4) (.ofNat 4 (fld n 3 0)))
  else if fld n 7 5 = 4 then some (.ldw (.ofNat 4 (fld n 25 22)) (.ofNat 4 (fld n 21 18)) (.ofNat 10 (fld n 17 8)) (flag n 4) (.ofNat 4 (fld n 3 0)))
  else if fld n 7 5 = 5 then some (.ldws (.ofNat 4 (fld n 25 22)) (.ofNat 4 (fld n 21 18)) (.ofNat 10 (fld n 17 8)) (flag n 4) (.ofNat 4 (fld n 3 0)))
  else if fld n 7 5 = 6 then some (.ldd (.ofNat 4 (fld n 25 22)) (.ofNat 4 (fld n 21 18)) (.ofNat 10 (fld n 17 8)) (flag n 4) (.ofNat 4 (fld n 3 0)))
  else none

/-- Major 0x21 of the opcode map (R53). -/
noncomputable def decodeMajor21 (n : Nat) : Option Instr :=
  if fld n 7 5 = 0 ∧ fld n 3 0 = 0 then some (.stb (.ofNat 4 (fld n 25 22)) (.ofNat 4 (fld n 21 18)) (.ofNat 10 (fld n 17 8)) (flag n 4))
  else if fld n 7 5 = 1 ∧ fld n 3 0 = 0 then some (.sth (.ofNat 4 (fld n 25 22)) (.ofNat 4 (fld n 21 18)) (.ofNat 10 (fld n 17 8)) (flag n 4))
  else if fld n 7 5 = 2 ∧ fld n 3 0 = 0 then some (.stw (.ofNat 4 (fld n 25 22)) (.ofNat 4 (fld n 21 18)) (.ofNat 10 (fld n 17 8)) (flag n 4))
  else if fld n 7 5 = 3 ∧ fld n 3 0 = 0 then some (.std (.ofNat 4 (fld n 25 22)) (.ofNat 4 (fld n 21 18)) (.ofNat 10 (fld n 17 8)) (flag n 4))
  else none

/-- Major 0x22 of the opcode map (R53). -/
noncomputable def decodeMajor22 (n : Nat) : Option Instr :=
  if fld n 7 5 = 0 then some (.vld (.ofNat 4 (fld n 25 22)) (.ofNat 4 (fld n 21 18)) (.ofNat 10 (fld n 17 8)) (flag n 4) (.ofNat 4 (fld n 3 0)))
  else none

/-- Major 0x23 of the opcode map (R53). -/
noncomputable def decodeMajor23 (n : Nat) : Option Instr :=
  if fld n 7 5 = 0 ∧ fld n 3 0 = 0 then some (.vst (.ofNat 4 (fld n 25 22)) (.ofNat 4 (fld n 21 18)) (.ofNat 10 (fld n 17 8)) (flag n 4))
  else none

/-- Major 0x24 of the opcode map (R53). -/
noncomputable def decodeMajor24 (n : Nat) : Option Instr :=
  if fld n 9 0 = 0 then some (.ldxd (.ofNat 4 (fld n 25 22)) (.ofNat 4 (fld n 21 18)) (.ofNat 4 (fld n 17 14)) (.ofNat 4 (fld n 13 10)))
  else if fld n 13 0 = 16 then some (.stxd (.ofNat 4 (fld n 25 22)) (.ofNat 4 (fld n 21 18)) (.ofNat 4 (fld n 17 14)))
  else if fld n 9 0 = 32 then some (.vldx (.ofNat 4 (fld n 25 22)) (.ofNat 4 (fld n 21 18)) (.ofNat 4 (fld n 17 14)) (.ofNat 4 (fld n 13 10)))
  else if fld n 13 0 = 48 then some (.vstx (.ofNat 4 (fld n 25 22)) (.ofNat 4 (fld n 21 18)) (.ofNat 4 (fld n 17 14)))
  else if fld n 9 4 = 4 ∧ fld n 1 0 = 0 then some (.vldm (.ofNat 4 (fld n 25 22)) (.ofNat 4 (fld n 21 18)) (.ofNat 4 (fld n 17 14)) (.ofNat 4 (fld n 13 10)) (.ofNat 2 (fld n 3 2)))
  else if fld n 13 4 = 5 ∧ fld n 1 0 = 0 then some (.vstm (.ofNat 4 (fld n 25 22)) (.ofNat 4 (fld n 21 18)) (.ofNat 4 (fld n 17 14)) (.ofNat 2 (fld n 3 2)))
  else if fld n 9 4 = 6 then some (.vgath (.ofNat 4 (fld n 25 22)) (.ofNat 4 (fld n 21 18)) (.ofNat 4 (fld n 17 14)) (.ofNat 4 (fld n 13 10)) (.ofNat 2 (fld n 3 2)) (.ofNat 2 (fld n 1 0)))
  else none

/-- Major 0x25 of the opcode map (R53). -/
noncomputable def decodeMajor25 (n : Nat) : Option Instr :=
  if fld n 25 22 = 0 ∧ fld n 13 1 = 0 then some (.pref (.ofNat 4 (fld n 21 18)) (.ofNat 4 (fld n 17 14)) (flag n 0))
  else if fld n 13 0 = 16 then some (.tres (.ofNat 4 (fld n 25 22)) (.ofNat 4 (fld n 21 18)) (.ofNat 4 (fld n 17 14)))
  else if fld n 9 0 = 32 then some (.stmap (.ofNat 4 (fld n 25 22)) (.ofNat 4 (fld n 21 18)) (.ofNat 4 (fld n 17 14)) (.ofNat 4 (fld n 13 10)))
  else if fld n 17 0 = 48 then some (.stunmap (.ofNat 4 (fld n 25 22)) (.ofNat 4 (fld n 21 18)))
  else if fld n 25 22 = 0 ∧ fld n 13 0 = 64 then some (.stwb (.ofNat 4 (fld n 21 18)) (.ofNat 4 (fld n 17 14)))
  else if fld n 17 0 = 80 then some (.tilereg (.ofNat 4 (fld n 25 22)) (.ofNat 4 (fld n 21 18)))
  else none

/-- Major 0x26 of the opcode map (R53). -/
noncomputable def decodeMajor26 (n : Nat) : Option Instr :=
  if fld n 7 4 = 0 then some (.ldf (.ofNat 4 (fld n 25 22)) (.ofNat 4 (fld n 21 18)) (.ofNat 10 (fld n 17 8)) (.ofNat 4 (fld n 3 0)))
  else if fld n 7 4 = 2 then some (.ldfe (.ofNat 4 (fld n 25 22)) (.ofNat 4 (fld n 21 18)) (.ofNat 10 (fld n 17 8)) (.ofNat 4 (fld n 3 0)))
  else if fld n 7 0 = 64 then some (.stf (.ofNat 4 (fld n 25 22)) (.ofNat 4 (fld n 21 18)) (.ofNat 10 (fld n 17 8)))
  else if fld n 7 0 = 96 then some (.stff (.ofNat 4 (fld n 25 22)) (.ofNat 4 (fld n 21 18)) (.ofNat 10 (fld n 17 8)))
  else if fld n 7 4 = 8 then some (.feget (.ofNat 4 (fld n 25 22)) (.ofNat 4 (fld n 21 18)) (.ofNat 10 (fld n 17 8)) (.ofNat 4 (fld n 3 0)))
  else if fld n 25 22 = 0 ∧ fld n 7 0 = 160 then some (.feempty (.ofNat 4 (fld n 21 18)) (.ofNat 10 (fld n 17 8)))
  else if fld n 7 0 = 192 then some (.femark (.ofNat 4 (fld n 25 22)) (.ofNat 4 (fld n 21 18)) (.ofNat 10 (fld n 17 8)))
  else none

/-- Major 0x27 of the opcode map (R53). -/
noncomputable def decodeMajor27 (n : Nat) : Option Instr :=
  if fld n 25 22 = 0 ∧ fld n 17 0 = 0 then some (.mona (.ofNat 4 (fld n 21 18)))
  else if fld n 25 0 = 16 then some (.monc)
  else if fld n 17 0 = 32 then some (.mwait (.ofNat 4 (fld n 25 22)) (.ofNat 4 (fld n 21 18)))
  else none

/-- Major 0x28 of the opcode map (R53). -/
noncomputable def decodeMajor28 (n : Nat) : Option Instr :=
  if fld n 7 4 = 0 then some (.rsv (.ofNat 4 (fld n 25 22)) (.ofNat 4 (fld n 21 18)) (.ofNat 10 (fld n 17 8)) (.ofNat 4 (fld n 3 0)))
  else if fld n 7 0 = 32 then some (.rel (.ofNat 4 (fld n 25 22)) (.ofNat 4 (fld n 21 18)) (.ofNat 10 (fld n 17 8)))
  else if fld n 7 0 = 64 then some (.relc (.ofNat 4 (fld n 25 22)) (.ofNat 4 (fld n 21 18)) (.ofNat 10 (fld n 17 8)))
  else if fld n 7 4 = 6 then some (.rsvt (.ofNat 4 (fld n 25 22)) (.ofNat 4 (fld n 21 18)) (.ofNat 10 (fld n 17 8)) (.ofNat 4 (fld n 3 0)))
  else none

/-- Major 0x29 of the opcode map (R53). -/
noncomputable def decodeMajor29 (n : Nat) : Option Instr :=
  if fld n 9 3 = 0 then some (.fadd (.ofNat 4 (fld n 25 22)) (.ofNat 4 (fld n 21 18)) (.ofNat 4 (fld n 17 14)) (.ofNat 4 (fld n 13 10)) (flag n 2) (.ofNat 2 (fld n 1 0)))
  else if fld n 9 3 = 2 then some (.fand (.ofNat 4 (fld n 25 22)) (.ofNat 4 (fld n 21 18)) (.ofNat 4 (fld n 17 14)) (.ofNat 4 (fld n 13 10)) (flag n 2) (.ofNat 2 (fld n 1 0)))
  else if fld n 9 3 = 4 then some (.fOr (.ofNat 4 (fld n 25 22)) (.ofNat 4 (fld n 21 18)) (.ofNat 4 (fld n 17 14)) (.ofNat 4 (fld n 13 10)) (flag n 2) (.ofNat 2 (fld n 1 0)))
  else if fld n 9 3 = 6 then some (.fxor (.ofNat 4 (fld n 25 22)) (.ofNat 4 (fld n 21 18)) (.ofNat 4 (fld n 17 14)) (.ofNat 4 (fld n 13 10)) (flag n 2) (.ofNat 2 (fld n 1 0)))
  else if fld n 9 3 = 8 then some (.fmax (.ofNat 4 (fld n 25 22)) (.ofNat 4 (fld n 21 18)) (.ofNat 4 (fld n 17 14)) (.ofNat 4 (fld n 13 10)) (flag n 2) (.ofNat 2 (fld n 1 0)))
  else if fld n 9 3 = 10 then some (.fmin (.ofNat 4 (fld n 25 22)) (.ofNat 4 (fld n 21 18)) (.ofNat 4 (fld n 17 14)) (.ofNat 4 (fld n 13 10)) (flag n 2) (.ofNat 2 (fld n 1 0)))
  else if fld n 9 3 = 12 then some (.fmaxn (.ofNat 4 (fld n 25 22)) (.ofNat 4 (fld n 21 18)) (.ofNat 4 (fld n 17 14)) (.ofNat 4 (fld n 13 10)) (flag n 2) (.ofNat 2 (fld n 1 0)))
  else if fld n 9 3 = 14 then some (.fminn (.ofNat 4 (fld n 25 22)) (.ofNat 4 (fld n 21 18)) (.ofNat 4 (fld n 17 14)) (.ofNat 4 (fld n 13 10)) (flag n 2) (.ofNat 2 (fld n 1 0)))
  else if fld n 9 3 = 16 then some (.fswp (.ofNat 4 (fld n 25 22)) (.ofNat 4 (fld n 21 18)) (.ofNat 4 (fld n 17 14)) (.ofNat 4 (fld n 13 10)) (flag n 2) (.ofNat 2 (fld n 1 0)))
  else if fld n 9 3 = 18 then some (.fcas (.ofNat 4 (fld n 25 22)) (.ofNat 4 (fld n 21 18)) (.ofNat 4 (fld n 17 14)) (.ofNat 4 (fld n 13 10)) (flag n 2) (.ofNat 2 (fld n 1 0)))
  else if fld n 9 3 = 20 then some (.fincb (.ofNat 4 (fld n 25 22)) (.ofNat 4 (fld n 21 18)) (.ofNat 4 (fld n 17 14)) (.ofNat 4 (fld n 13 10)) (flag n 2) (.ofNat 2 (fld n 1 0)))
  else if fld n 9 3 = 22 then some (.fincw (.ofNat 4 (fld n 25 22)) (.ofNat 4 (fld n 21 18)) (.ofNat 4 (fld n 17 14)) (.ofNat 4 (fld n 13 10)) (flag n 2) (.ofNat 2 (fld n 1 0)))
  else if fld n 17 14 = 0 ∧ fld n 9 3 = 24 then some (.fdecp (.ofNat 4 (fld n 25 22)) (.ofNat 4 (fld n 21 18)) (.ofNat 4 (fld n 13 10)) (flag n 2) (.ofNat 2 (fld n 1 0)))
  else if fld n 9 3 = 26 then some (.faddl (.ofNat 4 (fld n 25 22)) (.ofNat 4 (fld n 21 18)) (.ofNat 4 (fld n 17 14)) (.ofNat 4 (fld n 13 10)) (flag n 2) (.ofNat 2 (fld n 1 0)))
  else none

/-- Major 0x2A of the opcode map (R53). -/
noncomputable def decodeMajor2A (n : Nat) : Option Instr :=
  if fld n 13 11 = 0 ∧ fld n 9 2 = 0 then some (.gath (.ofNat 4 (fld n 25 22)) (.ofNat 4 (fld n 21 18)) (.ofNat 4 (fld n 17 14)) (flag n 10) (.ofNat 2 (fld n 1 0)))
  else if fld n 25 22 = 0 ∧ fld n 13 11 = 0 ∧ fld n 9 2 = 4 then some (.bld (.ofNat 4 (fld n 21 18)) (.ofNat 4 (fld n 17 14)) (flag n 10) (.ofNat 2 (fld n 1 0)))
  else if fld n 25 25 = 0 ∧ fld n 21 19 = 0 ∧ fld n 17 15 = 0 ∧ fld n 9 0 = 32 then some (.mma (.ofNat 3 (fld n 24 22)) (flag n 18) (flag n 14) (.ofNat 4 (fld n 13 10)))
  else if fld n 25 25 = 0 ∧ fld n 21 0 = 48 then some (.acz (.ofNat 3 (fld n 24 22)))
  else if fld n 25 25 = 0 ∧ fld n 13 0 = 64 then some (.acld (.ofNat 3 (fld n 24 22)) (.ofNat 4 (fld n 21 18)) (.ofNat 4 (fld n 17 14)))
  else if fld n 25 25 = 0 ∧ fld n 13 2 = 20 then some (.acst (.ofNat 3 (fld n 24 22)) (.ofNat 4 (fld n 21 18)) (.ofNat 4 (fld n 17 14)) (.ofNat 2 (fld n 1 0)))
  else if fld n 21 21 = 0 ∧ fld n 13 0 = 96 then some (.acrd (.ofNat 4 (fld n 25 22)) (.ofNat 3 (fld n 20 18)) (.ofNat 4 (fld n 17 14)))
  else if fld n 25 25 = 0 ∧ fld n 13 0 = 112 then some (.acwr (.ofNat 3 (fld n 24 22)) (.ofNat 4 (fld n 21 18)) (.ofNat 4 (fld n 17 14)))
  else if fld n 17 0 = 128 then some (.mxstat (.ofNat 4 (fld n 25 22)) (.ofNat 4 (fld n 21 18)))
  else none

/-- Major 0x2B of the opcode map (R53). -/
noncomputable def decodeMajor2B (n : Nat) : Option Instr :=
  if fld n 25 25 = 0 ∧ fld n 9 0 = 0 then some (.rept (.ofNat 3 (fld n 24 22)) (.ofNat 4 (fld n 21 18)) (.ofNat 4 (fld n 17 14)) (.ofNat 4 (fld n 13 10)))
  else none

/-- Major 0x2C of the opcode map (R53). -/
noncomputable def decodeMajor2C (n : Nat) : Option Instr :=
  if fld n 9 0 = 0 then some (.cpy (.ofNat 4 (fld n 25 22)) (.ofNat 4 (fld n 21 18)) (.ofNat 4 (fld n 17 14)) (.ofNat 4 (fld n 13 10)))
  else if fld n 9 0 = 16 then some (.cpy2 (.ofNat 4 (fld n 25 22)) (.ofNat 4 (fld n 21 18)) (.ofNat 4 (fld n 17 14)) (.ofNat 4 (fld n 13 10)))
  else if fld n 9 0 = 32 then some (.cpyg (.ofNat 4 (fld n 25 22)) (.ofNat 4 (fld n 21 18)) (.ofNat 4 (fld n 17 14)) (.ofNat 4 (fld n 13 10)))
  else if fld n 9 0 = 48 then some (.cpys (.ofNat 4 (fld n 25 22)) (.ofNat 4 (fld n 21 18)) (.ofNat 4 (fld n 17 14)) (.ofNat 4 (fld n 13 10)))
  else if fld n 9 0 = 64 then some (.cpycb (.ofNat 4 (fld n 25 22)) (.ofNat 4 (fld n 21 18)) (.ofNat 4 (fld n 17 14)) (.ofNat 4 (fld n 13 10)))
  else none

/-- Major 0x2D of the opcode map (R53). -/
noncomputable def decodeMajor2D (n : Nat) : Option Instr :=
  if fld n 13 0 = 0 then some (.cbinit (.ofNat 4 (fld n 25 22)) (.ofNat 4 (fld n 21 18)) (.ofNat 4 (fld n 17 14)))
  else if fld n 17 0 = 16 then some (.cbacq (.ofNat 4 (fld n 25 22)) (.ofNat 4 (fld n 21 18)))
  else if fld n 25 22 = 0 ∧ fld n 13 0 = 32 then some (.cbrel (.ofNat 4 (fld n 21 18)) (.ofNat 4 (fld n 17 14)))
  else if fld n 17 0 = 48 then some (.cbstat (.ofNat 4 (fld n 25 22)) (.ofNat 4 (fld n 21 18)))
  else if fld n 17 0 = 64 then some (.cbres (.ofNat 4 (fld n 25 22)) (.ofNat 4 (fld n 21 18)))
  else if fld n 25 22 = 0 ∧ fld n 13 0 = 80 then some (.cbpub (.ofNat 4 (fld n 21 18)) (.ofNat 4 (fld n 17 14)))
  else none

/-- Major 0x2F of the opcode map (R53). -/
noncomputable def decodeMajor2F (n : Nat) : Option Instr :=
  if fld n 13 0 = 0 then some (.tspawn (.ofNat 4 (fld n 25 22)) (.ofNat 4 (fld n 21 18)) (.ofNat 4 (fld n 17 14)))
  else if fld n 17 0 = 16 then some (.park (.ofNat 4 (fld n 25 22)) (.ofNat 4 (fld n 21 18)))
  else if fld n 13 0 = 32 then some (.qsend (.ofNat 4 (fld n 25 22)) (.ofNat 4 (fld n 21 18)) (.ofNat 4 (fld n 17 14)))
  else if fld n 13 0 = 48 then some (.qrecv (.ofNat 4 (fld n 25 22)) (.ofNat 4 (fld n 21 18)) (.ofNat 4 (fld n 17 14)))
  else if fld n 17 0 = 64 then some (.eos (.ofNat 4 (fld n 25 22)) (.ofNat 4 (fld n 21 18)))
  else if fld n 17 0 = 80 then some (.rqpush (.ofNat 4 (fld n 25 22)) (.ofNat 4 (fld n 21 18)))
  else if fld n 17 0 = 96 then some (.rqpop (.ofNat 4 (fld n 25 22)) (.ofNat 4 (fld n 21 18)))
  else if fld n 17 0 = 112 then some (.timer (.ofNat 4 (fld n 25 22)) (.ofNat 4 (fld n 21 18)))
  else if fld n 17 0 = 128 then some (.launch (.ofNat 4 (fld n 25 22)) (.ofNat 4 (fld n 21 18)))
  else if fld n 17 0 = 144 then some (.depdec (.ofNat 4 (fld n 25 22)) (.ofNat 4 (fld n 21 18)))
  else if fld n 25 0 = 160 then some (.exit)
  else if fld n 25 0 = 176 then some (.yield)
  else none

/-- Major 0x1D of the opcode map (R53). -/
noncomputable def decodeMajor1D (n : Nat) : Option Instr :=
  if fld n 17 0 = 0 then some (.bdld (.ofNat 4 (fld n 25 22)) (.ofNat 4 (fld n 21 18)))
  else if fld n 25 22 = 0 ∧ fld n 13 0 = 16 then some (.bdst (.ofNat 4 (fld n 21 18)) (.ofNat 4 (fld n 17 14)))
  else none

/-- Major 0x2E of the opcode map (R53). -/
noncomputable def decodeMajor2E (n : Nat) : Option Instr :=
  if fld n 25 22 = 0 ∧ fld n 9 0 = 0 then some (.gcall (.ofNat 4 (fld n 21 18)) (.ofNat 4 (fld n 17 14)) (.ofNat 4 (fld n 13 10)))
  else if fld n 25 0 = 16 then some (.gret)
  else if fld n 25 22 = 0 ∧ fld n 17 0 = 32 then some (.gabt (.ofNat 4 (fld n 21 18)))
  else if fld n 17 0 = 48 then some (.dinfo (.ofNat 4 (fld n 25 22)) (.ofNat 4 (fld n 21 18)))
  else if fld n 13 0 = 64 then some (.gpub (.ofNat 4 (fld n 25 22)) (.ofNat 4 (fld n 21 18)) (.ofNat 4 (fld n 17 14)))
  else if fld n 13 0 = 80 then some (.grev (.ofNat 4 (fld n 25 22)) (.ofNat 4 (fld n 21 18)) (.ofNat 4 (fld n 17 14)))
  else if fld n 9 0 = 96 then some (.hgive (.ofNat 4 (fld n 25 22)) (.ofNat 4 (fld n 21 18)) (.ofNat 4 (fld n 17 14)) (.ofNat 4 (fld n 13 10)))
  else if fld n 17 0 = 112 then some (.hdrop (.ofNat 4 (fld n 25 22)) (.ofNat 4 (fld n 21 18)))
  else none

/-- Major 0x30 of the opcode map (R53). -/
noncomputable def decodeMajor30 (n : Nat) : Option Instr :=
  if fld n 13 0 = 0 then some (.ptload (.ofNat 4 (fld n 25 22)) (.ofNat 4 (fld n 21 18)) (.ofNat 4 (fld n 17 14)))
  else if fld n 9 0 = 16 then some (.ptbind (.ofNat 4 (fld n 25 22)) (.ofNat 4 (fld n 21 18)) (.ofNat 4 (fld n 17 14)) (.ofNat 4 (fld n 13 10)))
  else if fld n 13 0 = 32 then some (.ptunbind (.ofNat 4 (fld n 25 22)) (.ofNat 4 (fld n 21 18)) (.ofNat 4 (fld n 17 14)))
  else if fld n 17 0 = 48 then some (.dirq (.ofNat 4 (fld n 25 22)) (.ofNat 4 (fld n 21 18)))
  else if fld n 25 22 = 0 ∧ fld n 13 0 = 64 then some (.linv (.ofNat 4 (fld n 21 18)) (.ofNat 4 (fld n 17 14)))
  else if fld n 25 22 = 0 ∧ fld n 13 0 = 80 then some (.lwb (.ofNat 4 (fld n 21 18)) (.ofNat 4 (fld n 17 14)))
  else none

/-- Major 0x31 of the opcode map (R53). -/
noncomputable def decodeMajor31 (n : Nat) : Option Instr :=
  if fld n 13 0 = 0 then some (.lbias (.ofNat 4 (fld n 25 22)) (.ofNat 4 (fld n 21 18)) (.ofNat 4 (fld n 17 14)))
  else if fld n 17 0 = 16 then some (.lstat (.ofNat 4 (fld n 25 22)) (.ofNat 4 (fld n 21 18)))
  else none

/-- Major 0x32 of the opcode map (R53). -/
noncomputable def decodeMajor32 (n : Nat) : Option Instr :=
  if fld n 17 0 = 0 then some (.npost (.ofNat 4 (fld n 25 22)) (.ofNat 4 (fld n 21 18)))
  else if fld n 9 0 = 16 then some (.ncwait (.ofNat 4 (fld n 25 22)) (.ofNat 4 (fld n 21 18)) (.ofNat 4 (fld n 17 14)) (.ofNat 4 (fld n 13 10)))
  else if fld n 17 0 = 32 then some (.ncrd (.ofNat 4 (fld n 25 22)) (.ofNat 4 (fld n 21 18)))
  else if fld n 9 0 = 48 then some (.nreg (.ofNat 4 (fld n 25 22)) (.ofNat 4 (fld n 21 18)) (.ofNat 4 (fld n 17 14)) (.ofNat 4 (fld n 13 10)))
  else none

/-- The word of `ADD` (R53). -/
def wordAdd (d : BitVec 4) (a : BitVec 4) (b : BitVec 4) (w : Bool) : Nat :=
  0x04000000 + d.toNat * 2 ^ 22 + a.toNat * 2 ^ 18 + b.toNat * 2 ^ 14 + w.toNat * 2 ^ 0

/-- The word of `SUB` (R53). -/
def wordSub (d : BitVec 4) (a : BitVec 4) (b : BitVec 4) (w : Bool) : Nat :=
  0x04000010 + d.toNat * 2 ^ 22 + a.toNat * 2 ^ 18 + b.toNat * 2 ^ 14 + w.toNat * 2 ^ 0

/-- The word of `AND` (R53). -/
def wordAnd (d : BitVec 4) (a : BitVec 4) (b : BitVec 4) (w : Bool) : Nat :=
  0x04000020 + d.toNat * 2 ^ 22 + a.toNat * 2 ^ 18 + b.toNat * 2 ^ 14 + w.toNat * 2 ^ 0

/-- The word of `OR` (R53). -/
def wordOr (d : BitVec 4) (a : BitVec 4) (b : BitVec 4) (w : Bool) : Nat :=
  0x04000030 + d.toNat * 2 ^ 22 + a.toNat * 2 ^ 18 + b.toNat * 2 ^ 14 + w.toNat * 2 ^ 0

/-- The word of `XOR` (R53). -/
def wordXor (d : BitVec 4) (a : BitVec 4) (b : BitVec 4) (w : Bool) : Nat :=
  0x04000040 + d.toNat * 2 ^ 22 + a.toNat * 2 ^ 18 + b.toNat * 2 ^ 14 + w.toNat * 2 ^ 0

/-- The word of `ANDN` (R53). -/
def wordAndn (d : BitVec 4) (a : BitVec 4) (b : BitVec 4) (w : Bool) : Nat :=
  0x04000050 + d.toNat * 2 ^ 22 + a.toNat * 2 ^ 18 + b.toNat * 2 ^ 14 + w.toNat * 2 ^ 0

/-- The word of `ORN` (R53). -/
def wordOrn (d : BitVec 4) (a : BitVec 4) (b : BitVec 4) (w : Bool) : Nat :=
  0x04000060 + d.toNat * 2 ^ 22 + a.toNat * 2 ^ 18 + b.toNat * 2 ^ 14 + w.toNat * 2 ^ 0

/-- The word of `SHL` (R53). -/
def wordShl (d : BitVec 4) (a : BitVec 4) (b : BitVec 4) (w : Bool) : Nat :=
  0x04000070 + d.toNat * 2 ^ 22 + a.toNat * 2 ^ 18 + b.toNat * 2 ^ 14 + w.toNat * 2 ^ 0

/-- The word of `SHR` (R53). -/
def wordShr (d : BitVec 4) (a : BitVec 4) (b : BitVec 4) (w : Bool) : Nat :=
  0x04000080 + d.toNat * 2 ^ 22 + a.toNat * 2 ^ 18 + b.toNat * 2 ^ 14 + w.toNat * 2 ^ 0

/-- The word of `SRA` (R53). -/
def wordSra (d : BitVec 4) (a : BitVec 4) (b : BitVec 4) (w : Bool) : Nat :=
  0x04000090 + d.toNat * 2 ^ 22 + a.toNat * 2 ^ 18 + b.toNat * 2 ^ 14 + w.toNat * 2 ^ 0

/-- The word of `ROL` (R53). -/
def wordRol (d : BitVec 4) (a : BitVec 4) (b : BitVec 4) (w : Bool) : Nat :=
  0x040000A0 + d.toNat * 2 ^ 22 + a.toNat * 2 ^ 18 + b.toNat * 2 ^ 14 + w.toNat * 2 ^ 0

/-- The word of `ROR` (R53). -/
def wordRor (d : BitVec 4) (a : BitVec 4) (b : BitVec 4) (w : Bool) : Nat :=
  0x040000B0 + d.toNat * 2 ^ 22 + a.toNat * 2 ^ 18 + b.toNat * 2 ^ 14 + w.toNat * 2 ^ 0

/-- The word of `MIN` (R53). -/
def wordMin (d : BitVec 4) (a : BitVec 4) (b : BitVec 4) (w : Bool) : Nat :=
  0x040000C0 + d.toNat * 2 ^ 22 + a.toNat * 2 ^ 18 + b.toNat * 2 ^ 14 + w.toNat * 2 ^ 0

/-- The word of `MAX` (R53). -/
def wordMax (d : BitVec 4) (a : BitVec 4) (b : BitVec 4) (w : Bool) : Nat :=
  0x040000D0 + d.toNat * 2 ^ 22 + a.toNat * 2 ^ 18 + b.toNat * 2 ^ 14 + w.toNat * 2 ^ 0

/-- The word of `MINN` (R53). -/
def wordMinn (d : BitVec 4) (a : BitVec 4) (b : BitVec 4) (w : Bool) : Nat :=
  0x040000E0 + d.toNat * 2 ^ 22 + a.toNat * 2 ^ 18 + b.toNat * 2 ^ 14 + w.toNat * 2 ^ 0

/-- The word of `MAXN` (R53). -/
def wordMaxn (d : BitVec 4) (a : BitVec 4) (b : BitVec 4) (w : Bool) : Nat :=
  0x040000F0 + d.toNat * 2 ^ 22 + a.toNat * 2 ^ 18 + b.toNat * 2 ^ 14 + w.toNat * 2 ^ 0

/-- The word of `SLT` (R53). -/
def wordSlt (d : BitVec 4) (a : BitVec 4) (b : BitVec 4) (w : Bool) : Nat :=
  0x04000100 + d.toNat * 2 ^ 22 + a.toNat * 2 ^ 18 + b.toNat * 2 ^ 14 + w.toNat * 2 ^ 0

/-- The word of `SLTN` (R53). -/
def wordSltn (d : BitVec 4) (a : BitVec 4) (b : BitVec 4) (w : Bool) : Nat :=
  0x04000110 + d.toNat * 2 ^ 22 + a.toNat * 2 ^ 18 + b.toNat * 2 ^ 14 + w.toNat * 2 ^ 0

/-- The word of `SEQ` (R53). -/
def wordSeq (d : BitVec 4) (a : BitVec 4) (b : BitVec 4) (w : Bool) : Nat :=
  0x04000120 + d.toNat * 2 ^ 22 + a.toNat * 2 ^ 18 + b.toNat * 2 ^ 14 + w.toNat * 2 ^ 0

/-- The word of `SNE` (R53). -/
def wordSne (d : BitVec 4) (a : BitVec 4) (b : BitVec 4) (w : Bool) : Nat :=
  0x04000130 + d.toNat * 2 ^ 22 + a.toNat * 2 ^ 18 + b.toNat * 2 ^ 14 + w.toNat * 2 ^ 0

/-- The word of `MUL` (R53). -/
def wordMul (d : BitVec 4) (a : BitVec 4) (b : BitVec 4) (w : Bool) : Nat :=
  0x04000140 + d.toNat * 2 ^ 22 + a.toNat * 2 ^ 18 + b.toNat * 2 ^ 14 + w.toNat * 2 ^ 0

/-- The word of `MULH` (R53). -/
def wordMulh (d : BitVec 4) (a : BitVec 4) (b : BitVec 4) (w : Bool) : Nat :=
  0x04000150 + d.toNat * 2 ^ 22 + a.toNat * 2 ^ 18 + b.toNat * 2 ^ 14 + w.toNat * 2 ^ 0

/-- The word of `MULHN` (R53). -/
def wordMulhn (d : BitVec 4) (a : BitVec 4) (b : BitVec 4) (w : Bool) : Nat :=
  0x04000160 + d.toNat * 2 ^ 22 + a.toNat * 2 ^ 18 + b.toNat * 2 ^ 14 + w.toNat * 2 ^ 0

/-- The word of `CLZ` (R53). -/
def wordClz (d : BitVec 4) (a : BitVec 4) (w : Bool) : Nat :=
  0x04000170 + d.toNat * 2 ^ 22 + a.toNat * 2 ^ 18 + w.toNat * 2 ^ 0

/-- The word of `CTZ` (R53). -/
def wordCtz (d : BitVec 4) (a : BitVec 4) (w : Bool) : Nat :=
  0x04000180 + d.toNat * 2 ^ 22 + a.toNat * 2 ^ 18 + w.toNat * 2 ^ 0

/-- The word of `POPC` (R53). -/
def wordPopc (d : BitVec 4) (a : BitVec 4) (w : Bool) : Nat :=
  0x04000190 + d.toNat * 2 ^ 22 + a.toNat * 2 ^ 18 + w.toNat * 2 ^ 0

/-- The word of `BREV` (R53). -/
def wordBrev (d : BitVec 4) (a : BitVec 4) (w : Bool) : Nat :=
  0x040001A0 + d.toNat * 2 ^ 22 + a.toNat * 2 ^ 18 + w.toNat * 2 ^ 0

/-- The word of `BSWAP` (R53). -/
def wordBswap (d : BitVec 4) (a : BitVec 4) (w : Bool) : Nat :=
  0x040001B0 + d.toNat * 2 ^ 22 + a.toNat * 2 ^ 18 + w.toNat * 2 ^ 0

/-- The word of `SEL` (R53). -/
def wordSel (d : BitVec 4) (a : BitVec 4) (b : BitVec 4) (c : BitVec 4) (w : Bool) : Nat :=
  0x040001C0 + d.toNat * 2 ^ 22 + a.toNat * 2 ^ 18 + b.toNat * 2 ^ 14 + c.toNat * 2 ^ 10 + w.toNat * 2 ^ 0

/-- The word of `EXTR` (R53). -/
def wordExtr (d : BitVec 4) (a : BitVec 4) (b : BitVec 4) (c : BitVec 4) (w : Bool) : Nat :=
  0x040001D0 + d.toNat * 2 ^ 22 + a.toNat * 2 ^ 18 + b.toNat * 2 ^ 14 + c.toNat * 2 ^ 10 + w.toNat * 2 ^ 0

/-- The word of `EXTRS` (R53). -/
def wordExtrs (d : BitVec 4) (a : BitVec 4) (b : BitVec 4) (c : BitVec 4) (w : Bool) : Nat :=
  0x040001E0 + d.toNat * 2 ^ 22 + a.toNat * 2 ^ 18 + b.toNat * 2 ^ 14 + c.toNat * 2 ^ 10 + w.toNat * 2 ^ 0

/-- The word of `INSB` (R53). -/
def wordInsb (d : BitVec 4) (a : BitVec 4) (b : BitVec 4) (c : BitVec 4) (w : Bool) : Nat :=
  0x040001F0 + d.toNat * 2 ^ 22 + a.toNat * 2 ^ 18 + b.toNat * 2 ^ 14 + c.toNat * 2 ^ 10 + w.toNat * 2 ^ 0

/-- The word of `DIV` (R53). -/
def wordDiv (d : BitVec 4) (a : BitVec 4) (b : BitVec 4) (l : BitVec 4) (w : Bool) : Nat :=
  0x08000000 + d.toNat * 2 ^ 22 + a.toNat * 2 ^ 18 + b.toNat * 2 ^ 14 + l.toNat * 2 ^ 10 + w.toNat * 2 ^ 0

/-- The word of `DIVN` (R53). -/
def wordDivn (d : BitVec 4) (a : BitVec 4) (b : BitVec 4) (l : BitVec 4) (w : Bool) : Nat :=
  0x08000010 + d.toNat * 2 ^ 22 + a.toNat * 2 ^ 18 + b.toNat * 2 ^ 14 + l.toNat * 2 ^ 10 + w.toNat * 2 ^ 0

/-- The word of `REM` (R53). -/
def wordRem (d : BitVec 4) (a : BitVec 4) (b : BitVec 4) (l : BitVec 4) (w : Bool) : Nat :=
  0x08000020 + d.toNat * 2 ^ 22 + a.toNat * 2 ^ 18 + b.toNat * 2 ^ 14 + l.toNat * 2 ^ 10 + w.toNat * 2 ^ 0

/-- The word of `REMN` (R53). -/
def wordRemn (d : BitVec 4) (a : BitVec 4) (b : BitVec 4) (l : BitVec 4) (w : Bool) : Nat :=
  0x08000030 + d.toNat * 2 ^ 22 + a.toNat * 2 ^ 18 + b.toNat * 2 ^ 14 + l.toNat * 2 ^ 10 + w.toNat * 2 ^ 0

/-- The word of `ADDI` (R53). -/
def wordAddi (d : BitVec 4) (a : BitVec 4) (i : BitVec 18) : Nat :=
  0x0C000000 + d.toNat * 2 ^ 22 + a.toNat * 2 ^ 18 + i.toNat * 2 ^ 0

/-- The word of `ANDI` (R53). -/
def wordAndi (d : BitVec 4) (a : BitVec 4) (i : BitVec 18) : Nat :=
  0x10000000 + d.toNat * 2 ^ 22 + a.toNat * 2 ^ 18 + i.toNat * 2 ^ 0

/-- The word of `ORI` (R53). -/
def wordOri (d : BitVec 4) (a : BitVec 4) (i : BitVec 18) : Nat :=
  0x14000000 + d.toNat * 2 ^ 22 + a.toNat * 2 ^ 18 + i.toNat * 2 ^ 0

/-- The word of `XORI` (R53). -/
def wordXori (d : BitVec 4) (a : BitVec 4) (i : BitVec 18) : Nat :=
  0x18000000 + d.toNat * 2 ^ 22 + a.toNat * 2 ^ 18 + i.toNat * 2 ^ 0

/-- The word of `SHLI` (R53). -/
def wordShli (d : BitVec 4) (a : BitVec 4) (n : BitVec 6) : Nat :=
  0x1C000000 + d.toNat * 2 ^ 22 + a.toNat * 2 ^ 18 + n.toNat * 2 ^ 0

/-- The word of `SHRI` (R53). -/
def wordShri (d : BitVec 4) (a : BitVec 4) (n : BitVec 6) : Nat :=
  0x1C010000 + d.toNat * 2 ^ 22 + a.toNat * 2 ^ 18 + n.toNat * 2 ^ 0

/-- The word of `SRAI` (R53). -/
def wordSrai (d : BitVec 4) (a : BitVec 4) (n : BitVec 6) : Nat :=
  0x1C020000 + d.toNat * 2 ^ 22 + a.toNat * 2 ^ 18 + n.toNat * 2 ^ 0

/-- The word of `ROLI` (R53). -/
def wordRoli (d : BitVec 4) (a : BitVec 4) (n : BitVec 6) : Nat :=
  0x1C030000 + d.toNat * 2 ^ 22 + a.toNat * 2 ^ 18 + n.toNat * 2 ^ 0

/-- The word of `SLTI` (R53). -/
def wordSlti (d : BitVec 4) (a : BitVec 4) (i : BitVec 18) : Nat :=
  0x20000000 + d.toNat * 2 ^ 22 + a.toNat * 2 ^ 18 + i.toNat * 2 ^ 0

/-- The word of `SLTNI` (R53). -/
def wordSltni (d : BitVec 4) (a : BitVec 4) (i : BitVec 18) : Nat :=
  0x24000000 + d.toNat * 2 ^ 22 + a.toNat * 2 ^ 18 + i.toNat * 2 ^ 0

/-- The word of `LI` (R53). -/
def wordLi (d : BitVec 4) (i : BitVec 18) : Nat :=
  0x28000000 + d.toNat * 2 ^ 22 + i.toNat * 2 ^ 0

/-- The word of `LPC` (R53). -/
def wordLpc (d : BitVec 4) (i : BitVec 18) : Nat :=
  0x2C000000 + d.toNat * 2 ^ 22 + i.toNat * 2 ^ 0

/-- The word of `MULI` (R53). -/
def wordMuli (d : BitVec 4) (a : BitVec 4) (i : BitVec 18) : Nat :=
  0x30000000 + d.toNat * 2 ^ 22 + a.toNat * 2 ^ 18 + i.toNat * 2 ^ 0

/-- The word of `BEQ` (R53). -/
def wordBeq (a : BitVec 4) (b : BitVec 4) (i : BitVec 14) : Nat :=
  0x34000000 + a.toNat * 2 ^ 18 + b.toNat * 2 ^ 14 + i.toNat * 2 ^ 0

/-- The word of `BNE` (R53). -/
def wordBne (a : BitVec 4) (b : BitVec 4) (i : BitVec 14) : Nat :=
  0x34400000 + a.toNat * 2 ^ 18 + b.toNat * 2 ^ 14 + i.toNat * 2 ^ 0

/-- The word of `BLT` (R53). -/
def wordBlt (a : BitVec 4) (b : BitVec 4) (i : BitVec 14) : Nat :=
  0x34800000 + a.toNat * 2 ^ 18 + b.toNat * 2 ^ 14 + i.toNat * 2 ^ 0

/-- The word of `BGE` (R53). -/
def wordBge (a : BitVec 4) (b : BitVec 4) (i : BitVec 14) : Nat :=
  0x34C00000 + a.toNat * 2 ^ 18 + b.toNat * 2 ^ 14 + i.toNat * 2 ^ 0

/-- The word of `BLTN` (R53). -/
def wordBltn (a : BitVec 4) (b : BitVec 4) (i : BitVec 14) : Nat :=
  0x35000000 + a.toNat * 2 ^ 18 + b.toNat * 2 ^ 14 + i.toNat * 2 ^ 0

/-- The word of `BGEN` (R53). -/
def wordBgen (a : BitVec 4) (b : BitVec 4) (i : BitVec 14) : Nat :=
  0x35400000 + a.toNat * 2 ^ 18 + b.toNat * 2 ^ 14 + i.toNat * 2 ^ 0

/-- The word of `BEQZ` (R53). -/
def wordBeqz (a : BitVec 4) (i : BitVec 18) : Nat :=
  0x38000000 + a.toNat * 2 ^ 18 + i.toNat * 2 ^ 0

/-- The word of `BNEZ` (R53). -/
def wordBnez (a : BitVec 4) (i : BitVec 18) : Nat :=
  0x38400000 + a.toNat * 2 ^ 18 + i.toNat * 2 ^ 0

/-- The word of `BLTZ` (R53). -/
def wordBltz (a : BitVec 4) (i : BitVec 18) : Nat :=
  0x38800000 + a.toNat * 2 ^ 18 + i.toNat * 2 ^ 0

/-- The word of `BGEZ` (R53). -/
def wordBgez (a : BitVec 4) (i : BitVec 18) : Nat :=
  0x38C00000 + a.toNat * 2 ^ 18 + i.toNat * 2 ^ 0

/-- The word of `BGTZ` (R53). -/
def wordBgtz (a : BitVec 4) (i : BitVec 18) : Nat :=
  0x39000000 + a.toNat * 2 ^ 18 + i.toNat * 2 ^ 0

/-- The word of `BLEZ` (R53). -/
def wordBlez (a : BitVec 4) (i : BitVec 18) : Nat :=
  0x39400000 + a.toNat * 2 ^ 18 + i.toNat * 2 ^ 0

/-- The word of `J` (R53). -/
def wordJ (i : BitVec 26) : Nat :=
  0x3C000000 + i.toNat * 2 ^ 0

/-- The word of `JL` (R53). -/
def wordJl (i : BitVec 26) : Nat :=
  0x40000000 + i.toNat * 2 ^ 0

/-- The word of `JR` (R53). -/
def wordJr (a : BitVec 4) : Nat :=
  0x44000000 + a.toNat * 2 ^ 18

/-- The word of `JLR` (R53). -/
def wordJlr (d : BitVec 4) (a : BitVec 4) : Nat :=
  0x44000010 + d.toNat * 2 ^ 22 + a.toNat * 2 ^ 18

/-- The word of `TRAP` (R53). -/
def wordTrap (n : BitVec 8) : Nat :=
  0x48000000 + n.toNat * 2 ^ 10

/-- The word of `ERET` (R53). -/
def wordEret  : Nat :=
  0x48000010

/-- The word of `SREAD` (R53). -/
def wordSread (d : BitVec 4) (n : BitVec 8) : Nat :=
  0x48000020 + d.toNat * 2 ^ 22 + n.toNat * 2 ^ 10

/-- The word of `SWRITE` (R53). -/
def wordSwrite (a : BitVec 4) (n : BitVec 8) : Nat :=
  0x48000030 + a.toNat * 2 ^ 18 + n.toNat * 2 ^ 10

/-- The word of `ICINV` (R53). -/
def wordIcinv (a : BitVec 4) (b : BitVec 4) (s : BitVec 3) : Nat :=
  0x48000040 + a.toNat * 2 ^ 18 + b.toNat * 2 ^ 14 + s.toNat * 2 ^ 0

/-- The word of `BRK` (R53). -/
def wordBrk  : Nat :=
  0x48000050

/-- The word of `HALT` (R53). -/
def wordHalt  : Nat :=
  0x48000060

/-- The word of `FENCE` (R53). -/
def wordFence (e : Bool) (k : BitVec 2) (s : BitVec 3) : Nat :=
  0x4C000000 + e.toNat * 2 ^ 12 + k.toNat * 2 ^ 10 + s.toNat * 2 ^ 0

/-- The word of `HIMM` (R53). -/
def wordHimm (p : BitVec 24) : Nat :=
  0xFC000000 + p.toNat * 2 ^ 0

/-- The word of `HMOD` (R53). -/
def wordHmod (p : BitVec 24) : Nat :=
  0xFD000000 + p.toNat * 2 ^ 0

/-- The word of `HSCHED` (R53). -/
def wordHsched (p : BitVec 24) : Nat :=
  0xFE000000 + p.toNat * 2 ^ 0

/-- The word of `HSCHED_HOLD` (R53). -/
def wordHschedHold (p : BitVec 21) : Nat :=
  0xFE200000 + p.toNat * 2 ^ 0

/-- The word of `HSCHED_IFETCH` (R53). -/
def wordHschedIfetch (p : BitVec 21) : Nat :=
  0xFE400000 + p.toNat * 2 ^ 0

/-- The word of `VADD` (R53). -/
def wordVadd (d : BitVec 4) (a : BitVec 4) (b : BitVec 4) (m : BitVec 2) (w : BitVec 2) : Nat :=
  0x50000000 + d.toNat * 2 ^ 22 + a.toNat * 2 ^ 18 + b.toNat * 2 ^ 14 + m.toNat * 2 ^ 2 + w.toNat * 2 ^ 0

/-- The word of `VSUB` (R53). -/
def wordVsub (d : BitVec 4) (a : BitVec 4) (b : BitVec 4) (m : BitVec 2) (w : BitVec 2) : Nat :=
  0x50000010 + d.toNat * 2 ^ 22 + a.toNat * 2 ^ 18 + b.toNat * 2 ^ 14 + m.toNat * 2 ^ 2 + w.toNat * 2 ^ 0

/-- The word of `VADDS` (R53). -/
def wordVadds (d : BitVec 4) (a : BitVec 4) (b : BitVec 4) (m : BitVec 2) (w : BitVec 2) : Nat :=
  0x50000020 + d.toNat * 2 ^ 22 + a.toNat * 2 ^ 18 + b.toNat * 2 ^ 14 + m.toNat * 2 ^ 2 + w.toNat * 2 ^ 0

/-- The word of `VADDSN` (R53). -/
def wordVaddsn (d : BitVec 4) (a : BitVec 4) (b : BitVec 4) (m : BitVec 2) (w : BitVec 2) : Nat :=
  0x50000030 + d.toNat * 2 ^ 22 + a.toNat * 2 ^ 18 + b.toNat * 2 ^ 14 + m.toNat * 2 ^ 2 + w.toNat * 2 ^ 0

/-- The word of `VSUBS` (R53). -/
def wordVsubs (d : BitVec 4) (a : BitVec 4) (b : BitVec 4) (m : BitVec 2) (w : BitVec 2) : Nat :=
  0x50000040 + d.toNat * 2 ^ 22 + a.toNat * 2 ^ 18 + b.toNat * 2 ^ 14 + m.toNat * 2 ^ 2 + w.toNat * 2 ^ 0

/-- The word of `VSUBSN` (R53). -/
def wordVsubsn (d : BitVec 4) (a : BitVec 4) (b : BitVec 4) (m : BitVec 2) (w : BitVec 2) : Nat :=
  0x50000050 + d.toNat * 2 ^ 22 + a.toNat * 2 ^ 18 + b.toNat * 2 ^ 14 + m.toNat * 2 ^ 2 + w.toNat * 2 ^ 0

/-- The word of `VMUL` (R53). -/
def wordVmul (d : BitVec 4) (a : BitVec 4) (b : BitVec 4) (m : BitVec 2) (w : BitVec 2) : Nat :=
  0x50000060 + d.toNat * 2 ^ 22 + a.toNat * 2 ^ 18 + b.toNat * 2 ^ 14 + m.toNat * 2 ^ 2 + w.toNat * 2 ^ 0

/-- The word of `VMULH` (R53). -/
def wordVmulh (d : BitVec 4) (a : BitVec 4) (b : BitVec 4) (m : BitVec 2) (w : BitVec 2) : Nat :=
  0x50000070 + d.toNat * 2 ^ 22 + a.toNat * 2 ^ 18 + b.toNat * 2 ^ 14 + m.toNat * 2 ^ 2 + w.toNat * 2 ^ 0

/-- The word of `VMULHN` (R53). -/
def wordVmulhn (d : BitVec 4) (a : BitVec 4) (b : BitVec 4) (m : BitVec 2) (w : BitVec 2) : Nat :=
  0x50000080 + d.toNat * 2 ^ 22 + a.toNat * 2 ^ 18 + b.toNat * 2 ^ 14 + m.toNat * 2 ^ 2 + w.toNat * 2 ^ 0

/-- The word of `VMIN` (R53). -/
def wordVmin (d : BitVec 4) (a : BitVec 4) (b : BitVec 4) (m : BitVec 2) (w : BitVec 2) : Nat :=
  0x50000090 + d.toNat * 2 ^ 22 + a.toNat * 2 ^ 18 + b.toNat * 2 ^ 14 + m.toNat * 2 ^ 2 + w.toNat * 2 ^ 0

/-- The word of `VMAX` (R53). -/
def wordVmax (d : BitVec 4) (a : BitVec 4) (b : BitVec 4) (m : BitVec 2) (w : BitVec 2) : Nat :=
  0x500000A0 + d.toNat * 2 ^ 22 + a.toNat * 2 ^ 18 + b.toNat * 2 ^ 14 + m.toNat * 2 ^ 2 + w.toNat * 2 ^ 0

/-- The word of `VMINN` (R53). -/
def wordVminn (d : BitVec 4) (a : BitVec 4) (b : BitVec 4) (m : BitVec 2) (w : BitVec 2) : Nat :=
  0x500000B0 + d.toNat * 2 ^ 22 + a.toNat * 2 ^ 18 + b.toNat * 2 ^ 14 + m.toNat * 2 ^ 2 + w.toNat * 2 ^ 0

/-- The word of `VMAXN` (R53). -/
def wordVmaxn (d : BitVec 4) (a : BitVec 4) (b : BitVec 4) (m : BitVec 2) (w : BitVec 2) : Nat :=
  0x500000C0 + d.toNat * 2 ^ 22 + a.toNat * 2 ^ 18 + b.toNat * 2 ^ 14 + m.toNat * 2 ^ 2 + w.toNat * 2 ^ 0

/-- The word of `VAND` (R53). -/
def wordVand (d : BitVec 4) (a : BitVec 4) (b : BitVec 4) (m : BitVec 2) (w : BitVec 2) : Nat :=
  0x500000D0 + d.toNat * 2 ^ 22 + a.toNat * 2 ^ 18 + b.toNat * 2 ^ 14 + m.toNat * 2 ^ 2 + w.toNat * 2 ^ 0

/-- The word of `VOR` (R53). -/
def wordVor (d : BitVec 4) (a : BitVec 4) (b : BitVec 4) (m : BitVec 2) (w : BitVec 2) : Nat :=
  0x500000E0 + d.toNat * 2 ^ 22 + a.toNat * 2 ^ 18 + b.toNat * 2 ^ 14 + m.toNat * 2 ^ 2 + w.toNat * 2 ^ 0

/-- The word of `VXOR` (R53). -/
def wordVxor (d : BitVec 4) (a : BitVec 4) (b : BitVec 4) (m : BitVec 2) (w : BitVec 2) : Nat :=
  0x500000F0 + d.toNat * 2 ^ 22 + a.toNat * 2 ^ 18 + b.toNat * 2 ^ 14 + m.toNat * 2 ^ 2 + w.toNat * 2 ^ 0

/-- The word of `VANDN` (R53). -/
def wordVandn (d : BitVec 4) (a : BitVec 4) (b : BitVec 4) (m : BitVec 2) (w : BitVec 2) : Nat :=
  0x50000100 + d.toNat * 2 ^ 22 + a.toNat * 2 ^ 18 + b.toNat * 2 ^ 14 + m.toNat * 2 ^ 2 + w.toNat * 2 ^ 0

/-- The word of `VSHL` (R53). -/
def wordVshl (d : BitVec 4) (a : BitVec 4) (b : BitVec 4) (m : BitVec 2) (w : BitVec 2) : Nat :=
  0x50000110 + d.toNat * 2 ^ 22 + a.toNat * 2 ^ 18 + b.toNat * 2 ^ 14 + m.toNat * 2 ^ 2 + w.toNat * 2 ^ 0

/-- The word of `VSHR` (R53). -/
def wordVshr (d : BitVec 4) (a : BitVec 4) (b : BitVec 4) (m : BitVec 2) (w : BitVec 2) : Nat :=
  0x50000120 + d.toNat * 2 ^ 22 + a.toNat * 2 ^ 18 + b.toNat * 2 ^ 14 + m.toNat * 2 ^ 2 + w.toNat * 2 ^ 0

/-- The word of `VSRA` (R53). -/
def wordVsra (d : BitVec 4) (a : BitVec 4) (b : BitVec 4) (m : BitVec 2) (w : BitVec 2) : Nat :=
  0x50000130 + d.toNat * 2 ^ 22 + a.toNat * 2 ^ 18 + b.toNat * 2 ^ 14 + m.toNat * 2 ^ 2 + w.toNat * 2 ^ 0

/-- The word of `VABS` (R53). -/
def wordVabs (d : BitVec 4) (a : BitVec 4) (m : BitVec 2) (w : BitVec 2) : Nat :=
  0x50000140 + d.toNat * 2 ^ 22 + a.toNat * 2 ^ 18 + m.toNat * 2 ^ 2 + w.toNat * 2 ^ 0

/-- The word of `VAVG` (R53). -/
def wordVavg (d : BitVec 4) (a : BitVec 4) (b : BitVec 4) (m : BitVec 2) (w : BitVec 2) : Nat :=
  0x50000150 + d.toNat * 2 ^ 22 + a.toNat * 2 ^ 18 + b.toNat * 2 ^ 14 + m.toNat * 2 ^ 2 + w.toNat * 2 ^ 0

/-- The word of `VAVGN` (R53). -/
def wordVavgn (d : BitVec 4) (a : BitVec 4) (b : BitVec 4) (m : BitVec 2) (w : BitVec 2) : Nat :=
  0x50000160 + d.toNat * 2 ^ 22 + a.toNat * 2 ^ 18 + b.toNat * 2 ^ 14 + m.toNat * 2 ^ 2 + w.toNat * 2 ^ 0

/-- The word of `VDOT4` (R53). -/
def wordVdot4 (d : BitVec 4) (a : BitVec 4) (b : BitVec 4) (m : BitVec 2) : Nat :=
  0x50000172 + d.toNat * 2 ^ 22 + a.toNat * 2 ^ 18 + b.toNat * 2 ^ 14 + m.toNat * 2 ^ 2

/-- The word of `VDOT4N` (R53). -/
def wordVdot4n (d : BitVec 4) (a : BitVec 4) (b : BitVec 4) (m : BitVec 2) : Nat :=
  0x50000182 + d.toNat * 2 ^ 22 + a.toNat * 2 ^ 18 + b.toNat * 2 ^ 14 + m.toNat * 2 ^ 2

/-- The word of `VCMPEQ` (R53). -/
def wordVcmpeq (d : BitVec 2) (a : BitVec 4) (b : BitVec 4) (m : BitVec 2) (w : BitVec 2) : Nat :=
  0x50000190 + d.toNat * 2 ^ 22 + a.toNat * 2 ^ 18 + b.toNat * 2 ^ 14 + m.toNat * 2 ^ 2 + w.toNat * 2 ^ 0

/-- The word of `VCMPLT` (R53). -/
def wordVcmplt (d : BitVec 2) (a : BitVec 4) (b : BitVec 4) (m : BitVec 2) (w : BitVec 2) : Nat :=
  0x500001A0 + d.toNat * 2 ^ 22 + a.toNat * 2 ^ 18 + b.toNat * 2 ^ 14 + m.toNat * 2 ^ 2 + w.toNat * 2 ^ 0

/-- The word of `VCMPLTN` (R53). -/
def wordVcmpltn (d : BitVec 2) (a : BitVec 4) (b : BitVec 4) (m : BitVec 2) (w : BitVec 2) : Nat :=
  0x500001B0 + d.toNat * 2 ^ 22 + a.toNat * 2 ^ 18 + b.toNat * 2 ^ 14 + m.toNat * 2 ^ 2 + w.toNat * 2 ^ 0

/-- The word of `VSEL` (R53). -/
def wordVsel (d : BitVec 4) (a : BitVec 4) (b : BitVec 4) (c : BitVec 4) (m : BitVec 2) (w : BitVec 2) : Nat :=
  0x500001C0 + d.toNat * 2 ^ 22 + a.toNat * 2 ^ 18 + b.toNat * 2 ^ 14 + c.toNat * 2 ^ 10 + m.toNat * 2 ^ 2 + w.toNat * 2 ^ 0

/-- The word of `VFADD` (R53). -/
def wordVfadd (d : BitVec 4) (a : BitVec 4) (b : BitVec 4) (m : BitVec 2) (f : BitVec 2) : Nat :=
  0x54000000 + d.toNat * 2 ^ 22 + a.toNat * 2 ^ 18 + b.toNat * 2 ^ 14 + m.toNat * 2 ^ 2 + f.toNat * 2 ^ 0

/-- The word of `VFSUB` (R53). -/
def wordVfsub (d : BitVec 4) (a : BitVec 4) (b : BitVec 4) (m : BitVec 2) (f : BitVec 2) : Nat :=
  0x54000010 + d.toNat * 2 ^ 22 + a.toNat * 2 ^ 18 + b.toNat * 2 ^ 14 + m.toNat * 2 ^ 2 + f.toNat * 2 ^ 0

/-- The word of `VFMUL` (R53). -/
def wordVfmul (d : BitVec 4) (a : BitVec 4) (b : BitVec 4) (m : BitVec 2) (f : BitVec 2) : Nat :=
  0x54000020 + d.toNat * 2 ^ 22 + a.toNat * 2 ^ 18 + b.toNat * 2 ^ 14 + m.toNat * 2 ^ 2 + f.toNat * 2 ^ 0

/-- The word of `VFMIN` (R53). -/
def wordVfmin (d : BitVec 4) (a : BitVec 4) (b : BitVec 4) (m : BitVec 2) (f : BitVec 2) : Nat :=
  0x54000030 + d.toNat * 2 ^ 22 + a.toNat * 2 ^ 18 + b.toNat * 2 ^ 14 + m.toNat * 2 ^ 2 + f.toNat * 2 ^ 0

/-- The word of `VFMAX` (R53). -/
def wordVfmax (d : BitVec 4) (a : BitVec 4) (b : BitVec 4) (m : BitVec 2) (f : BitVec 2) : Nat :=
  0x54000040 + d.toNat * 2 ^ 22 + a.toNat * 2 ^ 18 + b.toNat * 2 ^ 14 + m.toNat * 2 ^ 2 + f.toNat * 2 ^ 0

/-- The word of `VFABS` (R53). -/
def wordVfabs (d : BitVec 4) (a : BitVec 4) (m : BitVec 2) (f : BitVec 2) : Nat :=
  0x54000050 + d.toNat * 2 ^ 22 + a.toNat * 2 ^ 18 + m.toNat * 2 ^ 2 + f.toNat * 2 ^ 0

/-- The word of `VFNEG` (R53). -/
def wordVfneg (d : BitVec 4) (a : BitVec 4) (m : BitVec 2) (f : BitVec 2) : Nat :=
  0x54000060 + d.toNat * 2 ^ 22 + a.toNat * 2 ^ 18 + m.toNat * 2 ^ 2 + f.toNat * 2 ^ 0

/-- The word of `VFCMPEQ` (R53). -/
def wordVfcmpeq (d : BitVec 2) (a : BitVec 4) (b : BitVec 4) (m : BitVec 2) (f : BitVec 2) : Nat :=
  0x54000070 + d.toNat * 2 ^ 22 + a.toNat * 2 ^ 18 + b.toNat * 2 ^ 14 + m.toNat * 2 ^ 2 + f.toNat * 2 ^ 0

/-- The word of `VFCMPLT` (R53). -/
def wordVfcmplt (d : BitVec 2) (a : BitVec 4) (b : BitVec 4) (m : BitVec 2) (f : BitVec 2) : Nat :=
  0x54000080 + d.toNat * 2 ^ 22 + a.toNat * 2 ^ 18 + b.toNat * 2 ^ 14 + m.toNat * 2 ^ 2 + f.toNat * 2 ^ 0

/-- The word of `VFCMPLE` (R53). -/
def wordVfcmple (d : BitVec 2) (a : BitVec 4) (b : BitVec 4) (m : BitVec 2) (f : BitVec 2) : Nat :=
  0x54000090 + d.toNat * 2 ^ 22 + a.toNat * 2 ^ 18 + b.toNat * 2 ^ 14 + m.toNat * 2 ^ 2 + f.toNat * 2 ^ 0

/-- The word of `VFCMPUN` (R53). -/
def wordVfcmpun (d : BitVec 2) (a : BitVec 4) (b : BitVec 4) (m : BitVec 2) (f : BitVec 2) : Nat :=
  0x540000A0 + d.toNat * 2 ^ 22 + a.toNat * 2 ^ 18 + b.toNat * 2 ^ 14 + m.toNat * 2 ^ 2 + f.toNat * 2 ^ 0

/-- The word of `VFMA` (R53). -/
def wordVfma (d : BitVec 4) (a : BitVec 4) (b : BitVec 4) (c : BitVec 4) (m : BitVec 2) (f : BitVec 2) : Nat :=
  0x58000000 + d.toNat * 2 ^ 22 + a.toNat * 2 ^ 18 + b.toNat * 2 ^ 14 + c.toNat * 2 ^ 10 + m.toNat * 2 ^ 2 + f.toNat * 2 ^ 0

/-- The word of `VFMS` (R53). -/
def wordVfms (d : BitVec 4) (a : BitVec 4) (b : BitVec 4) (c : BitVec 4) (m : BitVec 2) (f : BitVec 2) : Nat :=
  0x58000010 + d.toNat * 2 ^ 22 + a.toNat * 2 ^ 18 + b.toNat * 2 ^ 14 + c.toNat * 2 ^ 10 + m.toNat * 2 ^ 2 + f.toNat * 2 ^ 0

/-- The word of `VFNMA` (R53). -/
def wordVfnma (d : BitVec 4) (a : BitVec 4) (b : BitVec 4) (c : BitVec 4) (m : BitVec 2) (f : BitVec 2) : Nat :=
  0x58000020 + d.toNat * 2 ^ 22 + a.toNat * 2 ^ 18 + b.toNat * 2 ^ 14 + c.toNat * 2 ^ 10 + m.toNat * 2 ^ 2 + f.toNat * 2 ^ 0

/-- The word of `VRCP` (R53). -/
def wordVrcp (d : BitVec 4) (a : BitVec 4) (l : BitVec 4) (m : BitVec 2) (f : BitVec 2) : Nat :=
  0x5C000000 + d.toNat * 2 ^ 22 + a.toNat * 2 ^ 18 + l.toNat * 2 ^ 10 + m.toNat * 2 ^ 2 + f.toNat * 2 ^ 0

/-- The word of `VRSQ` (R53). -/
def wordVrsq (d : BitVec 4) (a : BitVec 4) (l : BitVec 4) (m : BitVec 2) (f : BitVec 2) : Nat :=
  0x5C000010 + d.toNat * 2 ^ 22 + a.toNat * 2 ^ 18 + l.toNat * 2 ^ 10 + m.toNat * 2 ^ 2 + f.toNat * 2 ^ 0

/-- The word of `VSQRT` (R53). -/
def wordVsqrt (d : BitVec 4) (a : BitVec 4) (l : BitVec 4) (m : BitVec 2) (f : BitVec 2) : Nat :=
  0x5C000020 + d.toNat * 2 ^ 22 + a.toNat * 2 ^ 18 + l.toNat * 2 ^ 10 + m.toNat * 2 ^ 2 + f.toNat * 2 ^ 0

/-- The word of `VDIV` (R53). -/
def wordVdiv (d : BitVec 4) (a : BitVec 4) (b : BitVec 4) (l : BitVec 4) (m : BitVec 2) (f : BitVec 2) : Nat :=
  0x5C000030 + d.toNat * 2 ^ 22 + a.toNat * 2 ^ 18 + b.toNat * 2 ^ 14 + l.toNat * 2 ^ 10 + m.toNat * 2 ^ 2 + f.toNat * 2 ^ 0

/-- The word of `VEXP2` (R53). -/
def wordVexp2 (d : BitVec 4) (a : BitVec 4) (l : BitVec 4) (m : BitVec 2) (f : BitVec 2) : Nat :=
  0x5C000040 + d.toNat * 2 ^ 22 + a.toNat * 2 ^ 18 + l.toNat * 2 ^ 10 + m.toNat * 2 ^ 2 + f.toNat * 2 ^ 0

/-- The word of `VLOG2` (R53). -/
def wordVlog2 (d : BitVec 4) (a : BitVec 4) (l : BitVec 4) (m : BitVec 2) (f : BitVec 2) : Nat :=
  0x5C000050 + d.toNat * 2 ^ 22 + a.toNat * 2 ^ 18 + l.toNat * 2 ^ 10 + m.toNat * 2 ^ 2 + f.toNat * 2 ^ 0

/-- The word of `VTANH` (R53). -/
def wordVtanh (d : BitVec 4) (a : BitVec 4) (l : BitVec 4) (m : BitVec 2) (f : BitVec 2) : Nat :=
  0x5C000060 + d.toNat * 2 ^ 22 + a.toNat * 2 ^ 18 + l.toNat * 2 ^ 10 + m.toNat * 2 ^ 2 + f.toNat * 2 ^ 0

/-- The word of `VSHUF` (R53). -/
def wordVshuf (d : BitVec 4) (a : BitVec 4) (b : BitVec 4) (c : BitVec 4) (m : BitVec 2) (w : BitVec 2) : Nat :=
  0x60000000 + d.toNat * 2 ^ 22 + a.toNat * 2 ^ 18 + b.toNat * 2 ^ 14 + c.toNat * 2 ^ 10 + m.toNat * 2 ^ 2 + w.toNat * 2 ^ 0

/-- The word of `VZIP` (R53). -/
def wordVzip (d : BitVec 4) (a : BitVec 4) (b : BitVec 4) (h : Bool) (m : BitVec 2) (w : BitVec 2) : Nat :=
  0x60000010 + d.toNat * 2 ^ 22 + a.toNat * 2 ^ 18 + b.toNat * 2 ^ 14 + h.toNat * 2 ^ 10 + m.toNat * 2 ^ 2 + w.toNat * 2 ^ 0

/-- The word of `VUNZIP` (R53). -/
def wordVunzip (d : BitVec 4) (a : BitVec 4) (b : BitVec 4) (h : Bool) (m : BitVec 2) (w : BitVec 2) : Nat :=
  0x60000020 + d.toNat * 2 ^ 22 + a.toNat * 2 ^ 18 + b.toNat * 2 ^ 14 + h.toNat * 2 ^ 10 + m.toNat * 2 ^ 2 + w.toNat * 2 ^ 0

/-- The word of `VROTL` (R53). -/
def wordVrotl (d : BitVec 4) (a : BitVec 4) (b : BitVec 4) (m : BitVec 2) (w : BitVec 2) : Nat :=
  0x60000030 + d.toNat * 2 ^ 22 + a.toNat * 2 ^ 18 + b.toNat * 2 ^ 14 + m.toNat * 2 ^ 2 + w.toNat * 2 ^ 0

/-- The word of `VBCST` (R53). -/
def wordVbcst (d : BitVec 4) (a : BitVec 4) (b : BitVec 4) (m : BitVec 2) (w : BitVec 2) : Nat :=
  0x60000040 + d.toNat * 2 ^ 22 + a.toNat * 2 ^ 18 + b.toNat * 2 ^ 14 + m.toNat * 2 ^ 2 + w.toNat * 2 ^ 0

/-- The word of `VCOMPRESS` (R53). -/
def wordVcompress (d : BitVec 4) (a : BitVec 4) (m : BitVec 2) (w : BitVec 2) : Nat :=
  0x60000050 + d.toNat * 2 ^ 22 + a.toNat * 2 ^ 18 + m.toNat * 2 ^ 2 + w.toNat * 2 ^ 0

/-- The word of `MAND` (R53). -/
def wordMand (d : BitVec 2) (a : BitVec 2) (b : BitVec 2) : Nat :=
  0x64000000 + d.toNat * 2 ^ 22 + a.toNat * 2 ^ 18 + b.toNat * 2 ^ 14

/-- The word of `MOR` (R53). -/
def wordMor (d : BitVec 2) (a : BitVec 2) (b : BitVec 2) : Nat :=
  0x64000010 + d.toNat * 2 ^ 22 + a.toNat * 2 ^ 18 + b.toNat * 2 ^ 14

/-- The word of `MXOR` (R53). -/
def wordMxor (d : BitVec 2) (a : BitVec 2) (b : BitVec 2) : Nat :=
  0x64000020 + d.toNat * 2 ^ 22 + a.toNat * 2 ^ 18 + b.toNat * 2 ^ 14

/-- The word of `MNOT` (R53). -/
def wordMnot (d : BitVec 2) (a : BitVec 2) : Nat :=
  0x64000030 + d.toNat * 2 ^ 22 + a.toNat * 2 ^ 18

/-- The word of `MCNT` (R53). -/
def wordMcnt (d : BitVec 4) (a : BitVec 2) : Nat :=
  0x64000040 + d.toNat * 2 ^ 22 + a.toNat * 2 ^ 18

/-- The word of `MFF` (R53). -/
def wordMff (d : BitVec 4) (a : BitVec 2) : Nat :=
  0x64000050 + d.toNat * 2 ^ 22 + a.toNat * 2 ^ 18

/-- The word of `MFROMG` (R53). -/
def wordMfromg (d : BitVec 2) (a : BitVec 4) : Nat :=
  0x64000060 + d.toNat * 2 ^ 22 + a.toNat * 2 ^ 18

/-- The word of `MTOG` (R53). -/
def wordMtog (d : BitVec 4) (a : BitVec 2) : Nat :=
  0x64000070 + d.toNat * 2 ^ 22 + a.toNat * 2 ^ 18

/-- The word of `VSPLAT` (R53). -/
def wordVsplat (d : BitVec 4) (a : BitVec 4) (m : BitVec 2) (w : BitVec 2) : Nat :=
  0x68000000 + d.toNat * 2 ^ 22 + a.toNat * 2 ^ 18 + m.toNat * 2 ^ 2 + w.toNat * 2 ^ 0

/-- The word of `VINS` (R53). -/
def wordVins (d : BitVec 4) (a : BitVec 4) (b : BitVec 4) (m : BitVec 2) (w : BitVec 2) : Nat :=
  0x68000010 + d.toNat * 2 ^ 22 + a.toNat * 2 ^ 18 + b.toNat * 2 ^ 14 + m.toNat * 2 ^ 2 + w.toNat * 2 ^ 0

/-- The word of `VEXT` (R53). -/
def wordVext (d : BitVec 4) (a : BitVec 4) (b : BitVec 4) (w : BitVec 2) : Nat :=
  0x68000020 + d.toNat * 2 ^ 22 + a.toNat * 2 ^ 18 + b.toNat * 2 ^ 14 + w.toNat * 2 ^ 0

/-- The word of `VMOV` (R53). -/
def wordVmov (d : BitVec 4) (a : BitVec 4) (m : BitVec 2) (w : BitVec 2) : Nat :=
  0x68000030 + d.toNat * 2 ^ 22 + a.toNat * 2 ^ 18 + m.toNat * 2 ^ 2 + w.toNat * 2 ^ 0

/-- The word of `VRADD` (R53). -/
def wordVradd (d : BitVec 4) (a : BitVec 4) (m : BitVec 2) (w : BitVec 2) : Nat :=
  0x68000040 + d.toNat * 2 ^ 22 + a.toNat * 2 ^ 18 + m.toNat * 2 ^ 2 + w.toNat * 2 ^ 0

/-- The word of `VRMAX` (R53). -/
def wordVrmax (d : BitVec 4) (a : BitVec 4) (m : BitVec 2) (w : BitVec 2) : Nat :=
  0x68000050 + d.toNat * 2 ^ 22 + a.toNat * 2 ^ 18 + m.toNat * 2 ^ 2 + w.toNat * 2 ^ 0

/-- The word of `VRMIN` (R53). -/
def wordVrmin (d : BitVec 4) (a : BitVec 4) (m : BitVec 2) (w : BitVec 2) : Nat :=
  0x68000060 + d.toNat * 2 ^ 22 + a.toNat * 2 ^ 18 + m.toNat * 2 ^ 2 + w.toNat * 2 ^ 0

/-- The word of `VFRADD` (R53). -/
def wordVfradd (d : BitVec 4) (a : BitVec 4) (m : BitVec 2) (f : BitVec 2) : Nat :=
  0x68000070 + d.toNat * 2 ^ 22 + a.toNat * 2 ^ 18 + m.toNat * 2 ^ 2 + f.toNat * 2 ^ 0

/-- The word of `NSEND` (R53). -/
def wordNsend (a : BitVec 4) (r : Bool) : Nat :=
  0x6C000000 + a.toNat * 2 ^ 18 + r.toNat * 2 ^ 0

/-- The word of `NRECV` (R53). -/
def wordNrecv (d : BitVec 4) (r : Bool) : Nat :=
  0x6C000010 + d.toNat * 2 ^ 22 + r.toNat * 2 ^ 0

/-- The word of `NWIN` (R53). -/
def wordNwin (d : BitVec 4) (a : BitVec 4) (r : Bool) : Nat :=
  0x6C000020 + d.toNat * 2 ^ 22 + a.toNat * 2 ^ 18 + r.toNat * 2 ^ 0

/-- The word of `VCVTF` (R53). -/
def wordVcvtf (d : BitVec 4) (a : BitVec 4) (s : BitVec 4) (t : BitVec 4) (m : BitVec 2) (p : BitVec 2) : Nat :=
  0x70000000 + d.toNat * 2 ^ 22 + a.toNat * 2 ^ 18 + s.toNat * 2 ^ 14 + t.toNat * 2 ^ 10 + m.toNat * 2 ^ 2 + p.toNat * 2 ^ 0

/-- The word of `VCVTFI` (R53). -/
def wordVcvtfi (d : BitVec 4) (a : BitVec 4) (s : BitVec 4) (t : BitVec 4) (m : BitVec 2) (p : BitVec 2) : Nat :=
  0x70000010 + d.toNat * 2 ^ 22 + a.toNat * 2 ^ 18 + s.toNat * 2 ^ 14 + t.toNat * 2 ^ 10 + m.toNat * 2 ^ 2 + p.toNat * 2 ^ 0

/-- The word of `VCVTIF` (R53). -/
def wordVcvtif (d : BitVec 4) (a : BitVec 4) (s : BitVec 4) (t : BitVec 4) (m : BitVec 2) (p : BitVec 2) : Nat :=
  0x70000020 + d.toNat * 2 ^ 22 + a.toNat * 2 ^ 18 + s.toNat * 2 ^ 14 + t.toNat * 2 ^ 10 + m.toNat * 2 ^ 2 + p.toNat * 2 ^ 0

/-- The word of `VPACK8` (R53). -/
def wordVpack8 (d : BitVec 4) (a : BitVec 4) (s : BitVec 4) (t : BitVec 4) (m : BitVec 2) (p : BitVec 2) : Nat :=
  0x70000030 + d.toNat * 2 ^ 22 + a.toNat * 2 ^ 18 + s.toNat * 2 ^ 14 + t.toNat * 2 ^ 10 + m.toNat * 2 ^ 2 + p.toNat * 2 ^ 0

/-- The word of `VUNPK8` (R53). -/
def wordVunpk8 (d : BitVec 4) (a : BitVec 4) (s : BitVec 4) (t : BitVec 4) (m : BitVec 2) (p : BitVec 2) : Nat :=
  0x70000040 + d.toNat * 2 ^ 22 + a.toNat * 2 ^ 18 + s.toNat * 2 ^ 14 + t.toNat * 2 ^ 10 + m.toNat * 2 ^ 2 + p.toNat * 2 ^ 0

/-- The word of `VPACK4` (R53). -/
def wordVpack4 (d : BitVec 4) (a : BitVec 4) (s : BitVec 4) (t : BitVec 4) (m : BitVec 2) (p : BitVec 2) : Nat :=
  0x70000050 + d.toNat * 2 ^ 22 + a.toNat * 2 ^ 18 + s.toNat * 2 ^ 14 + t.toNat * 2 ^ 10 + m.toNat * 2 ^ 2 + p.toNat * 2 ^ 0

/-- The word of `VUNPK4` (R53). -/
def wordVunpk4 (d : BitVec 4) (a : BitVec 4) (s : BitVec 4) (t : BitVec 4) (m : BitVec 2) (p : BitVec 2) : Nat :=
  0x70000060 + d.toNat * 2 ^ 22 + a.toNat * 2 ^ 18 + s.toNat * 2 ^ 14 + t.toNat * 2 ^ 10 + m.toNat * 2 ^ 2 + p.toNat * 2 ^ 0

/-- The word of `VSCALE` (R53). -/
def wordVscale (d : BitVec 4) (a : BitVec 4) (b : BitVec 4) (t : BitVec 4) (m : BitVec 2) : Nat :=
  0x70000070 + d.toNat * 2 ^ 22 + a.toNat * 2 ^ 18 + b.toNat * 2 ^ 14 + t.toNat * 2 ^ 10 + m.toNat * 2 ^ 2

/-- The word of `LDB` (R53). -/
def wordLdb (d : BitVec 4) (b : BitVec 4) (o : BitVec 10) (v : Bool) (l : BitVec 4) : Nat :=
  0x80000000 + d.toNat * 2 ^ 22 + b.toNat * 2 ^ 18 + o.toNat * 2 ^ 8 + v.toNat * 2 ^ 4 + l.toNat * 2 ^ 0

/-- The word of `LDBS` (R53). -/
def wordLdbs (d : BitVec 4) (b : BitVec 4) (o : BitVec 10) (v : Bool) (l : BitVec 4) : Nat :=
  0x80000020 + d.toNat * 2 ^ 22 + b.toNat * 2 ^ 18 + o.toNat * 2 ^ 8 + v.toNat * 2 ^ 4 + l.toNat * 2 ^ 0

/-- The word of `LDH` (R53). -/
def wordLdh (d : BitVec 4) (b : BitVec 4) (o : BitVec 10) (v : Bool) (l : BitVec 4) : Nat :=
  0x80000040 + d.toNat * 2 ^ 22 + b.toNat * 2 ^ 18 + o.toNat * 2 ^ 8 + v.toNat * 2 ^ 4 + l.toNat * 2 ^ 0

/-- The word of `LDHS` (R53). -/
def wordLdhs (d : BitVec 4) (b : BitVec 4) (o : BitVec 10) (v : Bool) (l : BitVec 4) : Nat :=
  0x80000060 + d.toNat * 2 ^ 22 + b.toNat * 2 ^ 18 + o.toNat * 2 ^ 8 + v.toNat * 2 ^ 4 + l.toNat * 2 ^ 0

/-- The word of `LDW` (R53). -/
def wordLdw (d : BitVec 4) (b : BitVec 4) (o : BitVec 10) (v : Bool) (l : BitVec 4) : Nat :=
  0x80000080 + d.toNat * 2 ^ 22 + b.toNat * 2 ^ 18 + o.toNat * 2 ^ 8 + v.toNat * 2 ^ 4 + l.toNat * 2 ^ 0

/-- The word of `LDWS` (R53). -/
def wordLdws (d : BitVec 4) (b : BitVec 4) (o : BitVec 10) (v : Bool) (l : BitVec 4) : Nat :=
  0x800000A0 + d.toNat * 2 ^ 22 + b.toNat * 2 ^ 18 + o.toNat * 2 ^ 8 + v.toNat * 2 ^ 4 + l.toNat * 2 ^ 0

/-- The word of `LDD` (R53). -/
def wordLdd (d : BitVec 4) (b : BitVec 4) (o : BitVec 10) (v : Bool) (l : BitVec 4) : Nat :=
  0x800000C0 + d.toNat * 2 ^ 22 + b.toNat * 2 ^ 18 + o.toNat * 2 ^ 8 + v.toNat * 2 ^ 4 + l.toNat * 2 ^ 0

/-- The word of `STB` (R53). -/
def wordStb (d : BitVec 4) (b : BitVec 4) (o : BitVec 10) (v : Bool) : Nat :=
  0x84000000 + d.toNat * 2 ^ 22 + b.toNat * 2 ^ 18 + o.toNat * 2 ^ 8 + v.toNat * 2 ^ 4

/-- The word of `STH` (R53). -/
def wordSth (d : BitVec 4) (b : BitVec 4) (o : BitVec 10) (v : Bool) : Nat :=
  0x84000020 + d.toNat * 2 ^ 22 + b.toNat * 2 ^ 18 + o.toNat * 2 ^ 8 + v.toNat * 2 ^ 4

/-- The word of `STW` (R53). -/
def wordStw (d : BitVec 4) (b : BitVec 4) (o : BitVec 10) (v : Bool) : Nat :=
  0x84000040 + d.toNat * 2 ^ 22 + b.toNat * 2 ^ 18 + o.toNat * 2 ^ 8 + v.toNat * 2 ^ 4

/-- The word of `STD` (R53). -/
def wordStd (d : BitVec 4) (b : BitVec 4) (o : BitVec 10) (v : Bool) : Nat :=
  0x84000060 + d.toNat * 2 ^ 22 + b.toNat * 2 ^ 18 + o.toNat * 2 ^ 8 + v.toNat * 2 ^ 4

/-- The word of `VLD` (R53). -/
def wordVld (d : BitVec 4) (b : BitVec 4) (o : BitVec 10) (v : Bool) (l : BitVec 4) : Nat :=
  0x88000000 + d.toNat * 2 ^ 22 + b.toNat * 2 ^ 18 + o.toNat * 2 ^ 8 + v.toNat * 2 ^ 4 + l.toNat * 2 ^ 0

/-- The word of `VST` (R53). -/
def wordVst (d : BitVec 4) (b : BitVec 4) (o : BitVec 10) (v : Bool) : Nat :=
  0x8C000000 + d.toNat * 2 ^ 22 + b.toNat * 2 ^ 18 + o.toNat * 2 ^ 8 + v.toNat * 2 ^ 4

/-- The word of `LDXD` (R53). -/
def wordLdxd (d : BitVec 4) (a : BitVec 4) (b : BitVec 4) (l : BitVec 4) : Nat :=
  0x90000000 + d.toNat * 2 ^ 22 + a.toNat * 2 ^ 18 + b.toNat * 2 ^ 14 + l.toNat * 2 ^ 10

/-- The word of `STXD` (R53). -/
def wordStxd (d : BitVec 4) (a : BitVec 4) (b : BitVec 4) : Nat :=
  0x90000010 + d.toNat * 2 ^ 22 + a.toNat * 2 ^ 18 + b.toNat * 2 ^ 14

/-- The word of `VLDX` (R53). -/
def wordVldx (d : BitVec 4) (a : BitVec 4) (b : BitVec 4) (l : BitVec 4) : Nat :=
  0x90000020 + d.toNat * 2 ^ 22 + a.toNat * 2 ^ 18 + b.toNat * 2 ^ 14 + l.toNat * 2 ^ 10

/-- The word of `VSTX` (R53). -/
def wordVstx (d : BitVec 4) (a : BitVec 4) (b : BitVec 4) : Nat :=
  0x90000030 + d.toNat * 2 ^ 22 + a.toNat * 2 ^ 18 + b.toNat * 2 ^ 14

/-- The word of `VLDM` (R53). -/
def wordVldm (d : BitVec 4) (a : BitVec 4) (b : BitVec 4) (l : BitVec 4) (m : BitVec 2) : Nat :=
  0x90000040 + d.toNat * 2 ^ 22 + a.toNat * 2 ^ 18 + b.toNat * 2 ^ 14 + l.toNat * 2 ^ 10 + m.toNat * 2 ^ 2

/-- The word of `VSTM` (R53). -/
def wordVstm (d : BitVec 4) (a : BitVec 4) (b : BitVec 4) (m : BitVec 2) : Nat :=
  0x90000050 + d.toNat * 2 ^ 22 + a.toNat * 2 ^ 18 + b.toNat * 2 ^ 14 + m.toNat * 2 ^ 2

/-- The word of `VGATH` (R53). -/
def wordVgath (d : BitVec 4) (a : BitVec 4) (b : BitVec 4) (l : BitVec 4) (m : BitVec 2) (w : BitVec 2) : Nat :=
  0x90000060 + d.toNat * 2 ^ 22 + a.toNat * 2 ^ 18 + b.toNat * 2 ^ 14 + l.toNat * 2 ^ 10 + m.toNat * 2 ^ 2 + w.toNat * 2 ^ 0

/-- The word of `PREF` (R53). -/
def wordPref (a : BitVec 4) (b : BitVec 4) (p : Bool) : Nat :=
  0x94000000 + a.toNat * 2 ^ 18 + b.toNat * 2 ^ 14 + p.toNat * 2 ^ 0

/-- The word of `TRES` (R53). -/
def wordTres (d : BitVec 4) (a : BitVec 4) (b : BitVec 4) : Nat :=
  0x94000010 + d.toNat * 2 ^ 22 + a.toNat * 2 ^ 18 + b.toNat * 2 ^ 14

/-- The word of `STMAP` (R53). -/
def wordStmap (d : BitVec 4) (a : BitVec 4) (b : BitVec 4) (c : BitVec 4) : Nat :=
  0x94000020 + d.toNat * 2 ^ 22 + a.toNat * 2 ^ 18 + b.toNat * 2 ^ 14 + c.toNat * 2 ^ 10

/-- The word of `STUNMAP` (R53). -/
def wordStunmap (d : BitVec 4) (a : BitVec 4) : Nat :=
  0x94000030 + d.toNat * 2 ^ 22 + a.toNat * 2 ^ 18

/-- The word of `STWB` (R53). -/
def wordStwb (a : BitVec 4) (b : BitVec 4) : Nat :=
  0x94000040 + a.toNat * 2 ^ 18 + b.toNat * 2 ^ 14

/-- The word of `TILEREG` (R53). -/
def wordTilereg (d : BitVec 4) (a : BitVec 4) : Nat :=
  0x94000050 + d.toNat * 2 ^ 22 + a.toNat * 2 ^ 18

/-- The word of `LDF` (R53). -/
def wordLdf (d : BitVec 4) (b : BitVec 4) (o : BitVec 10) (l : BitVec 4) : Nat :=
  0x98000000 + d.toNat * 2 ^ 22 + b.toNat * 2 ^ 18 + o.toNat * 2 ^ 8 + l.toNat * 2 ^ 0

/-- The word of `LDFE` (R53). -/
def wordLdfe (d : BitVec 4) (b : BitVec 4) (o : BitVec 10) (l : BitVec 4) : Nat :=
  0x98000020 + d.toNat * 2 ^ 22 + b.toNat * 2 ^ 18 + o.toNat * 2 ^ 8 + l.toNat * 2 ^ 0

/-- The word of `STF` (R53). -/
def wordStf (d : BitVec 4) (b : BitVec 4) (o : BitVec 10) : Nat :=
  0x98000040 + d.toNat * 2 ^ 22 + b.toNat * 2 ^ 18 + o.toNat * 2 ^ 8

/-- The word of `STFF` (R53). -/
def wordStff (d : BitVec 4) (b : BitVec 4) (o : BitVec 10) : Nat :=
  0x98000060 + d.toNat * 2 ^ 22 + b.toNat * 2 ^ 18 + o.toNat * 2 ^ 8

/-- The word of `FEGET` (R53). -/
def wordFeget (d : BitVec 4) (b : BitVec 4) (o : BitVec 10) (l : BitVec 4) : Nat :=
  0x98000080 + d.toNat * 2 ^ 22 + b.toNat * 2 ^ 18 + o.toNat * 2 ^ 8 + l.toNat * 2 ^ 0

/-- The word of `FEEMPTY` (R53). -/
def wordFeempty (b : BitVec 4) (o : BitVec 10) : Nat :=
  0x980000A0 + b.toNat * 2 ^ 18 + o.toNat * 2 ^ 8

/-- The word of `FEMARK` (R53). -/
def wordFemark (d : BitVec 4) (b : BitVec 4) (o : BitVec 10) : Nat :=
  0x980000C0 + d.toNat * 2 ^ 22 + b.toNat * 2 ^ 18 + o.toNat * 2 ^ 8

/-- The word of `MONA` (R53). -/
def wordMona (a : BitVec 4) : Nat :=
  0x9C000000 + a.toNat * 2 ^ 18

/-- The word of `MONC` (R53). -/
def wordMonc  : Nat :=
  0x9C000010

/-- The word of `MWAIT` (R53). -/
def wordMwait (d : BitVec 4) (a : BitVec 4) : Nat :=
  0x9C000020 + d.toNat * 2 ^ 22 + a.toNat * 2 ^ 18

/-- The word of `RSV` (R53). -/
def wordRsv (d : BitVec 4) (b : BitVec 4) (o : BitVec 10) (l : BitVec 4) : Nat :=
  0xA0000000 + d.toNat * 2 ^ 22 + b.toNat * 2 ^ 18 + o.toNat * 2 ^ 8 + l.toNat * 2 ^ 0

/-- The word of `REL` (R53). -/
def wordRel (d : BitVec 4) (b : BitVec 4) (o : BitVec 10) : Nat :=
  0xA0000020 + d.toNat * 2 ^ 22 + b.toNat * 2 ^ 18 + o.toNat * 2 ^ 8

/-- The word of `RELC` (R53). -/
def wordRelc (d : BitVec 4) (b : BitVec 4) (o : BitVec 10) : Nat :=
  0xA0000040 + d.toNat * 2 ^ 22 + b.toNat * 2 ^ 18 + o.toNat * 2 ^ 8

/-- The word of `RSVT` (R53). -/
def wordRsvt (d : BitVec 4) (b : BitVec 4) (o : BitVec 10) (l : BitVec 4) : Nat :=
  0xA0000060 + d.toNat * 2 ^ 22 + b.toNat * 2 ^ 18 + o.toNat * 2 ^ 8 + l.toNat * 2 ^ 0

/-- The word of `FADD` (R53). -/
def wordFadd (d : BitVec 4) (a : BitVec 4) (b : BitVec 4) (l : BitVec 4) (w : Bool) (r : BitVec 2) : Nat :=
  0xA4000000 + d.toNat * 2 ^ 22 + a.toNat * 2 ^ 18 + b.toNat * 2 ^ 14 + l.toNat * 2 ^ 10 + w.toNat * 2 ^ 2 + r.toNat * 2 ^ 0

/-- The word of `FAND` (R53). -/
def wordFand (d : BitVec 4) (a : BitVec 4) (b : BitVec 4) (l : BitVec 4) (w : Bool) (r : BitVec 2) : Nat :=
  0xA4000010 + d.toNat * 2 ^ 22 + a.toNat * 2 ^ 18 + b.toNat * 2 ^ 14 + l.toNat * 2 ^ 10 + w.toNat * 2 ^ 2 + r.toNat * 2 ^ 0

/-- The word of `FOR` (R53). -/
def wordFOr (d : BitVec 4) (a : BitVec 4) (b : BitVec 4) (l : BitVec 4) (w : Bool) (r : BitVec 2) : Nat :=
  0xA4000020 + d.toNat * 2 ^ 22 + a.toNat * 2 ^ 18 + b.toNat * 2 ^ 14 + l.toNat * 2 ^ 10 + w.toNat * 2 ^ 2 + r.toNat * 2 ^ 0

/-- The word of `FXOR` (R53). -/
def wordFxor (d : BitVec 4) (a : BitVec 4) (b : BitVec 4) (l : BitVec 4) (w : Bool) (r : BitVec 2) : Nat :=
  0xA4000030 + d.toNat * 2 ^ 22 + a.toNat * 2 ^ 18 + b.toNat * 2 ^ 14 + l.toNat * 2 ^ 10 + w.toNat * 2 ^ 2 + r.toNat * 2 ^ 0

/-- The word of `FMAX` (R53). -/
def wordFmax (d : BitVec 4) (a : BitVec 4) (b : BitVec 4) (l : BitVec 4) (w : Bool) (r : BitVec 2) : Nat :=
  0xA4000040 + d.toNat * 2 ^ 22 + a.toNat * 2 ^ 18 + b.toNat * 2 ^ 14 + l.toNat * 2 ^ 10 + w.toNat * 2 ^ 2 + r.toNat * 2 ^ 0

/-- The word of `FMIN` (R53). -/
def wordFmin (d : BitVec 4) (a : BitVec 4) (b : BitVec 4) (l : BitVec 4) (w : Bool) (r : BitVec 2) : Nat :=
  0xA4000050 + d.toNat * 2 ^ 22 + a.toNat * 2 ^ 18 + b.toNat * 2 ^ 14 + l.toNat * 2 ^ 10 + w.toNat * 2 ^ 2 + r.toNat * 2 ^ 0

/-- The word of `FMAXN` (R53). -/
def wordFmaxn (d : BitVec 4) (a : BitVec 4) (b : BitVec 4) (l : BitVec 4) (w : Bool) (r : BitVec 2) : Nat :=
  0xA4000060 + d.toNat * 2 ^ 22 + a.toNat * 2 ^ 18 + b.toNat * 2 ^ 14 + l.toNat * 2 ^ 10 + w.toNat * 2 ^ 2 + r.toNat * 2 ^ 0

/-- The word of `FMINN` (R53). -/
def wordFminn (d : BitVec 4) (a : BitVec 4) (b : BitVec 4) (l : BitVec 4) (w : Bool) (r : BitVec 2) : Nat :=
  0xA4000070 + d.toNat * 2 ^ 22 + a.toNat * 2 ^ 18 + b.toNat * 2 ^ 14 + l.toNat * 2 ^ 10 + w.toNat * 2 ^ 2 + r.toNat * 2 ^ 0

/-- The word of `FSWP` (R53). -/
def wordFswp (d : BitVec 4) (a : BitVec 4) (b : BitVec 4) (l : BitVec 4) (w : Bool) (r : BitVec 2) : Nat :=
  0xA4000080 + d.toNat * 2 ^ 22 + a.toNat * 2 ^ 18 + b.toNat * 2 ^ 14 + l.toNat * 2 ^ 10 + w.toNat * 2 ^ 2 + r.toNat * 2 ^ 0

/-- The word of `FCAS` (R53). -/
def wordFcas (d : BitVec 4) (a : BitVec 4) (b : BitVec 4) (l : BitVec 4) (w : Bool) (r : BitVec 2) : Nat :=
  0xA4000090 + d.toNat * 2 ^ 22 + a.toNat * 2 ^ 18 + b.toNat * 2 ^ 14 + l.toNat * 2 ^ 10 + w.toNat * 2 ^ 2 + r.toNat * 2 ^ 0

/-- The word of `FINCB` (R53). -/
def wordFincb (d : BitVec 4) (a : BitVec 4) (b : BitVec 4) (l : BitVec 4) (w : Bool) (r : BitVec 2) : Nat :=
  0xA40000A0 + d.toNat * 2 ^ 22 + a.toNat * 2 ^ 18 + b.toNat * 2 ^ 14 + l.toNat * 2 ^ 10 + w.toNat * 2 ^ 2 + r.toNat * 2 ^ 0

/-- The word of `FINCW` (R53). -/
def wordFincw (d : BitVec 4) (a : BitVec 4) (b : BitVec 4) (l : BitVec 4) (w : Bool) (r : BitVec 2) : Nat :=
  0xA40000B0 + d.toNat * 2 ^ 22 + a.toNat * 2 ^ 18 + b.toNat * 2 ^ 14 + l.toNat * 2 ^ 10 + w.toNat * 2 ^ 2 + r.toNat * 2 ^ 0

/-- The word of `FDECP` (R53). -/
def wordFdecp (d : BitVec 4) (a : BitVec 4) (l : BitVec 4) (w : Bool) (r : BitVec 2) : Nat :=
  0xA40000C0 + d.toNat * 2 ^ 22 + a.toNat * 2 ^ 18 + l.toNat * 2 ^ 10 + w.toNat * 2 ^ 2 + r.toNat * 2 ^ 0

/-- The word of `FADDL` (R53). -/
def wordFaddl (d : BitVec 4) (a : BitVec 4) (b : BitVec 4) (l : BitVec 4) (w : Bool) (r : BitVec 2) : Nat :=
  0xA40000D0 + d.toNat * 2 ^ 22 + a.toNat * 2 ^ 18 + b.toNat * 2 ^ 14 + l.toNat * 2 ^ 10 + w.toNat * 2 ^ 2 + r.toNat * 2 ^ 0

/-- The word of `GATH` (R53). -/
def wordGath (d : BitVec 4) (a : BitVec 4) (b : BitVec 4) (c : Bool) (n : BitVec 2) : Nat :=
  0xA8000000 + d.toNat * 2 ^ 22 + a.toNat * 2 ^ 18 + b.toNat * 2 ^ 14 + c.toNat * 2 ^ 10 + n.toNat * 2 ^ 0

/-- The word of `BLD` (R53). -/
def wordBld (a : BitVec 4) (b : BitVec 4) (c : Bool) (n : BitVec 2) : Nat :=
  0xA8000010 + a.toNat * 2 ^ 18 + b.toNat * 2 ^ 14 + c.toNat * 2 ^ 10 + n.toNat * 2 ^ 0

/-- The word of `MMA` (R53). -/
def wordMma (d : BitVec 3) (a : Bool) (b : Bool) (l : BitVec 4) : Nat :=
  0xA8000020 + d.toNat * 2 ^ 22 + a.toNat * 2 ^ 18 + b.toNat * 2 ^ 14 + l.toNat * 2 ^ 10

/-- The word of `ACZ` (R53). -/
def wordAcz (d : BitVec 3) : Nat :=
  0xA8000030 + d.toNat * 2 ^ 22

/-- The word of `ACLD` (R53). -/
def wordAcld (d : BitVec 3) (a : BitVec 4) (b : BitVec 4) : Nat :=
  0xA8000040 + d.toNat * 2 ^ 22 + a.toNat * 2 ^ 18 + b.toNat * 2 ^ 14

/-- The word of `ACST` (R53). -/
def wordAcst (d : BitVec 3) (a : BitVec 4) (b : BitVec 4) (f : BitVec 2) : Nat :=
  0xA8000050 + d.toNat * 2 ^ 22 + a.toNat * 2 ^ 18 + b.toNat * 2 ^ 14 + f.toNat * 2 ^ 0

/-- The word of `ACRD` (R53). -/
def wordAcrd (d : BitVec 4) (a : BitVec 3) (b : BitVec 4) : Nat :=
  0xA8000060 + d.toNat * 2 ^ 22 + a.toNat * 2 ^ 18 + b.toNat * 2 ^ 14

/-- The word of `ACWR` (R53). -/
def wordAcwr (d : BitVec 3) (a : BitVec 4) (b : BitVec 4) : Nat :=
  0xA8000070 + d.toNat * 2 ^ 22 + a.toNat * 2 ^ 18 + b.toNat * 2 ^ 14

/-- The word of `MXSTAT` (R53). -/
def wordMxstat (d : BitVec 4) (a : BitVec 4) : Nat :=
  0xA8000080 + d.toNat * 2 ^ 22 + a.toNat * 2 ^ 18

/-- The word of `REPT` (R53). -/
def wordRept (n : BitVec 3) (c : BitVec 4) (s : BitVec 4) (m : BitVec 4) : Nat :=
  0xAC000000 + n.toNat * 2 ^ 22 + c.toNat * 2 ^ 18 + s.toNat * 2 ^ 14 + m.toNat * 2 ^ 10

/-- The word of `CPY` (R53). -/
def wordCpy (d : BitVec 4) (a : BitVec 4) (b : BitVec 4) (l : BitVec 4) : Nat :=
  0xB0000000 + d.toNat * 2 ^ 22 + a.toNat * 2 ^ 18 + b.toNat * 2 ^ 14 + l.toNat * 2 ^ 10

/-- The word of `CPY2` (R53). -/
def wordCpy2 (d : BitVec 4) (a : BitVec 4) (b : BitVec 4) (l : BitVec 4) : Nat :=
  0xB0000010 + d.toNat * 2 ^ 22 + a.toNat * 2 ^ 18 + b.toNat * 2 ^ 14 + l.toNat * 2 ^ 10

/-- The word of `CPYG` (R53). -/
def wordCpyg (d : BitVec 4) (a : BitVec 4) (b : BitVec 4) (l : BitVec 4) : Nat :=
  0xB0000020 + d.toNat * 2 ^ 22 + a.toNat * 2 ^ 18 + b.toNat * 2 ^ 14 + l.toNat * 2 ^ 10

/-- The word of `CPYS` (R53). -/
def wordCpys (d : BitVec 4) (a : BitVec 4) (b : BitVec 4) (l : BitVec 4) : Nat :=
  0xB0000030 + d.toNat * 2 ^ 22 + a.toNat * 2 ^ 18 + b.toNat * 2 ^ 14 + l.toNat * 2 ^ 10

/-- The word of `CPYCB` (R53). -/
def wordCpycb (d : BitVec 4) (a : BitVec 4) (b : BitVec 4) (l : BitVec 4) : Nat :=
  0xB0000040 + d.toNat * 2 ^ 22 + a.toNat * 2 ^ 18 + b.toNat * 2 ^ 14 + l.toNat * 2 ^ 10

/-- The word of `CBINIT` (R53). -/
def wordCbinit (d : BitVec 4) (a : BitVec 4) (b : BitVec 4) : Nat :=
  0xB4000000 + d.toNat * 2 ^ 22 + a.toNat * 2 ^ 18 + b.toNat * 2 ^ 14

/-- The word of `CBACQ` (R53). -/
def wordCbacq (d : BitVec 4) (a : BitVec 4) : Nat :=
  0xB4000010 + d.toNat * 2 ^ 22 + a.toNat * 2 ^ 18

/-- The word of `CBREL` (R53). -/
def wordCbrel (a : BitVec 4) (b : BitVec 4) : Nat :=
  0xB4000020 + a.toNat * 2 ^ 18 + b.toNat * 2 ^ 14

/-- The word of `CBSTAT` (R53). -/
def wordCbstat (d : BitVec 4) (a : BitVec 4) : Nat :=
  0xB4000030 + d.toNat * 2 ^ 22 + a.toNat * 2 ^ 18

/-- The word of `CBRES` (R53). -/
def wordCbres (d : BitVec 4) (a : BitVec 4) : Nat :=
  0xB4000040 + d.toNat * 2 ^ 22 + a.toNat * 2 ^ 18

/-- The word of `CBPUB` (R53). -/
def wordCbpub (a : BitVec 4) (b : BitVec 4) : Nat :=
  0xB4000050 + a.toNat * 2 ^ 18 + b.toNat * 2 ^ 14

/-- The word of `TSPAWN` (R53). -/
def wordTspawn (d : BitVec 4) (a : BitVec 4) (b : BitVec 4) : Nat :=
  0xBC000000 + d.toNat * 2 ^ 22 + a.toNat * 2 ^ 18 + b.toNat * 2 ^ 14

/-- The word of `PARK` (R53). -/
def wordPark (d : BitVec 4) (a : BitVec 4) : Nat :=
  0xBC000010 + d.toNat * 2 ^ 22 + a.toNat * 2 ^ 18

/-- The word of `QSEND` (R53). -/
def wordQsend (d : BitVec 4) (a : BitVec 4) (b : BitVec 4) : Nat :=
  0xBC000020 + d.toNat * 2 ^ 22 + a.toNat * 2 ^ 18 + b.toNat * 2 ^ 14

/-- The word of `QRECV` (R53). -/
def wordQrecv (d : BitVec 4) (a : BitVec 4) (b : BitVec 4) : Nat :=
  0xBC000030 + d.toNat * 2 ^ 22 + a.toNat * 2 ^ 18 + b.toNat * 2 ^ 14

/-- The word of `EOS` (R53). -/
def wordEos (d : BitVec 4) (a : BitVec 4) : Nat :=
  0xBC000040 + d.toNat * 2 ^ 22 + a.toNat * 2 ^ 18

/-- The word of `RQPUSH` (R53). -/
def wordRqpush (d : BitVec 4) (a : BitVec 4) : Nat :=
  0xBC000050 + d.toNat * 2 ^ 22 + a.toNat * 2 ^ 18

/-- The word of `RQPOP` (R53). -/
def wordRqpop (d : BitVec 4) (a : BitVec 4) : Nat :=
  0xBC000060 + d.toNat * 2 ^ 22 + a.toNat * 2 ^ 18

/-- The word of `TIMER` (R53). -/
def wordTimer (d : BitVec 4) (a : BitVec 4) : Nat :=
  0xBC000070 + d.toNat * 2 ^ 22 + a.toNat * 2 ^ 18

/-- The word of `LAUNCH` (R53). -/
def wordLaunch (d : BitVec 4) (a : BitVec 4) : Nat :=
  0xBC000080 + d.toNat * 2 ^ 22 + a.toNat * 2 ^ 18

/-- The word of `DEPDEC` (R53). -/
def wordDepdec (d : BitVec 4) (a : BitVec 4) : Nat :=
  0xBC000090 + d.toNat * 2 ^ 22 + a.toNat * 2 ^ 18

/-- The word of `EXIT` (R53). -/
def wordExit  : Nat :=
  0xBC0000A0

/-- The word of `YIELD` (R53). -/
def wordYield  : Nat :=
  0xBC0000B0

/-- The word of `BDLD` (R53). -/
def wordBdld (d : BitVec 4) (a : BitVec 4) : Nat :=
  0x74000000 + d.toNat * 2 ^ 22 + a.toNat * 2 ^ 18

/-- The word of `BDST` (R53). -/
def wordBdst (a : BitVec 4) (b : BitVec 4) : Nat :=
  0x74000010 + a.toNat * 2 ^ 18 + b.toNat * 2 ^ 14

/-- The word of `GCALL` (R53). -/
def wordGcall (a : BitVec 4) (b : BitVec 4) (c : BitVec 4) : Nat :=
  0xB8000000 + a.toNat * 2 ^ 18 + b.toNat * 2 ^ 14 + c.toNat * 2 ^ 10

/-- The word of `GRET` (R53). -/
def wordGret  : Nat :=
  0xB8000010

/-- The word of `GABT` (R53). -/
def wordGabt (a : BitVec 4) : Nat :=
  0xB8000020 + a.toNat * 2 ^ 18

/-- The word of `DINFO` (R53). -/
def wordDinfo (d : BitVec 4) (a : BitVec 4) : Nat :=
  0xB8000030 + d.toNat * 2 ^ 22 + a.toNat * 2 ^ 18

/-- The word of `GPUB` (R53). -/
def wordGpub (d : BitVec 4) (a : BitVec 4) (b : BitVec 4) : Nat :=
  0xB8000040 + d.toNat * 2 ^ 22 + a.toNat * 2 ^ 18 + b.toNat * 2 ^ 14

/-- The word of `GREV` (R53). -/
def wordGrev (d : BitVec 4) (a : BitVec 4) (b : BitVec 4) : Nat :=
  0xB8000050 + d.toNat * 2 ^ 22 + a.toNat * 2 ^ 18 + b.toNat * 2 ^ 14

/-- The word of `HGIVE` (R53). -/
def wordHgive (d : BitVec 4) (a : BitVec 4) (b : BitVec 4) (c : BitVec 4) : Nat :=
  0xB8000060 + d.toNat * 2 ^ 22 + a.toNat * 2 ^ 18 + b.toNat * 2 ^ 14 + c.toNat * 2 ^ 10

/-- The word of `HDROP` (R53). -/
def wordHdrop (d : BitVec 4) (a : BitVec 4) : Nat :=
  0xB8000070 + d.toNat * 2 ^ 22 + a.toNat * 2 ^ 18

/-- The word of `PTLOAD` (R53). -/
def wordPtload (d : BitVec 4) (a : BitVec 4) (b : BitVec 4) : Nat :=
  0xC0000000 + d.toNat * 2 ^ 22 + a.toNat * 2 ^ 18 + b.toNat * 2 ^ 14

/-- The word of `PTBIND` (R53). -/
def wordPtbind (d : BitVec 4) (a : BitVec 4) (b : BitVec 4) (c : BitVec 4) : Nat :=
  0xC0000010 + d.toNat * 2 ^ 22 + a.toNat * 2 ^ 18 + b.toNat * 2 ^ 14 + c.toNat * 2 ^ 10

/-- The word of `PTUNBIND` (R53). -/
def wordPtunbind (d : BitVec 4) (a : BitVec 4) (b : BitVec 4) : Nat :=
  0xC0000020 + d.toNat * 2 ^ 22 + a.toNat * 2 ^ 18 + b.toNat * 2 ^ 14

/-- The word of `DIRQ` (R53). -/
def wordDirq (d : BitVec 4) (a : BitVec 4) : Nat :=
  0xC0000030 + d.toNat * 2 ^ 22 + a.toNat * 2 ^ 18

/-- The word of `LINV` (R53). -/
def wordLinv (a : BitVec 4) (b : BitVec 4) : Nat :=
  0xC0000040 + a.toNat * 2 ^ 18 + b.toNat * 2 ^ 14

/-- The word of `LWB` (R53). -/
def wordLwb (a : BitVec 4) (b : BitVec 4) : Nat :=
  0xC0000050 + a.toNat * 2 ^ 18 + b.toNat * 2 ^ 14

/-- The word of `LBIAS` (R53). -/
def wordLbias (d : BitVec 4) (a : BitVec 4) (b : BitVec 4) : Nat :=
  0xC4000000 + d.toNat * 2 ^ 22 + a.toNat * 2 ^ 18 + b.toNat * 2 ^ 14

/-- The word of `LSTAT` (R53). -/
def wordLstat (d : BitVec 4) (a : BitVec 4) : Nat :=
  0xC4000010 + d.toNat * 2 ^ 22 + a.toNat * 2 ^ 18

/-- The word of `NPOST` (R53). -/
def wordNpost (d : BitVec 4) (a : BitVec 4) : Nat :=
  0xC8000000 + d.toNat * 2 ^ 22 + a.toNat * 2 ^ 18

/-- The word of `NCWAIT` (R53). -/
def wordNcwait (d : BitVec 4) (a : BitVec 4) (b : BitVec 4) (c : BitVec 4) : Nat :=
  0xC8000010 + d.toNat * 2 ^ 22 + a.toNat * 2 ^ 18 + b.toNat * 2 ^ 14 + c.toNat * 2 ^ 10

/-- The word of `NCRD` (R53). -/
def wordNcrd (d : BitVec 4) (a : BitVec 4) : Nat :=
  0xC8000020 + d.toNat * 2 ^ 22 + a.toNat * 2 ^ 18

/-- The word of `NREG` (R53). -/
def wordNreg (d : BitVec 4) (a : BitVec 4) (b : BitVec 4) (c : BitVec 4) : Nat :=
  0xC8000030 + d.toNat * 2 ^ 22 + a.toNat * 2 ^ 18 + b.toNat * 2 ^ 14 + c.toNat * 2 ^ 10

/-- The word n read by the opcode map: none where the map assigns no instruction (R53, R54). -/
noncomputable def decodeNat (n : Nat) : Option Instr :=
  if fld n 31 26 = 1 then decodeMajor01 n
  else if fld n 31 26 = 2 then decodeMajor02 n
  else if fld n 31 26 = 3 then decodeMajor03 n
  else if fld n 31 26 = 4 then decodeMajor04 n
  else if fld n 31 26 = 5 then decodeMajor05 n
  else if fld n 31 26 = 6 then decodeMajor06 n
  else if fld n 31 26 = 7 then decodeMajor07 n
  else if fld n 31 26 = 8 then decodeMajor08 n
  else if fld n 31 26 = 9 then decodeMajor09 n
  else if fld n 31 26 = 10 then decodeMajor0A n
  else if fld n 31 26 = 11 then decodeMajor0B n
  else if fld n 31 26 = 12 then decodeMajor0C n
  else if fld n 31 26 = 13 then decodeMajor0D n
  else if fld n 31 26 = 14 then decodeMajor0E n
  else if fld n 31 26 = 15 then decodeMajor0F n
  else if fld n 31 26 = 16 then decodeMajor10 n
  else if fld n 31 26 = 17 then decodeMajor11 n
  else if fld n 31 26 = 18 then decodeMajor12 n
  else if fld n 31 26 = 19 then decodeMajor13 n
  else if fld n 31 26 = 63 then decodeMajor3F n
  else if fld n 31 26 = 20 then decodeMajor14 n
  else if fld n 31 26 = 21 then decodeMajor15 n
  else if fld n 31 26 = 22 then decodeMajor16 n
  else if fld n 31 26 = 23 then decodeMajor17 n
  else if fld n 31 26 = 24 then decodeMajor18 n
  else if fld n 31 26 = 25 then decodeMajor19 n
  else if fld n 31 26 = 26 then decodeMajor1A n
  else if fld n 31 26 = 27 then decodeMajor1B n
  else if fld n 31 26 = 28 then decodeMajor1C n
  else if fld n 31 26 = 32 then decodeMajor20 n
  else if fld n 31 26 = 33 then decodeMajor21 n
  else if fld n 31 26 = 34 then decodeMajor22 n
  else if fld n 31 26 = 35 then decodeMajor23 n
  else if fld n 31 26 = 36 then decodeMajor24 n
  else if fld n 31 26 = 37 then decodeMajor25 n
  else if fld n 31 26 = 38 then decodeMajor26 n
  else if fld n 31 26 = 39 then decodeMajor27 n
  else if fld n 31 26 = 40 then decodeMajor28 n
  else if fld n 31 26 = 41 then decodeMajor29 n
  else if fld n 31 26 = 42 then decodeMajor2A n
  else if fld n 31 26 = 43 then decodeMajor2B n
  else if fld n 31 26 = 44 then decodeMajor2C n
  else if fld n 31 26 = 45 then decodeMajor2D n
  else if fld n 31 26 = 47 then decodeMajor2F n
  else if fld n 31 26 = 29 then decodeMajor1D n
  else if fld n 31 26 = 46 then decodeMajor2E n
  else if fld n 31 26 = 48 then decodeMajor30 n
  else if fld n 31 26 = 49 then decodeMajor31 n
  else if fld n 31 26 = 50 then decodeMajor32 n
  else none

/-- The instruction of a word: `illegalInstruction` of the word where the map assigns none (R54), or where a
format code or a scope code is a reserved one (R50, R54). -/
noncomputable def decode (w : BitVec 32) : Instr :=
  match decodeNat w.toNat with
  | some i => if i.wellFormed then i else .illegalInstruction w
  | none => .illegalInstruction w

/-- Why a list of bytes holds no instruction word. -/
inductive DecodeReject where
  /-- fewer than four bytes are left (R39). -/
  | tooShort
  deriving DecidableEq, Repr

/-- Four bytes, the first at the lowest address, as a word (R3, R39). -/
def wordOfBytes (b0 b1 b2 b3 : BitVec 8) : BitVec 32 := b3 ++ b2 ++ b1 ++ b0

/-- Decode from bytes: the instruction and the bytes after it. -/
noncomputable def decodeBytes : List (BitVec 8) → Except DecodeReject (Instr × List (BitVec 8))
  | b0 :: b1 :: b2 :: b3 :: r => .ok (decode (wordOfBytes b0 b1 b2 b3), r)
  | _ => .error .tooShort

/-- The instruction that the decoder reads from a word whose bits are numbered as the opcode table numbers
them; none where the decoder refuses the word. -/
noncomputable def decodeTableWord (nbits w : Nat) : Option Instr :=
  if nbits ≤ 32 then
    match decode (.ofNat 32 (w % 2 ^ nbits)) with
    | .illegalInstruction _ => none
    | i => some i
  else none

/-- The word of an instruction, from the encoding tables (R40, R53); a device event has none. -/
def encodeNat : Instr → Option Nat
  | .divideComplete _ => none
  | .icinvComplete _ => none
  | .holdExpiry _ => none
  | .longLatencyComplete _ => none
  | .migrationArrival _ => none
  | .arrivalDequeue _ => none
  | .pageRequestDeferredPost _ => none
  | .feRefusalRetry _ => none
  | .feretry _ => none
  | .mwaitTimeout _ => none
  | .reservationTimeout _ => none
  | .latchFillComplete _ => none
  | .mmaStart _ => none
  | .mmaComplete _ => none
  | .accumTransferComplete _ => none
  | .leaveGrant _ => none
  | .muleChunk _ => none
  | .muleCommandComplete _ => none
  | .unwindBudgetExpiry _ => none
  | .callergone _ => none
  | .launchDispatch _ => none
  | .holdLimitExpiry _ => none
  | .workUnitComplete _ _ _ => none
  | .forecastUpdate _ _ => none
  | .timerExpiry _ => none
  | .sliceExpiry _ => none
  | .gets _ _ => none
  | .getm _ _ => none
  | .puts _ _ => none
  | .putm _ _ => none
  | .uread _ _ => none
  | .uwrite _ _ => none
  | .atom _ _ => none
  | .updw _ _ => none
  | .linvMsg _ _ => none
  | .lwbMsg _ _ => none
  | .ack _ _ => none
  | .odata _ _ => none
  | .inv _ _ => none
  | .down _ _ => none
  | .recall _ _ => none
  | .upd _ _ => none
  | .dataS _ _ => none
  | .dataM _ _ => none
  | .putack _ _ => none
  | .updack _ _ => none
  | .nackw _ _ => none
  | .udata _ _ => none
  | .wack _ _ => none
  | .turnStart _ => none
  | .turnEnd _ _ => none
  | .laneGrant _ _ _ => none
  | .flitArrival _ _ _ => none
  | .creditAudit _ => none
  | .packetSend _ => none
  | .packetArrival _ _ => none
  | .ackArrival _ _ => none
  | .retransmitTimerExpiry _ _ _ => none
  | .ncwaitTimeout _ => none
  | .vacateRequest _ _ => none
  | .drainDeadlineExpiry _ => none
  | .vacateReport _ => none
  | .restore _ _ => none
  | .critDeferralExpiry _ => none
  | .borderControllerRun  => none
  | .clusterMove _ => none
  | .forcedMove _ _ => none
  | .tokenRefill _ => none
  | .freshPageClearComplete _ => none
  | .backgroundClear _ => none
  | .scratchpadUnitClear _ _ => none
  | .integrityCheckComplete _ _ => none
  | .serviceVacate _ _ => none
  | .serviceFeLimits _ _ => none
  | .serviceTarget _ _ => none
  | .serviceBars _ _ => none
  | .serviceGiveBack _ _ => none
  | .hostqLaunch _ => none
  | .hostqDepdec _ => none
  | .hostqStff _ => none
  | .qwr _ _ => none
  | .qbase _ _ => none
  | .qsize _ _ => none
  | .queueKeying _ => none
  | .hostBar2Access _ _ _ _ => none
  | .hostSidebandRead _ _ => none
  | .getVersion _ => none
  | .getCapabilities _ => none
  | .negotiateAlgorithms _ => none
  | .getDigests _ => none
  | .getCertificate _ => none
  | .challenge _ _ => none
  | .getMeasurements _ _ => none
  | .keyExchange _ => none
  | .finish _ => none
  | .heartbeat _ => none
  | .keyUpdate _ => none
  | .endSession _ => none
  | .coldReset  => none
  | .fundamentalReset  => none
  | .functionLevelReset _ => none
  | .islandPointChange _ _ _ => none
  | .currentCapThrottle _ _ => none
  | .thermtrip  => none
  | .illegalInstruction w => some w.toNat
  | .fetchMissFill _ => none
  | .leaveHoldExpiry _ => none
  | .flitSend _ => none
  | .portStateChange _ _ => none
  | .lineReset _ => none
  | .channelMove _ _ => none
  | .partitionCreation _ _ _ => none
  | .add d a b w => some (wordAdd d a b w)
  | .sub d a b w => some (wordSub d a b w)
  | .and d a b w => some (wordAnd d a b w)
  | .or d a b w => some (wordOr d a b w)
  | .xor d a b w => some (wordXor d a b w)
  | .andn d a b w => some (wordAndn d a b w)
  | .orn d a b w => some (wordOrn d a b w)
  | .shl d a b w => some (wordShl d a b w)
  | .shr d a b w => some (wordShr d a b w)
  | .sra d a b w => some (wordSra d a b w)
  | .rol d a b w => some (wordRol d a b w)
  | .ror d a b w => some (wordRor d a b w)
  | .min d a b w => some (wordMin d a b w)
  | .max d a b w => some (wordMax d a b w)
  | .minn d a b w => some (wordMinn d a b w)
  | .maxn d a b w => some (wordMaxn d a b w)
  | .slt d a b w => some (wordSlt d a b w)
  | .sltn d a b w => some (wordSltn d a b w)
  | .seq d a b w => some (wordSeq d a b w)
  | .sne d a b w => some (wordSne d a b w)
  | .mul d a b w => some (wordMul d a b w)
  | .mulh d a b w => some (wordMulh d a b w)
  | .mulhn d a b w => some (wordMulhn d a b w)
  | .clz d a w => some (wordClz d a w)
  | .ctz d a w => some (wordCtz d a w)
  | .popc d a w => some (wordPopc d a w)
  | .brev d a w => some (wordBrev d a w)
  | .bswap d a w => some (wordBswap d a w)
  | .sel d a b c w => some (wordSel d a b c w)
  | .extr d a b c w => some (wordExtr d a b c w)
  | .extrs d a b c w => some (wordExtrs d a b c w)
  | .insb d a b c w => some (wordInsb d a b c w)
  | .div d a b l w => some (wordDiv d a b l w)
  | .divn d a b l w => some (wordDivn d a b l w)
  | .rem d a b l w => some (wordRem d a b l w)
  | .remn d a b l w => some (wordRemn d a b l w)
  | .addi d a i => some (wordAddi d a i)
  | .andi d a i => some (wordAndi d a i)
  | .ori d a i => some (wordOri d a i)
  | .xori d a i => some (wordXori d a i)
  | .shli d a n => some (wordShli d a n)
  | .shri d a n => some (wordShri d a n)
  | .srai d a n => some (wordSrai d a n)
  | .roli d a n => some (wordRoli d a n)
  | .slti d a i => some (wordSlti d a i)
  | .sltni d a i => some (wordSltni d a i)
  | .li d i => some (wordLi d i)
  | .lpc d i => some (wordLpc d i)
  | .muli d a i => some (wordMuli d a i)
  | .beq a b i => some (wordBeq a b i)
  | .bne a b i => some (wordBne a b i)
  | .blt a b i => some (wordBlt a b i)
  | .bge a b i => some (wordBge a b i)
  | .bltn a b i => some (wordBltn a b i)
  | .bgen a b i => some (wordBgen a b i)
  | .beqz a i => some (wordBeqz a i)
  | .bnez a i => some (wordBnez a i)
  | .bltz a i => some (wordBltz a i)
  | .bgez a i => some (wordBgez a i)
  | .bgtz a i => some (wordBgtz a i)
  | .blez a i => some (wordBlez a i)
  | .j i => some (wordJ i)
  | .jl i => some (wordJl i)
  | .jr a => some (wordJr a)
  | .jlr d a => some (wordJlr d a)
  | .trap n => some (wordTrap n)
  | .eret  => some (wordEret )
  | .sread d n => some (wordSread d n)
  | .swrite a n => some (wordSwrite a n)
  | .icinv a b s => some (wordIcinv a b s)
  | .brk  => some (wordBrk )
  | .halt  => some (wordHalt )
  | .fence e k s => some (wordFence e k s)
  | .himm p => some (wordHimm p)
  | .hmod p => some (wordHmod p)
  | .hsched p => some (wordHsched p)
  | .hschedHold p => some (wordHschedHold p)
  | .hschedIfetch p => some (wordHschedIfetch p)
  | .vadd d a b m w => some (wordVadd d a b m w)
  | .vsub d a b m w => some (wordVsub d a b m w)
  | .vadds d a b m w => some (wordVadds d a b m w)
  | .vaddsn d a b m w => some (wordVaddsn d a b m w)
  | .vsubs d a b m w => some (wordVsubs d a b m w)
  | .vsubsn d a b m w => some (wordVsubsn d a b m w)
  | .vmul d a b m w => some (wordVmul d a b m w)
  | .vmulh d a b m w => some (wordVmulh d a b m w)
  | .vmulhn d a b m w => some (wordVmulhn d a b m w)
  | .vmin d a b m w => some (wordVmin d a b m w)
  | .vmax d a b m w => some (wordVmax d a b m w)
  | .vminn d a b m w => some (wordVminn d a b m w)
  | .vmaxn d a b m w => some (wordVmaxn d a b m w)
  | .vand d a b m w => some (wordVand d a b m w)
  | .vor d a b m w => some (wordVor d a b m w)
  | .vxor d a b m w => some (wordVxor d a b m w)
  | .vandn d a b m w => some (wordVandn d a b m w)
  | .vshl d a b m w => some (wordVshl d a b m w)
  | .vshr d a b m w => some (wordVshr d a b m w)
  | .vsra d a b m w => some (wordVsra d a b m w)
  | .vabs d a m w => some (wordVabs d a m w)
  | .vavg d a b m w => some (wordVavg d a b m w)
  | .vavgn d a b m w => some (wordVavgn d a b m w)
  | .vdot4 d a b m => some (wordVdot4 d a b m)
  | .vdot4n d a b m => some (wordVdot4n d a b m)
  | .vcmpeq d a b m w => some (wordVcmpeq d a b m w)
  | .vcmplt d a b m w => some (wordVcmplt d a b m w)
  | .vcmpltn d a b m w => some (wordVcmpltn d a b m w)
  | .vsel d a b c m w => some (wordVsel d a b c m w)
  | .vfadd d a b m f => some (wordVfadd d a b m f)
  | .vfsub d a b m f => some (wordVfsub d a b m f)
  | .vfmul d a b m f => some (wordVfmul d a b m f)
  | .vfmin d a b m f => some (wordVfmin d a b m f)
  | .vfmax d a b m f => some (wordVfmax d a b m f)
  | .vfabs d a m f => some (wordVfabs d a m f)
  | .vfneg d a m f => some (wordVfneg d a m f)
  | .vfcmpeq d a b m f => some (wordVfcmpeq d a b m f)
  | .vfcmplt d a b m f => some (wordVfcmplt d a b m f)
  | .vfcmple d a b m f => some (wordVfcmple d a b m f)
  | .vfcmpun d a b m f => some (wordVfcmpun d a b m f)
  | .vfma d a b c m f => some (wordVfma d a b c m f)
  | .vfms d a b c m f => some (wordVfms d a b c m f)
  | .vfnma d a b c m f => some (wordVfnma d a b c m f)
  | .vrcp d a l m f => some (wordVrcp d a l m f)
  | .vrsq d a l m f => some (wordVrsq d a l m f)
  | .vsqrt d a l m f => some (wordVsqrt d a l m f)
  | .vdiv d a b l m f => some (wordVdiv d a b l m f)
  | .vexp2 d a l m f => some (wordVexp2 d a l m f)
  | .vlog2 d a l m f => some (wordVlog2 d a l m f)
  | .vtanh d a l m f => some (wordVtanh d a l m f)
  | .vshuf d a b c m w => some (wordVshuf d a b c m w)
  | .vzip d a b h m w => some (wordVzip d a b h m w)
  | .vunzip d a b h m w => some (wordVunzip d a b h m w)
  | .vrotl d a b m w => some (wordVrotl d a b m w)
  | .vbcst d a b m w => some (wordVbcst d a b m w)
  | .vcompress d a m w => some (wordVcompress d a m w)
  | .mand d a b => some (wordMand d a b)
  | .mor d a b => some (wordMor d a b)
  | .mxor d a b => some (wordMxor d a b)
  | .mnot d a => some (wordMnot d a)
  | .mcnt d a => some (wordMcnt d a)
  | .mff d a => some (wordMff d a)
  | .mfromg d a => some (wordMfromg d a)
  | .mtog d a => some (wordMtog d a)
  | .vsplat d a m w => some (wordVsplat d a m w)
  | .vins d a b m w => some (wordVins d a b m w)
  | .vext d a b w => some (wordVext d a b w)
  | .vmov d a m w => some (wordVmov d a m w)
  | .vradd d a m w => some (wordVradd d a m w)
  | .vrmax d a m w => some (wordVrmax d a m w)
  | .vrmin d a m w => some (wordVrmin d a m w)
  | .vfradd d a m f => some (wordVfradd d a m f)
  | .nsend a r => some (wordNsend a r)
  | .nrecv d r => some (wordNrecv d r)
  | .nwin d a r => some (wordNwin d a r)
  | .vcvtf d a s t m p => some (wordVcvtf d a s t m p)
  | .vcvtfi d a s t m p => some (wordVcvtfi d a s t m p)
  | .vcvtif d a s t m p => some (wordVcvtif d a s t m p)
  | .vpack8 d a s t m p => some (wordVpack8 d a s t m p)
  | .vunpk8 d a s t m p => some (wordVunpk8 d a s t m p)
  | .vpack4 d a s t m p => some (wordVpack4 d a s t m p)
  | .vunpk4 d a s t m p => some (wordVunpk4 d a s t m p)
  | .vscale d a b t m => some (wordVscale d a b t m)
  | .ldb d b o v l => some (wordLdb d b o v l)
  | .ldbs d b o v l => some (wordLdbs d b o v l)
  | .ldh d b o v l => some (wordLdh d b o v l)
  | .ldhs d b o v l => some (wordLdhs d b o v l)
  | .ldw d b o v l => some (wordLdw d b o v l)
  | .ldws d b o v l => some (wordLdws d b o v l)
  | .ldd d b o v l => some (wordLdd d b o v l)
  | .stb d b o v => some (wordStb d b o v)
  | .sth d b o v => some (wordSth d b o v)
  | .stw d b o v => some (wordStw d b o v)
  | .std d b o v => some (wordStd d b o v)
  | .vld d b o v l => some (wordVld d b o v l)
  | .vst d b o v => some (wordVst d b o v)
  | .ldxd d a b l => some (wordLdxd d a b l)
  | .stxd d a b => some (wordStxd d a b)
  | .vldx d a b l => some (wordVldx d a b l)
  | .vstx d a b => some (wordVstx d a b)
  | .vldm d a b l m => some (wordVldm d a b l m)
  | .vstm d a b m => some (wordVstm d a b m)
  | .vgath d a b l m w => some (wordVgath d a b l m w)
  | .pref a b p => some (wordPref a b p)
  | .tres d a b => some (wordTres d a b)
  | .stmap d a b c => some (wordStmap d a b c)
  | .stunmap d a => some (wordStunmap d a)
  | .stwb a b => some (wordStwb a b)
  | .tilereg d a => some (wordTilereg d a)
  | .ldf d b o l => some (wordLdf d b o l)
  | .ldfe d b o l => some (wordLdfe d b o l)
  | .stf d b o => some (wordStf d b o)
  | .stff d b o => some (wordStff d b o)
  | .feget d b o l => some (wordFeget d b o l)
  | .feempty b o => some (wordFeempty b o)
  | .femark d b o => some (wordFemark d b o)
  | .mona a => some (wordMona a)
  | .monc  => some (wordMonc )
  | .mwait d a => some (wordMwait d a)
  | .rsv d b o l => some (wordRsv d b o l)
  | .rel d b o => some (wordRel d b o)
  | .relc d b o => some (wordRelc d b o)
  | .rsvt d b o l => some (wordRsvt d b o l)
  | .fadd d a b l w r => some (wordFadd d a b l w r)
  | .fand d a b l w r => some (wordFand d a b l w r)
  | .fOr d a b l w r => some (wordFOr d a b l w r)
  | .fxor d a b l w r => some (wordFxor d a b l w r)
  | .fmax d a b l w r => some (wordFmax d a b l w r)
  | .fmin d a b l w r => some (wordFmin d a b l w r)
  | .fmaxn d a b l w r => some (wordFmaxn d a b l w r)
  | .fminn d a b l w r => some (wordFminn d a b l w r)
  | .fswp d a b l w r => some (wordFswp d a b l w r)
  | .fcas d a b l w r => some (wordFcas d a b l w r)
  | .fincb d a b l w r => some (wordFincb d a b l w r)
  | .fincw d a b l w r => some (wordFincw d a b l w r)
  | .fdecp d a l w r => some (wordFdecp d a l w r)
  | .faddl d a b l w r => some (wordFaddl d a b l w r)
  | .gath d a b c n => some (wordGath d a b c n)
  | .bld a b c n => some (wordBld a b c n)
  | .mma d a b l => some (wordMma d a b l)
  | .acz d => some (wordAcz d)
  | .acld d a b => some (wordAcld d a b)
  | .acst d a b f => some (wordAcst d a b f)
  | .acrd d a b => some (wordAcrd d a b)
  | .acwr d a b => some (wordAcwr d a b)
  | .mxstat d a => some (wordMxstat d a)
  | .rept n c s m => some (wordRept n c s m)
  | .cpy d a b l => some (wordCpy d a b l)
  | .cpy2 d a b l => some (wordCpy2 d a b l)
  | .cpyg d a b l => some (wordCpyg d a b l)
  | .cpys d a b l => some (wordCpys d a b l)
  | .cpycb d a b l => some (wordCpycb d a b l)
  | .cbinit d a b => some (wordCbinit d a b)
  | .cbacq d a => some (wordCbacq d a)
  | .cbrel a b => some (wordCbrel a b)
  | .cbstat d a => some (wordCbstat d a)
  | .cbres d a => some (wordCbres d a)
  | .cbpub a b => some (wordCbpub a b)
  | .tspawn d a b => some (wordTspawn d a b)
  | .park d a => some (wordPark d a)
  | .qsend d a b => some (wordQsend d a b)
  | .qrecv d a b => some (wordQrecv d a b)
  | .eos d a => some (wordEos d a)
  | .rqpush d a => some (wordRqpush d a)
  | .rqpop d a => some (wordRqpop d a)
  | .timer d a => some (wordTimer d a)
  | .launch d a => some (wordLaunch d a)
  | .depdec d a => some (wordDepdec d a)
  | .exit  => some (wordExit )
  | .yield  => some (wordYield )
  | .bdld d a => some (wordBdld d a)
  | .bdst a b => some (wordBdst a b)
  | .gcall a b c => some (wordGcall a b c)
  | .gret  => some (wordGret )
  | .gabt a => some (wordGabt a)
  | .dinfo d a => some (wordDinfo d a)
  | .gpub d a b => some (wordGpub d a b)
  | .grev d a b => some (wordGrev d a b)
  | .hgive d a b c => some (wordHgive d a b c)
  | .hdrop d a => some (wordHdrop d a)
  | .ptload d a b => some (wordPtload d a b)
  | .ptbind d a b c => some (wordPtbind d a b c)
  | .ptunbind d a b => some (wordPtunbind d a b)
  | .dirq d a => some (wordDirq d a)
  | .linv a b => some (wordLinv a b)
  | .lwb a b => some (wordLwb a b)
  | .lbias d a b => some (wordLbias d a b)
  | .lstat d a => some (wordLstat d a)
  | .npost d a => some (wordNpost d a)
  | .ncwait d a b c => some (wordNcwait d a b c)
  | .ncrd d a => some (wordNcrd d a)
  | .nreg d a b c => some (wordNreg d a b c)

/-- The 32-bit word of an instruction, none for a device event. -/
def encode (i : Instr) : Option (BitVec 32) := (encodeNat i).map (BitVec.ofNat 32)

/-- The word of the instruction for eaddr of ILL and PRIV (R334); 0 for a device event, which has no word. -/
def wordOf (i : Instr) : BitVec 32 := (encode i).getD 0

end Sys2Proof
end

