-- ==== Sys2Proof/Machine/Operands.lean ====
section
/-! DEFINITION. Operand forms: scalar operands with W (R74), bit fields (R76), immediates and displacements (R47,
R81-R83), effective addresses (R168, R173, R199), vector elements and masks (R93-R95), register groups (R57). -/
namespace Sys2Proof.Machine

/-! ### Scalar operands (R74) -/

/-- N of R74. -/
def width (w : Bool) : Nat := if w then 32 else 64
/-- A natural operand: with W its low 32 bits, extended as natural. -/
def natOp (w : Bool) (x : Word) : Word := if w then zext x 32 else x
/-- A signed operand: with W its low 32 bits, extended as signed. -/
def intOp (w : Bool) (x : Word) : Word := if w then sext x 32 else x
/-- A shift or rotate amount: b[4:0] with W, b[5:0] otherwise. -/
def amount (w : Bool) (x : Word) : Nat := x.toNat % width w

/-- x rotated left by n within 64 or, with W, 32 bits. -/
def rotl (w : Bool) (x : Word) (n : Nat) : Word :=
  if w then ((x.setWidth 32).rotateLeft n).setWidth 64 else x.rotateLeft n
def rotr (w : Bool) (x : Word) (n : Nat) : Word :=
  if w then ((x.setWidth 32).rotateRight n).setWidth 64 else x.rotateRight n

/-- Leading zeros of a number in n bits; n for zero. -/
def leadingZeros (n x : Nat) : Nat := if x = 0 then n else n - 1 - x.log2
/-- Trailing zeros of a number in n bits; n for zero. -/
def trailingZeros (n x : Nat) : Nat := ((List.range n).find? (fun i => x.testBit i)).getD n
/-- One bits of a number in n bits. -/
def popCount (n x : Nat) : Nat := ((List.range n).filter (fun i => x.testBit i)).length
/-- The n low bits of a number in reverse order. -/
def reverseBits (n x : Nat) : Nat :=
  (List.range n).foldl (fun acc i => 2 * acc + (x.testBit i).toNat) 0

/-- Position, length and mask of a bit field (R76). -/
def fieldPos (w : Bool) (b : Word) : Nat := b.toNat % width w
def fieldLen (w : Bool) (b c : Word) : Nat := min (min (natOp w c).toNat (width w)) (width w - fieldPos w b)
def ones (n : Nat) : Word := BitVec.ofNat 64 (2 ^ n - 1)

/-! ### Displacements -/

/-- pc + sext(disp) x 4 (R81-R83). -/
def target {n : Nat} (pc : Word) (i : BitVec n) : Word := pc + i.signExtend 64 * 4

/-- g[base] + sext(off10, 10) x size (R168, R199, R207). -/
def State.ea (s : State) (b : Reg) (o : BitVec 10) (size : Nat) : Word :=
  s.rg b + o.signExtend 64 * BitVec.ofNat 64 size

/-! ### Registers in groups (R57) -/

/-- The n registers from r on. -/
def regs (r : Reg) (n : Nat) : List Reg := (List.range n).map (fun i => r + BitVec.ofNat 4 i)
/-- A group of n registers from r would pass register 15 (R57). -/
def passes (r : Reg) (n : Nat) : Bool := decide (16 < r.toNat + n)

/-! ### Vector elements (R93) and masks (R94) -/

/-- Element e of width n bits of a vector, as a number. -/
def lane (x : Vec) (n e : Nat) : Nat := x.toNat / 2 ^ (n * e) % 2 ^ n
/-- The n-bit elements of a vector, element 0 first. -/
def lanes (x : Vec) (n : Nat) : List Nat := (List.range (128 / n)).map (lane x n)
/-- A vector from its n-bit elements, element 0 first. -/
def ofLanes (n : Nat) : List Nat → Nat
  | [] => 0
  | x :: r => x % 2 ^ n + 2 ^ n * ofLanes n r
def vecOf (n : Nat) (l : List Nat) : Vec := BitVec.ofNat 128 (ofLanes n l)

/-- An integer in n bits. -/
def unsigned (n : Nat) (x : Int) : Nat := (x % (2 ^ n : Nat)).toNat

/-- Bytes per element of the width code q[1:0] (R93). -/
def laneBytes (q : BitVec 2) : Nat := 2 ^ q.toNat
/-- Bits per element of the width code. -/
def laneBits (q : BitVec 2) : Nat := 8 * laneBytes q

/-- Element e of w bytes is active under the mask (R94). -/
def active (m : Mask) (w e : Nat) : Bool := bit m (e * w)

/-- Active elements new, inactive elements old (R95). -/
def merge (m : Mask) (w : Nat) (old : Vec) (new : List Nat) : Vec :=
  vecOf (8 * w) (((List.range (16 / w)).zip (new.zip (lanes old (8 * w)))).map
    (fun p => if active m w p.1 then p.2.1 else p.2.2))

/-- A mask whose elements of w bytes hold the given bits, each in all w bits (R94). -/
def maskOf (w : Nat) (l : List Bool) : Mask :=
  BitVec.ofNat 16 (ofLanes w (l.map (fun b => if b then 2 ^ w - 1 else 0)))

end Sys2Proof.Machine
end

