-- ==== Sys2Proof/Machine/Branch.lean ====
section
/-! DEFINITION. Branches and jumps: majors 0x0D to 0x11 (R81-R86). -/
namespace Sys2Proof.Machine

/-- What the LIKELY field starts: the fetch of the target block, or of the block that follows in address order (R86). -/
def likelyFetch (i : Word) (s : State) : State :=
  match field s.hmod 8 7 with
  | 1 => prefetchBlock s.cur i s
  | 2 => prefetchBlock s.cur (s.thr.pc + 64) s
  | _ => s

/-- A branch to a target, taken or not. -/
def branchTo (i : Word) (taken : Bool) (s : State) : State :=
  let s := likelyFetch i s
  if taken then retireTo i s else retire s

/-- A compare-branch (R81). -/
def compareBranch (word : Nat) (a b : Reg) (i : BitVec 14) (c : Word → Word → Bool) : State → Out :=
  issue { word := word, gr := [a, b], ahead := true, accept := { likely := true } }
    (fun s => .ok (branchTo (target s.thr.pc i) (c (s.rg a) (s.rg b)) s))

def execBeq (a b : Reg) (i : BitVec 14) : State → Out := compareBranch (wordBeq a b i) a b i (fun x y => x == y)
def execBne (a b : Reg) (i : BitVec 14) : State → Out := compareBranch (wordBne a b i) a b i (fun x y => x != y)
def execBlt (a b : Reg) (i : BitVec 14) : State → Out := compareBranch (wordBlt a b i) a b i (fun x y => x.slt y)
def execBge (a b : Reg) (i : BitVec 14) : State → Out := compareBranch (wordBge a b i) a b i (fun x y => !x.slt y)
def execBltn (a b : Reg) (i : BitVec 14) : State → Out :=
  compareBranch (wordBltn a b i) a b i (fun x y => decide (x < y))
def execBgen (a b : Reg) (i : BitVec 14) : State → Out :=
  compareBranch (wordBgen a b i) a b i (fun x y => !decide (x < y))

/-- A zero-branch (R82). -/
def zeroBranch (word : Nat) (a : Reg) (i : BitVec 18) (c : Int → Bool) : State → Out :=
  issue { word := word, gr := [a], ahead := true, accept := { likely := true } }
    (fun s => .ok (branchTo (target s.thr.pc i) (c (s.rg a).toInt) s))

def execBeqz (a : Reg) (i : BitVec 18) : State → Out := zeroBranch (wordBeqz a i) a i (fun x => x == 0)
def execBnez (a : Reg) (i : BitVec 18) : State → Out := zeroBranch (wordBnez a i) a i (fun x => x != 0)
def execBltz (a : Reg) (i : BitVec 18) : State → Out := zeroBranch (wordBltz a i) a i (fun x => decide (x < 0))
def execBgez (a : Reg) (i : BitVec 18) : State → Out := zeroBranch (wordBgez a i) a i (fun x => decide (0 ≤ x))
def execBgtz (a : Reg) (i : BitVec 18) : State → Out := zeroBranch (wordBgtz a i) a i (fun x => decide (0 < x))
def execBlez (a : Reg) (i : BitVec 18) : State → Out := zeroBranch (wordBlez a i) a i (fun x => decide (x ≤ 0))

/-- J (R83). -/
def execJ (i : BitVec 26) : State → Out :=
  issue { word := wordJ i, ahead := true } (fun s => .ok (retireTo (target s.thr.pc i) s))

/-- JL: the link is the address after the JL (R83). -/
def execJl (i : BitVec 26) : State → Out :=
  issue { word := wordJl i, gw := [15], ahead := true }
    (fun s => .ok (retireTo (target s.thr.pc i) (s.wg 15 (s.thr.pc + 4))))

/-- JR: a target that is not 4-aligned takes ALIGN at the JR (R84). -/
def execJr (a : Reg) : State → Out :=
  issue { word := wordJr a, gr := [a], ahead := true }
    (fun s =>
      if (s.rg a).toNat % 4 ≠ 0 then .error (.trap { cause := 3, eaddr := s.rg a })
      else .ok (retireTo (s.rg a) s))

/-- JLR reads the target before it writes the link (R84). -/
def execJlr (d a : Reg) : State → Out :=
  issue { word := wordJlr d a, gr := [a], gw := [d], ahead := true }
    (fun s =>
      if (s.rg a).toNat % 4 ≠ 0 then .error (.trap { cause := 3, eaddr := s.rg a })
      else .ok (retireTo (s.rg a) (s.wg d (s.thr.pc + 4))))

end Sys2Proof.Machine
end

