-- ==== Sys2Proof/Machine/Memory.lean ====
section
/-! DEFINITION. Loads and stores: majors 0x20 to 0x24 (R168-R176), and the travelling access (R187-R190). -/
namespace Sys2Proof.Machine

/-! ### Accesses of the current thread -/

/-- The policy of a part: that of `.nt`, the home for an access with ORD (R269), the hint's override, or the page's (R167,
R170). -/
def policyOf (s : State) (nt : Bool) (p : Piece) : Policy :=
  if field s.hmod 18 17 ≠ 0 then 4 else if nt then 3 else if bit s.hmod 12 then field s.hmod 11 10 else p.cp

/-- The wait of an access that has issued and is not performed: a fill, a full/empty operation, an access that its home or its
slice port holds back (R226, R243). -/
def Wait.access : Wait → Bool
  | .fill | .fe _ | .refused _ _ _ | .word _ _ | .port _ _ _ | .token _ _ | .line _ _ _ | .way _ _ => true
  | _ => false

/-- The stream of a slot other than the given one has issued an access that is not performed. -/
def Thread.outstanding (t : Thread) (body : Bool) : Bool := t.rep.isSome && (t.waitOf (!body)).any Wait.access

/-- The word of a waiting full/empty operation is one that the parts meet. -/
def meetsWord (s : State) (x : Nat) (ps : List Piece) : Bool :=
  ps.any (fun p => (stepsFrom (p.pa / 8 * 8) (p.pa + p.len) 8).any (fun a => s.key a == x))

/-- An access waits for one of the slot's other stream that comes before it in program order and is not performed. A full/empty
operation in the list of its home holds back accesses to its word, after LDF and LDFE the SO and RC accesses, after STF the
SO accesses and synchronising operations (R201, R243, R267, R269); behind any other access every access waits (R226, R265). -/
def runsBehind (s : State) (sync : Bool) (ps : List Piece) : Bool :=
  let body := s.thr.inBody
  s.thr.outstanding body &&
    (match s.thr.waitOf (!body), s.thr.rep with
      | some (.fe x), some r =>
        body || meetsWord s x ps ||
          (if field (r.words.getD r.j 0) 7 5 ≤ 1 then ps.any (fun p => p.cls != 2)
           else sync || ps.any (fun p => p.cls == 0))
      | _, _ => true)

/-- Releases and FENCE wait until the slot's STFF, FEEMPTY and FEMARK have been performed (R196, R200). -/
def afterPosted (s : State) : Except Stop Unit := if postedBy s s.cur then .error (.wait .posted) else .ok ()

/-- An access of the current thread comes after those that R267 orders before it: those of the slot's other stream, and the
slot's posted STFF, FEEMPTY and FEMARK, which a synchronising operation, an SO access and a load of their word await (R265,
R267, R269). -/
def programOrder (sync reads : Bool) (ps : List Piece) (s : State) : Except Stop Unit :=
  if runsBehind s sync ps then .error (.wait .behind)
  else if sync || ps.any (fun p => p.cls == 0 || (reads && postedAt s s.cur p.pa p.len)) then afterPosted s
  else .ok ()

/-- An access of the current thread, or with `each` several, checked in order and charged (R55, R174, R175), at its place in the
program order; with ORD it is a synchronising operation (R268). -/
def threadAccess (k : Access) (l : List (Nat × Nat)) (s : State) (each : Bool := false) : Except Stop (State × List Piece) := do
  let (s1, ps) ← if each then accesses s.ctx k l s else splitAccess s.ctx k l s
  programOrder (field s.hmod 18 17 != 0) (k == .load) ps s
  .ok (s1, ps)

/-- Checked loads of the current thread performed: the bytes. -/
def performLoads (nt : Bool) (ps : List Piece) (s : State) : Except Stop (State × List Byte) :=
  loadPieces s.ctx (ps.map (fun p => (policyOf s nt p, p))) s

/-- Loads of several ranges by the current thread: checked in order (R55), charged, requested, and read. -/
def loadRanges (s : State) (nt : Bool) (l : List (Nat × Nat)) (each : Bool := false) : Except Stop (State × List Byte) := do
  let (s1, ps) ← threadAccess .load l s each
  performLoads nt ps s1

/-- Checked stores of the current thread performed; a granted word holds them (R211). -/
def performStores (nt : Bool) (ps : List Piece) (l : List Byte) (s : State) : Except Stop State :=
  let me := (s.cur, s.thr.inBody)
  match ps.findSome? (fun p => heldBack s (some me) p.pa p.len) with
  | some w => .error (.wait (.word w))
  | none => do
    let s ← storePieces s.ctx (ps.map (fun p => (policyOf s nt p, p))) l s
    .ok (ps.foldl (fun s p => performedAt me p.pa p.len s) s)

/-- Stores of several ranges: checked and charged before any effect (R170, R176). -/
def storeRanges (s : State) (nt : Bool) (l : List (Nat × List Byte)) : Except Stop State := do
  let (s1, ps) ← threadAccess .store (l.map (fun r => (r.1, r.2.length))) s
  performStores nt ps (l.map (·.2)).flatten s1

/-! ### Migration (R187-R190) -/

/-- The thread is light and holds nothing that keeps it in its slot (R187). -/
def mayTravel (s : State) : Bool :=
  let t := s.thr
  let k := s.cur
  !t.vx && localSlot k != 7 && t.pending.isEmpty && t.rsv.isNone && t.monitors.all (fun m => !m.armed) &&
    t.timer == 0 && t.rep.isNone && t.task.isNone && !t.noTravel

/-- The core beside the bank of a scratchpad address (R189). -/
def bankCore (pa : Nat) : Nat := (pa - 0xA0000000000) / 0x400000 * 16 + (pa - 0xA0000000000) % 0x400000 / 0x20000 / 2

/-- Where a travel-marked access takes its thread, if it does (R187). The rule speaks of one leaf entry: an access on two pages
with two leaf entries stays (log entry 67). -/
def travelTo (s : State) (ps : List Piece) : Option Nat :=
  match ps with
  | p :: r =>
    if s.travelHint && p.travel && r.all (fun q => q.leaf == p.leaf) && isScratch p.pa
        && (p.pa - 0xA0000000000) / 0x400000 != clusterOf s.cur && mayTravel s
    then some (bankCore p.pa) else none
  | [] => none

/-- The thread as its message carries it (R188): epc, ecause and eaddr are not carried. Nor is rstate, whose value after arrival
the rule does not name: 0 (log entry 68). -/
def migrantOf (t : Thread) : Thread :=
  { t with epc := 0, ecause := 0, eaddr := 0, rstate := 0, lastIssue := none, fetchBuf := none
           wait := none, refusals := 0, waited := 0, paid := [] }

/-- The message leaves for a core, and the slot waits for its acceptance (R189). -/
def depart (n : Nat) (s : State) : State :=
  let m : Migrant := { thread := migrantOf s.thr, source := s.cur }
  let s := enterRoute s.ctx.tag 0 (clusterDie (clusterOf s.cur)) (clusterDie (n / 16)) s
  (s.setCore n { s.core n with incoming := (s.core n).incoming ++ [m] }).mapThr (fun t => t.park (.travel n))

/-- The lowest free ordinary slot of a core. -/
def freeSlot (s : State) (n : Nat) : Option Nat :=
  ((List.range 7).map (fun i => 8 * n + i)).find? (fun k => !(s.thread k).occupied)

/-- The bits of sdeleg that are kept: routed causes and reserved codes read zero (R332, R335). -/
def delegable : Word := 0x60E8B7E

/-- tvec and sdeleg of a domain, as loaded whenever dom changes (R332). -/
def loadDomain (p : Nat) (d : BitVec 12) (s : State) (t : Thread) : Thread :=
  { t with dom := d, tvec := s.domWord p d 0x20, sdeleg := s.domWord p d 0x28 &&& delegable }

/-- The engine commands in flight change their issuer: f gives it from the issuer, the unit and the task of each. -/
def renameWork (f : Nat → Option Nat → Option Nat → Nat) (s : State) : State :=
  { s with
    clusters := s.clusters.mapVals (fun _ c => { c with mule := c.mule.map (fun m => { m with slot := f m.slot m.unit m.task }) })
    parts := s.parts.mapVals (fun _ p =>
      { p with steppe := { p.steppe with queue := p.steppe.queue.map (fun r => { r with slot := f r.slot r.unit r.task }) } }) }

/-- The engine commands that the thread of a unit has in flight as issuer a belong to b: a migration does not change whose they
are; those of a task stay with it (R276). -/
def renameIssuer (unit : Option Nat) (a b : Nat) (s : State) : State :=
  renameWork (fun k u t => if k == a && t.isNone && u == unit then b else k) s

/-- A migrant starts in a slot of its destination; monitors of the thread are lost in no case, for none is armed. -/
def settleMigrant (m : Migrant) (k : Nat) (s : State) : State :=
  let p := s.partOf (clusterOf k)
  (renameIssuer m.thread.unit m.source k s).setThread k (loadDomain p m.thread.dom s { m.thread with occupied := true, wait := none })

/-- A migration message reaches its core: a free ordinary slot, else the arrival queue of 8, else it is refused and
the thread goes on at its source (R189). What was posted to the source since is not lost (R338). A number beyond the slots stands for the issuer while no slot holds it. -/
def arrive (n : Nat) (s : State) : State :=
  match (s.core n).incoming with
  | [] => s
  | m :: r =>
    let s := s.setCore n { s.core n with incoming := r }
    let tag := 0x10000 + s.serial
    let free := fun (s : State) => (renameIssuer m.thread.unit m.source tag s.next).setThread m.source {}
    let src := s.thread m.source
    let m2 : Migrant := { thread := { m.thread with events := src.events, unwind := src.unwind }, source := tag }
    if (s.cluster (n / 16)).stopped then
      s.mapThread m.source (fun t => { t with wait := none, noTravel := true })
    else if (s.core n).arrivals.isEmpty && (freeSlot s n).isSome then
      settleMigrant m2 ((freeSlot s n).getD 0) (free s)
    else if (s.core n).arrivals.length < 8 then
      free (s.setCore n { s.core n with arrivals := (s.core n).arrivals ++ [m2] })
    else s.mapThread m.source (fun t => { t with wait := none, noTravel := true })

/-- The oldest queued arrival starts in a free ordinary slot (R189). -/
def dequeueArrival (n : Nat) (s : State) : State :=
  match (s.core n).arrivals, freeSlot s n with
  | m :: r, some k => settleMigrant m k (s.setCore n { s.core n with arrivals := r })
  | _, _ => s

def execMigrationArrival (core : Nat) (s : State) : Out := .next (arrive core s)
def execArrivalDequeue (core : Nat) (s : State) : Out := .next (dequeueArrival core s)

/-! ### Majors 0x20 to 0x23 (R168-R172) -/

/-- What loads accept (R49); an acquire takes a scope through its ORD field. -/
def loadAccept (v : Bool) : Accept := { tv := true, acq := true, cp := !v }
def storeAccept (v : Bool) : Accept := { tv := true, rel := true, cp := !v }

/-- A load of n bytes at an address to a destination, its value made by f; pending under a window of l. A thread leaves when
what it posted has been performed (R189, R267). -/
def loadTo (va : Word) (n : Nat) (nt : Bool) (dest : Dest) (f : Nat → Vec) (l : Nat) (s : State) : Except Stop State := do
  let (s1, ps) ← threadAccess .load [(va.toNat, n)] s
  match travelTo s ps with
  | some core => do
    afterPosted s
    .ok (depart core s)
  | none =>
    let (s2, x) ← performLoads nt ps s1
    .ok (retireLong dest (f (ofBytes x)) l false s2)

/-- A store of bytes at an address. -/
def storeFrom (va : Word) (l : List Byte) (nt : Bool) (s : State) : Except Stop State := do
  let (s1, ps) ← threadAccess .store [(va.toNat, l.length)] s
  match travelTo s ps with
  | some core => do
    afterPosted s
    .ok (depart core s)
  | none =>
    let s2 ← performStores nt ps l s1
    .ok (retire s2)

/-- A load of major 0x20: n bytes, zero- or sign-extended. -/
def load (word : Nat) (d b : Reg) (o : BitVec 10) (v : Bool) (l : BitVec 4) (n : Nat) (sx : Bool) : State → Out :=
  issue { word := word, gr := [b], gw := [d], accept := loadAccept v, ahead := true, long := true }
    (fun s => loadTo (s.ea b o n) n v (.gen d)
      (fun x => ((if sx then sext (BitVec.ofNat 64 x) (8 * n) else BitVec.ofNat 64 x)).setWidth 128) l.toNat s)

def execLdb (d b : BitVec 4) (o : BitVec 10) (v : Bool) (l : BitVec 4) : State → Out := load (wordLdb d b o v l) d b o v l 1 false
def execLdbs (d b : BitVec 4) (o : BitVec 10) (v : Bool) (l : BitVec 4) : State → Out := load (wordLdbs d b o v l) d b o v l 1 true
def execLdh (d b : BitVec 4) (o : BitVec 10) (v : Bool) (l : BitVec 4) : State → Out := load (wordLdh d b o v l) d b o v l 2 false
def execLdhs (d b : BitVec 4) (o : BitVec 10) (v : Bool) (l : BitVec 4) : State → Out := load (wordLdhs d b o v l) d b o v l 2 true
def execLdw (d b : BitVec 4) (o : BitVec 10) (v : Bool) (l : BitVec 4) : State → Out := load (wordLdw d b o v l) d b o v l 4 false
def execLdws (d b : BitVec 4) (o : BitVec 10) (v : Bool) (l : BitVec 4) : State → Out := load (wordLdws d b o v l) d b o v l 4 true
def execLdd (d b : BitVec 4) (o : BitVec 10) (v : Bool) (l : BitVec 4) : State → Out := load (wordLdd d b o v l) d b o v l 8 false

/-- A store of major 0x21: the low n bytes of g[d]. -/
def store (word : Nat) (d b : Reg) (o : BitVec 10) (v : Bool) (n : Nat) : State → Out :=
  issue { word := word, gr := [d, b], accept := storeAccept v, ahead := true }
    (fun s => storeFrom (s.ea b o n) (toBytes n (s.rg d).toNat) v s)

def execStb (d b : BitVec 4) (o : BitVec 10) (v : Bool) : State → Out := store (wordStb d b o v) d b o v 1
def execSth (d b : BitVec 4) (o : BitVec 10) (v : Bool) : State → Out := store (wordSth d b o v) d b o v 2
def execStw (d b : BitVec 4) (o : BitVec 10) (v : Bool) : State → Out := store (wordStw d b o v) d b o v 4
def execStd (d b : BitVec 4) (o : BitVec 10) (v : Bool) : State → Out := store (wordStd d b o v) d b o v 8

def execVld (d b : BitVec 4) (o : BitVec 10) (v : Bool) (l : BitVec 4) : State → Out :=
  issue { word := wordVld d b o v l, gr := [b], vw := [d], accept := loadAccept v, body := true, long := true, vx := true }
    (fun s => loadTo (s.ea b o 16) 16 v (.vec d) (fun x => BitVec.ofNat 128 x) l.toNat s)

def execVst (d b : BitVec 4) (o : BitVec 10) (v : Bool) : State → Out :=
  issue { word := wordVst d b o v, gr := [b], vr := [d], accept := storeAccept v, body := true, vx := true }
    (fun s => storeFrom (s.ea b o 16) (toBytes 16 (s.rv d).toNat) v s)

/-! ### Major 0x24 (R173-R176) -/

def execLdxd (d a b l : BitVec 4) : State → Out :=
  issue { word := wordLdxd d a b l, gr := [a, b], gw := [d], accept := loadAccept false, ahead := true, long := true }
    (fun s => loadTo (s.rg a + s.rg b) 8 false (.gen d) (fun x => BitVec.ofNat 128 x) l.toNat s)

def execStxd (d a b : BitVec 4) : State → Out :=
  issue { word := wordStxd d a b, gr := [d, a, b], accept := storeAccept false, ahead := true }
    (fun s => storeFrom (s.rg a + s.rg b) (toBytes 8 (s.rg d).toNat) false s)

def execVldx (d a b l : BitVec 4) : State → Out :=
  issue { word := wordVldx d a b l, gr := [a, b], vw := [d], accept := loadAccept false, body := true, long := true, vx := true }
    (fun s => loadTo (s.rg a + s.rg b) 16 false (.vec d) (fun x => BitVec.ofNat 128 x) l.toNat s)

def execVstx (d a b : BitVec 4) : State → Out :=
  issue { word := wordVstx d a b, gr := [a, b], vr := [d], accept := storeAccept false, body := true, vx := true }
    (fun s => storeFrom (s.rg a + s.rg b) (toBytes 16 (s.rv d).toNat) false s)

/-- The byte lanes that a mask makes active, ascending (R174). -/
def activeBytes (m : Mask) : List Nat := (List.range 16).filter (fun i => bit m i)

/-- The elements of n bytes that a mask makes active, ascending. -/
def activeLanes (m : Mask) (n : Nat) : List Nat := (List.range (16 / n)).filter (fun e => active m n e)

/-- New values at the listed elements of n bits. -/
def putLanes (old : Vec) (n : Nat) (es : List Nat) (xs : List Nat) : Vec :=
  vecOf n ((List.range (128 / n)).map (fun e =>
    match (es.zip xs).find? (fun p => p.1 == e) with
    | some p => p.2
    | none => lane old n e))

/-- Elements gathered from addresses (R174, R175): each is its own access; inactive elements keep their value. -/
def gatherTo (each : Bool) (d : Reg) (n : Nat) (es : List Nat) (addr : Nat → Word) (l : Nat) (s : State) : Except Stop State := do
  let (s1, bytes) ← loadRanges s false (es.map (fun e => ((addr e).toNat, n))) each
  let xs := (List.range es.length).map (fun i => ofBytes ((bytes.drop (n * i)).take n))
  .ok (retireLong (.vec d) (putLanes (s.oldv d) (8 * n) es xs) l false s1)

def execVldm (d a b l : BitVec 4) (m : BitVec 2) : State → Out :=
  issue { word := wordVldm d a b l m, gr := [a, b], vw := [d], mr := [m], accept := { cp := true }, body := true
          long := true, vx := true }
    (fun s => gatherTo false d 1 (activeBytes (s.rm m)) (fun e => s.rg a + s.rg b + BitVec.ofNat 64 e) l.toNat s)

def execVstm (d a b : BitVec 4) (m : BitVec 2) : State → Out :=
  issue { word := wordVstm d a b m, gr := [a, b], vr := [d], mr := [m], accept := { cp := true }, body := true, vx := true }
    (fun s => do
      let s1 ← storeRanges s false ((activeBytes (s.rm m)).map (fun e =>
        ((s.rg a + s.rg b + BitVec.ofNat 64 e).toNat, toBytes 1 (lane (s.rv d) 8 e))))
      .ok (retire s1))

def execVgath (d a b l : BitVec 4) (m w : BitVec 2) : State → Out :=
  issue { word := wordVgath d a b l m w, gr := [a], vr := [b], vw := [d], mr := [m], accept := { cp := true }
          body := true, long := true, vx := true }
    (fun s =>
      let n := laneBytes w
      let idx := s.rv b
      gatherTo true d n (activeLanes (s.rm m) n)
        (fun e => s.rg a + BitVec.ofNat 64 (lane idx (8 * n) e * n)) l.toNat s)

/-! ### Long-latency completion (R44) -/

/-- The oldest pending register of a slot that is no queued divide's arrives. -/
def execLongLatencyComplete (slot : Nat) (s : State) : Out :=
  match (s.thread slot).pending.find? (fun p => p.register && !p.divide) with
  | some p => .next (completePending slot (fun q => q == p) s)
  | none => .next s

end Sys2Proof.Machine
end

