-- ==== Sys2Proof/Machine/Sync.lean ====
section
/-! DEFINITION. Synchronisation: full/empty instructions 0x26 (R199-R202), monitors 0x27 (R203-R206), near atomics
0x28 (R207-R212), far atomics 0x29 (R213-R218). -/
namespace Sys2Proof.Machine

/-- ALIGN of an address that is no multiple of n. -/
def aligned (ea : Word) (n : Nat) : Except Stop Unit :=
  if ea.toNat % n ≠ 0 then .error (.trap { cause := 3, eaddr := ea }) else .ok ()

/-- An access to n aligned bytes, checked in the order of R55: alignment, R where it loads, W where it stores,
ORDCONF, quota; the state is charged. It stands at its place in the program order: `sync` for a synchronising operation
(R267, R268). -/
def atomAccess (ea : Word) (n align : Nat) (load store charged sync : Bool) (s : State) : Except Stop (State × Piece) := do
  aligned ea align
  let c := s.ctx
  if load then
    let _ ← piece s c ea.toNat n .load
  let p ← piece s c ea.toNat n (if store then .store else .load)
  ordCheck s [p]
  let s ← if charged then charge c (if store then .store else .load) [p] s else lookup c p s
  programOrder sync (!store) [p] s
  .ok (s, p)

/-- An operation at the home of a part: under ATOM of its protocol, or UREAD where it changes nothing (R193, R216). -/
def bringHome (p : Piece) (writes : Bool) (s : State) : Except Stop State :=
  atHomes s.ctx p (if writes then mATOM else mUREAD) s

/-- An operation that writes waits behind a grant of its word (R211). -/
def behindGrant (p : Piece) (s : State) : Except Stop Unit :=
  match heldBack s (some (s.cur, s.thr.inBody)) p.pa p.len with
  | some w => .error (.wait (.word w))
  | none => .ok ()

/-- The change at the home of a part has been performed. -/
def homeDone (p : Piece) (s : State) : State := performedAt (s.cur, s.thr.inBody) p.pa p.len s

/-! ### Full/empty instructions (R199-R202) -/

/-- The wait limit or the retry limit is passed: FERETRY with eaddr at the word (R194, R195). -/
def exhausted (s : State) (k refusals waited : Nat) : Bool :=
  let p := s.partOf (clusterOf k)
  decide (retryLimit s p < refusals) || decide (waitLimit s p < waited)

/-- A request that finds no room at its home is refused: FERETRY at exhaustion, else a backoff (R194). -/
def refuse (ea : Word) (s : State) : Except Stop State :=
  let k := s.thr.refusalsNow + 1
  if exhausted s s.cur k s.thr.waitedNow then .error (.trap { cause := 8, eaddr := ea })
  else .error (.wait (.refused k (backoff k) ea))

/-- The effect of a full/empty operation whose condition holds: the slot goes on, FEFILL follows the change of a
marked word: at once for LDFE and STF, at a later boundary for STFF and FEEMPTY (R196, R200). -/
def fePerformed (op : FeOp) (p : Piece) (d : Reg) (l : BitVec 4) (ea : Word) (s : State) : State :=
  let (s, answer, filled) := fePerform op p.pa (s.rg d) s
  let s := if op.changes then homeDone p (examineWord p.pa s) else s
  match op with
  | .ldf => retire (s.wg d answer)
  | .ldfe =>
    let s := retire (s.wg d answer)
    if filled then feFill s.cur ea s else s
  | .stf =>
    let s := retire s
    if filled then feFill s.cur ea s else s
  | .feget => retireLong (.gen d) (answer.setWidth 128) l.toNat false s
  | _ => if filled then reportFill s.cur 1 ea (retire s) else retire s

/-- The request parks in the wait list of the word's home, or is refused (R193, R194). -/
def fePark (op : FeOp) (p : Piece) (d : Reg) (ea : Word) (s : State) : Except Stop State :=
  let (list, size) := homeList s (s.partOf (clusterOf s.cur)) p.pa
  let l := s.feLists.get [] list
  if size ≤ l.length then refuse ea s
  else
    let me := (s.cur, s.thr.inBody)
    let w : FeWaiter := { slot := s.cur, body := s.thr.inBody, word := s.key p.pa, op := op.code, d := d
                          value := s.rg d, va := ea }
    .ok (leaveAllHeld me ({ s with feLists := s.feLists.set list (l ++ [w]) }.mapThr (fun t => t.park (.fe (s.key p.pa)))))

/-- STFF, FEEMPTY and FEMARK let the slot go on at once (R200). -/
def FeOp.goesOn (op : FeOp) : Bool := op == .stff || op == .feempty || op == .femark

/-- An operation that waits at the home behind a grant although its slot goes on, in the order of the word's accesses
(R200, R211). -/
def postOp (op : FeOp) (p : Piece) (d : Reg) (ea : Word) (s : State) : State :=
  let w := s.key p.pa
  retire { s with held := s.held.set w (s.held.get [] w ++
    [{ slot := s.cur, body := s.thr.inBody, op := some (op.code, s.rg d, ea), uo := p.cls == 2 }]) }

/-- A full/empty operation at its home: performed, parked, or behind a grant (R193, R200, R211). -/
def feAtHome (op : FeOp) (p : Piece) (d : Reg) (l : BitVec 4) (ea : Word) (s : State) : Except Stop State := do
  if op.changes && (heldBack s (some (s.cur, s.thr.inBody)) p.pa p.len).isSome then
    if op.goesOn then .ok (postOp op p d ea (← bringHome p true s))
    else
      behindGrant p s
      .ok s
  else
    let s ← bringHome p op.changes s
    if op.ready (s.empty p.pa) then .ok (fePerformed op p d l ea s) else fePark op p d ea s

/-- The synchronising operations of major 0x26: LDF and LDFE acquire, STF and STFF release (R268). -/
def FeOp.synchronises (op : FeOp) : Bool := op == .ldf || op == .ldfe || op == .stf || op == .stff

/-- A full/empty instruction. -/
def fullEmpty (word : Nat) (op : FeOp) (d b : Reg) (o : BitVec 10) (l : BitVec 4) (s : State) : Out :=
  let writes := op = .ldf || op = .ldfe || op = .feget
  issue
    { word := word, gr := if op = .stf || op = .stff || op = .femark then [d, b] else [b]
      gw := if writes then [d] else [], body := true, long := op = .feget || op = .ldf || op = .ldfe
      priv := op = .femark && s.thr.level == 0
      accept := { scope := op = .ldf || op = .ldfe || op = .stf || op = .stff } }
    (fun s =>
      let ea := s.ea b o 8
      exhaustible ea (do
        let (s, p) ← atomAccess ea 8 8 (op = .ldf || op = .ldfe || op = .feget) op.changes true op.synchronises s
        feAtHome op p d l ea s)) s

def execLdf (d b : Reg) (o : BitVec 10) (l : BitVec 4) : State → Out := fullEmpty (wordLdf d b o l) .ldf d b o l
def execLdfe (d b : Reg) (o : BitVec 10) (l : BitVec 4) : State → Out := fullEmpty (wordLdfe d b o l) .ldfe d b o l
def execStf (d b : Reg) (o : BitVec 10) : State → Out := fullEmpty (wordStf d b o) .stf d b o 0
def execStff (d b : Reg) (o : BitVec 10) : State → Out := fullEmpty (wordStff d b o) .stff d b o 0
def execFeget (d b : Reg) (o : BitVec 10) (l : BitVec 4) : State → Out := fullEmpty (wordFeget d b o l) .feget d b o l
def execFeempty (b : Reg) (o : BitVec 10) : State → Out := fullEmpty (wordFeempty b o) .feempty 0 b o 0
def execFemark (d b : Reg) (o : BitVec 10) : State → Out := fullEmpty (wordFemark d b o) .femark d b o 0

/-- The virtual address of the word that a stream's waiting request names (R195). -/
def requestVa (s : State) (k : Nat) (body : Bool) : Option Word :=
  match (s.thread k).waitOf body with
  | some (.fe _) =>
    (((s.feLists.map (fun e => e.2.filter (fun w => w.slot == k && w.body == body))).flatten).map (·.va)).head?
  | some (.refused _ _ va) => some va
  | some (.word _ va) => va
  | some (.port _ _ va) => va
  | some (.token _ va) => va
  | some (.line _ _ va) => va
  | some (.way _ va) => va
  | _ => none

/-- The address of the request of a stream that is exhausted (R194). -/
def exhaustedStream (s : State) (k : Nat) (body : Bool) : Option Word :=
  let t := s.thread k
  let n := if body then (match t.rep with | some r => (r.refusals, r.waited) | none => (0, 0)) else (t.refusals, t.waited)
  if exhausted s k n.1 n.2 then requestVa s k body else none

/-- An exhausted request is withdrawn and takes FERETRY at its instruction (R194, R195). -/
def execFeretry (slot : Nat) (s : State) : Out :=
  match exhaustedStream s slot false, exhaustedStream s slot true with
  | some va, _ => .next (trap slot { cause := 8, eaddr := va } (withdraw slot s))
  | none, some va => .next (trap slot { cause := 8, eaddr := va } (withdraw slot s))
  | none, none => .next s

/-- A backoff that has run down is over. -/
def Wait.backedOff : Wait → Option Wait
  | .refused _ 0 _ => none
  | w => some w

/-- The backoff of a refused request ends: its slot sends the request again at its next issue (R194). -/
def execFeRefusalRetry (slot : Nat) (s : State) : Out :=
  .next (s.mapThread slot (fun t =>
    { t with wait := t.wait.bind Wait.backedOff, rep := t.rep.map (fun r => { r with wait := r.wait.bind Wait.backedOff }) }))

/-! ### Monitors (R203-R206) -/

/-- The entry of four that an arming takes: the line's own, a free one, or the one armed longest ago. -/
def monitorPlace (ms : List Monitor) : Nat :=
  match (List.range 4).find? (fun i => !(ms.getD i {}).armed) with
  | some i => i
  | none => (List.range 4).foldl (fun b i => if (ms.getD i {}).order < (ms.getD b {}).order then i else b) 0

/-- The line is armed (R203): reusing an entry with a flag set records its loss. -/
def Thread.arm (t : Thread) (line order : Nat) (tables : List Nat) : Thread :=
  let ms := t.monitors.toList
  if ms.any (fun m => m.armed && m.line == line) then t
  else
    let i := monitorPlace ms
    let old := ms.getD i {}
    let lost := old.armed && (old.written || old.lost)
    { t with monitors := t.monitors.setIfInBounds i { armed := true, line := line, order := order, lost := lost, tables := tables } }

def execMona (a : Reg) : State → Out :=
  issue { word := wordMona a, gr := [a] }
    (fun s => do
      let p ← piece s s.ctx (s.rg a).toNat 1 .load
      ordCheck s [p]
      let s ← lookup s.ctx p s
      .ok (retire (s.next.mapThr (fun t => t.arm (s.key p.pa / 128 * 128) s.serial p.tables))))

/-- All entries disarmed, their flags and wake-pending cleared. -/
def Thread.disarm (t : Thread) : Thread := { t with monitors := Vector.replicate 4 {}, wakePending := false }

def execMonc : State → Out :=
  issue { word := wordMonc } (fun s => .ok (retire (s.mapThr Thread.disarm)))

/-- The reason with which MWAIT completes: the lowest code that holds (R205). -/
def Thread.wakeReason (t : Thread) (timeout : Bool) : Word :=
  let ms := t.monitors.toList
  if ms.all (fun m => !m.armed) then 0
  else
    match (List.range 4).find? (fun i => (ms.getD i {}).armed && (ms.getD i {}).written) with
    | some i => BitVec.ofNat 64 (0x10 + i)
    | none =>
      if timeout then 0x20
      else if t.events.any (deliverable t) then 0x30
      else
        match (List.range 4).find? (fun i => (ms.getD i {}).armed && (ms.getD i {}).lost) with
        | some i => BitVec.ofNat 64 (0x40 + i)
        | none => 0x30

/-- The timeout of a waiting MWAIT has run down. -/
def Thread.timedOut (t : Thread) : Bool :=
  match t.wait with
  | some (.monitor _ (some 0)) => true
  | _ => false

/-- MWAIT completes: reason, disarmed entries, the next instruction (R205). -/
def Thread.mwaitEnd (t : Thread) (d : Reg) (timeout : Bool) : Thread :=
  ({ t with wait := none }.disarm.wg d (t.wakeReason timeout)).retire

def execMwait (d a : Reg) : State → Out :=
  issue { word := wordMwait d a, gr := [a], gw := [d], accept := { scope := true } }
    (fun s =>
      let t := s.thr
      if postedBy s s.cur then .error (.wait .posted)
      else if t.wakePending || t.monitors.all (fun m => !m.armed) then .ok (s.mapThr (fun t => t.mwaitEnd d t.timedOut))
      else .error (.wait (.monitor d (if s.rg a = 0 then none else some (s.rg a).toNat))))

/-- The timeout of a waiting MWAIT passes (R205). -/
def execMwaitTimeout (slot : Nat) (s : State) : Out :=
  match (s.thread slot).wait with
  | some (.monitor d (some 0)) => .next (s.mapThread slot (fun t => t.mwaitEnd d true))
  | _ => .next s

/-! ### Near atomics (R207-R212) -/

/-- Requests that the pool of a home holds (R209). -/
def poolUse (s : State) (home : Nat) : Nat :=
  (s.threads.filter (fun e => match e.2.rsv with | some r => !r.revoked && r.home == home | none => false)).length

/-- A request for a reservation: granted at once with an empty queue, otherwise queued, or refused. The first grant of a word
recalls its line (R209). -/
def reserve (d : Reg) (pair : Bool) (ea : Word) (p : Piece) (s : State) : Except Stop State :=
  let w := s.key p.pa
  let home := (homeList s (s.partOf (clusterOf s.cur)) p.pa).1
  if 64 ≤ poolUse s home then refuse ea s
  else do
    let q := s.rsvQueues.get [] w
    let s ← if q.isEmpty then bringHome p true s else .ok s
    let s := { s with rsvQueues := s.rsvQueues.set w (q ++ [s.cur]) }
    let s := s.mapThr (fun t =>
      { t.park (.rsv w) with rsv := some { word := w, va := ea, granted := false, d := d, pair := pair, home := home } })
    .ok (if q.isEmpty then grantNext w s else s)

def execRsv (d b : Reg) (o : BitVec 10) (l : BitVec 4) (s : State) : Out :=
  issue { word := wordRsv d b o l, ill := s.thr.rsv.isSome, gr := [b], gw := [d], long := true, accept := { scope := true } }
    (fun s =>
      let ea := s.ea b o 8
      exhaustible ea (do
        let (s, p) ← atomAccess ea 8 8 true true true true s
        reserve d false ea p s)) s

/-- RSVT: a status of 1 where the word has a holder or a queue; otherwise as RSV with a status of 0 (R207). -/
def execRsvt (d b : Reg) (o : BitVec 10) (l : BitVec 4) (s : State) : Out :=
  issue { word := wordRsvt d b o l, ill := s.thr.rsv.isSome || passes d 2, gr := [b], gw := [d, d + 1], long := true
          accept := { scope := true } }
    (fun s =>
      let ea := s.ea b o 8
      exhaustible ea (do
        let (s, p) ← atomAccess ea 8 8 true true true true s
        if (s.rsvQueues.get [] (s.key p.pa)).isEmpty then reserve d true ea p s
        else .ok (retire ((s.wg d 0).wg (d + 1) 1)))) s

/-- The reservation is given up: granted, the word becomes x and passes on; revoked, nothing is written. The answer
says whether it was granted (R207, R210). -/
def release (p : Piece) (x : Word) (s : State) : Except Stop (State × Bool) :=
  match s.thr.rsv with
  | none => .ok (s, false)
  | some r =>
    if r.revoked || !r.granted then .ok (s.mapThr (fun t => { t with rsv := none }), false)
    else do
      let s ← bringHome p true s
      let s := s.mapThr (fun t => { t with rsv := none })
      .ok (passOn r.word (s.write64 p.pa x), true)

/-- No reservation of this address: REL and RELC trap ILL (R208). The address is known once the base is written. -/
def noReservation (b : Reg) (o : BitVec 10) (s : State) : Bool :=
  match s.thr.rsv with
  | none => true
  | some r => (b == 0 || s.known [b]) && r.va != s.ea b o 8

def execRel (d b : Reg) (o : BitVec 10) (s : State) : Out :=
  issue { word := wordRel d b o, ill := noReservation b o s, gr := [d, b], accept := { scope := true } }
    (fun s => do
      if noReservation b o s then .error (illegal (wordRel d b o))
      let (s, p) ← atomAccess (s.ea b o 8) 8 8 true true false true s
      let (s, _) ← release p (s.rg d) s
      .ok (retire s)) s

/-- The word after a RELC, as its fetch gives it, is a hint word (R208). -/
def hintFollows (s : State) : Bool :=
  match fetchAt false s.cur (s.thr.pc + 4) s with
  | .ok (w, _) => field w 31 26 == 0x3F && field w 25 24 != 3
  | .error _ => false

/-- RELC: on success the next word is skipped; that word may be no hint, and its fetch faults at the RELC, before any other
trap (R55, R208). -/
def execRelc (d b : Reg) (o : BitVec 10) (s : State) : Out :=
  match s.thr.rep, fetchAt false s.cur (s.thr.pc + 4) s with
  | none, .error e => .next (stopAt e s)
  | _, _ =>
    issue { word := wordRelc d b o, ill := noReservation b o s || hintFollows s, gr := [d, b], accept := { scope := true } }
      (fun s => do
        if noReservation b o s then .error (illegal (wordRelc d b o))
        let (s, p) ← atomAccess (s.ea b o 8) 8 8 true true false true s
        let (s, granted) ← release p (s.rg d) s
        .ok (if granted then retireTo (s.thr.pc + 8) s else retire s)) s

/-- A grant of a word held for more than 4096 fabric cycles is revoked (R210). -/
def execReservationTimeout (word : Nat) (s : State) : Out :=
  match grantedTo s word with
  | some k =>
    (match (s.thread k).rsv with
      | some r => if 4096 < s.now - r.since then .next (revoke k s) else .next s
      | none => .next s)
  | none => .next s

/-! ### Far atomics (R213-R218) -/

/-- A far atomic: f gives the new word and the result from the word, the operand, g[d], and the word that follows, all
in n bits. -/
def farAtomic (word : Nat) (d a : Reg) (b : Option Reg) (l : BitVec 4) (w : Bool) (r : BitVec 2) (pair expects : Bool)
    (f : Nat → Nat → Nat → Nat → Nat → Nat × Nat) : State → Out :=
  issue { word := word, gr := a :: (b.toList ++ if expects then [d] else []), gw := [d], long := true
          accept := { scope := r != 0 } }
    (fun s => do
      let n := width w / 8
      let (s, p) ← atomAccess (s.rg a) n (if pair then 2 * n else n) true true true (r != 0) s
      behindGrant p s
      let s ← bringHome p true s
      let m := s.readNat p.pa n
      let x := natOp w (match b with | some b => s.rg b | none => 0)
      let (new, result) := f (8 * n) m x.toNat (natOp w (s.rg d)).toNat (if pair then s.readNat (p.pa + n) n else 0)
      let s := homeDone p (s.writeNat p.pa n new)
      .ok (retireLong (.gen d) ((wres w (BitVec.ofNat 64 result)).setWidth 128) l.toNat false s))

/-- M with the fail flag, bit N - 1, set (R214). -/
def failed (n m : Nat) : Nat := if m.testBit (n - 1) then m else m + 2 ^ (n - 1)

/-- A far atomic whose result is the old word. -/
def farOld (word : Nat) (d a b : Reg) (l : BitVec 4) (w : Bool) (r : BitVec 2) (f : Nat → Nat → Nat → Nat) : State → Out :=
  farAtomic word d a (some b) l w r false false (fun n m x _ _ => (f n m x, m))

def execFadd (d a b : Reg) (l : BitVec 4) (w : Bool) (r : BitVec 2) : State → Out :=
  farOld (wordFadd d a b l w r) d a b l w r (fun n m x => (m + x) % 2 ^ n)
def execFand (d a b : Reg) (l : BitVec 4) (w : Bool) (r : BitVec 2) : State → Out :=
  farOld (wordFand d a b l w r) d a b l w r (fun _ m x => m &&& x)
def execFOr (d a b : Reg) (l : BitVec 4) (w : Bool) (r : BitVec 2) : State → Out :=
  farOld (wordFOr d a b l w r) d a b l w r (fun _ m x => m ||| x)
def execFxor (d a b : Reg) (l : BitVec 4) (w : Bool) (r : BitVec 2) : State → Out :=
  farOld (wordFxor d a b l w r) d a b l w r (fun _ m x => m ^^^ x)
def execFmax (d a b : Reg) (l : BitVec 4) (w : Bool) (r : BitVec 2) : State → Out :=
  farOld (wordFmax d a b l w r) d a b l w r (fun n m x => if signed n m < signed n x then x else m)
def execFmin (d a b : Reg) (l : BitVec 4) (w : Bool) (r : BitVec 2) : State → Out :=
  farOld (wordFmin d a b l w r) d a b l w r (fun n m x => if signed n x < signed n m then x else m)
def execFmaxn (d a b : Reg) (l : BitVec 4) (w : Bool) (r : BitVec 2) : State → Out :=
  farOld (wordFmaxn d a b l w r) d a b l w r (fun _ m x => max m x)
def execFminn (d a b : Reg) (l : BitVec 4) (w : Bool) (r : BitVec 2) : State → Out :=
  farOld (wordFminn d a b l w r) d a b l w r (fun _ m x => min m x)
def execFswp (d a b : Reg) (l : BitVec 4) (w : Bool) (r : BitVec 2) : State → Out :=
  farOld (wordFswp d a b l w r) d a b l w r (fun _ _ x => x)
def execFcas (d a b : Reg) (l : BitVec 4) (w : Bool) (r : BitVec 2) : State → Out :=
  farAtomic (wordFcas d a b l w r) d a (some b) l w r false true (fun _ m x e _ => (if m = e then x else m, m))
def execFincb (d a b : Reg) (l : BitVec 4) (w : Bool) (r : BitVec 2) : State → Out :=
  farAtomic (wordFincb d a b l w r) d a (some b) l w r false false
    (fun n m x _ _ => if m < x then (m + 1, m) else (m, failed n m))
def execFincw (d a b : Reg) (l : BitVec 4) (w : Bool) (r : BitVec 2) : State → Out :=
  farOld (wordFincw d a b l w r) d a b l w r (fun n m x => if x = 0 then (m + 1) % 2 ^ n else (m + 1) % x)
def execFdecp (d a : Reg) (l : BitVec 4) (w : Bool) (r : BitVec 2) : State → Out :=
  farAtomic (wordFdecp d a l w r) d a none l w r false false
    (fun n m _ _ _ => if m = 0 then (m, failed n m) else (m - 1, m))
def execFaddl (d a b : Reg) (l : BitVec 4) (w : Bool) (r : BitVec 2) : State → Out :=
  farAtomic (wordFaddl d a b l w r) d a (some b) l w r true false
    (fun n m x _ lim => if m + x ≤ lim then (m + x, m) else (m, failed n m))

end Sys2Proof.Machine
end

