-- ==== Sys2Proof/Machine/Stash.lean ====
section
/-! DEFINITION. The stash, residency and registered tensors: major 0x25 (R177-R186). -/
namespace Sys2Proof.Machine

/-! ### Lines that a stash holds (R178-R180) -/

/-- An entry is unmapped: the lines that the stash holds of it are written back and dropped, and it is free (R179). -/
def unmapEntry (cl i : Nat) (s : State) : State :=
  let e := (s.cluster cl).stash.get {} i
  if e.live then
    let s := dropLines (2048 + cl) (e.pages.map (fun q => (q.pa, q.len))) s
    s.setCluster cl { s.cluster cl with stash := (s.cluster cl).stash.erase i }
  else s

/-- Entries of a cluster that satisfy q are unmapped (R180). -/
def unmapWhere (cl : Nat) (q : StashEntry → Bool) (s : State) : State :=
  ((s.cluster cl).stash.filter (fun e => e.2.live && q e.2)).foldl (fun s e => unmapEntry cl e.1 s) s

/-- Two ranges share a byte. -/
def overlap (a n b m : Nat) : Bool := decide (a < b + m) && decide (b < a + n) && n != 0 && m != 0

/-- The range of an entry overlaps that of a live entry of its domain, or its area that of any live entry of the cluster
(R177): ranges of two domains are two ranges (log entry 54). -/
def overlaps (cl : Cluster) (e : StashEntry) : Bool :=
  cl.stash.any (fun x => x.2.live && (overlap e.area e.len x.2.area x.2.len
    || (x.2.dom == e.dom && overlap e.va e.len x.2.va x.2.len)))

/-- STMAP (R177). The statuses are given once the area and the pages have passed their checks. The PROT of a bad length or of
other bits in g[c] has the area's address in eaddr, which R177 leaves open (log entry 54). -/
def execStmap (d a b c : Reg) : State → Out :=
  issue { word := wordStmap d a b c, gr := [a, b, c], gw := [d] }
    (fun s => do
      let area := s.rg a
      let len := field (s.rg c) 22 0
      aligned area 4096
      aligned (s.rg b) 4096
      let ctx := s.ctx
      let off := area.toNat - localBase
      if area.toNat < localBase || 2 ^ 52 ≤ area.toNat || !ctx.localOpen || decide (ctx.splen < off + len) then
        .error (.fault causeProt area.toNat)
      else if field (s.rg c) 31 23 ≠ 0 || field (s.rg c) 63 33 ≠ 0 || len = 0 || len % 4096 ≠ 0 || 0x400000 < len then
        .error (.fault causeProt area.toNat)
      else
        let e : StashEntry :=
          { live := true, area := ctx.spbase + off, va := (s.rg b).toNat, len := len, writable := bit (s.rg c) 32
            dom := ctx.dom, unit := s.thr.unit, task := s.thr.task.map (fun x => (coreOf s.cur, x)) }
        let ps ← e.translate s ctx
        ordCheck s ps
        let cl := s.cluster ctx.cluster
        match (List.range 64).find? (fun i => !(cl.stash.get {} i).live) with
        | none => .ok (retire (s.wg d (status (-1))))
        | some i =>
          if overlaps cl e then .ok (retire (s.wg d (status (-2))))
          else
            let s ← charge ctx .load ps s
            let s := s.setCluster ctx.cluster { s.cluster ctx.cluster with
              stash := (s.cluster ctx.cluster).stash.set i { e with pages := ps.map stashPage } }
            .ok (retire (s.wg d (BitVec.ofNat 64 i))))

/-- STUNMAP (R179). -/
def execStunmap (d a : Reg) : State → Out :=
  issue { word := wordStunmap d a, gr := [a], gw := [d] }
    (fun s =>
      let i := (s.rg a).toNat
      let e := (s.cluster (clusterOf s.cur)).stash.get {} i
      if e.live && e.dom == s.thr.dom then .ok (retire ((unmapEntry (clusterOf s.cur) i s).wg d 0))
      else .ok (retire (s.wg d (status (-1)))))

/-- The part of a page that lies in a global range, by its physical addresses. -/
def StashPage.meet (q : StashPage) (lo hi : Nat) : Nat × Nat :=
  (q.pa + (max lo q.va - q.va), min hi (q.va + q.len) - max lo q.va)

/-- STWB: dirty lines of the range are written back and stay, clean (R179). -/
def execStwb (a b : Reg) : State → Out :=
  issue { word := wordStwb a b, gr := [a, b] }
    (fun s => do
      let cl := clusterOf s.cur
      let lo := (s.rg a).toNat
      let hi := lo + (s.rg b).toNat
      let pages := (((s.cluster cl).stash.filter (fun e => e.2.live && e.2.dom == s.thr.dom)).map (fun e => e.2.pages)).flatten
      let dirty := heldLines s (2048 + cl) (dirtyAt s.coh) ((pages.map (fun q => q.meet lo hi)).filter (fun r => r.2 != 0))
      let s ← dirty.foldlM (fun s l => maintainLine s.ctx mLWB (2048 + cl) l s) s
      .ok (retire s))

/-! ### Prefetch (R186) -/

/-- A line of a prefetch, brought to the L1 or to the LLC alone; a request that would wait is not made. -/
def prefetchLine (llcOnly : Bool) (p : Piece) (at_ : Nat) (s : State) : State :=
  let c := s.ctx
  let r := if llcOnly then
      (if isScratch at_ then .ok s
        else if s.coh.holds (s.key at_ / 128 * 128) then .ok s
        else (takeToken c (sliceOf s c.part at_) s).bind (fillLine c at_ (s.key at_ / 128 * 128) (policyOf s false p).low))
    else (lineAccess (partCtx c p) (policyOf s false p) at_ p.va mUREAD { reads := some (0, 128) } s).map (·.1)
  match r with
  | .ok s => s
  | .error _ => s

/-- PREF: pages that are unmapped, lack R or are untouched are skipped; the first 64 KiB of the range count. -/
def execPref (a b : Reg) (f : Bool) : State → Out :=
  issue { word := wordPref a b f, gr := [a, b], ahead := true, accept := { cp := true } }
    (fun s =>
      let ps := (mappedPieces s s.ctx (s.rg a).toNat (min (s.rg b).toNat 65536) .load).filter (fun p =>
        match p.leaf with
        | some x => bit (s.read64 x) 7
        | none => false)
      .ok (retire (ps.foldl (fun s p => (linesFrom p.pa p.len).foldl (fun s l => prefetchLine f p l s) s) s)))

/-! ### Registered tensors (R182-R185) -/

/-- The row of the physical address map that holds an address (R153): near, far, scratchpads, interleaved views, none. -/
def mapRow (a : Nat) : Nat :=
  if a < 0x6000000000 then 0
  else if 0x10000000000 ≤ a && a < 0x90000000000 then 1
  else if isScratch a then 2
  else if 0x100000000000 ≤ a && a < 0x200000000000 then 3
  else 4

/-- The tensor's range is one run of physical addresses in one row of the map. -/
def contiguous : List Piece → Bool
  | [] => true
  | [p] => mapRow p.pa == mapRow (p.pa + p.len - 1)
  | p :: q :: r => p.pa + p.len == q.pa && mapRow p.pa == mapRow q.pa && contiguous (q :: r)

def State.setTensors (s : State) (p : Nat) (x : SMap Tensor) : State := s.setPart p { s.part p with tensors := x }

/-- A tensor record's effect: the new state and g[d] (R183). A base that is not 128-aligned, which the table does not list,
answers -4 (log entry 55). -/
def tensorRecord (w0 w1 w2 w3 : Nat) (s : State) : Except Stop (State × Word) := do
  let c := s.ctx
  let ts := (s.part c.part).tensors
  let rows := w2 % 2 ^ 32
  let tileRows := w2 / 2 ^ 32 % 2 ^ 16
  let tileWidth := w2 / 2 ^ 48
  let id := w3 % 256
  if w3 / 512 ≠ 0 then .ok (s, status (-4))
  else if w3 / 256 % 2 = 1 then
    match ts.find? (fun e => e.1 == id && (e.2.dom == c.dom || c.level ≥ 1)) with
    | some (_, t) => .ok ((cleanRange t.pa (t.rows * t.pitch) s).setTensors c.part (ts.erase id), BitVec.ofNat 64 id)
    | none => .ok (s, status (-5))
  else if rows = 0 || tileRows = 0 || w1 = 0 || w1 % 128 ≠ 0 || tileWidth = 0 || tileWidth % 128 ≠ 0
      || w1 % tileWidth ≠ 0 || w0 % 128 ≠ 0 then .ok (s, status (-4))
  else
    match (List.range 256).find? (fun i => ts.all (fun e => e.1 != i)) with
    | none => .ok (s, status (-1))
    | some i =>
      let ps ← rangeOf s c w0 (rows * w1) .load
      ordCheck s ps
      let pa := match ps with | p :: _ => p.pa | [] => 0
      if !contiguous ps then .ok (s, status (-3))
      else if ts.any (fun e => overlap pa (rows * w1) e.2.pa (e.2.rows * e.2.pitch)) then .ok (s, status (-2))
      else
        let s ← charge c .load ps s
        let t : Tensor := { base := w0, pa := pa, pitch := w1, rows := rows, tileRows := tileRows
                            tileWidth := tileWidth, dom := c.dom }
        .ok ((cleanRange pa (rows * w1) s).setTensors c.part ((s.part c.part).tensors.set i t), BitVec.ofNat 64 i)

def execTilereg (d a : Reg) : State → Out :=
  issue { word := wordTilereg d a, gr := [a], gw := [d] }
    (fun s => do
      aligned (s.rg a) 32
      let (s, l) ← loadRanges s false [((s.rg a).toNat, 32)]
      let w := fun i => ofBytes ((l.drop (8 * i)).take 8)
      let (s, x) ← tensorRecord (w 0) (w 1) (w 2) (w 3) s
      .ok (retire (s.wg d x)))

def execTres (d a b : Reg) : State → Out :=
  issue { word := wordTres d a b, gr := [a, b], gw := [d] }
    (fun s =>
      let p := s.partOf (clusterOf s.cur)
      let ts := (s.part p).tensors
      match ts.find? (fun e => e.1 == (s.rg a).toNat && (e.2.dom == s.thr.dom || s.thr.level ≥ 1)) with
      | none => .ok (retire (s.wg d (status (-1))))
      | some (i, t) =>
        if 7 < (s.rg b).toNat then .ok (retire (s.wg d (status (-2))))
        else
          .ok (retire ((s.setTensors p (ts.set i { t with prio := (s.rg b).toNat })).wg d (BitVec.ofNat 64 t.prio))))

end Sys2Proof.Machine
end

