-- ==== Sys2Proof/Machine/Buffers.lean ====
section
/-! DEFINITION. Circular buffers: their counters (R258, R261) and major 0x2D (R259-R263). -/
namespace Sys2Proof.Machine

def State.buffer (s : State) (c b : Nat) : Buffer := (s.cluster c).bufs.get {} b
def State.setBuffer (s : State) (c b : Nat) (x : Buffer) : State :=
  s.setCluster c { s.cluster c with bufs := (s.cluster c).bufs.set b x }
def State.setTask (s : State) (n id : Nat) (x : Task) : State :=
  s.setCore n { s.core n with tasks := (s.core n).tasks.set id x }

/-! ### The counters (R261) -/

/-- A free slot becomes reserved: its number. -/
def Buffer.take (b : Buffer) : Nat × Buffer :=
  (b.wr, { b with free := b.free - 1, resv := b.resv + 1, wr := (b.wr + 1) % b.slots })

/-- Slots at the oldest reservation with their done bit are published, in order. -/
def Buffer.settle : Nat → Buffer → Buffer
  | 0, b => b
  | fuel + 1, b =>
    let oldest := (b.wr + b.slots - b.resv) % b.slots
    if decide (0 < b.resv) && b.done.contains oldest then
      Buffer.settle fuel { b with done := b.done.erase oldest, resv := b.resv - 1, filled := b.filled + 1 }
    else b

/-- A reserved slot is done, and what can be published is. -/
def Buffer.publish (b : Buffer) (j : Nat) : Buffer := Buffer.settle b.resv { b with done := b.done ++ [j] }

/-- A filled slot becomes held: its number. -/
def Buffer.acquire (b : Buffer) : Nat × Buffer :=
  (b.rd, { b with filled := b.filled - 1, held := b.held + 1, rd := (b.rd + 1) % b.slots })

/-- Released slots at the oldest held place become free. -/
def Buffer.freeHeld : Nat → Buffer → Buffer
  | 0, b => b
  | fuel + 1, b =>
    let oldest := (b.rd + b.slots - b.held) % b.slots
    if decide (0 < b.held) && b.released.contains oldest then
      Buffer.freeHeld fuel { b with released := b.released.erase oldest, held := b.held - 1, free := b.free + 1,
                                    tokens := b.tokens.erase oldest }
    else b

/-- A held slot is released, and what can be freed is. -/
def Buffer.release (b : Buffer) (j : Nat) : Buffer :=
  Buffer.freeHeld b.held { b with released := if b.released.contains j then b.released else b.released ++ [j] }

/-- Slot j lies among the n slots that start at `first`, around the ring. -/
def Buffer.within (b : Buffer) (first n j : Nat) : Bool := decide ((j + b.slots - first) % b.slots < n)

def Buffer.isReserved (b : Buffer) (j : Nat) : Bool :=
  decide (0 < b.resv) && b.within ((b.wr + b.slots - b.resv) % b.slots) b.resv j
def Buffer.isHeld (b : Buffer) (j : Nat) : Bool :=
  decide (0 < b.held) && b.within ((b.rd + b.slots - b.held) % b.slots) b.held j

/-! ### Publication into a task's port (R323) -/

/-- An id joins its core's ready queue, where it stands once (R326). -/
def pushReady (n id : Nat) (s : State) : State :=
  if (s.core n).ready.any (fun e => e.2.contains id) then s
  else
  let p := ((s.core n).tasks.get {} id).prio
  let q := (s.core n).ready.get [] p
  s.setCore n { s.core n with ready := (s.core n).ready.set p (q ++ [id]) }

/-- A parked task is queued: its sleeper marks are cleared and its id is pushed. -/
def wakeTask (n id : Nat) (s : State) : State :=
  let t := (s.core n).tasks.get {} id
  if t.state = .parked then
    pushReady n id (s.setTask n id { t with state := .queued, ports := t.ports.map (fun p =>
      p.map (fun q => { q with sleeper := false })) })
  else s

/-! ### Slots (R261) -/

/-- The local-window address of a slot of a buffer in the allocation of a context, if it lies there (R261). -/
def slotAddress (c : Ctx) (b : Buffer) (j : Nat) : Option Word :=
  let at_ := b.base + j * b.size
  if c.localOpen && decide (c.spbase ≤ at_) && decide (at_ + b.size ≤ c.spbase + c.splen) then
    some (BitVec.ofNat 64 (localBase + at_ - c.spbase))
  else none

/-- The slot that a local-window address names (R261). -/
def slotOfAddress (c : Ctx) (b : Buffer) (x : Word) : Option Nat :=
  (List.range b.slots).find? (fun j => slotAddress c b j == some x)

/-- A thread that waits on a buffer, in CBACQ or in CBRES: order of arrival and destination. -/
def Thread.waitsOn (t : Thread) (acq : Bool) (b : Nat) : Option (Nat × Reg) :=
  match t.wait with
  | some (.cbacq x o d) => if acq && x == b then some (o, d) else none
  | some (.cbres x o d) => if !acq && x == b then some (o, d) else none
  | _ => none

/-- The slot that has waited longest in CBACQ, or in CBRES, on a buffer: its order, the slot, its destination. -/
def firstWaiter (s : State) (c : Nat) (acq : Bool) (b : Nat) : Option (Nat × Nat × Reg) :=
  s.threads.foldl (fun best e =>
    match if clusterOf e.1 == c then e.2.waitsOn acq b else none, best with
    | some (o, d), none => some (o, e.1, d)
    | some (o, d), some x => if o < x.1 then some (o, e.1, d) else best
    | none, _ => best) none

/-- CBFAULT of a slot that waits on a buffer (R263): eaddr is g[a], the buffer's number. -/
def waiterFault (k b : Nat) (s : State) : State := trapNow k { cause := 0x19, eaddr := BitVec.ofNat 64 b } s

/-- A waiter completes with the slot that its buffer gives, or takes CBFAULT where that lies outside its allocation. -/
def serveSlot (c b k : Nat) (d : Reg) (r : Nat × Buffer) (s : State) : State :=
  match slotAddress (ctxOf s k) r.2 r.1 with
  | none => waiterFault k b s
  | some x => (s.setBuffer c b r.2).mapThread k (fun t => ({ t with wait := none }.wg d x).retire)

/-- Those that wait in CBACQ for a filled slot and in CBRES for a free one are served, first in, first out (R261). The fuel
bounds the waiters. -/
def serveBuffer : Nat → Nat → Nat → State → State
  | 0, _, _, s => s
  | fuel + 1, c, b, s =>
    let buf := s.buffer c b
    match if buf.filled = 0 then none else firstWaiter s c true b with
    | some (_, k, d) => serveBuffer fuel c b (serveSlot c b k d buf.acquire s)
    | none =>
      match if buf.free = 0 then none else firstWaiter s c false b with
      | some (_, k, d) => serveBuffer fuel c b (serveSlot c b k d buf.take s)
      | none => s

/-- A buffer with new counters: its waiters are served, and where slots were published into a port, its parked task wakes
(R261, R323). -/
def updateBuffer (c b : Nat) (new : Buffer) (s : State) : State :=
  let more := decide ((s.buffer c b).filled < new.filled)
  let s := serveBuffer 256 c b (s.setBuffer c b new)
  match new.task with
  | some (n, id) => if new.port && more then wakeTask n id s else s
  | none => s

/-! ### Release (R262) -/

/-- The number under which a command of a cluster's Mule waits on a page request. -/
def muleTag (c : Nat) (m : CopyCmd) : Nat := 128 * m.number + c

/-- Commands of a cluster that satisfy q and have not ended stop with a status; a page request that one waits on is left
(R254, R257, R262). -/
def stopCommands (c : Nat) (q : CopyCmd → Bool) (code : Int) (s : State) : State :=
  let hit := fun (m : CopyCmd) => m.status.isNone && q m
  let s := ((s.cluster c).mule.filter hit).foldl (fun s m =>
    match m.request with
    | some (n, _) => leaveEngine m.ctx.part n (muleTag c m) s
    | none => s) s
  s.setCluster c { s.cluster c with
    mule := (s.cluster c).mule.map (fun m => if hit m then { m with status := some (code, 0), request := none } else m) }

/-- A buffer is released: its waiters take CBFAULT, commands on it end with -4 (R262), and who waits to send into it looks
again (R323). -/
def releaseBuffer (c b : Nat) (s : State) : State :=
  let ws := (s.threads.filter (fun e => clusterOf e.1 == c &&
    ((e.2.waitsOn true b).isSome || (e.2.waitsOn false b).isSome))).map (·.1)
  let s := stopCommands c (fun m => m.fn = 4 && field (m.quad[1]) 7 0 == b) (-4) s
  let s := s.setCluster c { s.cluster c with bufs := (s.cluster c).bufs.erase b }
  let s := { s with threads := s.threads.mapVals (fun _ t => if t.wait == some (.qsend c b) then { t with wait := none } else t) }
  ws.foldl (fun s k => waiterFault k b s) s

/-- Buffers of a cluster that satisfy q are released. -/
def releaseWhere (c : Nat) (q : Buffer → Bool) (s : State) : State :=
  ((s.cluster c).bufs.filter (fun e => e.2.live && q e.2)).foldl (fun s e => releaseBuffer c e.1 s) s

/-! ### Major 0x2D (R259-R263) -/

def cbFault (a : Word) : Except Stop State := .error (.trap { cause := 0x19, eaddr := a })

/-- CBFAULT of R263 for the buffer that g[a] names: reserved bits, another domain's buffer, or no live buffer. -/
def bufferOf (a : Word) (needLive : Bool) (s : State) : Except Stop Buffer :=
  let b := s.buffer (clusterOf s.cur) (field a 7 0)
  if 256 ≤ a.toNat || (b.live && b.dom != s.thr.dom) || (needLive && !b.live) then
    .error (.trap { cause := 0x19, eaddr := a })
  else .ok b

/-! The fill-event port (R197): the buffer that +0x28 of the partition record names (R414). -/

/-- The cluster and the number of the port's buffer (R414). -/
def portOf (s : State) (p : Nat) : Nat × Nat := (field (s.prec p 0x28) 6 0, field (s.prec p 0x28) 15 8)

/-- The port can take events. -/
def portUsable (s : State) (p : Nat) : Bool :=
  let (c, b) := portOf s p
  let buf := s.buffer c b
  (s.cluster c).part == some p && buf.live && buf.eng && buf.size == 64

/-- A port that is usable has left the condition that a notice told of. -/
def portChecked (p : Nat) (s : State) : State :=
  if (s.part p).portNoticed && portUsable s p then s.setPart p { s.part p with portNoticed := false } else s

def execCbinit (d a b : Reg) : State → Out :=
  issue { word := wordCbinit d a b, gr := [a, b], gw := [d] }
    (fun s => do
      let buf ← bufferOf (s.rg a) false s
      let x := s.rg b
      let c := clusterOf s.cur
      let i := field (s.rg a) 7 0
      let off := field x 21 0
      let size := field x 47 32 * 64
      let n := field x 63 48
      let ctx := s.ctx
      if x = 0 then
        let s := if buf.live then releaseBuffer c i s else s
        .ok (retire (s.wg d 0))
      else if buf.live then .ok (retire (s.wg d (status (-1))))
      else if off % 64 ≠ 0 || size = 0 || 65536 < size || n = 0 || 4096 < n || field x 31 23 ≠ 0 then
        .ok (retire (s.wg d (status (-2))))
      else if !ctx.localOpen || decide (ctx.splen < off + size * n) then .ok (retire (s.wg d (status (-3))))
      else
        let new : Buffer :=
          { live := true, dom := s.thr.dom, eng := bit x 22, base := ctx.spbase + off, size := size, slots := n, free := n
            unit := s.thr.unit, task := s.thr.task.map (fun t => (coreOf s.cur, t)) }
        .ok (retire ((portChecked ctx.part (s.setBuffer c i new)).wg d 0)))

def execCbacq (d a : Reg) : State → Out :=
  issue { word := wordCbacq d a, gr := [a], gw := [d] }
    (fun s => do
      let buf ← bufferOf (s.rg a) true s
      let c := clusterOf s.cur
      let i := field (s.rg a) 7 0
      if buf.filled = 0 then .error (.wait (.cbacq i (s.cluster c).arrivals d))
      else
        let (j, buf2) := buf.acquire
        match slotAddress s.ctx buf j with
        | none => cbFault (s.rg a)
        | some x => .ok (retire ((s.setBuffer c i buf2).wg d x)))

/-- CBREL: with b = 0 the oldest held slot (R261). -/
def execCbrel (a b : Reg) : State → Out :=
  issue { word := wordCbrel a b, gr := [a, b] }
    (fun s => do
      let buf ← bufferOf (s.rg a) true s
      let i := field (s.rg a) 7 0
      let j := if b = 0 then some ((buf.rd + buf.slots - buf.held) % buf.slots) else slotOfAddress s.ctx buf (s.rg b)
      afterPosted s
      match j with
      | some j =>
        if buf.isHeld j then .ok (retire (updateBuffer (clusterOf s.cur) i (buf.release j) s)) else cbFault (s.rg a)
      | none => cbFault (s.rg a))

/-- The counters of a buffer in one word (R262). -/
def Buffer.stat (b : Buffer) : Word :=
  if b.live then
    BitVec.ofNat 64 (2 ^ 63 + b.eng.toNat * 2 ^ 62 + b.filled * 2 ^ 39 + b.free * 2 ^ 26 + b.held * 2 ^ 13 + b.resv)
  else 0

def execCbstat (d a : Reg) : State → Out :=
  issue { word := wordCbstat d a, gr := [a], gw := [d] }
    (fun s => do
      let buf ← bufferOf (s.rg a) false s
      .ok (retire (s.wg d buf.stat)))

def execCbres (d a : Reg) : State → Out :=
  issue { word := wordCbres d a, gr := [a], gw := [d], accept := { wait := true } }
    (fun s => do
      let buf ← bufferOf (s.rg a) true s
      let c := clusterOf s.cur
      let i := field (s.rg a) 7 0
      if buf.eng then cbFault (s.rg a)
      else if buf.free = 0 then
        if s.waitHint then .error (.wait (.cbres i (s.cluster c).arrivals d)) else .ok (retire (s.wg d 0))
      else
        let (j, buf2) := buf.take
        match slotAddress s.ctx buf j with
        | none => cbFault (s.rg a)
        | some x => .ok (retire ((s.setBuffer c i buf2).wg d x)))

def execCbpub (a b : Reg) : State → Out :=
  issue { word := wordCbpub a b, gr := [a, b] }
    (fun s => do
      let buf ← bufferOf (s.rg a) true s
      let c := clusterOf s.cur
      let i := field (s.rg a) 7 0
      afterPosted s
      match slotOfAddress s.ctx buf (s.rg b) with
      | none => cbFault (s.rg a)
      | some j =>
        if buf.eng || !buf.isReserved j || buf.done.contains j then cbFault (s.rg a)
        else .ok (retire (updateBuffer c i (buf.publish j) s)))

end Sys2Proof.Machine
end

