-- ==== Sys2Proof/Machine/Flags.lean ====
section
/-! DEFINITION. Floating-point formats, rounding and the exception flags of fstat (R99, R100, R120-R122, R132-R134).
A finite value is exact: sign, natural significand, binary exponent. -/
namespace Sys2Proof.Machine

/-! ### Flags (R99) -/

def flagNX : Nat := 1
def flagUF : Nat := 2
def flagOF : Nat := 4
def flagDZ : Nat := 8
def flagNV : Nat := 16

/-- fstat with flags raised. -/
def raise (f : Nat) (s : State) : State := s.mapThr (fun t => { t with fstat := t.fstat ||| BitVec.ofNat 64 f })

/-! ### Formats (R120-R122) -/

/-- A format: fraction and exponent bits, the code of the largest finite magnitude, the canonical NaN, whether it has
infinities. -/
structure Fmt where
  frac : Nat
  exp : Nat
  maxCode : Nat
  nan : Nat
  hasInf : Bool
  deriving DecidableEq, Repr

def fp16 : Fmt := { frac := 10, exp := 5, maxCode := 0x7BFF, nan := 0x7E00, hasInf := true }
def fp32 : Fmt := { frac := 23, exp := 8, maxCode := 0x7F7FFFFF, nan := 0x7FC00000, hasInf := true }
def bf16 : Fmt := { frac := 7, exp := 8, maxCode := 0x7F7F, nan := 0x7FC0, hasInf := true }
def e4m3 : Fmt := { frac := 3, exp := 4, maxCode := 0x7E, nan := 0x7F, hasInf := false }
def e5m2 : Fmt := { frac := 2, exp := 5, maxCode := 0x7B, nan := 0x7E, hasInf := true }

def Fmt.bits (f : Fmt) : Nat := 1 + f.exp + f.frac
def Fmt.bias (f : Fmt) : Int := (2 ^ (f.exp - 1) : Nat) - 1
def Fmt.signBit (f : Fmt) : Nat := 2 ^ (f.exp + f.frac)

/-- The format of q[1:0] in majors 0x15 to 0x17 and VFRADD (R93); code 3 traps ILL. -/
def formatOf (q : BitVec 2) : Fmt := if q = 0 then fp16 else if q = 1 then fp32 else bf16

/-- A value: NaN (signalling or not), an infinity, or (-1)^neg * m * 2^e. -/
inductive FVal where
  | nan (signalling : Bool)
  | inf (neg : Bool)
  | fin (neg : Bool) (m : Nat) (e : Int)
  deriving DecidableEq, Repr

/-- The value of a code (R120-R122). -/
def Fmt.val (f : Fmt) (code : Nat) : FVal :=
  let neg := decide (f.signBit ≤ code)
  let mag := code % f.signBit
  let ex := mag / 2 ^ f.frac
  let fr := mag % 2 ^ f.frac
  if !f.hasInf && mag == f.nan then .nan false
  else if f.hasInf && ex == 2 ^ f.exp - 1 then
    if fr = 0 then .inf neg else .nan (decide (fr < 2 ^ (f.frac - 1)))
  else if ex = 0 then .fin neg fr (1 - f.bias - f.frac)
  else .fin neg (2 ^ f.frac + fr) (ex - f.bias - f.frac)

def FVal.isNan : FVal → Bool
  | .nan _ => true
  | _ => false
def FVal.isSignalling : FVal → Bool
  | .nan x => x
  | _ => false
def FVal.negate : FVal → FVal
  | .inf n => .inf (!n)
  | .fin n m e => .fin (!n) m e
  | x => x

/-- A magnitude's code with a sign. -/
def Fmt.signed (f : Fmt) (neg : Bool) (mag : Nat) : Nat := if neg then f.signBit + mag else mag
/-- An infinity's code; the format's NaN where it has none. -/
def Fmt.infCode (f : Fmt) (neg : Bool) : Nat := if f.hasInf then f.signed neg (f.maxCode + 1) else f.nan

/-! ### Rounding (R60, R100, R132): modes 0 RNE, 1 RZ, 2 RU, 3 RD -/

/-- A magnitude m * 2^e (and a bit more, with sticky) rounded to a multiple of 2^q: the multiple, and whether it
differs. -/
def roundAt (rm : Nat) (neg : Bool) (m : Nat) (e q : Int) (sticky : Bool) : Nat × Bool :=
  if q ≤ e then (m * 2 ^ (e - q).toNat, sticky)
  else
    let sh := (q - e).toNat
    let away := (rm = 2 ∧ neg = false) ∨ (rm = 3 ∧ neg = true)
    if m ≠ 0 ∧ m.log2 + 2 < sh then (if away then 1 else 0, true)
    else
      let n := m / 2 ^ sh
      let r := 2 * (m % 2 ^ sh)
      let inexact := r ≠ 0 || sticky
      let up :=
        if rm = 0 then decide (2 ^ sh < r) || (r == 2 ^ sh && (sticky || n % 2 == 1))
        else decide away && inexact
      (if up then n + 1 else n, inexact)

/-- A non-zero magnitude rounded into a format, with the flags of the rounding (R132). -/
def Fmt.pack (f : Fmt) (rm : Nat) (sat neg : Bool) (m : Nat) (e : Int) (sticky : Bool) : Nat × Nat :=
  let top : Int := m.log2 + e
  let emin : Int := 1 - f.bias
  let q : Int := max top emin - f.frac
  let (n, inexact) := roundAt rm neg m e q sticky
  let code := (q - (emin - f.frac)).toNat * 2 ^ f.frac + n
  if f.maxCode < code then
    let toInf := rm = 0 ∨ (rm = 2 ∧ neg = false) ∨ (rm = 3 ∧ neg = true)
    (if !sat && decide toInf then f.infCode neg else f.signed neg f.maxCode, flagOF + flagNX)
  else
    let free := (roundAt rm neg m e (top - f.frac) sticky).1
    let tiny := decide (top < emin) && !(top + 1 == emin && free == 2 ^ (f.frac + 1))
    (f.signed neg code, if inexact then (if tiny then flagNX + flagUF else flagNX) else 0)

/-- rnd of an exact value into a format (R132). -/
def Fmt.round (f : Fmt) (rm : Nat) (sat : Bool) : FVal → Nat × Nat
  | .nan sig => (f.nan, if sig then flagNV else 0)
  | .inf neg =>
    if sat then (f.signed neg f.maxCode, 0)
    else if f.hasInf then (f.infCode neg, 0) else (f.nan, flagNV)
  | .fin neg m e => if m = 0 then (f.signed neg 0, 0) else f.pack rm sat neg m e false

/-! ### Arithmetic on exact values (R100, R112, R113) -/

/-- NaN with NV for an invalid operation, or for a signalling input. -/
def Fmt.invalid (f : Fmt) (nv : Bool) : Nat × Nat := (f.nan, if nv then flagNV else 0)

/-- The exact sum of two finite values; an exact zero is negative only for two negative zeros, or under RD. -/
def finAdd (rm : Nat) (n1 : Bool) (m1 : Nat) (e1 : Int) (n2 : Bool) (m2 : Nat) (e2 : Int) : FVal :=
  let e := min e1 e2
  let a : Int := (m1 * 2 ^ (e1 - e).toNat : Nat)
  let b : Int := (m2 * 2 ^ (e2 - e).toNat : Nat)
  let x := (if n1 then -a else a) + (if n2 then -b else b)
  if x = 0 then .fin (if m1 = 0 && m2 = 0 && n1 == n2 then n1 else rm == 3) 0 0
  else .fin (decide (x < 0)) x.natAbs e

/-- rnd(A + B). -/
def Fmt.add (f : Fmt) (rm : Nat) (x y : FVal) : Nat × Nat :=
  match x, y with
  | .nan p, .nan q => f.invalid (p || q)
  | .nan p, _ => f.invalid p
  | _, .nan q => f.invalid q
  | .inf a, .inf b => if a == b then (f.infCode a, 0) else f.invalid true
  | .inf a, _ => (f.infCode a, 0)
  | _, .inf b => (f.infCode b, 0)
  | .fin n1 m1 e1, .fin n2 m2 e2 => f.round rm false (finAdd rm n1 m1 e1 n2 m2 e2)

/-- The exact product of two values that are not NaN; none for infinity times zero. -/
def product (x y : FVal) : Option FVal :=
  match x, y with
  | .inf a, .inf b => some (.inf (a != b))
  | .inf a, .fin n m _ => if m = 0 then none else some (.inf (a != n))
  | .fin n m _, .inf a => if m = 0 then none else some (.inf (a != n))
  | .fin n1 m1 e1, .fin n2 m2 e2 => some (.fin (n1 != n2) (m1 * m2) (e1 + e2))
  | _, _ => none

/-- rnd(A * B). -/
def Fmt.mul (f : Fmt) (rm : Nat) (x y : FVal) : Nat × Nat :=
  if x.isNan || y.isNan then f.invalid (x.isSignalling || y.isSignalling)
  else match product x y with
    | some p => f.round rm false p
    | none => f.invalid true

/-- rnd(A * B + C), rounded once; infinity times zero raises NV even with a quiet NaN in C (R113). -/
def Fmt.fma (f : Fmt) (rm : Nat) (x y z : FVal) : Nat × Nat :=
  let sig := x.isSignalling || y.isSignalling || z.isSignalling
  if x.isNan || y.isNan then f.invalid sig
  else match product x y with
    | none => f.invalid true
    | some p => if z.isNan then f.invalid sig else f.add rm p z

/-- The order of two values that are not NaN; zeros are equal. -/
def FVal.lt (x y : FVal) : Bool :=
  match x, y with
  | .inf a, .inf b => a && !b
  | .inf a, _ => a
  | _, .inf b => !b
  | .fin n1 m1 e1, .fin n2 m2 e2 =>
    let e := min e1 e2
    let a : Int := (m1 * 2 ^ (e1 - e).toNat : Nat)
    let b : Int := (m2 * 2 ^ (e2 - e).toNat : Nat)
    decide ((if n1 then -a else a) < (if n2 then -b else b))
  | _, _ => false

def FVal.neg : FVal → Bool
  | .inf n => n
  | .fin n _ _ => n
  | _ => false

/-- x comes before y with -0 below +0 (R112). -/
def FVal.below (x y : FVal) : Bool := x.lt y || (!y.lt x && x.neg && !y.neg)

/-! ### Division and roots, correctly rounded (R114) -/

/-- The largest r below 2^k with r * r ≤ n. -/
def isqrt : Nat → Nat → Nat → Nat
  | 0, _, r => r
  | k + 1, n, r => isqrt k n (if (r + 2 ^ k) * (r + 2 ^ k) ≤ n then r + 2 ^ k else r)

/-- A quotient of naturals, not zero, times 2^e, rounded. -/
def Fmt.ratio (f : Fmt) (rm : Nat) (neg : Bool) (a b : Nat) (e : Int) : Nat × Nat :=
  let k := b.log2 + 64
  f.pack rm false neg (a * 2 ^ k / b) (e - k) (a * 2 ^ k % b != 0)

/-- A/B (R114). -/
def Fmt.div (f : Fmt) (rm : Nat) (x y : FVal) : Nat × Nat :=
  match x, y with
  | .nan p, .nan q => f.invalid (p || q)
  | .nan p, _ => f.invalid p
  | _, .nan q => f.invalid q
  | .inf _, .inf _ => f.invalid true
  | .inf a, .fin n _ _ => (f.infCode (a != n), 0)
  | .fin n _ _, .inf b => (f.signed (n != b) 0, 0)
  | .fin n1 m1 e1, .fin n2 m2 e2 =>
    if m2 = 0 then (if m1 = 0 then f.invalid true else (f.infCode (n1 != n2), flagDZ))
    else if m1 = 0 then (f.signed (n1 != n2) 0, 0)
    else f.ratio rm (n1 != n2) m1 m2 (e1 - e2)

/-- The square root of A. -/
def Fmt.sqrt (f : Fmt) (rm : Nat) : FVal → Nat × Nat
  | .nan p => f.invalid p
  | .inf n => if n then f.invalid true else (f.infCode false, 0)
  | .fin n m e =>
    if m = 0 then (f.signed n 0, 0)
    else if n then f.invalid true
    else
      let m2 := if e % 2 = 0 then m else 2 * m
      let e2 := e - e % 2
      let x := m2 * 2 ^ 128
      let r := isqrt 96 x 0
      f.pack rm false false r (e2 / 2 - 64) (r * r != x)

/-- 1/sqrt A. -/
def Fmt.rsqrt (f : Fmt) (rm : Nat) : FVal → Nat × Nat
  | .nan p => f.invalid p
  | .inf n => if n then f.invalid true else (f.signed false 0, 0)
  | .fin n m e =>
    if m = 0 then (f.infCode n, flagDZ)
    else if n then f.invalid true
    else
      let m2 := if e % 2 = 0 then m else 2 * m
      let e2 := e - e % 2
      let r := isqrt 96 (2 ^ 160 / m2) 0
      f.pack rm false false r (-(e2 / 2) - 80) (r * r * m2 != 2 ^ 160)

/-! ### Integers (R133, R134) -/

/-- A float rounded to an integer, clamped to [lo, hi] (R133). -/
def toInt (rm : Nat) (lo hi : Int) : FVal → Int × Nat
  | .nan _ => (0, flagNV)
  | .inf n => (if n then lo else hi, flagNV)
  | .fin n m e =>
    let (a, inexact) := roundAt rm n m e 0 false
    let x : Int := if n then -(a : Int) else a
    if x < lo then (lo, flagNV) else if hi < x then (hi, flagNV) else (x, if inexact then flagNX else 0)

/-- An integer rounded into a format (R134). -/
def Fmt.ofInt (f : Fmt) (rm : Nat) (x : Int) : Nat × Nat := f.round rm false (.fin (decide (x < 0)) x.natAbs 0)

end Sys2Proof.Machine
end

