-- ==== Sys2Proof/Machine/Vector.lean ====
section
/-! DEFINITION. Packed integer vectors, permutes, masks, moves, reductions and neighbour sends: majors 0x14, 0x18,
0x19, 0x1A (but VFRADD), 0x1B (R101-R111, R116-R118). -/
namespace Sys2Proof.Machine

/-- What every instruction of majors 0x14 to 0x1A is to the issue stage (R96, R98). -/
def vecUse (word : Nat) (vr vw : List Reg) (m : BitVec 2) : Use :=
  { word := word, vr := vr, vw := vw, mr := [m], body := true, vx := true }

/-- An integer clamped to n bits, signed or natural (R101). -/
def clampSigned (n : Nat) (x : Int) : Nat := unsigned n (max (-(2 ^ (n - 1) : Nat)) (min ((2 ^ (n - 1) : Nat) - 1) x))
def clampNatural (n : Nat) (x : Int) : Nat := (max 0 (min (((2 ^ n : Nat) : Int) - 1) x)).toNat

/-- Active elements of v[d] receive the new elements (R95). -/
def writeLanes (d : Reg) (m : BitVec 2) (w : Nat) (new : List Nat) (s : State) : State :=
  s.wv d (merge (s.rm m) w (s.oldv d) new)

/-! ### Major 0x14 (R101-R103) -/

/-- An elementwise instruction of two sources; f takes the saturation hint, the element's bits, A and B. -/
def elementwise (word : Nat) (d a b : Reg) (m q : BitVec 2) (takesSat : Bool) (f : Bool → Nat → Nat → Nat → Nat) :
    State → Out :=
  issue { vecUse word [a, b] [d] m with accept := { sat := takesSat } }
    (fun s =>
      let n := laneBits q
      .ok (retire (writeLanes d m (laneBytes q)
        (List.zipWith (f s.satHint n) (lanes (s.rv a) n) (lanes (s.rv b) n)) s)))

/-- A sum, difference or product, wrapping, or saturated as signed with the hint. -/
def wrapOrSat (op : Int → Int → Int) (sat : Bool) (n x y : Nat) : Nat :=
  if sat then clampSigned n (op (signed n x) (signed n y)) else unsigned n (op x y)

def execVadd (d a b : Reg) (m w : BitVec 2) : State → Out :=
  elementwise (wordVadd d a b m w) d a b m w true (wrapOrSat (fun x y => x + y))
def execVsub (d a b : Reg) (m w : BitVec 2) : State → Out :=
  elementwise (wordVsub d a b m w) d a b m w true (wrapOrSat (fun x y => x - y))
def execVadds (d a b : Reg) (m w : BitVec 2) : State → Out :=
  elementwise (wordVadds d a b m w) d a b m w false (fun _ n x y => clampSigned n (signed n x + signed n y))
def execVaddsn (d a b : Reg) (m w : BitVec 2) : State → Out :=
  elementwise (wordVaddsn d a b m w) d a b m w false (fun _ n x y => clampNatural n ((x : Int) + y))
def execVsubs (d a b : Reg) (m w : BitVec 2) : State → Out :=
  elementwise (wordVsubs d a b m w) d a b m w false (fun _ n x y => clampSigned n (signed n x - signed n y))
def execVsubsn (d a b : Reg) (m w : BitVec 2) : State → Out :=
  elementwise (wordVsubsn d a b m w) d a b m w false (fun _ n x y => clampNatural n ((x : Int) - y))
def execVmul (d a b : Reg) (m w : BitVec 2) : State → Out :=
  elementwise (wordVmul d a b m w) d a b m w true (wrapOrSat (fun x y => x * y))
def execVmulh (d a b : Reg) (m w : BitVec 2) : State → Out :=
  elementwise (wordVmulh d a b m w) d a b m w false
    (fun _ n x y => unsigned n (signed n x * signed n y / (2 ^ n : Nat)))
def execVmulhn (d a b : Reg) (m w : BitVec 2) : State → Out :=
  elementwise (wordVmulhn d a b m w) d a b m w false (fun _ n x y => x * y / 2 ^ n)
def execVmin (d a b : Reg) (m w : BitVec 2) : State → Out :=
  elementwise (wordVmin d a b m w) d a b m w false (fun _ n x y => if signed n y < signed n x then y else x)
def execVmax (d a b : Reg) (m w : BitVec 2) : State → Out :=
  elementwise (wordVmax d a b m w) d a b m w false (fun _ n x y => if signed n x < signed n y then y else x)
def execVminn (d a b : Reg) (m w : BitVec 2) : State → Out :=
  elementwise (wordVminn d a b m w) d a b m w false (fun _ _ x y => min x y)
def execVmaxn (d a b : Reg) (m w : BitVec 2) : State → Out :=
  elementwise (wordVmaxn d a b m w) d a b m w false (fun _ _ x y => max x y)
def execVand (d a b : Reg) (m w : BitVec 2) : State → Out :=
  elementwise (wordVand d a b m w) d a b m w false (fun _ _ x y => x &&& y)
def execVor (d a b : Reg) (m w : BitVec 2) : State → Out :=
  elementwise (wordVor d a b m w) d a b m w false (fun _ _ x y => x ||| y)
def execVxor (d a b : Reg) (m w : BitVec 2) : State → Out :=
  elementwise (wordVxor d a b m w) d a b m w false (fun _ _ x y => x ^^^ y)
def execVandn (d a b : Reg) (m w : BitVec 2) : State → Out :=
  elementwise (wordVandn d a b m w) d a b m w false (fun _ n x y => x &&& (2 ^ n - 1 - y))
def execVshl (d a b : Reg) (m w : BitVec 2) : State → Out :=
  elementwise (wordVshl d a b m w) d a b m w true
    (fun sat n x y =>
      if sat then clampSigned n (signed n x * (2 ^ (y % n) : Nat)) else x * 2 ^ (y % n) % 2 ^ n)
def execVshr (d a b : Reg) (m w : BitVec 2) : State → Out :=
  elementwise (wordVshr d a b m w) d a b m w false (fun _ n x y => x / 2 ^ (y % n))
def execVsra (d a b : Reg) (m w : BitVec 2) : State → Out :=
  elementwise (wordVsra d a b m w) d a b m w false
    (fun _ n x y => unsigned n (signed n x / (2 ^ (y % n) : Nat)))
def execVavg (d a b : Reg) (m w : BitVec 2) : State → Out :=
  elementwise (wordVavg d a b m w) d a b m w false
    (fun _ n x y => unsigned n ((signed n x + signed n y + 1) / 2))
def execVavgn (d a b : Reg) (m w : BitVec 2) : State → Out :=
  elementwise (wordVavgn d a b m w) d a b m w false (fun _ _ x y => (x + y + 1) / 2)

/-- VABS: the most negative value stays, or becomes the largest with SAT (R101). -/
def execVabs (d a : Reg) (m w : BitVec 2) : State → Out :=
  issue { vecUse (wordVabs d a m w) [a] [d] m with accept := { sat := true } }
    (fun s =>
      let n := laneBits w
      .ok (retire (writeLanes d m (laneBytes w)
        ((lanes (s.rv a) n).map (fun x =>
          let y : Int := ((signed n x).natAbs : Int)
          if s.satHint then clampSigned n y else unsigned n y)) s)))

/-- The four products of a 32-bit element added to its accumulator (R102). -/
def dot4 (natural sat : Bool) (acc x y : Nat) : Nat :=
  let v := fun (z : Nat) => if natural then (z : Int) else signed 8 z
  let byte := fun (z j : Nat) => z / 256 ^ j % 256
  let start : Int := if natural then acc else signed 32 acc
  let sum := (List.range 4).foldl (fun t j => t + v (byte x j) * v (byte y j)) start
  if sat then (if natural then clampNatural 32 sum else clampSigned 32 sum) else unsigned 32 sum

/-- VDOT4 and VDOT4N: d is a source and a destination. -/
def dotProduct (word : Nat) (d a b : Reg) (m : BitVec 2) (natural : Bool) : State → Out :=
  issue { vecUse word [a, b, d] [d] m with accept := { sat := true } }
    (fun s =>
      .ok (retire (writeLanes d m 4
        (List.zipWith (fun acc p => dot4 natural s.satHint acc p.1 p.2) (lanes (s.rv d) 32)
          ((lanes (s.rv a) 32).zip (lanes (s.rv b) 32))) s)))

def execVdot4 (d a b : Reg) (m : BitVec 2) : State → Out := dotProduct (wordVdot4 d a b m) d a b m false
def execVdot4n (d a b : Reg) (m : BitVec 2) : State → Out := dotProduct (wordVdot4n d a b m) d a b m true

/-- The elements that a mask makes active. -/
def activity (m : Mask) (w : Nat) : List Bool := (List.range (16 / w)).map (active m w)

/-- A compare writes a mask: an element's bits are set where it is active and the comparison holds (R103). -/
def compare (word : Nat) (d : BitVec 2) (a b : Reg) (m q : BitVec 2) (f : Nat → Nat → Nat → Bool) : State → Out :=
  issue { vecUse word [a, b] [] m with mw := [d] }
    (fun s =>
      let n := laneBits q
      .ok (retire (s.wm d (maskOf (laneBytes q)
        (List.zipWith (fun x y => x && y) (activity (s.rm m) (laneBytes q))
          (List.zipWith (f n) (lanes (s.rv a) n) (lanes (s.rv b) n)))))))

def execVcmpeq (d : BitVec 2) (a b : Reg) (m w : BitVec 2) : State → Out :=
  compare (wordVcmpeq d a b m w) d a b m w (fun _ x y => x == y)
def execVcmplt (d : BitVec 2) (a b : Reg) (m w : BitVec 2) : State → Out :=
  compare (wordVcmplt d a b m w) d a b m w (fun n x y => decide (signed n x < signed n y))
def execVcmpltn (d : BitVec 2) (a b : Reg) (m w : BitVec 2) : State → Out :=
  compare (wordVcmpltn d a b m w) d a b m w (fun _ x y => decide (x < y))

def execVsel (d a b c : Reg) (m w : BitVec 2) : State → Out :=
  issue (vecUse (wordVsel d a b c m w) [a, b, c] [d] m)
    (fun s =>
      let n := laneBits w
      .ok (retire (writeLanes d m (laneBytes w)
        (List.zipWith (fun z p => if z ≠ 0 then p.1 else p.2) (lanes (s.rv c) n)
          ((lanes (s.rv a) n).zip (lanes (s.rv b) n))) s)))

/-! ### Major 0x18 (R116) -/

/-- A permute: element i of the result is f i. -/
def permute (u : Use) (d : Reg) (m q : BitVec 2) (f : State → Nat → Nat → Nat) : State → Out :=
  issue u (fun s =>
    .ok (retire (writeLanes d m (laneBytes q) ((List.range (16 / laneBytes q)).map (f s (laneBits q))) s)))

/-- Element j of the concatenation of two vectors of n-bit elements. -/
def pairLane (x y : Vec) (n j : Nat) : Nat := if j < 128 / n then lane x n j else lane y n (j - 128 / n)

def execVshuf (d a b c : Reg) (m w : BitVec 2) : State → Out :=
  permute (vecUse (wordVshuf d a b c m w) [a, b, c] [d] m) d m w
    (fun s n i => pairLane (s.rv a) (s.rv c) n (lane (s.rv b) n i % (2 * (128 / n))))
def execVzip (d a b : Reg) (h : Bool) (m w : BitVec 2) : State → Out :=
  permute (vecUse (wordVzip d a b h m w) [a, b] [d] m) d m w
    (fun s n i =>
      let k := i / 2 + h.toNat * (128 / n / 2)
      if i % 2 = 0 then lane (s.rv a) n k else lane (s.rv b) n k)
def execVunzip (d a b : Reg) (h : Bool) (m w : BitVec 2) : State → Out :=
  permute (vecUse (wordVunzip d a b h m w) [a, b] [d] m) d m w
    (fun s n i => pairLane (s.rv a) (s.rv b) n (2 * i + h.toNat))
def execVrotl (d a b : Reg) (m w : BitVec 2) : State → Out :=
  permute { vecUse (wordVrotl d a b m w) [a] [d] m with gr := [b] } d m w
    (fun s n i =>
      let k := 128 / n
      lane (s.rv a) n ((i + k - (s.rg b).toNat % k) % k))
def execVbcst (d a b : Reg) (m w : BitVec 2) : State → Out :=
  permute { vecUse (wordVbcst d a b m w) [a] [d] m with gr := [b] } d m w
    (fun s n _ => lane (s.rv a) n ((s.rg b).toNat % (128 / n)))

/-- VCOMPRESS writes every element (R116). -/
def execVcompress (d a : Reg) (m w : BitVec 2) : State → Out :=
  issue (vecUse (wordVcompress d a m w) [a] [d] m)
    (fun s =>
      let n := laneBits w
      let kept := (List.range (128 / n)).filter (active (s.rm m) (laneBytes w))
      .ok (retire (s.wv d (vecOf n (kept.map (lane (s.rv a) n))))))

/-! ### Major 0x19 (R117) -/

/-- A mask operation of two masks. -/
def maskOp (word : Nat) (d a b : BitVec 2) (f : Mask → Mask → Mask) : State → Out :=
  issue { word := word, mr := [a, b], mw := [d], body := true, vx := true }
    (fun s => .ok (retire (s.wm d (f (s.rm a) (s.rm b)))))

def execMand (d a b : BitVec 2) : State → Out := maskOp (wordMand d a b) d a b (fun x y => x &&& y)
def execMor (d a b : BitVec 2) : State → Out := maskOp (wordMor d a b) d a b (fun x y => x ||| y)
def execMxor (d a b : BitVec 2) : State → Out := maskOp (wordMxor d a b) d a b (fun x y => x ^^^ y)
def execMnot (d a : BitVec 2) : State → Out := maskOp (wordMnot d a) d a a (fun x _ => ~~~x)

/-- A number taken from a mask. -/
def maskToGeneral (word : Nat) (d : Reg) (a : BitVec 2) (f : Mask → Nat) : State → Out :=
  issue { word := word, mr := [a], gw := [d], body := true, vx := true }
    (fun s => .ok (retire (s.wg d (BitVec.ofNat 64 (f (s.rm a))))))

def execMcnt (d : Reg) (a : BitVec 2) : State → Out := maskToGeneral (wordMcnt d a) d a (fun x => popCount 16 x.toNat)
def execMff (d : Reg) (a : BitVec 2) : State → Out := maskToGeneral (wordMff d a) d a (fun x => trailingZeros 16 x.toNat)
def execMtog (d : Reg) (a : BitVec 2) : State → Out := maskToGeneral (wordMtog d a) d a (fun x => x.toNat)
def execMfromg (d : BitVec 2) (a : Reg) : State → Out :=
  issue { word := wordMfromg d a, gr := [a], mw := [d], body := true, vx := true }
    (fun s => .ok (retire (s.wm d ((s.rg a).setWidth 16))))

/-! ### Major 0x1A (R118) -/

def execVsplat (d a : Reg) (m w : BitVec 2) : State → Out :=
  permute { vecUse (wordVsplat d a m w) [] [d] m with gr := [a] } d m w (fun s n _ => (s.rg a).toNat % 2 ^ n)

/-- VINS: d is a source (R118). -/
def execVins (d a b : Reg) (m w : BitVec 2) : State → Out :=
  permute { vecUse (wordVins d a b m w) [d] [d] m with gr := [a, b] } d m w
    (fun s n i => if i = (s.rg b).toNat % (128 / n) then (s.rg a).toNat % 2 ^ n else lane (s.rv d) n i)

def execVext (d a b : Reg) (w : BitVec 2) : State → Out :=
  issue { word := wordVext d a b w, vr := [a], gr := [b], gw := [d], body := true, vx := true }
    (fun s =>
      let n := laneBits w
      .ok (retire (s.wg d (BitVec.ofNat 64 (lane (s.rv a) n ((s.rg b).toNat % (128 / n)))))))

def execVmov (d a : Reg) (m w : BitVec 2) : State → Out :=
  permute (vecUse (wordVmov d a m w) [a] [d] m) d m w (fun s n i => lane (s.rv a) n i)

/-- A reduction of the active elements, signed, to a general register; f takes the element's bits. -/
def reduce (word : Nat) (d a : Reg) (m q : BitVec 2) (f : Nat → List Int → Int) : State → Out :=
  issue { vecUse word [a] [] m with gw := [d] }
    (fun s =>
      let n := laneBits q
      let es := (List.range (128 / n)).filter (active (s.rm m) (laneBytes q))
      .ok (retire (s.wg d (BitVec.ofInt 64 (f n (es.map (fun e => signed n (lane (s.rv a) n e))))))))

def execVradd (d a : Reg) (m w : BitVec 2) : State → Out :=
  reduce (wordVradd d a m w) d a m w (fun _ l => l.foldl (fun x y => x + y) 0)
def execVrmax (d a : Reg) (m w : BitVec 2) : State → Out :=
  reduce (wordVrmax d a m w) d a m w (fun n l => l.foldl max (-(2 ^ (n - 1) : Nat)))
def execVrmin (d a : Reg) (m w : BitVec 2) : State → Out :=
  reduce (wordVrmin d a m w) d a m w (fun n l => l.foldl min ((2 ^ (n - 1) : Nat) - 1))

/-! ### Major 0x1B: neighbour sends (R109-R111) -/

/-- The queue and window of a device slot for a direction. -/
def State.neighbour (s : State) (core sl : Nat) (r : Bool) : Neighbour := (s.core core).neighbours.get {} (2 * sl + r.toNat)
def State.setNeighbour (s : State) (core sl : Nat) (r : Bool) (x : Neighbour) : State :=
  s.setCore core { s.core core with neighbours := (s.core core).neighbours.set (2 * sl + r.toNat) x }

/-- The core downstream of a core in a direction of travel, around its cluster's ring: 0 to k + 1, 1 to k - 1. -/
def downstream (core : Nat) (r : Bool) : Nat := core / 16 * 16 + (core % 16 + if r then 15 else 1) % 16

def execNsend (a : Reg) (r : Bool) : State → Out :=
  issue { word := wordNsend a r, vr := [a], vx := true }
    (fun s =>
      let n := coreOf s.cur
      let sl := localSlot s.cur
      let me := s.neighbour n sl r
      if me.limit ≤ me.count then .error (.wait (.nsend r))
      else
        let s1 := s.setNeighbour n sl r { me with count := me.count + 1 }
        let next := s1.neighbour (downstream n r) sl r
        .ok (retire (s1.setNeighbour (downstream n r) sl r { next with queue := next.queue ++ [s.rv a] })))

/-- The receiver takes the oldest vector and the sender's count falls by one (R111). R111 does not say what a vector sent before
a placement cleared the sender's counters gives back: it stays queued, and its receipt leaves a count of 0 at 0 (log entry
65). -/
def execNrecv (d : Reg) (r : Bool) : State → Out :=
  issue { word := wordNrecv d r, vw := [d], vx := true }
    (fun s =>
      let n := coreOf s.cur
      let sl := localSlot s.cur
      let me := s.neighbour n sl r
      match me.queue with
      | [] => .error (.wait (.nrecv r))
      | x :: q =>
        let s1 := s.setNeighbour n sl r { me with queue := q }
        let up := downstream n (!r)
        let sender := s1.neighbour up sl r
        .ok (retire ((s1.setNeighbour up sl r { sender with count := sender.count - 1 }).wv d x)))

def execNwin (d a : Reg) (r : Bool) : State → Out :=
  issue { word := wordNwin d a r, gr := [a], gw := [d] }
    (fun s =>
      let n := coreOf s.cur
      let sl := localSlot s.cur
      let me := s.neighbour n sl r
      let x := (s.rg a).toNat
      if x = 0 then .ok (retire (s.wg d (BitVec.ofNat 64 me.limit)))
      else if x ≤ 4 then
        .ok (retire ((s.setNeighbour n sl r { me with limit := x }).wg d (BitVec.ofNat 64 me.limit)))
      else .ok (retire (s.wg d (status (-1)))))

end Sys2Proof.Machine
end

