-- ==== Sys2Proof/Machine/VFloat.lean ====
section
/-! DEFINITION. Float vectors: majors 0x15, 0x16 and VFRADD (R112, R113, R119). -/
namespace Sys2Proof.Machine

/-- What a float instruction is to the issue stage: format code 3 traps ILL (R112, R114). -/
def floatUse (word : Nat) (vr vw : List Reg) (m f : BitVec 2) (rm : Bool) : Use :=
  { vecUse word vr vw m with ill := f == 3, accept := { rm := rm } }

/-- Values of the elements of a vector. -/
def Fmt.vals (f : Fmt) (x : Vec) : List FVal := (lanes x f.bits).map f.val

/-- Element results with their flags: active elements are written, and raise their flags (R95, R99). -/
def floatWrite (d : Reg) (m : BitVec 2) (f : Fmt) (l : List (Nat × Nat)) (s : State) : State :=
  let w := f.bits / 8
  let flags := (List.zipWith (fun on p => if on then p.2 else 0) (activity (s.rm m) w) l).foldl (fun a b => a ||| b) 0
  raise flags (writeLanes d m w (l.map (·.1)) s)

/-- A float instruction of two sources that rounds. -/
def floatBinary (word : Nat) (d a b : Reg) (m q : BitVec 2) (op : Fmt → Nat → FVal → FVal → Nat × Nat) : State → Out :=
  issue (floatUse word [a, b] [d] m q true)
    (fun s =>
      let f := formatOf q
      .ok (retire (floatWrite d m f (List.zipWith (op f s.rounding) (f.vals (s.rv a)) (f.vals (s.rv b))) s)))

def execVfadd (d a b : Reg) (m f : BitVec 2) : State → Out := floatBinary (wordVfadd d a b m f) d a b m f Fmt.add
def execVfsub (d a b : Reg) (m f : BitVec 2) : State → Out :=
  floatBinary (wordVfsub d a b m f) d a b m f (fun f rm x y => f.add rm x y.negate)
def execVfmul (d a b : Reg) (m f : BitVec 2) : State → Out := floatBinary (wordVfmul d a b m f) d a b m f Fmt.mul

/-- VFMIN and VFMAX: NaN if either is NaN; zeros are told apart by sign (R112). -/
def floatPick (word : Nat) (d a b : Reg) (m q : BitVec 2) (first : FVal → FVal → Bool) : State → Out :=
  issue (floatUse word [a, b] [d] m q false)
    (fun s =>
      let f := formatOf q
      let pick := fun x y =>
        let u := f.val x
        let v := f.val y
        if u.isNan || v.isNan then f.invalid (u.isSignalling || v.isSignalling)
        else (if first u v then x else y, 0)
      .ok (retire (floatWrite d m f (List.zipWith pick (lanes (s.rv a) f.bits) (lanes (s.rv b) f.bits)) s)))

def execVfmin (d a b : Reg) (m f : BitVec 2) : State → Out :=
  floatPick (wordVfmin d a b m f) d a b m f (fun u v => !v.below u)
def execVfmax (d a b : Reg) (m f : BitVec 2) : State → Out :=
  floatPick (wordVfmax d a b m f) d a b m f (fun u v => !u.below v)

/-- VFABS and VFNEG act on bits and raise nothing (R100). -/
def floatSign (word : Nat) (d a : Reg) (m q : BitVec 2) (g : Fmt → Nat → Nat) : State → Out :=
  issue (floatUse word [a] [d] m q false)
    (fun s =>
      let f := formatOf q
      .ok (retire (writeLanes d m (f.bits / 8) ((lanes (s.rv a) f.bits).map (g f)) s)))

def execVfabs (d a : Reg) (m f : BitVec 2) : State → Out := floatSign (wordVfabs d a m f) d a m f (fun f x => x % f.signBit)
def execVfneg (d a : Reg) (m f : BitVec 2) : State → Out :=
  floatSign (wordVfneg d a m f) d a m f (fun f x => if x < f.signBit then x + f.signBit else x - f.signBit)

/-- A float compare: the mask, and NV for any NaN, or for a signalling one alone (R112). -/
def floatCompare (word : Nat) (d : BitVec 2) (a b : Reg) (m q : BitVec 2) (quiet : Bool) (c : FVal → FVal → Bool) :
    State → Out :=
  issue { floatUse word [a, b] [] m q false with mw := [d] }
    (fun s =>
      let f := formatOf q
      let w := f.bits / 8
      let on := activity (s.rm m) w
      let ps := (f.vals (s.rv a)).zip (f.vals (s.rv b))
      let nv := (on.zip ps).any (fun p => p.1 &&
        (if quiet then p.2.1.isSignalling || p.2.2.isSignalling else p.2.1.isNan || p.2.2.isNan))
      .ok (retire (raise (if nv then flagNV else 0)
        (s.wm d (maskOf w (List.zipWith (fun x p => x && c p.1 p.2) on ps))))))

def ordered (x y : FVal) : Bool := !x.isNan && !y.isNan

def execVfcmpeq (d : BitVec 2) (a b : Reg) (m f : BitVec 2) : State → Out :=
  floatCompare (wordVfcmpeq d a b m f) d a b m f true (fun x y => ordered x y && !x.lt y && !y.lt x)
def execVfcmplt (d : BitVec 2) (a b : Reg) (m f : BitVec 2) : State → Out :=
  floatCompare (wordVfcmplt d a b m f) d a b m f false (fun x y => ordered x y && x.lt y)
def execVfcmple (d : BitVec 2) (a b : Reg) (m f : BitVec 2) : State → Out :=
  floatCompare (wordVfcmple d a b m f) d a b m f false (fun x y => ordered x y && !y.lt x)
def execVfcmpun (d : BitVec 2) (a b : Reg) (m f : BitVec 2) : State → Out :=
  floatCompare (wordVfcmpun d a b m f) d a b m f true (fun x y => !ordered x y)

/-- A fused instruction of major 0x16 (R113). -/
def fused (word : Nat) (d a b c : Reg) (m q : BitVec 2) (np nc : Bool) : State → Out :=
  issue (floatUse word [a, b, c] [d] m q true)
    (fun s =>
      let f := formatOf q
      let op := fun x (p : FVal × FVal) => f.fma s.rounding (if np then FVal.negate x else x) p.1 (if nc then p.2.negate else p.2)
      .ok (retire (floatWrite d m f (List.zipWith op (f.vals (s.rv a)) ((f.vals (s.rv b)).zip (f.vals (s.rv c)))) s)))

def execVfma (d a b c : Reg) (m f : BitVec 2) : State → Out := fused (wordVfma d a b c m f) d a b c m f false false
def execVfms (d a b c : Reg) (m f : BitVec 2) : State → Out := fused (wordVfms d a b c m f) d a b c m f false true
def execVfnma (d a b c : Reg) (m f : BitVec 2) : State → Out := fused (wordVfnma d a b c m f) d a b c m f true false

/-! ### VFRADD (R119) -/

/-- add of R119 on elements that may be inactive, with the flags so far. -/
def treeAdd (f : Fmt) (rm : Nat) (x y : Option (Nat × Nat)) : Option (Nat × Nat) :=
  match x, y with
  | none, y => y
  | x, none => x
  | some (a, fa), some (b, fb) =>
    let (c, fc) := f.add rm (f.val a) (f.val b)
    some (c, fa ||| fb ||| fc)

/-- The fixed tree over a list of a power of two of elements; the fuel is its depth. -/
def tree (f : Fmt) (rm : Nat) : Nat → List (Option (Nat × Nat)) → Option (Nat × Nat)
  | 0, l => l.headD none
  | k + 1, l => treeAdd f rm (tree f rm k (l.take (2 ^ k))) (tree f rm k (l.drop (2 ^ k)))

def execVfradd (d a : Reg) (m q : BitVec 2) : State → Out :=
  issue (floatUse (wordVfradd d a m q) [a] [d] m q true)
    (fun s =>
      let f := formatOf q
      let w := f.bits / 8
      let es := List.zipWith (fun on x => if on then some (x, if (f.val x).isSignalling then flagNV else 0) else none)
        (activity (s.rm m) w) (lanes (s.rv a) f.bits)
      let (x, flags) := (tree f s.rounding (if f.bits = 32 then 2 else 3) es).getD (0, 0)
      let x := if (f.val x).isNan then f.nan else x
      .ok (retire (raise flags (s.wv d (BitVec.ofNat 128 x)))))

end Sys2Proof.Machine
end

