-- ==== Sys2Proof/Machine/Convert.lean ====
section
/-! DEFINITION. Conversions and descriptors: majors 0x1C and 0x1D (R124, R141-R150). -/
namespace Sys2Proof.Machine

/-! ### Type codes (R141) -/

/-- Bits of an element of a type code; 0 for the codes that trap ILL. -/
def typeBits (c : Reg) : Nat := [8, 16, 32, 64, 8, 16, 32, 64, 16, 32, 16, 8, 8, 4, 0, 0].getD c.toNat 0
/-- The format of a float type code. -/
def typeFmt (c : Reg) : Fmt := [fp16, fp32, bf16, e4m3, e5m2].getD (c.toNat - 8) fp32
def isFloat (c : Reg) : Bool := decide (8 ≤ c.toNat) && decide (c.toNat ≤ 12)
def isInt (c : Reg) : Bool := decide (c.toNat < 8)
def isSignedType (c : Reg) : Bool := decide (c.toNat < 4)

/-- The ratio of the widths (R143). -/
def widthRatio (s t : Reg) : Nat := max (typeBits s) (typeBits t) / min (typeBits s) (typeBits t)

/-- The value of an integer element by its type. -/
def intVal (c : Reg) (x : Nat) : Int := if isSignedType c then signed (typeBits c) x else x
/-- The bounds of an integer type. -/
def intLo (c : Reg) : Int := if isSignedType c then -(2 ^ (typeBits c - 1) : Nat) else 0
def intHi (c : Reg) : Int := if isSignedType c then ((2 ^ (typeBits c - 1) : Nat) : Int) - 1 else ((2 ^ typeBits c : Nat) : Int) - 1

/-- The value of element j of an i4o quad (R124). -/
def i4oQuad (q j : Nat) : FVal :=
  let slot := fun (j : Nat) => q / 16 ^ j % 16
  let plain := FVal.fin (decide (8 ≤ slot j)) (signed 4 (slot j)).natAbs 0
  match (List.range 4).find? (fun i => slot i == 8) with
  | none => plain
  | some m =>
    let o := 1 - m / 2
    if j = m then e4m3.val (slot (2 * o + 1) * 16 + slot (2 * o))
    else if j / 2 = o then .fin false 0 0
    else plain

/-- The value of element k of an i4o array in a vector. -/
def i4oElement (x : Vec) (k : Nat) : FVal := i4oQuad (lane x 16 (k / 4)) (k % 4)

/-! ### The mapping of elements (R143, R144) -/

/-- The source element that destination element j receives, if any. -/
def sourceOf (sb db p j : Nat) : Option Nat :=
  if db < sb then
    let n := 128 / sb
    if p * n ≤ j ∧ j < p * n + n then some (j - p * n) else none
  else some (p * (128 / db) + j)

/-- A conversion: the destination with its active elements converted, and the flags they raise. -/
def convertVec (m : Mask) (old : Vec) (sb db p : Nat) (conv : Nat → Nat × Nat) : Vec × Nat :=
  let rs := (List.range (128 / db)).map (fun j =>
    match sourceOf sb db p j with
    | some k => if bit m (j * db / 8) then conv k else (lane old db j, 0)
    | none => (lane old db j, 0))
  (vecOf db (rs.map (·.1)), (rs.map (·.2)).foldl (fun a b => a ||| b) 0)

/-- A conversion instruction; conv takes the rounding mode, the saturation hint, the source vector and the element. -/
def convert (word : Nat) (d a s t : Reg) (m p : BitVec 2) (types rm sat : Bool)
    (conv : Nat → Bool → Vec → Nat → Nat × Nat) : State → Out :=
  issue { vecUse word [a] [d] m with
          ill := !types || typeBits s == 0 || typeBits t == 0 || decide (widthRatio s t ≤ p.toNat)
          accept := { rm := rm, sat := sat } }
    (fun st =>
      let (x, flags) := convertVec (st.rm m) (st.oldv d) (typeBits s) (typeBits t) p.toNat
        (conv st.rounding st.satHint (st.rv a))
      .ok (retire (raise flags (st.wv d x))))

/-- Source element k by its type as an exact value of a float. -/
def floatAt (s : Reg) (x : Vec) (k : Nat) : FVal := (typeFmt s).val (lane x (typeBits s) k)

def execVcvtf (d a s t : Reg) (m p : BitVec 2) : State → Out :=
  convert (wordVcvtf d a s t m p) d a s t m p (isFloat s && isFloat t) true true
    (fun rm sat x k => (typeFmt t).round rm sat (floatAt s x k))

def execVcvtfi (d a s t : Reg) (m p : BitVec 2) : State → Out :=
  convert (wordVcvtfi d a s t m p) d a s t m p (isFloat s && isInt t && decide (widthRatio s t ≤ 4)) true false
    (fun rm _ x k =>
      let (y, f) := toInt rm (intLo t) (intHi t) (floatAt s x k)
      (unsigned (typeBits t) y, f))

def execVcvtif (d a s t : Reg) (m p : BitVec 2) : State → Out :=
  convert (wordVcvtif d a s t m p) d a s t m p (isInt s && isFloat t && decide (widthRatio s t ≤ 4)) true false
    (fun rm _ x k => (typeFmt t).ofInt rm (intVal s (lane x (typeBits s) k)))

/-- i16, i32, n16, n32. -/
def isPackSource (s : Reg) : Bool := s == 1 || s == 2 || s == 5 || s == 6

def execVpack8 (d a s t : Reg) (m p : BitVec 2) : State → Out :=
  convert (wordVpack8 d a s t m p) d a s t m p (isPackSource s && (t == 0 || t == 4)) false true
    (fun _ sat x k =>
      let v := intVal s (lane x (typeBits s) k)
      (unsigned 8 (if sat then max (intLo t) (min (intHi t) v) else v), 0))

def execVunpk8 (d a s t : Reg) (m p : BitVec 2) : State → Out :=
  convert (wordVunpk8 d a s t m p) d a s t m p ((s == 0 && (t == 1 || t == 2)) || (s == 4 && (t == 5 || t == 6)))
    false false (fun _ _ x k => (unsigned (typeBits t) (intVal s (lane x 8 k)), 0))

def execVpack4 (d a s t : Reg) (m p : BitVec 2) : State → Out :=
  convert (wordVpack4 d a s t m p) d a s t m p ((s == 0 || s == 4 || s == 1 || s == 5) && t == 13) false true
    (fun _ sat x k =>
      let v := intVal s (lane x (typeBits s) k)
      (unsigned 4 (if sat then max (-7) (min 7 v) else v), 0))

def execVunpk4 (d a s t : Reg) (m p : BitVec 2) : State → Out :=
  convert (wordVunpk4 d a s t m p) d a s t m p (s == 13 && (t == 0 || t == 1 || t == 8 || t == 10)) false false
    (fun _ _ x k =>
      let v := i4oElement x k
      if isFloat t then (((typeFmt t).round 0 false v).1, 0)
      else (unsigned (typeBits t) (toInt 0 (intLo t) (intHi t) v).1, 0))

/-! ### VSCALE (R148) -/

/-- The format codes that hold elements, or zero (R127). -/
def knownFormat (fmt : Nat) : Bool := [0x01, 0x10, 0x11, 0x20, 0x21, 0x30, 0x31, 0x40].contains fmt

/-- A value times 2^n. -/
def FVal.scale (n : Int) : FVal → FVal
  | .fin s m e => .fin s m (e + n)
  | x => x

def execVscale (d a b t : Reg) (m : BitVec 2) : State → Out :=
  issue { vecUse (wordVscale d a b t m) [a] [d] m with gr := [b], ill := !isFloat t, accept := { rm := true } }
    (fun s =>
      let f := typeFmt t
      let desc := (s.rg b).toNat % 65536
      let fmt := desc % 256
      let sc := desc / 256
      if !knownFormat fmt then .error (.trap { cause := 0x0B, eaddr := BitVec.ofNat 64 desc })
      else
        .ok (retire (floatWrite d m f ((f.vals (s.rv a)).map (fun x =>
          if sc = 0xFF then (f.nan, 0)
          else if fmt = 0x01 then (0, 0)
          else f.round s.rounding false (x.scale ((sc : Int) - 127)))) s)))

/-! ### Major 0x1D (R149, R150) -/

/-- The block is the one that holds the translated address: through an argument window whose base is not 64-aligned, the rules
leave it open (log entry 53). -/
def execBdld (d a : Reg) : State → Out :=
  issue { word := wordBdld d a, gr := [a], gw := [d] }
    (fun s => do
      aligned (s.rg a) 64
      let (s, ps) ← threadAccess .load [((s.rg a).toNat, 64)] s
      let p := ps.headD { va := 0, len := 0, pa := 0, cls := 0, cp := 0, travel := false, leaf := none, big := false, dom := 0, tables := [] }
      let (s, x) ← loadSides s.ctx (policyOf s false p) { p with len := 1 } s
      .ok (retire (s.wg d ((x.headD 0).setWidth 16 |>.setWidth 64))))

/-- As for BDLD, the block is the one that holds the translated address (log entry 53). -/
def execBdst (a b : Reg) : State → Out :=
  issue { word := wordBdst a b, gr := [a, b] }
    (fun s => do
      aligned (s.rg a) 64
      let (s, ps) ← threadAccess .store [((s.rg a).toNat, 64)] s
      let p := ps.headD { va := 0, len := 0, pa := 0, cls := 0, cp := 0, travel := false, leaf := none, big := false, dom := 0, tables := [] }
      let s ← performStores false [{ p with len := 1 }] [] s
      .ok (retire (s.setDesc p.pa ((s.rg b).setWidth 16))))

end Sys2Proof.Machine
end

