-- ==== Sys2Proof/Machine/Engine.lean ====
section
/-! DEFINITION. Accesses of the engines: loads, stores that set words full, and the fill-event port (R192, R197, R252,
R253). An engine never traps: what an access meets is an `EStop`. -/
namespace Sys2Proof.Machine

/-- What stops an engine's access: an error with its status (-1 XLATE, -2 PROT or refused, -3 QUOTA) and the address that
the engine named; a demand fault, with that address; or a hold: until the fill-event port has room (`port`), or as a thread's access would wait
(R197, R211, R371, R423, R446). -/
inductive EStop where
  | fail (status : Int) (va : Nat) (refused : Bool)
  | demand (va : Nat) (dom : BitVec 12) (kind eaddr : Nat)
  | hold (port : Bool) (wait : Option Wait)
  deriving DecidableEq, Repr

/-- A stop of an access as an engine meets it (R254). -/
def engineStop (va : Nat) : Stop → EStop
  | .trap t => .fail (if t.cause = 5 then -1 else if t.cause = 7 then -3 else -2) va t.refused
  | .demand va dom kind eaddr => .demand va dom kind eaddr
  | .wait w => .hold false (some w)

def asEngine {α : Type} (va : Nat) : Except Stop α → Except EStop α
  | .ok a => .ok a
  | .error e => .error (engineStop va e)

/-- The parts of an access of an engine, with the policy of each: that of its page. -/
def engineParts (ps : List Piece) : List (Policy × Piece) := ps.map (fun p => (p.cp, p))

/-- A load of an engine: the bytes, and its parts. -/
def engineRead (c : Ctx) (va n : Nat) (s : State) : Except EStop (State × List Byte × List Piece) :=
  asEngine va (do
    let (s, ps) ← access s c va n .load
    let (s, x) ← loadPieces c (engineParts ps) s
    .ok (s, x, ps))

/-! ### The fill-event port (R197) -/

/-- Events that the port has room for. -/
def portRoom (s : State) (p : Nat) : Nat :=
  let (c, b) := portOf s p
  if portUsable s p then (s.buffer c b).free else 0

/-- The record of one fill event. -/
def fillRecord (va : Nat) (dom : BitVec 12) (engine state : Nat) : List Byte :=
  toBytes 8 va ++ toBytes 8 (dom.toNat + engine * 2 ^ 12 + state * 2 ^ 16) ++ List.replicate 48 0

/-- The words of n bytes at pa that are marked and empty, each with its virtual address (R197). -/
def markedEmpty (s : State) (va pa n : Nat) : List (Nat × Nat) :=
  (stepsFrom (pa / 8 * 8) (pa + n) 8).filterMap (fun w =>
    if s.empty w && s.marked w then some (va + w - pa, w) else none)

/-- Fill events are posted, each in a slot that is taken, written as the engine writes, and published; marked words of the
slot that it fills post theirs in turn. Without room for all the engine holds its write. The fuel bounds the events. R197
leaves open whether an event gives the word's state before or after its waiters are examined, and which address it gives of a
word of the port's own slot: the state after them, and the physical address (log entry 70). -/
def postFills (me : Option (Nat × Bool)) (p engine : Nat) (dom : BitVec 12) : Nat → List (Nat × Nat) → State → Except EStop State
  | _, [], s => .ok s
  | 0, _, _ => .error (.hold true none)
  | fuel + 1, e :: r, s =>
    if portRoom s p = 0 then .error (.hold true none)
    else
      let (c, b) := portOf s p
      let (j, buf) := (s.buffer c b).take
      let at_ := scratchBase c + buf.base + j * 64
      let more := markedEmpty s at_ at_ 64
      match heldBack s me at_ 64 with
      | some w => .error (.hold false (some (.word w)))
      | none =>
        let s := engineWrite at_ (fillRecord e.1 dom engine (s.fe e.2).toNat) s
        postFills me p engine dom fuel (r ++ more) (performedBy me at_ 64 (updateBuffer c b (buf.publish j) s))

/-- An engine begins to hold a write at an unusable port: one notice for each time it becomes so (R197). -/
def noticePort (p engine : Nat) (s : State) : State :=
  if portUsable s p || (s.part p).portNoticed then s
  else
    let (c, b) := portOf s p
    notice p 7 (BitVec.ofNat 64 (c + b * 256 + engine * 65536)) 0 (s.setPart p { s.part p with portNoticed := true })

/-! ### Stores (R253) -/

/-- Bytes written by an engine to a part: words become full, waiters are examined, fill events are posted with the write
(engine 0 the Mule, 1 the Steppe engine; another number posts none). -/
def enginePut (c : Ctx) (engine : Nat) (q : Piece) (l : List Byte) (s : State) : Except EStop State :=
  let off := q.pa % 8
  let events := if engine ≤ 1 then markedEmpty s (q.va - off) (q.pa - off) (l.length + off) else []
  let me := c.me s
  match heldBack s me q.pa l.length with
  | some w => .error (.hold false (some (.word w)))
  | none => do
    let s ← asEngine q.va (storePiece c q.cp q l s)
    let s := performedBy me q.pa l.length (portChecked c.part (fillWords q.pa l.length s))
    postFills me c.part engine c.dom 4096 events s

/-- The parts of an engine's store, one after another. -/
def enginePuts (c : Ctx) (engine : Nat) : List Piece → List Byte → State → Except EStop State
  | [], _, s => .ok s
  | q :: r, l, s => do
    let s ← enginePut c engine q (l.take q.len) s
    enginePuts c engine r (l.drop q.len) s

/-- A store of an engine in a context: checked, charged, then written. -/
def engineStore (c : Ctx) (engine va : Nat) (l : List Byte) (s : State) : Except EStop State := do
  let (s, ps) ← asEngine va (access s c va l.length .store)
  enginePuts c engine ps l s

end Sys2Proof.Machine
end

