-- ==== Sys2Proof/Machine/Matrix.lean ====
section
/-! DEFINITION. The Ox: major 0x2A and the steps of its queue (R220-R239). -/
namespace Sys2Proof.Machine

def State.ox (s : State) (c : Nat) : Ox := (s.cluster c).ox
def State.setOx (s : State) (c : Nat) (x : Ox) : State := s.setCluster c { s.cluster c with ox := x }
def Ox.latch (x : Ox) (l : Nat) : Latch := x.latches.get {} l
def Ox.tile (x : Ox) (t : Nat) : Tile := x.tiles.get {} t

/-! ### Latches (R220, R225) -/

/-- The descriptor of a block that no fill has captured (R220). -/
def freshDesc : BitVec 16 := 0x7F01
def Latch.byte (l : Latch) (i x : Nat) : Byte := l.bytes.get 0 (256 * i + x)
def Latch.desc (l : Latch) (i b : Nat) : BitVec 16 := l.descs.get freshDesc (4 * i + b)

/-- The width class of a format code (R225): 0 none, and no class where the fill refuses the block. -/
def widthClass (fmt : Nat) : Option Nat :=
  match fmt with
  | 0x10 | 0x20 | 0x21 => some 8
  | 0x11 => some 4
  | 0x30 | 0x31 => some 16
  | 0x01 => some 0
  | _ => none

/-- A block that a fill reads: its row, its place in the row, its address, its bytes and its descriptor. -/
structure FillBlock where
  row : Nat
  block : Nat
  va : Nat
  bytes : List Byte
  desc : BitVec 16
  deriving DecidableEq, Repr

def FillBlock.fmt (b : FillBlock) : Nat := field b.desc 7 0

/-- The element values of a block of w bits each (R128, R229). -/
def blockValues (w : Nat) (bytes : List Byte) (desc : BitVec 16) : List FVal :=
  let n := 512 / w
  let code := fun (k : Nat) => ofBytes ((bytes.drop (k * w / 8)).take (w / 8))
  let fmt := field desc 7 0
  if field desc 15 8 = 0xFF then List.replicate n (.nan false)
  else if fmt = 0x10 then (List.range n).map (fun k => .fin (decide (128 ≤ code k)) (signed 8 (code k)).natAbs 0)
  else if fmt = 0x20 then (List.range n).map (fun k => e4m3.val (code k))
  else if fmt = 0x21 then (List.range n).map (fun k => e5m2.val (code k))
  else if fmt = 0x30 then (List.range n).map (fun k => bf16.val (code k))
  else if fmt = 0x31 then (List.range n).map (fun k => fp16.val (code k))
  else if fmt = 0x11 then
    (List.range n).map (fun k => i4oQuad (ofBytes ((bytes.drop (k / 4 * 2)).take 2)) (k % 4))
  else List.replicate n (.fin false 0 0)

/-- An infinity or a NaN in a block, or SCALE 0xFF (R225). -/
def FillBlock.nonFinite (b : FillBlock) : Bool :=
  match widthClass b.fmt with
  | some 0 => field b.desc 15 8 == 0xFF
  | some w => (blockValues w b.bytes b.desc).any (fun v => match v with | .fin _ _ _ => false | _ => true)
  | none => false

/-- The summary's class, with FORMAT at the first block that is refused or of another class (R225). -/
def latchClass : Nat → List FillBlock → Except Stop Nat
  | cls, [] => .ok cls
  | cls, b :: r =>
    match widthClass b.fmt with
    | none => .error (.trap { cause := 0x0B, eaddr := BitVec.ofNat 64 b.va })
    | some w =>
      if w ≠ 0 && cls ≠ 0 && w ≠ cls then .error (.trap { cause := 0x0B, eaddr := BitVec.ofNat 64 b.va })
      else latchClass (if cls = 0 then w else cls) r

/-- The latch that the blocks of a fill make. -/
def latchOf (isB : Bool) (cls : Nat) (bs : List FillBlock) : Latch :=
  { bytes := (bs.map (fun b => ((List.range 64).zip b.bytes).filterMap (fun p =>
      if p.2 = 0 then none else some (256 * b.row + 64 * b.block + p.1, p.2)))).flatten
    descs := bs.filterMap (fun b => if b.desc = freshDesc then none else some (4 * b.row + b.block, b.desc))
    cls := cls
    nonFinite := if isB then bs.filterMap (fun b => if b.nonFinite then some (4 * b.row + b.block, true) else none) else [] }

/-! ### Fills (R224-R226) -/

/-- n bytes at an address lie in the local window of a context (R152). -/
def inLocal (c : Ctx) (a n : Nat) : Bool :=
  c.localOpen && decide (localBase ≤ a) && decide (a + n ≤ 2 ^ 52) && decide (a - localBase + n ≤ c.splen)

/-- A translation failed, or must be waited for: what R55 puts before PROT. -/
def Stop.beforeProt : Stop → Bool
  | .trap t => t.cause == causeXlate
  | _ => true

/-- The blocks of a row of n bytes in the local window, checked and charged: XLATE of a stale stash entry first, then PROT at
the row's address where it does not lie in the window (R55, R224, R236). -/
def rowAccess (c : Ctx) (k : Access) (a n : Nat) (s : State) : Except Stop (State × List Piece) :=
  let r := accesses c k (((stepsFrom a (a + n) 64).filter (fun x => inLocal c x 64)).map (fun x => (x, 64))) s
  if inLocal c a n then r
  else match r with
    | .error e => .error (if e.beforeProt then e else .fault causeProt a)
    | .ok _ => .error (.fault causeProt a)

/-- Rows in ascending order, the first that fails ending them: the parts of each. -/
def rowsAccess (c : Ctx) (k : Access) (n : Nat) : List Nat → State → Except Stop (State × List (List Piece))
  | [], s => .ok (s, [])
  | a :: r, s => do
    let (s, ps) ← rowAccess c k a n s
    let (s, pss) ← rowsAccess c k n r s
    .ok (s, ps :: pss)

/-- The rows of a fill: row and address, the absent ones left out. -/
def fillRows (gather : Bool) (list : List Byte) (base pitch : Word) : List (Nat × Nat) :=
  (List.range 64).filterMap (fun r =>
    let idx := if gather then ofBytes ((list.drop (2 * r)).take 2) else r
    if gather && idx == 0xFFFF then none else some (r, (base + BitVec.ofNat 64 idx * pitch).toNat))

/-- The blocks of a row that has been checked, each with its descriptor as one unit (R130). -/
def readBlocks (c : Ctx) (row : Nat) : List (Nat × Piece) → State → Except Stop (State × List FillBlock)
  | [], s => .ok (s, [])
  | (k, p) :: r, s => do
    let (s, x) ← loadPiece c 0 p s
    let (s, d) ← loadSides c 0 p s
    let b : FillBlock := { row := row, block := k, va := p.va, bytes := x, desc := (d.headD 0).setWidth 16 }
    let (s, bs) ← readBlocks c row r s
    .ok (s, b :: bs)

/-- The list of a GATH, 64 entries of 16 bits, read in order (R224): those in the local window with the faults of a load, then
PROT at the first that lies outside it. -/
def gatherList (c : Ctx) (list : Word) (s : State) : Except Stop (State × List Byte) := do
  let n := 2 * ((List.range 64).takeWhile (fun r => inLocal c (list.toNat + 2 * r) 2)).length
  let (s, ps) ← if n = 0 then .ok (s, []) else access s c list.toNat n .load
  if n < 128 then .error (.fault causeProt (list.toNat + n))
  else loadPieces c (ps.map (fun p => (0, p))) s

/-- A fill: the state with its reads made, and the latch (R224, R225). -/
def performFill (c : Ctx) (isB gather : Bool) (base pitch list : Word) (n : Nat) (s : State) : Except Stop (State × Latch) := do
  let (s, l) ← if gather then gatherList c list s else .ok (s, [])
  let rows := fillRows gather l base pitch
  let (s, pss) ← rowsAccess c .load (64 * n) (rows.map (·.2)) s
  let (s, blocks) ← (rows.zip pss).foldlM (fun (r : State × List FillBlock) x => do
    let (s, bs) ← readBlocks c x.1.1 ((List.range n).zip x.2) r.1
    .ok (s, r.2 ++ bs)) (s, [])
  let cls ← latchClass 0 blocks
  .ok (s, latchOf isB cls blocks)

/-! ### The queue (R222, R223, R234) -/

/-- A tile is locked by a queued MMA (R223). -/
def Ox.locked (x : Ox) (t : Nat) : Bool :=
  x.queue.any (fun c => match c with | .mma t' .. => t' == t | .fill .. => false)
/-- A tile is held: locked, or in a transfer (R223). -/
def Ox.held (x : Ox) (t : Nat) : Bool := x.locked t || x.transfers.any (fun f => f.tile == t)

/-- Latches that a command writes, and latches that it reads. -/
def OxCmd.writes : OxCmd → List Nat
  | .fill l .. => [l]
  | .mma .. => []
def OxCmd.reads : OxCmd → List Nat
  | .fill .. => []
  | .mma _ a b .. => [a, 2 + b]
def OxCmd.isFill : OxCmd → Bool
  | .fill .. => true
  | .mma .. => false

/-- The first command of the queue that satisfies q and that no command ahead of it holds back: fills run one at a
time, MMAs run one at a time, and neither touches the latches of the other (R222). -/
def nextCmd (q : OxCmd → Bool) (ahead : List OxCmd) : List OxCmd → Option OxCmd
  | [] => none
  | c :: r =>
    if q c && !ahead.any (fun d => d.isFill == c.isFill || d.writes.any c.reads.contains || d.reads.any c.writes.contains)
    then some c else nextCmd q (ahead ++ [c]) r

/-- The MMA that starts next, but for leave (R233). -/
def Ox.nextMma (x : Ox) : Option OxCmd :=
  match nextCmd (fun c => !c.isFill) [] x.queue with
  | some (.mma t a b n k u false) => if x.transfers.any (fun f => f.tile == t) then none else some (.mma t a b n k u false)
  | _ => none

/-- An MMA waits for leave (R234). -/
def oxAsksLeave (x : Ox) : Bool := !x.leave && x.nextMma.isSome

/-- The threads of a cluster whose streams wait, with each wait. -/
def waitsIn (s : State) (c : Nat) : List (Nat × Bool × Wait) :=
  ((s.threads.filter (fun e => clusterOf e.1 == c)).map (fun e =>
    (e.2.wait.toList.map (fun w => (e.1, false, w))) ++
      (match e.2.rep with | some r => r.wait.toList.map (fun w => (e.1, true, w)) | none => []))).flatten

/-- The order of the first attempt of the stream that issues, where it waits for room. -/
def roomOrder (s : State) : Option Nat :=
  let t := s.thr
  match t.waitOf t.inBody with
  | some (.oxRoom o) => some o
  | _ => none

/-- The stream that the next free entry of the queue goes to: cores in turn, then first attempts (R222). -/
def roomTurn (s : State) (c : Nat) : Option (Nat × Bool) :=
  let ws := (waitsIn s c).filterMap (fun w => match w.2.2 with | .oxRoom o => some (w.1, w.2.1, o) | _ => none)
  let rank := fun (w : Nat × Bool × Nat) =>
    (((coreOf w.1) % 16 + 16 - (s.ox c).turn % 16) % 16, w.2.2)
  (ws.foldl (fun best w => match best with
    | none => some w
    | some b => if (rank w).1 < (rank b).1 || ((rank w).1 == (rank b).1 && decide ((rank w).2 < (rank b).2)) then some w else some b)
    none).map (fun w => (w.1, w.2.1))

/-- A command enters the queue, or its stream waits for room (R222). -/
def enqueue (cmd : OxCmd) (s : State) : Except Stop State :=
  let c := clusterOf s.cur
  let x := s.ox c
  let me := (s.cur, s.thr.inBody)
  let turn := match roomTurn s c with | some w => w == me | none => true
  if x.queue.length < 32 && turn then
    let x := if (roomOrder s).isSome then { x with turn := (coreOf s.cur % 16 + 1) % 16 } else x
    .ok (s.setOx c { x with queue := x.queue ++ [cmd] })
  else .error (.wait (.oxRoom ((roomOrder s).getD s.serial)))

/-! ### Permission (R221) -/

/-- At level U only a thread of an Ox unit or an Ox task may use the Ox. -/
def oxDenied (s : State) : Bool :=
  let t := s.thr
  let unit := match t.unit with | some u => s.units.any (fun e => e.1 == u && e.2.ox) | none => false
  let task := match t.task with | some id => ((s.core (coreOf s.cur)).tasks.get {} id).ox | none => false
  t.level == 0 && !unit && !task

/-- Inside a gate call the Ox is closed (R221). -/
def oxOpen (s : State) : Except Stop Unit := if s.thr.depth ≠ 0 then .error (.fault causeProt 0) else .ok ()

/-- What every instruction of major 0x2A is to the issue stage (R239). -/
def oxUse (word : Nat) (s : State) : Use := { word := word, ill := oxDenied s, body := true }

/-! ### GATH, BLD, MMA (R224, R233) -/

/-- A fill enters the queue and its stream waits for it; it is ordered after every earlier access of its thread (R226). -/
def fillLatch (u : Use) (latch : Nat) (gather : Bool) (d a b : Reg) (n : Nat) : State → Out :=
  issue u
    (fun s => do
      oxOpen s
      aligned (s.rg a) 64
      aligned (s.rg b) 64
      if gather then aligned (s.rg d) 16
      if s.thr.outstanding s.thr.inBody then .error (.wait .behind)
      afterPosted s
      let s1 ← enqueue (.fill latch gather s.cur s.thr.inBody (s.rg a) (s.rg b) (s.rg d) n) s
      .ok (s1.mapThr (fun t => t.park .fill)))

def execGath (d a b : Reg) (c : Bool) (n : BitVec 2) (s : State) : Out :=
  fillLatch { oxUse (wordGath d a b c n) s with gr := [d, a, b] } c.toNat true d a b (n.toNat + 1) s

def execBld (a b : Reg) (c : Bool) (n : BitVec 2) (s : State) : Out :=
  fillLatch { oxUse (wordBld a b c n) s with gr := [a, b] } (2 + c.toNat) false 0 a b (n.toNat + 1) s

/-- A stream of the cluster waits to access the tile (R223). -/
def accessWaits (s : State) (c t : Nat) : Bool := (waitsIn s c).any (fun w => w.2.2 == .tile t)

def execMma (d : BitVec 3) (a b : Bool) (l : BitVec 4) (s : State) : Out :=
  issue { oxUse (wordMma d a b l) s with long := true }
    (fun s => do
      oxOpen s
      let t := d.toNat
      let body := s.thr.inBody
      if accessWaits s (clusterOf s.cur) t then .error (.wait (.mmaTurn t))
      else
        let s1 ← enqueue (.mma t a.toNat b.toNat s.serial s.cur s.thr.unit false) s
        let s2 := retireLong (.tile t) (BitVec.ofNat 128 s.serial) l.toNat false s1.next
        .ok (if l = 0 then s2.mapThr (fun t' => t'.await body (.mmaDone t)) else s2)) s

/-! ### Accumulators (R235-R238) -/

/-- The tile accessed where it is not held, or the wait for it (R223). -/
def tileFree (t : Nat) (s : State) : Except Stop Tile := do
  oxOpen s
  if (s.ox (clusterOf s.cur)).held t then .error (.wait (.tile t)) else .ok ((s.ox (clusterOf s.cur)).tile t)

def State.setTile (s : State) (t : Nat) (x : Tile) : State :=
  let c := clusterOf s.cur
  s.setOx c { s.ox c with tiles := (s.ox c).tiles.set t x }

def execAcz (d : BitVec 3) (s : State) : Out :=
  issue { oxUse (wordAcz d) s with tiles := [d.toNat] }
    (fun s => do
      let _ ← tileFree d.toNat s
      .ok (retire (s.setTile d.toNat {}))) s

/-- The 64 rows of a transfer, each of n bytes in the local window: their blocks, in order (R236), at their place in the program
order of the thread (R265). -/
def transferRows (k : Access) (base pitch : Word) (n : Nat) (s : State) : Except Stop (State × List Piece) := do
  aligned base 64
  aligned pitch 64
  let (s, pss) ← rowsAccess s.ctx k n ((List.range 64).map (fun i => (base + BitVec.ofNat 64 i * pitch).toNat)) s
  programOrder false (k == .load) pss.flatten s
  .ok (s, pss.flatten)

/-- A transfer is under way: its instruction has been performed, the tile is held, and its stream waits until the transfer
completes (R236). -/
def beginTransfer (t : Nat) (s : State) : State :=
  let c := clusterOf s.cur
  let body := s.thr.inBody
  let f : Transfer := { tile := t, slot := s.cur, body := body }
  (retire (s.setOx c { s.ox c with transfers := (s.ox c).transfers ++ [f] })).mapThr (fun t => t.await body .transfer)

/-- A tile of 4096 elements. -/
def tileOf (l : List Nat) (x : Tile) : Tile :=
  { x with elems := ((List.range 4096).zip l).filterMap (fun p => if p.2 = 0 then none else some (p.1, BitVec.ofNat 32 p.2)) }

def Tile.at (x : Tile) (i j : Nat) : BitVec 32 := x.elems.get 0 (64 * i + j)

def execAcld (d : BitVec 3) (a b : Reg) (s : State) : Out :=
  issue { oxUse (wordAcld d a b) s with tiles := [d.toNat], gr := [a, b] }
    (fun s => do
      let x ← tileFree d.toNat s
      let (s, ps) ← transferRows .load (s.rg a) (s.rg b) 256 s
      let (s, l) ← performLoads false ps s
      let ws := (List.range 4096).map (fun i => ofBytes ((l.drop (4 * i)).take 4))
      .ok (beginTransfer d.toNat (s.setTile d.toNat (tileOf ws x)))) s

/-- The descriptor that ACST gives its blocks (R236). -/
def acstDesc (f : BitVec 2) : BitVec 16 := if f = 0 then 0x7F31 else if f = 1 then 0x7F40 else 0x7F30

def execAcst (d : BitVec 3) (a b : Reg) (f : BitVec 2) (s : State) : Out :=
  issue { oxUse (wordAcst d a b f) s with tiles := [d.toNat], gr := [a, b], ill := oxDenied s || f == 3 }
    (fun s => do
      let x ← tileFree d.toNat s
      let fmt := formatOf f
      let w := fmt.bits / 8
      let (s, ps) ← transferRows .store (s.rg a) (s.rg b) (64 * w) s
      let bytes := ((List.range 4096).map (fun i =>
        toBytes w (fmt.round 0 false (fp32.val (x.elems.get 0 i).toNat)).1)).flatten
      let s ← performStores false ps bytes s
      .ok (beginTransfer d.toNat (ps.foldl (fun s p => s.setDesc p.pa (acstDesc f)) s))) s

/-- The place of an ACRD or ACWR: the index of its first element (R237). -/
def position (x : Word) : Nat := 64 * field x 5 0 + 16 * field x 7 6

def execAcrd (d : Reg) (a : BitVec 3) (b : Reg) (s : State) : Out :=
  issue { oxUse (wordAcrd d a b) s with
          ill := oxDenied s || decide (12 < d.toNat), tiles := [a.toNat], gr := [b], vw := regs d 4, vx := true }
    (fun s => do
      let x ← tileFree a.toNat s
      let p := position (s.rg b)
      .ok (retire ((List.range 4).foldl (fun s m =>
        s.wv (d + BitVec.ofNat 4 m) (vecOf 32 ((List.range 4).map (fun e => (x.elems.get 0 (p + 4 * m + e)).toNat)))) s))) s

def execAcwr (d : BitVec 3) (a b : Reg) (s : State) : Out :=
  issue { oxUse (wordAcwr d a b) s with
          ill := oxDenied s || decide (12 < a.toNat), tiles := [d.toNat], gr := [b], vr := regs a 4, vx := true }
    (fun s => do
      let x ← tileFree d.toNat s
      let p := position (s.rg b)
      let new := ((regs a 4).map (fun r => lanes (s.rv r) 32)).flatten
      let elems := ((List.range 16).zip new).foldl
        (fun m e => if e.2 = 0 then m.erase (p + e.1) else m.set (p + e.1) (BitVec.ofNat 32 e.2)) x.elems
      .ok (retire (s.setTile d.toNat { x with elems := elems }))) s

/-- The Ox status (R238). -/
def Ox.status (x : Ox) : Word :=
  let bits := fun (p : Nat → Bool) => ((List.range 8).map (fun t => (p t).toNat * 2 ^ t)).sum
  BitVec.ofNat 64 (x.leave.toNat * 2 ^ 30 + min x.queue.length 32 * 2 ^ 24 + bits (fun t => (x.tile t).ovf) * 2 ^ 16
    + bits (fun t => (x.tile t).nv) * 2 ^ 8 + bits x.held)

def execMxstat (d a : Reg) (s : State) : Out :=
  issue { oxUse (wordMxstat d a) s with gr := [a], gw := [d] }
    (fun s => do
      oxOpen s
      let c := clusterOf s.cur
      let x := s.ox c
      let clear := (List.range 8).filter (fun t => bit (s.rg a) t && ((x.tile t).nv || (x.tile t).ovf))
      let x2 := { x with tiles := clear.foldl (fun m t => m.set t { x.tile t with nv := false, ovf := false }) x.tiles }
      .ok (retire ((s.setOx c x2).wg d x.status))) s

/-! ### The product (R228-R232) -/

/-- The width classes with which two latches meet (R228). -/
def mmaClasses (x y : Latch) : Nat × Nat :=
  let a := if x.cls = 0 then (if y.cls = 0 then 8 else y.cls) else x.cls
  let b := if y.cls = 0 then a else y.cls
  (a, b)

/-- The K extent (R228). -/
def mmaK (a b : Nat) : Nat := if a = 16 || b = 16 then 128 else if a = 4 && b = 4 then 512 else 256

/-- The first k elements of a latch row of class w, each with its block's descriptor (R229). -/
def rowValues (l : Latch) (w k i : Nat) : List (FVal × BitVec 16) :=
  ((List.range ((k * w + 511) / 512)).map (fun b =>
    let d := l.desc i b
    (blockValues w ((List.range 64).map (fun x => l.byte i (64 * b + x))) d).map (fun v => (v, d)))).flatten.take k

/-- A run's sum: NaN, the infinities met, whether zero met an infinity, the exact finite sum in units of 2^-300. -/
structure RunSum where
  nan : Bool := false
  pos : Bool := false
  neg : Bool := false
  zeroInf : Bool := false
  sum : Int := 0
  deriving DecidableEq, Repr

def RunSum.add (r : RunSum) (x y : FVal) : RunSum :=
  if x.isNan || y.isNan then { r with nan := true }
  else match product x y with
    | none => { r with nan := true, zeroInf := true }
    | some (.inf n) => if n then { r with neg := true } else { r with pos := true }
    | some (.fin n m e) =>
      let v : Int := (m * 2 ^ (e + 300).toNat : Nat)
      { r with sum := r.sum + (if n then -v else v) }
    | some (.nan _) => { r with nan := true }

/-- An element under way: its bits, NaN by an invalid operation, overflow. -/
structure Acc where
  bits : Nat
  nv : Bool := false
  ovf : Bool := false
  deriving DecidableEq, Repr

/-- A run added to an element (R230, R232). -/
def Acc.addRun (a : Acc) (r : RunSum) (dx dy : BitVec 16) : Acc :=
  let old := fp32.val a.bits
  if r.nan || (r.pos && r.neg) then { a with bits := fp32.nan, nv := a.nv || (!old.isNan && (r.zeroInf || (r.pos && r.neg))) }
  else if r.pos || r.neg then
    let opposite := match old with | .inf n => n != r.neg | _ => false
    { a with bits := (fp32.add 0 old (.inf r.neg)).1, nv := a.nv || opposite }
  else if r.sum = 0 then a
  else
    let e : Int := (field dx 15 8 : Int) + (field dy 15 8 : Int) - 254 - 300
    let (x, f1) := fp32.round 0 false (.fin (decide (r.sum < 0)) r.sum.natAbs e)
    let v := fp32.val x
    let (y, f2) := fp32.add 0 old v
    let finite := fun (v : FVal) => match v with | .fin _ _ _ => true | _ => false
    let opposite := match old, v with | .inf n, .inf m => n != m | _, _ => false
    { bits := y, nv := a.nv || opposite
      ovf := a.ovf || f1 &&& flagOF != 0 || (finite old && finite v && f2 &&& flagOF != 0) }

/-- One element of the product over its runs, which the pair of descriptors tells apart (R230). -/
def mmaElement (bits : Nat) (xs ys : List (FVal × BitVec 16)) : Acc :=
  let step := fun (st : Acc × RunSum × BitVec 16 × BitVec 16) (p : (FVal × BitVec 16) × (FVal × BitVec 16)) =>
    let (a, r, dx, dy) := st
    if p.1.2 == dx && p.2.2 == dy then (a, r.add p.1.1 p.2.1, dx, dy)
    else (a.addRun r dx dy, RunSum.add {} p.1.1 p.2.1, p.1.2, p.2.2)
  let first := match xs, ys with | x :: _, y :: _ => (x.2, y.2) | _, _ => (0, 0)
  let (a, r, dx, dy) := (xs.zip ys).foldl step ({ bits := bits }, {}, first.1, first.2)
  let done := a.addRun r dx dy
  let nanIn := xs.any (fun x => x.1.isNan) || ys.any (fun y => y.1.isNan)
  { done with nv := done.nv && !nanIn }

/-- A tile after an MMA (R230, R232). -/
def mmaTile (x : Tile) (l r : Latch) : Tile :=
  let (wa, wb) := mmaClasses l r
  let k := mmaK wa wb
  let rows := (List.range 64).map (rowValues l wa k)
  let cols := (List.range 64).map (rowValues r wb k)
  let accs := ((List.range 64).map (fun i => (List.range 64).map (fun j =>
    mmaElement (x.at i j).toNat (rows.getD i []) (cols.getD j [])))).flatten
  let new := tileOf (accs.map (fun a => a.bits)) x
  { new with nv := x.nv || accs.any (fun a => a.nv), ovf := x.ovf || accs.any (fun a => a.ovf) }

/-! ### The steps of the Ox -/

/-- The stream of slot k issues again, its wait over. -/
def asStream (k : Nat) (body : Bool) (s : State) : State := { s with cur := k }.mapThread k (fun t => t.serve body)

/-- A step that an event takes on behalf of a stream of slot k: it completes the instruction, or ends as the
instruction's fault. -/
def onBehalf (k : Nat) (body : Bool) (r : Except Stop State) (s : State) : State :=
  let back := s.cur
  match r with
  | .ok s => { retire (asStream k body s) with cur := back }
  | .error e => { stopAt e (asStream k body s) with cur := back }

/-- The fill that no command ahead holds back completes or faults (R222, R226). One whose reads wait at a slice stays under
way; its stream takes its turn in the port's deferral queue (R423). -/
def execLatchFillComplete (c : Nat) (s : State) : Out :=
  match nextCmd OxCmd.isFill [] (s.ox c).queue with
  | some (.fill latch gather slot body base pitch list n) =>
    let x := s.ox c
    let cmd := OxCmd.fill latch gather slot body base pitch list n
    let out := fun (s : State) (l : Latch) => s.setOx c { s.ox c with
      queue := (s.ox c).queue.erase cmd, latches := (s.ox c).latches.set latch l }
    (match performFill (ctxOf s slot) (decide (2 ≤ latch)) gather base pitch list n (asStream slot body s) with
      | .ok (s1, l) => .next { retire (out s1 l) with cur := s.cur }
      | .error (.wait (.line l x _)) => .next (stopLine l x s)
      | .error (.wait (.token i _)) => .next ((deferToken i slot body s).getD s)
      | .error (.wait _) => .next s
      | .error e => .next (onBehalf slot body (.error e) (s.setOx c { x with
          queue := x.queue.erase cmd, latches := x.latches.erase latch })))
  | _ => .next s

/-- The next MMA starts once its latches, its tile and leave are ready (R233). -/
def execMmaStart (c : Nat) (s : State) : Out :=
  let x := s.ox c
  match x.nextMma with
  | some (.mma t a b n k u st) =>
    if x.leave then
      .next (s.setOx c { x with queue := x.queue.map (fun d => if d == .mma t a b n k u st then .mma t a b n k u true else d) })
    else .next s
  | _ => .next s

/-- An MMA is no longer pending in its issuer (R233). -/
def Thread.mmaDone (t : Thread) (tile number : Nat) : Thread :=
  { t with pending := t.pending.filter (fun p => !(p.dest == .tile tile && p.value == BitVec.ofNat 128 number)) }

/-- The started MMA writes its tile and leaves the queue (R233). -/
def execMmaComplete (c : Nat) (s : State) : Out :=
  let x := s.ox c
  match x.queue.find? (fun d => match d with | .mma _ _ _ _ _ _ st => st | .fill .. => false) with
  | some (.mma t a b n k u st) =>
    let x2 := { x with
      queue := x.queue.erase (.mma t a b n k u st), leaveIdle := 0
      tiles := x.tiles.set t (mmaTile (x.tile t) (x.latch a) (x.latch (2 + b))) }
    .next ((s.setOx c x2).mapThread k (fun th => th.mmaDone t n))
  | _ => .next s

/-- A stream that waits for its transfer waits no longer. -/
def Thread.transferred (t : Thread) (body : Bool) : Thread :=
  let main := if t.wait == some .transfer then { t with wait := none } else t
  match t.rep with
  | some r => if body then (if r.wait == some .transfer then { t with rep := some { r with wait := none } } else t) else main
  | none => main

/-- The oldest accumulator transfer finishes and its stream resumes (R236). -/
def execAccumTransferComplete (c : Nat) (s : State) : Out :=
  match (s.ox c).transfers with
  | f :: r => .next ((s.setOx c { s.ox c with transfers := r }).mapThread f.slot (fun t => t.transferred f.body))
  | [] => .next s

/-- Leave held for 256 cycles without an MMA in the queue is given up (R234). -/
def execLeaveHoldExpiry (c : Nat) (s : State) : Out :=
  let x := s.ox c
  if x.leave && x.queue.all OxCmd.isFill && decide (256 ≤ x.leaveIdle) then .next (s.setOx c { x with leave := false })
  else .next s

end Sys2Proof.Machine
end

