-- ==== Sys2Proof/Machine/Copy.lean ====
section
/-! DEFINITION. The Mule: copy commands, major 0x2C, and its steps (R248-R257). -/
namespace Sys2Proof.Machine

def State.mule (s : State) (c : Nat) : List CopyCmd := (s.cluster c).mule
def State.setMule (s : State) (c : Nat) (l : List CopyCmd) : State := s.setCluster c { s.cluster c with mule := l }

/-! ### Commands (R249, R250) -/

def CopyCmd.src (m : CopyCmd) : Nat := m.quad[0].toNat
def CopyCmd.dst (m : CopyCmd) : Nat := m.quad[1].toNat
/-- Bytes per row (per slot for CPYCB, as its buffer gives). -/
def CopyCmd.width (m : CopyCmd) (slotSize : Nat) : Nat :=
  match m.fn with
  | 0 => field m.quad[2] 39 0
  | 1 => field m.quad[2] 31 0
  | 4 => slotSize
  | _ => field m.quad[2] 23 0
/-- Rows, or slots to fill. -/
def CopyCmd.rows (m : CopyCmd) : Nat :=
  match m.fn with
  | 0 => 1
  | 1 => field m.quad[2] 63 32
  | 4 => m.quad[2].toNat
  | _ => field m.quad[2] 39 24
def CopyCmd.srcPitch (m : CopyCmd) : Nat :=
  match m.fn with
  | 1 => field m.quad[3] 31 0
  | 2 => field m.quad[2] 63 40
  | 3 => m.width 0
  | 4 => m.quad[3].toNat
  | _ => 0
def CopyCmd.dstPitch (m : CopyCmd) : Nat :=
  match m.fn with
  | 1 => field m.quad[3] 63 32
  | 2 => m.width 0
  | 3 => field m.quad[2] 63 40
  | _ => 0
/-- The command reads an index list. -/
def CopyCmd.indexed (m : CopyCmd) : Bool := m.fn == 2 || m.fn == 3

/-- A value of the quad breaks its limit, or reserved bits are set (R250). -/
def CopyCmd.refused (m : CopyCmd) : Bool :=
  match m.fn with
  | 0 => field m.quad[2] 63 40 != 0 || field m.quad[3] 15 9 != 0 || field m.quad[3] 63 48 != 0
  | 1 => false
  | 4 => decide (256 ≤ m.quad[1].toNat) || m.quad[2] == 0 || decide (65536 ≤ m.quad[2].toNat)
  | _ => m.width 0 == 0 || m.rows == 0 || m.quad[3].toNat % 4 != 0

/-- The buffer that a CPYCB fills. -/
def CopyCmd.buffer (m : CopyCmd) : Nat := field m.quad[1] 7 0

/-- Bytes of the command's write order. -/
def CopyCmd.total (m : CopyCmd) (slotSize : Nat) : Nat := m.width slotSize * m.rows

/-- The slot size of the buffer of a command of cluster c; the rest has none. -/
def slotSize (s : State) (c : Nat) (m : CopyCmd) : Nat := if m.fn = 4 then (s.buffer c m.buffer).size else 0

/-- Room for one more command of a slot (R248). -/
def muleRoom (s : State) (k : Nat) : Bool :=
  let q := s.mule (clusterOf k)
  decide (q.length < 64) && decide ((q.filter (fun m => m.slot == k)).length < 8)

/-- A copy instruction (R249). -/
def copy (word fn : Nat) (d a b l : Reg) : State → Out :=
  issue { word := word, ill := a == 0 || decide (12 < a.toNat), gr := b :: regs a 4, gw := [d], body := true, long := true }
    (fun s => do
      let obj := s.rg b
      let s ← if obj = 0 then .ok s
        else do
          aligned obj 16
          let (s, _) ← access s s.ctx obj.toNat 16 .store
          .ok s
      let t := s.thr
      let c := clusterOf s.cur
      let done := fun (x : Word) (s : State) => (.ok (retireLong (.gen d) (x.setWidth 128) l.toNat false s) : Except Stop State)
      let m : CopyCmd :=
        { fn := fn, number := (s.cluster c).muleCount % 2 ^ 48, slot := s.cur, unit := t.unit, task := t.task
          quad := #v[s.rg a, s.rg (a + 1), s.rg (a + 2), s.rg (a + 3)], comp := obj, ctx := { s.ctx with agent := none, slot := none, engine := some (muleNumber c) } }
      let buf := s.buffer c m.buffer
      if m.refused then done (status (-1)) s
      else if fn = 4 && (!buf.live || buf.dom != t.dom || !buf.eng) then done (status (-3)) s
      else if !muleRoom s s.cur then .error (.wait .muleRoom)
      else
        afterPosted s
        let m := if m.total (slotSize s c m) = 0 then { m with status := some (0, 0) } else m
        let s := (s.setMule c (s.mule c ++ [m]))
        done (BitVec.ofNat 64 m.number) (s.setCluster c { s.cluster c with muleCount := (s.cluster c).muleCount + 1 }))

def execCpy (d a b l : Reg) : State → Out := copy (wordCpy d a b l) 0 d a b l
def execCpy2 (d a b l : Reg) : State → Out := copy (wordCpy2 d a b l) 1 d a b l
def execCpyg (d a b l : Reg) : State → Out := copy (wordCpyg d a b l) 2 d a b l
def execCpys (d a b l : Reg) : State → Out := copy (wordCpys d a b l) 3 d a b l
def execCpycb (d a b l : Reg) : State → Out := copy (wordCpycb d a b l) 4 d a b l

/-! ### The write order (R251) -/

/-- A sum of addresses. -/
def addr (x : Nat) : Nat := x % 2 ^ 64

/-- Where a place of the write order stands: its row, its offset in the row, and the row's index, all ones where
the list says so. -/
structure Place where
  row : Nat
  off : Nat
  idx : Nat
  deriving DecidableEq, Repr

/-- The index that governs a row, read from the list as a load, once and before the row (R251). -/
def rowIndex (m : CopyCmd) (row : Nat) (s : State) : Except EStop (State × CopyCmd × Nat) :=
  if m.indexed then
    match m.index with
    | some (r, i) => if r = row then .ok (s, m, i) else read
    | none => read
  else .ok (s, m, row)
where
  read : Except EStop (State × CopyCmd × Nat) := do
    let (s, l, _) ← engineRead m.ctx (addr (m.quad[3].toNat + 4 * row)) 4 s
    .ok (s, { m with index := some (row, ofBytes l) }, ofBytes l)

def CopyCmd.srcAt (m : CopyCmd) (x : Place) : Nat :=
  addr (m.src + (if m.fn = 3 then x.row else x.idx) * m.srcPitch + x.off)
def CopyCmd.dstAt (m : CopyCmd) (x : Place) : Nat :=
  addr (m.dst + (if m.fn = 3 then x.idx else x.row) * m.dstPitch + x.off)

/-- A zero row of CPYG. -/
def CopyCmd.zeroRow (m : CopyCmd) (x : Place) : Bool := m.fn == 2 && x.idx == 0xFFFFFFFF
/-- A row that CPYS skips. -/
def CopyCmd.skips (m : CopyCmd) (x : Place) : Bool := m.fn == 3 && x.idx == 0xFFFFFFFF

/-- The places of the bytes of parts, as canonical addresses. -/
def keysOf (s : State) (ps : List Piece) : List Nat :=
  (ps.map (fun p => (List.range p.len).map (fun i => s.key (p.pa + i)))).flatten

/-- Bytes read one after another, each just before its destination is written: a source byte that has been written reads as
written (R251). -/
def overlapped (src dst : List Nat) (bytes : List Byte) : List Byte :=
  (src.zip bytes).foldl (fun done p =>
    done ++ [match dst.take done.length |>.idxOf? p.1 with
      | some j => done.getD j 0
      | none => p.2]) []

/-! ### Descriptors (R130, R253) -/

/-- A destination block's coverage after n bytes at pa from `src`, whose block has descriptor d: a block that is whole, from
one source block, takes that block's descriptor; one that a second source block meets has its own again. -/
def CopyCmd.cover (m : CopyCmd) (pa n : Nat) (src : Option Nat) (d : BitVec 16) (s : State) : State × CopyCmd :=
  let b := s.key pa / 64
  let sb := match src with | some x => if x % 64 = pa % 64 then some (s.key x / 64) else none | none => none
  let x := m.track.get { src := sb } b
  let one := if x.src == sb then sb else none
  let mask := x.mask ||| (2 ^ n - 1) * 2 ^ (pa % 64)
  let (s, old) := match one, x.old with
    | none, some o => (s.setDesc (64 * b) o, none)
    | some _, none => if mask = 2 ^ 64 - 1 then (s.setDesc (64 * b) d, some (s.desc (64 * b))) else (s, none)
    | _, o => (s, o)
  (s, { m with track := m.track.set b { src := one, mask := mask, old := old } })

/-! ### One unit of a chunk -/

/-- The address in its domain space of an address that a context names: page offsets are those of this address. -/
def spaceAddr (c : Ctx) (va : Nat) : Nat :=
  match c.win with
  | some (base, _) => if apertureBase ≤ va && va < apertureTop then base + (va - apertureBase) else va
  | none => va

/-- The unit's length: within the row, and one block of source and destination each. -/
def unitLength (left src dst : Nat) : Nat := min left (min (64 - src % 64) (64 - dst % 64))

/-- A shorter unit where the destination holds more words that post events than the port has slots: each is written by
itself, so that its data take effect with its event (R197). The block is then not one unit (R130): the two rules cannot both
hold there (log entry 64). -/
def shorten (s : State) (p pa n : Nat) : Nat :=
  let (c, b) := portOf s p
  if !portUsable s p || (markedEmpty s 0 (pa / 8 * 8) (pa + n - pa / 8 * 8)).length ≤ (s.buffer c b).slots then n else min n (8 - pa % 8)

/-- The destination of a unit: its parts; for CPYCB the place in the slot taken. -/
def unitTarget (c : Nat) (m : CopyCmd) (x : Place) (n : Nat) (s : State) : Except EStop (State × List Piece) :=
  if m.fn = 4 then
    let buf := s.buffer c m.buffer
    let at_ := buf.base + m.taken.getD 0 * buf.size + x.off
    .ok (s, [{ va := localBase + at_ - m.ctx.spbase, len := n, pa := scratchBase c + at_, cls := 1, cp := 0, travel := false
               leaf := none, big := false, dom := m.ctx.dom, tables := [] }])
  else asEngine (m.dstAt x) (access s m.ctx (m.dstAt x) n .store)

/-- The descriptor of the block that holds a part, as its reader finds it. -/
def sourceDesc (c : Ctx) (p : Piece) (s : State) : Except EStop (State × BitVec 16) :=
  asEngine p.va (do
    let (s, l) ← loadSides c p.cp p s
    .ok (s, (l.headD 0).setWidth 16))

/-- Parts cut to their first n bytes. -/
def takeParts : Nat → List Piece → List Piece
  | _, [] => []
  | n, p :: r => if n = 0 then [] else { p with len := min n p.len } :: takeParts (n - p.len) r

/-- One unit moved, the place advanced: at most one block, which it reads and writes with its descriptor as one (R130). The
last number is the unit's length; a unit that does not fit the room left moves nothing. -/
def copyUnit (c : Nat) (m : CopyCmd) (x : Place) (w room : Nat) (s : State) : Except EStop (State × CopyCmd × Nat) := do
  let src := m.srcAt x
  let from_ := spaceAddr m.ctx src
  let to_ := if m.fn = 4 then (s.buffer c m.buffer).base + x.off else spaceAddr m.ctx (m.dstAt x)
  let n := unitLength (w - x.off) (if m.zeroRow x then to_ else from_) to_
  if room < n then .ok (s, m, 0)
  else
    let (s, l, ps) ← if m.zeroRow x then .ok (s, List.replicate n 0, []) else engineRead m.ctx src n s
    let (s, qs) ← unitTarget c m x n s
    let pa := (qs.head?.map (·.pa)).getD 0
    let n := shorten s m.ctx.part pa n
    let qs := takeParts n qs
    let l := if m.zeroRow x then l.take n else overlapped ((keysOf s ps).take n) (keysOf s qs) (l.take n)
    let (s, d) ← match ps.head? with
      | some p => sourceDesc m.ctx p s
      | none => .ok (s, 0)
    let s ← enginePuts m.ctx 0 qs l s
    let (s, m) := m.cover pa n (ps.head?.map (·.pa)) d s
    .ok (s, { m with pos := m.pos + n, written := m.written + n }, n)

/-! ### Chunks (R248) -/

/-- The next place of a command: a slot taken for CPYCB, a skipped row passed over. -/
inductive Next where
  | place (x : Place)
  | skip
  | finished
  deriving DecidableEq, Repr

def nextPlace (c : Nat) (m : CopyCmd) (s : State) : Except EStop (State × CopyCmd × Next) := do
  let w := m.width (slotSize s c m)
  if m.total (slotSize s c m) ≤ m.pos then .ok (s, m, .finished)
  else
    let row := m.pos / w
    let off := m.pos % w
    if m.fn = 4 && m.taken.isNone then
      let buf := s.buffer c m.buffer
      if buf.free = 0 then .error (.hold false none)
      else
        let (j, buf) := buf.take
        .ok (s.setBuffer c m.buffer buf, { m with taken := some j, track := [] }, .place { row := row, off := off, idx := row })
    else
      let (s, m, idx) ← rowIndex m row s
      let x : Place := { row := row, off := off, idx := idx }
      .ok (s, m, if m.skips x then .skip else .place x)

/-- A slot of a CPYCB that is written whole is published (R251, R261). -/
def publishSlot (c : Nat) (m : CopyCmd) (s : State) : State × CopyCmd :=
  match m.taken with
  | some j =>
    if m.fn = 4 && m.pos % (slotSize s c m) = 0 then
      (updateBuffer c m.buffer ((s.buffer c m.buffer).publish j) s, { m with taken := none })
    else (s, m)
  | none => (s, m)

/-- A command moves units until the chunk is full, it has finished, or an access stops it; the answer says whether it
moved. The fuel bounds the units of a chunk. -/
def chunk (c : Nat) : Nat → Nat → CopyCmd → State → State × CopyCmd × Option EStop
  | 0, _, m, s => (s, m, none)
  | fuel + 1, room, m, s =>
    if room = 0 then (s, m, none)
    else match nextPlace c m s with
      | .error e => (s, m, some e)
      | .ok (s, m, .finished) => (s, { m with status := some (m.written, 0) }, none)
      | .ok (s, m, .skip) =>
        let w := m.width 0
        chunk c fuel room { m with pos := m.pos / w * w + w } s
      | .ok (s, m, .place x) =>
        match copyUnit c m x (m.width (slotSize s c m)) room s with
        | .error e => (s, m, some e)
        | .ok (s, m, 0) => (s, m, none)
        | .ok (s, m, n) =>
          let (s, m) := publishSlot c m s
          let m := if m.total (slotSize s c m) ≤ m.pos then { m with status := some (m.written, 0) } else m
          if m.status.isSome then (s, m, none) else chunk c fuel (room - n) m s

/-- A command of a cluster's queue, by its number and slot. -/
def CopyCmd.same (m x : CopyCmd) : Bool := x.number == m.number && x.slot == m.slot

/-- A command of a slot in a cluster's queue replaced. -/
def putCmd (c : Nat) (m : CopyCmd) (s : State) : State :=
  s.setMule c ((s.mule c).map (fun x => if m.same x then m else x))

def setMuleHeld (c : Nat) (x : Option Nat) (s : State) : State := s.setCluster c { s.cluster c with muleHeld := x }

/-- A command meets a stop of an engine's access (R252): it fails, waits on a page request, or waits; a write that the
fill-event port holds back holds the Mule's later writes too (R197). -/
def muleStop (c : Nat) (m : CopyCmd) (e : EStop) (s : State) : State :=
  match e with
  | .fail x va _ => putCmd c { m with status := some (x, BitVec.ofNat 64 va) } s
  | .demand va dom kind eaddr =>
    let (n, s) := joinEngine m.ctx.part (muleTag c m) va dom kind s
    putCmd c { m with request := some (n, eaddr) } s
  | .hold port w =>
    let s := putCmd c m (engineWaits (muleNumber c) w s)
    if port then setMuleHeld c (some m.number) (noticePort m.ctx.part 0 s) else s

/-- A command whose page request has been answered goes on, or ends with XLATE at the address (R252). -/
def muleReply (c : Nat) (m : CopyCmd) (s : State) : State × CopyCmd :=
  match m.request with
  | none => (s, m)
  | some (n, va) =>
    match replyOf s m.ctx.part n with
    | none => (s, m)
    | some x =>
      let m2 := { m with request := none, status := if x = 0 then m.status else some (-1, BitVec.ofNat 64 va) }
      (putCmd c m2 (leaveEngine m.ctx.part n (muleTag c m) s), m2)

/-- The first command of each slot, in ascending slot number from the slot after `turn` (R248). -/
def muleHeads (q : List CopyCmd) (turn : Nat) : List CopyCmd :=
  let heads := q.filter (fun m => (q.find? (fun x => x.slot == m.slot)).any (fun x => x.number == m.number))
  let sorted := heads.foldr (fun m l => (l.filter (fun x => x.slot < m.slot)) ++ [m] ++ (l.filter (fun x => ¬ x.slot < m.slot))) []
  sorted.filter (fun m => turn < m.slot) ++ sorted.filter (fun m => m.slot ≤ turn)

/-- The commands among these that may write: the one whose write the fill-event port held back, where there is one (R197). -/
def writers (c : Nat) (l : List CopyCmd) (s : State) : List CopyCmd :=
  match (s.cluster c).muleHeld with
  | some n => if (s.mule c).any (fun m => m.number == n) then l.filter (fun m => m.number == n) else l
  | none => l

/-- The first head that can move a chunk moves one; a head that waits gives up its turn (R248, R255). -/
def muleTurns (c : Nat) : List CopyCmd → State → State
  | [], s => s
  | m :: r, s =>
    let (s, m) := muleReply c m s
    if m.status.isSome || m.request.isSome || m.leave = 1 then muleTurns c r s
    else if m.leave = 0 && decide (65536 ≤ m.total (slotSize s c m)) then muleTurns c r (putCmd c { m with leave := 1 } s)
    else
      let before := m.pos
      let (s, m, e) := chunk c 8192 4096 m (setMuleHeld c none s)
      let s := match e with | some e => muleStop c m e s | none => putCmd c m s
      if m.pos ≠ before || m.status.isSome then s.setCluster c { s.cluster c with muleTurn := m.slot }
      else if (s.cluster c).muleHeld.isSome then s
      else muleTurns c r s

/-- The Mule moves one chunk of up to 4 KiB of one command (R248). -/
def execMuleChunk (c : Nat) (s : State) : Out :=
  .next (muleTurns c (writers c (muleHeads (s.mule c) (s.cluster c).muleTurn) s) s)

/-- The completion object of a command: word 1, then word 0, which becomes full last (R254). -/
def writeCompletion (m : CopyCmd) (x : Int × Word) (s : State) : Except EStop State := do
  let s ← engineStore m.ctx 0 (m.comp.toNat + 8) (toBytes 8 x.2.toNat) s
  engineStore m.ctx 0 m.comp.toNat (toBytes 8 (status x.1).toNat) s

/-- The queue of a Mule becomes l; without a command it waits nowhere. -/
def leaveMule (c : Nat) (l : List CopyCmd) (s : State) : State :=
  if l.isEmpty then engineLeaves (muleNumber c) (s.setMule c l) else s.setMule c l

/-- An ended command leaves the queue. -/
def dropCmd (c : Nat) (m : CopyCmd) (s : State) : State := leaveMule c ((s.mule c).filter (fun x => !m.same x)) s

/-- An ended command writes its completion object and leaves the queue, or waits (R254). A completion object that can no longer
be written is passed over. -/
def muleComplete (c : Nat) (m : CopyCmd) (s : State) : State :=
  if m.comp = 0 then dropCmd c m s
  else
    match writeCompletion m (m.status.getD (0, 0)) (setMuleHeld c none s) with
    | .ok s => dropCmd c m s
    | .error (.fail _ _ _) => dropCmd c m s
    | .error e => muleStop c m e (setMuleHeld c none s)

/-- The reply to the page request of an ended command's completion object: the command with no request left, none where the
object is not to be written, and the state. -/
def completionReply (c : Nat) (m : CopyCmd) (s : State) : Option (Option CopyCmd × State) :=
  match m.request with
  | none => some (some m, s)
  | some (n, _) =>
    (replyOf s m.ctx.part n).map (fun x =>
      (if x = 0 then some { m with request := none } else none, leaveEngine m.ctx.part n (muleTag c m) s))

/-- The oldest ended command that can do so writes its completion object and leaves the queue; one that waits holds back no
other slot's, unless it waits for the fill-event port (R197, R252, R254). -/
def completeFirst (c : Nat) : List CopyCmd → State → State
  | [], s => s
  | m :: r, s =>
    match completionReply c m s with
    | none => completeFirst c r s
    | some (none, s) => dropCmd c m s
    | some (some m, s) =>
      let s := muleComplete c m s
      if (s.mule c).any m.same && (s.cluster c).muleHeld.isNone then completeFirst c r s else s

def execMuleCommandComplete (c : Nat) (s : State) : Out :=
  .next (completeFirst c (writers c ((s.mule c).filter (fun m => m.status.isSome)) s) s)

end Sys2Proof.Machine
end

