-- ==== Sys2Proof/Machine/Units.lean ====
section
/-! DEFINITION. The ends of tasks and threads (R305, R318, R355), and what a work unit or a task holds. -/
namespace Sys2Proof.Machine

/-- An allocation of a cluster's scratchpad is freed. -/
def freeAlloc (c : Nat) (a : Nat × Nat) (s : State) : State :=
  s.setCluster c { s.cluster c with allocs := (s.cluster c).allocs.erase a }

/-- The task in a slot ends: its ports close, its buffers and stash entries are released, its allocation and its Ox
occupancy are freed, and its id is free under a new generation (R318, R260, R180). Log entry 16. -/
def endTask (k : Nat) (s : State) : State :=
  match (s.thread k).task with
  | none => s
  | some id =>
    let n := coreOf k
    let c := clusterOf k
    let t := (s.core n).tasks.get {} id
    let s := releaseWhere c (fun b => b.task == some (n, id)) s
    let s := unmapWhere c (fun e => e.task == some (n, id)) s
    let s := freeAlloc c (t.spbase, t.splen) s
    let s := if (s.cluster c).oxTask == some (n, id) then s.setCluster c { s.cluster c with oxTask := none } else s
    let s := s.setCore n { s.core n with
      tasks := (s.core n).tasks.set id { gen := t.gen + 1 }
      ready := (s.core n).ready.mapVals (fun _ q => q.filter (· != id)) }
    s.mapThread k (fun th => { th with task := none, taskSwitch := none })

/-- A thread that has ended, of which its slot keeps the registers and nothing else (R318). -/
def Thread.ended (t : Thread) : Thread :=
  { pc := t.pc, g := t.g, v := t.v, m := t.m, tstat := t.tstat, epc := t.epc, ecause := t.ecause, eaddr := t.eaddr, tvec := t.tvec
    sdeleg := t.sdeleg, rstate := t.rstate, fstat := t.fstat, dom := t.dom, root := t.root, dsp := t.dsp, charge := t.charge
    slice := t.slice }

/-- A slot holds no thread. -/
def freeSlotOf (k : Nat) (s : State) : State := s.mapThread k Thread.ended

/-- The thread of a slot ends as an EXIT at depth 0 ends it: a grid thread leaves its slot free; a slot with a
current task takes TRAPINS with eaddr 0x200 and epc = resume (R305, R318, R355). -/
def exitThread (k : Nat) (resume : Word) (s : State) : State :=
  let s := revoke k (completeAll k s)
  if (s.thread k).task.isSome then trapAt k resume { cause := 0x11, eaddr := 0x200 } (endTask k s)
  else freeSlotOf k s

/-- The threads of a work unit, wherever they run. -/
def unitThreads (s : State) (u : Nat) : List Nat :=
  (s.threads.filter (fun e => e.2.occupied && e.2.unit == some u)).map (·.1)

/-- What a work unit holds of its cluster is freed (R318). -/
def freeUnit (u : Nat) (s : State) : State :=
  let w := s.units.get { part := 0, launch := 0, index := 0, group := 0, u := 0, cluster := 0, cores := [], spbase := 0
                         splen := 0, threads := 0, started := 0, cycles := 0, ox := false, restart := false } u
  let c := w.cluster
  let s := releaseWhere c (fun b => b.unit == some u && b.task.isNone) s
  let s := unmapWhere c (fun e => e.unit == some u && e.task.isNone) s
  let s := if w.saved then s else freeAlloc c (w.spbase, w.splen) s
  let s := if (s.cluster c).oxUnit == some u then s.setCluster c { s.cluster c with oxUnit := none } else s
  let s := w.cores.foldl (fun s n =>
    if (s.core n).unit == some u then s.setCore n { s.core n with unit := none } else s) s
  { s with units := s.units.erase u }

end Sys2Proof.Machine
end

