-- ==== Sys2Proof/Machine/Gates.lean ====
section
/-! DEFINITION. Domains, handles, gates, frames and unwinding: major 0x2E (R282-R306, R447). -/
namespace Sys2Proof.Machine

/-! ### Words behind stage 2 (R447) -/

def ipaLoad (s : State) (p ipa : Nat) : Except Stop Word := orFirmware ipa (ipaRead s p ipa)
/-- A word stored behind stage 2 for the current stream, at its place among the accesses to the word (R211). -/
def ipaStore (s : State) (p ipa : Nat) (x : Word) : Except Stop State := do
  let (pa, _) ← orFirmware ipa (stage2 s p ipa .store)
  let me := (s.cur, s.thr.inBody)
  match heldBack s (some me) pa 8 with
  | some w => .error (.wait (.word w))
  | none => do
    let s ← orFirmware ipa (ipaWrite s p ipa x)
    .ok (performedAt me pa 8 s)

/-- A far add of no ordering role to a word behind stage 2 (R282). -/
def ipaAdd (s : State) (p ipa : Nat) (x : Word) : Except Stop State := do
  let old ← ipaLoad s p ipa
  ipaStore s p ipa (old + x)

/-- Words stored from an IPA on. -/
def ipaStores (s : State) (p ipa : Nat) : List Word → Except Stop State
  | [] => .ok s
  | x :: r => do
    let s ← ipaStore s p ipa x
    ipaStores s p (ipa + 8) r

/-! ### Handles and gate slots (R284, R286, R287) -/

/-- The IPA of a handle's entry of a domain; none for a value that names no entry. -/
def handleIpa (s : State) (p : Nat) (d : BitVec 12) (h : Word) : Except Stop (Option Nat) := do
  if 1024 ≤ h.toNat then .ok none
  else
    let base ← ipaLoad s p (s.domIpa p d 0x10)
    .ok (some (base.toNat + 16 * h.toNat))

/-- The two words of an entry as they read: reserved fields are zero (R9, R284, R285, R320). -/
def entryWords (x y : Word) : Word × Word :=
  (x &&& 0x000FFFFFFF0F0003, if field x 1 0 = 2 then y &&& 0x0000FFFF0003FFFF else y &&& 0xFFFF)

/-- The two words of a handle's entry; zeros for a value that names no entry. -/
def handleEntry (s : State) (p : Nat) (d : BitVec 12) (h : Word) : Except Stop (Word × Word) := do
  match ← handleIpa s p d h with
  | none => .ok (0, 0)
  | some a =>
    let x ← ipaLoad s p a
    let y ← ipaLoad s p (a + 8)
    .ok (entryWords x y)

/-- The lowest empty entry of a domain's handle table, among the entries left. -/
def emptyHandle (s : State) (p base : Nat) : Nat → Nat → Except Stop (Option Nat)
  | 0, _ => .ok none
  | fuel + 1, i => do
    let x ← ipaLoad s p (base + 16 * i)
    if field x 1 0 = 0 then .ok (some i) else emptyHandle s p base fuel (i + 1)

/-- A new entry in the lowest empty place of a domain's table: its index, none when the table is full. -/
def placeHandle (s : State) (p : Nat) (d : BitVec 12) (x y : Word) : Except Stop (Option (Nat × State)) := do
  let base ← ipaLoad s p (s.domIpa p d 0x10)
  match ← emptyHandle s p base.toNat 1024 0 with
  | none => .ok none
  | some i =>
    let s ← ipaStores s p (base.toNat + 16 * i) [x, y]
    .ok (some (i, s))

/-- The IPA of gate slot x of a domain. -/
def gateIpa (s : State) (p : Nat) (d : BitVec 12) (x : Nat) : Except Stop Nat := do
  let base ← ipaLoad s p (s.domIpa p d 0x18)
  .ok (base.toNat + 64 * x)

/-- RIGHTS of an entry (R285). -/
def entryRights (x : Word) : Nat := field x 31 16

/-! ### Frame pools (R288) -/

/-- The context in which the device reaches the words of a frame pool for slot k: the callee domain's. -/
def poolCtx (s : State) (k : Nat) (d : BitVec 12) : Ctx := { ctxOf s k with dom := d, agent := none }

/-- A pool fault (R288). -/
def poolFault (va : Nat) : Stop := .fault causeProt va

/-- What a pool fault leaves: nothing. An access that has to wait makes the instruction wait. -/
def unlessFault {α : Type} : Except Stop α → Except Stop (Option α)
  | .ok x => .ok (some x)
  | .error (.wait w) => .error (.wait w)
  | .error _ => .ok none

/-- A word of a frame pool: mapped with R and W, and touched already; else a pool fault. -/
def poolPiece (s : State) (k : Nat) (d : BitVec 12) (va : Nat) : Except Stop Piece := do
  let c := poolCtx s k d
  if apertureBase ≤ va || va % 8 ≠ 0 then .error (poolFault va)
  else
    let _ ← domainPiece s c d va 8 va .load
    let p ← domainPiece s c d va 8 va .store
    if p.leaf.any (fun a => bit (s.read64 a) 7) then .ok p else .error (poolFault va)

/-- A step on a word of a pool at its home, under ATOM of its protocol; it waits behind a grant of the word, and sets the
dirty bit (R162, R211). -/
def poolStep (k : Nat) (d : BitVec 12) (p : Piece) (f : State → State) (s : State) : Except Stop State := do
  let c := poolCtx s k d
  match heldBack s (c.me s) p.pa 8 with
  | some w => .error (.wait (.word w))
  | none =>
    let s ← touch c .store p s
    let s ← atHomes c p mATOM s
    .ok (performedBy (c.me s) p.pa 8 (f s))

/-- The pool's header: count and n. -/
def poolHeader (s : State) (k : Nat) (d : BitVec 12) (pool : Nat) : Except Stop (Nat × Nat) := do
  let ps ← [0, 8, 0x10, 0x18, 0x20, 0x28, 0x30, 0x38].mapM (fun o => poolPiece s k d (pool + o))
  let w := ps.map (fun p => (s.read64 p.pa).toNat)
  if w.getD 3 0 < 1 || 4096 < w.getD 3 0 || (w.drop 4).any (· != 0) then .error (poolFault pool)
  else .ok (w.getD 0 0, w.getD 3 0)

/-- FINCW of a word by n: its old value and its new one (R214). -/
def wrapNext (m n : Nat) : Nat := (m + 1) % n

/-- A stack taken from a pool whose count is not zero (R288): FDECP count, FINCW take, LDFE of the ring entry. -/
def poolTake (s : State) (k : Nat) (d : BitVec 12) (pool : Nat) : Except Stop (Word × State) := do
  let (count, n) ← poolHeader s k d pool
  let pc ← poolPiece s k d pool
  let pt ← poolPiece s k d (pool + 8)
  let i := (s.read64 pt.pa).toNat
  let pr ← poolPiece s k d (pool + 0x40 + 8 * i)
  if s.empty pr.pa then .error (poolFault pool)
  else
    let sp := s.read64 pr.pa
    let s ← poolStep k d pc (fun s => s.write64 pc.pa (BitVec.ofNat 64 (count - 1))) s
    let s ← poolStep k d pt (fun s => s.write64 pt.pa (BitVec.ofNat 64 (wrapNext i n))) s
    let s ← poolStep k d pr (fun s => examineWord pr.pa (fePerform .ldfe pr.pa 0 s).1) s
    .ok (sp, s)

/-- A stack returned to a pool: FINCW put, STF of the ring entry, FADD count (R288). -/
def poolPut (s : State) (k : Nat) (d : BitVec 12) (pool : Nat) (stack : Word) : Except Stop State := do
  let (count, n) ← poolHeader s k d pool
  let pc ← poolPiece s k d pool
  let pp ← poolPiece s k d (pool + 0x10)
  let j := (s.read64 pp.pa).toNat
  let pr ← poolPiece s k d (pool + 0x40 + 8 * j)
  if !s.empty pr.pa then .error (poolFault pool)
  else
    let s ← poolStep k d pp (fun s => s.write64 pp.pa (BitVec.ofNat 64 (wrapNext j n))) s
    let s ← poolStep k d pr (fun s => examineWord pr.pa (fePerform .stf pr.pa stack s).1) s
    poolStep k d pc (fun s => s.write64 pc.pa (BitVec.ofNat 64 (count + 1))) s

/-! ### Frames (R289, R290) -/

/-- A word of the frame of depth d of slot k. -/
def frameWord (s : State) (k d off : Nat) : Except Stop Word :=
  ipaLoad s (s.partOf (clusterOf k)) (frameIpa (s.thread k).dsp d + off)

def frameGen (x : Word) : Nat := field x 59 44
def frameCallee (x : Word) : BitVec 12 := x.extractLsb' 32 12
def frameCaller (x : Word) : BitVec 12 := x.extractLsb' 0 12
def frameGate (x : Word) : Nat := field x 23 16
def frameOrphan (x : Word) : Bool := bit x 26
def frameMarked (x : Word) : Bool := bit x 25

/-- v4 to v15 zero. -/
def Thread.clearUpper (t : Thread) : Thread :=
  { t with v := Vector.ofFn (fun i : Fin 16 => if i.val < 4 then t.v[i.val] else 0) }
/-- g2 to g7 and v0 to v3 zero. -/
def Thread.clearLower (t : Thread) : Thread :=
  { t with
    g := Vector.ofFn (fun i : Fin 16 => if 2 ≤ i.val && i.val ≤ 7 then 0 else t.g[i.val])
    v := Vector.ofFn (fun i : Fin 16 => if i.val < 4 then 0 else t.v[i.val]) }
/-- g8 to g15 from a list. -/
def Thread.loadUpper (t : Thread) (l : List Word) : Thread :=
  { t with g := Vector.ofFn (fun i : Fin 16 => if 8 ≤ i.val then l.getD (i.val - 8) 0 else t.g[i.val]) }

/-- tvec and sdeleg of a domain, which a change of dom loads: both words can be read (R332, R447). -/
def recordLoads (s : State) (p : Nat) (d : BitVec 12) : Except Stop Unit := do
  let _ ← ipaLoad s p (s.domIpa p d 0x20)
  let _ ← ipaLoad s p (s.domIpa p d 0x28)
  .ok ()

/-- The innermost frame of slot k ends (R296, R297): its stack returns to its pool, served, frames and the slot's in-count
change, and the thread is in the caller's domain. A revoked slot whose in-count reaches 0 is free (R300). -/
def closeFrame (k : Nat) (s : State) : Except Stop State := do
  let t := s.thread k
  let p := s.partOf (clusterOf k)
  let d := t.depth
  let w ← frameWord s k d 0
  let stack ← frameWord s k d 0x28
  let entered ← frameWord s k d 0x30
  let dom := frameCallee w
  let g ← gateIpa s p dom (frameGate w)
  let state ← ipaLoad s p (s.domIpa p dom 0)
  let live := field state 1 0 == 1
  let pool ← ipaLoad s p (g + 0x18)
  let put ← if live then unlessFault (poolPut s k dom pool.toNat stack) else .ok none
  let s1 := put.getD s
  let s2 ← if live then ipaAdd s1 p (s1.domIpa p dom 0x40) (BitVec.ofNat 64 s.now - entered) else .ok s1
  let s3 ← ipaAdd s2 p (s2.domIpa p dom 0x50) (-1)
  let slot ← ipaLoad s3 p (g + 0x38)
  let n := field slot 47 32 - 1
  let slot2 := setField slot 47 32 n
  let slot3 := if n = 0 && field slot 1 0 == 3 then setField slot2 1 0 0 else slot2
  let s4 ← if frameGen w == field slot 31 16 || field slot 1 0 == 3 then ipaStore s3 p (g + 0x38) slot3 else .ok s3
  recordLoads s4 p (frameCaller w)
  .ok (s4.mapThread k (fun t => loadDomain p (frameCaller w) s4 (t.withDepth (d - 1))))

/-- The innermost frame of slot k ends and the caller's registers, status and pc come back (R297); reserved bits of the saved
status read as zero (R9). -/
def endFrame (k : Nat) (s : State) : Except Stop State := do
  let d := (s.thread k).depth
  let ret ← frameWord s k d 0x08
  let status ← frameWord s k d 0x10
  let saved ← [0, 1, 2, 3, 4, 5, 6, 7].mapM (fun i => frameWord s k d (0x40 + 8 * i))
  let s ← closeFrame k s
  .ok (s.mapThread k (fun t =>
    { (t.loadUpper saved).clearUpper with
      tstat := setField (setField (zext status 11) 3 3 t.vx.toNat) 7 5 (d - 1), pc := ret, hints := {} }))

/-- A frame that ends without code leaves nothing of its callee's: its results arrive first, and its repetition is over (R45,
R303). -/
def quit (k : Nat) (s : State) : State := (completeAll k s).mapThread k (fun t => { t with rep := none, hints := {} })

/-- The frames of a thread that is dropped end with it (R296); those that stage 2 refuses are left. The fuel bounds the
depth. -/
def dropFrames (k : Nat) : Nat → State → State
  | 0, s => s
  | fuel + 1, s =>
    if (s.thread k).depth = 0 then s
    else match closeFrame k s with
      | .ok s => dropFrames k fuel s
      | .error _ => s

/-- The frames of a thread of a cluster that is dropped while it stands in no slot end with it (R296): they end as those of a
slot of the cluster, whose own thread comes back. -/
def dropAway (c : Nat) (t : Thread) (s : State) : State :=
  if t.depth = 0 then s
  else
    let k := (((List.range 128).map (fun i => 128 * c + i)).find? (fun k => !(s.thread k).occupied)).getD (128 * c)
    let s' := dropFrames k 8 (s.setThread k { t with occupied := true, wait := none, rsv := none })
    s'.setThread k (s.thread k)

/-! ### GCALL (R293-R295) -/

/-- The window of a call: none where it fails; base, the frame's word +0x20 otherwise (R290, R295). -/
def callWindow (s : State) (winmax : Word) (base c : Word) : Option (Word × Word) :=
  let len := field c 39 0
  let rw := field c 41 40
  let allowed := field winmax 41 40
  let cur := s.ctx.win
  if field c 63 42 ≠ 0 then none
  else if len = 0 then (if rw = 0 then some (0, 0) else none)
  else if rw = 0 || rw &&& allowed ≠ rw || field winmax 39 0 < len then none
  else if apertureBase ≤ base.toNat && base.toNat < apertureTop then
    match cur with
    | none => none
    | some (b, l, r, w, owner) =>
      let o := base.toNat - apertureBase
      if s.thr.depth = 0 || l < o + len || (rw % 2 = 1 && !r) || (rw / 2 = 1 && !w) then none
      else some (BitVec.ofNat 64 (b + o), BitVec.ofNat 64 (len + rw * 2 ^ 40 + owner.toNat * 2 ^ 44))
  else if apertureBase < base.toNat + len then none
  else some (base, BitVec.ofNat 64 (len + rw * 2 ^ 40 + s.thr.dom.toNat * 2 ^ 44))

/-- A failed GCALL writes its status to g1 and goes on (R293). -/
def gcallFails (n : Int) (s : State) : Except Stop State := .ok (retire (s.wg 1 (status n)))

/-- A GCALL that passed its checks enters the callee (R294). -/
def enterGate (s : State) (dom : BitVec 12) (gate : Nat) (slot entry stack : Word) (win : Word × Word) (g : Nat) :
    Except Stop State := do
  let t := s.thr
  let p := s.partOf (clusterOf s.cur)
  let d := t.depth
  let f := frameIpa t.dsp (d + 1)
  let w0 := BitVec.ofNat 64 (field slot 31 16 * 2 ^ 44 + dom.toNat * 2 ^ 32 + gate * 2 ^ 16 + (d + 1) * 2 ^ 12 + t.dom.toNat)
  let words := [w0, t.pc + 4, t.tstat, win.1, win.2, stack, BitVec.ofNat 64 s.now, 0]
    ++ (List.range 8).map (fun i => t.rg (BitVec.ofNat 4 (8 + i)))
  let s1 ← match ipaStores s p f words with
    | .ok s => .ok s
    | .error (.wait w) => .error (.wait w)
    | .error _ => .error (.trap { cause := 0x18, eaddr := BitVec.ofNat 64 f })
  let s2 ← ipaStore s1 p (g + 0x38) (slot + 0x100000000)
  let s3 ← ipaAdd s2 p (s2.domIpa p dom 0x48) 1
  let s4 ← ipaAdd s3 p (s3.domIpa p dom 0x50) 1
  recordLoads s4 p dom
  .ok (s4.mapThr (fun t =>
    let t := ((t.loadUpper []).clearUpper.disarm).wg 14 stack
    (loadDomain p dom s4 ((t.withDepth (d + 1)).withLevel 0)).retireTo entry))

def execGcall (a b c : Reg) (s : State) : Out :=
  issue { word := wordGcall a b c, ill := s.thr.winMode || s.thr.rsv.isSome, gr := [a, b, c], gw := [1], drain := true }
    (fun s => do
      let t := s.thr
      let p := s.partOf (clusterOf s.cur)
      let (e, gen) ← handleEntry s p t.dom (s.rg a)
      let dom : BitVec 12 := e.extractLsb' 32 12
      let x := field e 51 44
      if field e 1 0 ≠ 1 || !bit e 16 then gcallFails (-4) s
      else
        let g ← gateIpa s p dom x
        let slot ← ipaLoad s p (g + 0x38)
        let rights ← ipaLoad s p (g + 0x08)
        if field slot 1 0 ≠ 1 || field slot 31 16 ≠ field gen 15 0
            || entryRights e &&& field rights 15 0 ≠ field rights 15 0 then gcallFails (-4) s
        else
          let state ← ipaLoad s p (s.domIpa p dom 0)
          let minslice ← ipaLoad s p (g + 0x10)
          let winmax ← ipaLoad s p (g + 0x30)
          let pool ← ipaLoad s p (g + 0x18)
          let entry ← ipaLoad s p g
          if field state 1 0 ≠ 1 then gcallFails (-3) s
          else if t.depth = 7 then gcallFails (-5) s
          else if t.sliceOn && decide (t.remain < field minslice 31 0) then gcallFails (-2) s
          else
            match callWindow s winmax (s.rg b) (s.rg c) with
            | none => gcallFails (-6) s
            | some win =>
              match ← unlessFault (poolHeader s s.cur dom pool.toNat) with
              | none => gcallFails (-4) s
              | some (count, _) =>
                if count = 0 then gcallFails (-1) s
                else
                  match ← unlessFault (poolTake s s.cur dom pool.toNat) with
                  | none => gcallFails (-4) s
                  | some (stack, s1) => enterGate s1 dom x slot entry stack win g) s

/-! ### Unwinding (R303-R305) -/

/-- A word of the gate of partition p that a frame entered through. -/
def gateOfFrame (s : State) (p : Nat) (w : Word) (off : Nat) : Except Stop Word := do
  let g ← gateIpa s p (frameCallee w) (frameGate w)
  ipaLoad s p (g + off)

def Thread.mapUnwind (t : Thread) (f : Unwind → Unwind) : Thread := { t with unwind := t.unwind.map f }

/-- The thread of slot k, at depth 0, ends (R305); one of a killed launch's unit ends with what it runs as a task's kernel
(R314, R318). -/
def endThread (k : Nat) (resume : Word) (s : State) : State :=
  let whole := ((s.thread k).unwind.getD {}).unit
  let s := s.mapThread k (fun t => { t with unwind := none })
  if whole then freeSlotOf k (endTask k (revoke k (completeAll k s))) else exitThread k resume s

/-- The thread of slot k ends: every frame ends, innermost first, the registers keeping their values, and then the thread
exits (R305). The fuel bounds the depth. -/
def endAll (k : Nat) (resume : Word) : Nat → State → Except Stop State
  | 0, s => .ok (endThread k resume s)
  | fuel + 1, s =>
    if (s.thread k).depth = 0 then .ok (endThread k resume s)
    else do
      let s ← closeFrame k s
      endAll k resume fuel s

/-- The handler of the innermost frame is entered at its gate's unwind entry, at U (R304, R305). -/
def enterUnwind (k cause : Nat) (eaddr entry : Word) (budget : Nat) (s : State) : State :=
  (completeAll k s).mapThread k (fun t =>
    { t.enter t.resumePc cause eaddr 0 with pc := entry }.mapUnwind
      (fun u => { u with running := true, frame := t.depth, budget := budget }))

/-- The unwind entry and the budget of the innermost frame's gate; entry 0 where its callee domain is not live (R303). -/
def unwindEntry (k : Nat) (s : State) : Except Stop (Word × Nat) := do
  let p := s.partOf (clusterOf k)
  let w ← frameWord s k (s.thread k).depth 0
  let state ← ipaLoad s p (s.domIpa p (frameCallee w) 0)
  let entry ← gateOfFrame s p w 0x20
  let budget ← gateOfFrame s p w 0x28
  .ok (if field state 1 0 = 1 then entry else 0, field budget 31 0)

/-- What is left of a thread's marks once the frames from its target on have ended: the handler inside which they were unwound
goes on, if there is one. -/
def Unwind.unwound (u : Unwind) : Option Unwind :=
  match u.outer with
  | (m, d, budget) :: r => some { u with target := some m, running := true, frame := d, budget := budget, outer := r }
  | [] => if u.orphan || u.dying then some { u with target := none, running := false, frame := 0 } else none

/-- Frames end until a handler runs or the marked frame has ended; then its caller goes on with g1 = -3 (R303). A frame whose
handler was entered before is not unwound twice (R304). -/
def unwindFrames (k : Nat) : Nat → State → Except Stop State
  | 0, s => .ok s
  | fuel + 1, s =>
    match (s.thread k).unwind with
    | none => .ok s
    | some u =>
      match u.target with
      | none => .ok s
      | some m =>
        let d := (s.thread k).depth
        if d < m || d = 0 then .ok (s.mapThread k (fun t => { t with unwind := u.unwound }.clearLower))
        else do
          let (entry, budget) ← unwindEntry k s
          if entry ≠ 0 && u.frame ≠ d then .ok (enterUnwind k 0x0D (BitVec.ofNat 64 u.cause) entry budget s)
          else
            let s ← endFrame k (quit k s)
            unwindFrames k fuel (s.mapThread k (fun t => t.wg 1 (status (-3))))

/-- Frames end, without code, from the innermost down to that of depth m. -/
def endDownTo (k m : Nat) : Nat → State → Except Stop State
  | 0, s => .ok s
  | fuel + 1, s =>
    if (s.thread k).depth < m || (s.thread k).depth = 0 then .ok s
    else do
      let s ← endFrame k (quit k s)
      endDownTo k m fuel (s.mapThread k (fun t => t.wg 1 (status (-3))))

/-- The frame whose handler runs ends, by the handler or with its budget, and with it the frames that the handler has called
(R304); unwinding goes on. The thread ends where its orphan's handler ends (R305). -/
def unwindNext (k : Nat) (s : State) : Except Stop State := do
  match (s.thread k).unwind with
  | none => .ok s
  | some u =>
    if u.dying then endAll k (s.thread k).pc 8 s
    else
      let s ← endDownTo k u.frame 8 s
      unwindFrames k 8 (s.mapThread k (fun t => t.mapUnwind (fun u => { u with running := false })))

/-- A step of unwinding taken for slot k at a boundary: a stage-2 failure traps there, and what must wait is tried again, from
its place behind a grant (R211, R447). -/
def atSlot (k : Nat) (f : State → Except Stop State) (s : State) : State :=
  match f { s with cur := k } with
  | .ok s1 => leaveAllHeld (k, false) { s1 with cur := s.cur }
  | .error (.trap t) => trapNow k t (leaveAllHeld (k, false) s)
  | .error (.wait (.word w _)) => takePlace (k, false) w s
  | .error _ => s

/-- The budget of a handler has run out. -/
def Thread.budgetOver (t : Thread) : Bool :=
  match t.unwind with
  | some u => u.running && u.budget == 0 && !t.firm && t.atBoundary
  | none => false

/-- The budget of a handler runs out: the frame ends where it stands (R304, R305). -/
def execUnwindBudgetExpiry (slot : Nat) (s : State) : Out :=
  .next (if (s.thread slot).budgetOver then atSlot slot (unwindNext slot) (withdraw slot s) else s)

/-- The grace of an orphan runs out: its innermost frame takes CALLERGONE, or the thread ends (R305). -/
def callerGone (k : Nat) (s : State) : Except Stop State := do
  if ((s.thread k).unwind.getD {}).unread then
    let w ← frameWord s k (s.thread k).depth 0
    let x ← gateOfFrame s (s.partOf (clusterOf k)) w 0x28
    .ok (s.mapThread k (fun t => t.mapUnwind (fun u => { u with grace := field x 63 32, unread := false })))
  else
  let (entry, budget) ← unwindEntry k s
  let s := s.mapThread k (fun t => t.mapUnwind (fun u => { u with dying := true }))
  if entry ≠ 0 then .ok (enterUnwind k 0x0E 0 entry budget s)
  else endAll k (s.thread k).resumePc 8 s

/-- An orphan's grace has run out at a boundary at level U. -/
def Thread.graceOver (t : Thread) : Bool :=
  match t.unwind with
  | some u => u.orphan && !u.running && u.target.isNone && u.grace == 0 && t.level == 0 && !t.firm && t.atBoundary
  | none => false

def execCallergone (slot : Nat) (s : State) : Out :=
  .next (if (s.thread slot).graceOver then atSlot slot (callerGone slot) (withdraw slot s) else s)

/-! ### Marks (R300, R303, R305, R306) -/

/-- Word 0 of every frame of a thread of partition p, by depth; frames that stage 2 refuses are left out. -/
def frames (s : State) (p : Nat) (t : Thread) : List (Nat × Word) :=
  (List.range t.depth).filterMap (fun i =>
    match ipaRead s p (frameIpa t.dsp (i + 1)) with
    | .ok w => some (i + 1, w)
    | .error _ => none)

/-- Bits set in word 0 of the frame of depth d of a thread. -/
def markFrame (p : Nat) (t : Thread) (d : Nat) (unw orph : Bool) (s : State) : State :=
  match ipaRead s p (frameIpa t.dsp d) with
  | .ok w =>
    let w := if unw then setField w 25 25 1 else w
    let w := if orph then setField w 26 26 1 else w
    (match ipaWrite s p (frameIpa t.dsp d) w with
      | .ok s => s
      | .error _ => s)
  | .error _ => s

/-- The handlers inside which frames are unwound, each with the outermost marked frame of its own part of the stack. -/
def retarget (hit : List Nat) : List (Nat × Nat × Nat) → List (Nat × Nat × Nat)
  | [] => []
  | (m, d, budget) :: r =>
    let base := match r with | (_, x, _) :: _ => x | [] => 0
    ((hit.find? (fun x => decide (base < x) && decide (x ≤ d))).getD m, d, budget) :: retarget hit r

/-- The marks in a thread's frames take effect on the thread (R303, R305): a killed thread at depth 0 ends; the frames down to
the outermost marked one unwind, unless its caller is the root of a killed chain. Frames marked inside a handler that runs
unwind first, and then the handler goes on (R304). The grace of a gate that stage 2 refuses is read when CALLERGONE would be
due (R447). -/
def Thread.marked (s : State) (p cause : Nat) (rootKilled : Bool) (t : Thread) : Thread :=
  let fs := frames s p t
  let old := t.unwind.getD {}
  let orphan := rootKilled || old.orphan || fs.any (fun f => frameOrphan f.2)
  let hit := (fs.filter (fun f => frameMarked f.2)).map (·.1)
  let inside := old.running && !old.dying && hit.any (fun d => decide (old.frame < d))
  let outer := retarget hit (if inside then (old.target.getD old.frame, old.frame, old.budget) :: old.outer else old.outer)
  let base := match outer with | (_, d, _) :: _ => d | [] => 0
  let target := match hit.find? (fun d => decide (base < d)) with
    | some d => if d = 1 && orphan then none else some d
    | none => none
  let grace := match fs.getLast? with
    | some (_, w) => (match gateOfFrame s p w 0x28 with | .ok x => some (field x 63 32) | .error _ => none)
    | none => some 0
  if t.depth = 0 then (if rootKilled then { t with unwind := some { dying := true } } else t)
  else if target.isSome || orphan || !outer.isEmpty then
    { t with unwind := some { old with
        target := target
        cause := if old.target == target then old.cause else cause
        running := old.running && !inside
        frame := if inside then 0 else old.frame
        outer := outer
        orphan := orphan
        grace := if old.orphan then old.grace else grace.getD 0
        unread := if old.orphan then old.unread else grace.isNone } }
  else t

/-- The slots of partition p that hold threads. -/
def slotsOf (s : State) (p : Nat) : List Nat :=
  (s.threads.filter (fun e => e.2.occupied && (s.cluster (clusterOf e.1)).part == some p)).map (·.1)

/-- The frames of a thread that satisfy hit are marked in memory, and with orph every frame as an orphan's. -/
def markFrames (p : Nat) (hit : Word → Bool) (orph : Bool) (t : Thread) (s : State) : State :=
  let fs := frames s p t
  let s := (fs.filter (fun f => hit f.2)).foldl (fun s f => markFrame p t f.1 true false s) s
  if orph then fs.foldl (fun s f => markFrame p t f.1 false true s) s else s

/-- Resident threads of a partition, in slots and in arrival queues, are marked: the frames that satisfy hit, and the threads
whose root domain is killed (R300, R303, R305). -/
def markThreads (p cause : Nat) (hit : Word → Bool) (root : Thread → Bool) (s : State) : State :=
  let touched := fun (s : State) (t : Thread) => root t || (frames s p t).any (fun f => hit f.2)
  let s := (slotsOf s p).foldl (fun s k =>
    let t := s.thread k
    if touched s t then
      let s := markFrames p hit (root t) t s
      s.mapThread k (fun t => t.marked s p cause (root t))
    else s) s
  (s.cores.filter (fun e => (s.cluster (e.1 / 16)).part == some p)).foldl (fun s e =>
    let l := (s.core e.1).arrivals.map (·.thread)
    let s := (l.filter (touched s)).foldl (fun s t => markFrames p hit (root t) t s) s
    if l.isEmpty then s
    else s.setCore e.1 { s.core e.1 with arrivals := (s.core e.1).arrivals.map (fun m =>
      if touched s m.thread then { m with thread := m.thread.marked s p cause (root m.thread) } else m) }) s

/-- Frames entered through gate x of a domain are marked in every resident thread (R303). -/
def markGate (p : Nat) (dom : BitVec 12) (x : Nat) (s : State) : State :=
  markThreads p 1 (fun w => frameCallee w == dom && frameGate w == x) (fun _ => false) s

/-- Commands of a domain that a save area holds end with a status (R257). -/
def SavedCluster.stopCommands (dom : BitVec 12) (x : SavedCluster) : SavedCluster :=
  { x with mule := x.mule.map (fun m => if m.ctx.dom == dom && m.status.isNone then { m with status := some (-5, 0), request := none } else m) }

/-- A thread belongs to a unit of a launch of a domain (R314). -/
def Thread.launchedBy (s : State) (p : Nat) (dom : BitVec 12) (t : Thread) : Bool :=
  match t.unit.bind (fun u => s.units.find? (fun e => e.1 == u)) with
  | some (_, w) => w.part == p && (s.part p).launches.any (fun l => l.key == w.launch && l.dom == dom)
  | none => false

/-- A domain is killed (R300, R303, R305): frames into it are marked, threads rooted in it and those of its launches end or
become orphans; its launches, copy commands, those of saved clusters among them, and work requests end (R257, R318, R411). -/
def killDomain (p : Nat) (dom : BitVec 12) (s : State) : State :=
  let s := markThreads p 2 (fun w => frameCallee w == dom) (fun t => t.root == dom || t.launchedBy s p dom) s
  let s := (slotsOf s p).foldl (fun s k =>
    if (s.thread k).launchedBy s p dom then s.mapThread k (fun t => t.mapUnwind (fun u => { u with unit := true })) else s) s
  let pt := s.part p
  let st := pt.steppe
  let s := s.setPart p { pt with
    launches := pt.launches.map (fun l => if l.dom == dom then { l with killed := true } else l)
    saved := pt.saved.mapVals (fun _ x => x.stopCommands dom)
    steppe := { st with queue := st.queue.map (fun q => if q.ctx.dom == dom then { q with error := some 9 } else q) } }
  ((s.clusters.filter (fun e => e.2.part == some p)).map (·.1)).foldl
    (fun s c => stopCommands c (fun m => m.ctx.dom == dom) (-5) s) s

/-- A frame no longer stands for a call that may go on: its gate slot has another generation, or its callee domain is not
live (R306). -/
def frameStale (s : State) (p : Nat) (w : Word) : Except Stop (Bool × Bool) := do
  let state ← ipaLoad s p (s.domIpa p (frameCallee w) 0)
  let x ← gateOfFrame s p w 0x38
  .ok (field state 1 0 ≠ 1, field x 31 16 ≠ frameGen w)

/-- The check of slot k's frames and root, with its effect on the thread (R305, R306). -/
def checkFrames (k : Nat) (s : State) : Except Stop State := do
  let p := s.partOf (clusterOf k)
  let t := s.thread k
  let root ← ipaLoad s p (s.domIpa p t.root 0)
  let fs ← (List.range t.depth).mapM (fun i => do
    let w ← frameWord s k (i + 1) 0
    let x ← frameStale s p w
    .ok (w, x))
  let bad := fs.filter (fun f => f.2.1 || f.2.2)
  let s := markFrames p (fun w => bad.any (fun f => f.1 == w)) (field root 1 0 != 1) t s
  .ok (s.mapThread k (fun t => t.marked s p (if bad.any (fun f => f.2.1) then 2 else 1) (field root 1 0 != 1)))

/-- The frame check (R306): before the thread issues, a frame whose gate slot has another generation, or whose callee domain
is not live, is marked, a killed root ends the thread or makes it an orphan, and the marks take effect. Where stage 2 refuses a
table it traps, and is made again before the thread goes on at level U (R447). -/
def frameCheck (k : Nat) (s : State) : State :=
  atSlot k (fun s => do
    let s ← checkFrames k s
    .ok (s.mapThread k (fun t => { t with recheck := false }))) (s.mapThread k (fun t => { t with recheck := true }))

/-- What a boundary does for a thread at level U that is marked, or whose frames have still to be checked, once its hint group has
ended (R300, R303, R305, R306). -/
def unwindStep (k : Nat) (s : State) : State :=
  if (s.thread k).recheck then frameCheck k (withdraw k s)
  else
  atSlot k (fun s =>
    match (s.thread k).unwind with
    | none => .ok s
    | some u => if u.dying then endAll k (s.thread k).resumePc 8 s else unwindFrames k 8 s) (withdraw k s)

/-- The thread has something to check or to unwind at its next boundary. -/
def Thread.unwindDue (t : Thread) : Bool :=
  t.occupied && t.level == 0 && !t.firm && t.atBoundary &&
    (t.recheck || (match t.unwind with
      | none => false
      | some u => !u.running && (u.target.isSome || u.dying)))


/-! ### GRET and GABT (R297) -/

/-- A frame that ended by itself is no longer to be unwound. -/
def Thread.returnedFrom (t : Thread) : Thread :=
  match t.unwind with
  | some u => if u.target.any (fun m => decide (t.depth < m)) then { t with unwind := u.unwound } else t
  | none => t

/-- The common end of a call; `code` is the result of GABT. The slot's monitors are disarmed (R292, R297). The end of the
handler that runs is that of its frame (R304); any other of an orphan's ends the thread (R305). -/
def gateReturn (word : Nat) (gr : List Reg) (code : State → Option Word) (s : State) : Out :=
  issue { word := word, ill := s.thr.winMode || s.thr.rsv.isSome || s.thr.depth == 0, gr := gr, drain := true }
    (fun s => do
      let k := s.cur
      let t := s.thr
      let w ← frameWord s k t.depth 0
      let after := s.mapThr (fun t => { t.disarm.retire with pc := t.pc + 4 })
      let u := t.unwind.getD {}
      if u.running && u.frame == t.depth then unwindNext k after
      else if u.orphan || frameOrphan w then endAll k (t.pc + 4) 8 after
      else
        let s ← endFrame k after
        let s := s.mapThr Thread.returnedFrom
        .ok (match code after with | some x => s.mapThr (fun t => t.clearLower.wg 1 x) | none => s)) s

def execGret (s : State) : Out := gateReturn wordGret [] (fun _ => none) s

/-- GABT: g1 = g[a] where it is at most -7 as a signed value, and -7 otherwise (R297). -/
def execGabt (a : Reg) (s : State) : Out :=
  gateReturn (wordGabt a) [a] (fun s => some (if (s.rg a).toInt ≤ -7 then s.rg a else status (-7))) s

/-! ### DINFO, GPUB, GREV, HGIVE, HDROP (R298-R301) -/

/-- The item that DINFO's selector names (R298). -/
def dinfo (x : Nat) (s : State) : Except Stop Word := do
  let t := s.thr
  let p := s.partOf (clusterOf s.cur)
  let inner := fun (off : Nat) (none : Word) (f : Word → Word) =>
    if t.depth = 0 then (.ok none : Except Stop Word) else (frameWord s s.cur t.depth off).map f
  match x with
  | 0 => .ok (t.dom.setWidth 64)
  | 1 => .ok (t.root.setWidth 64)
  | 2 => .ok (BitVec.ofNat 64 t.depth)
  | 3 => inner 0 (status (-1)) (fun w => (frameCaller w).setWidth 64)
  | 4 => inner 0 (status (-1)) (fun w => BitVec.ofNat 64 (frameGate w))
  | 5 => inner 0x20 0 (fun w => BitVec.ofNat 64 (field w 41 0))
  | 6 => .ok (BitVec.ofNat 64 t.remain)
  | 7 => ipaLoad s p (s.domIpa p t.dom 0x40)
  | 8 => ipaLoad s p (s.domIpa p t.dom 0x48)
  | 9 => inner 0 0 (fun w => BitVec.ofNat 64 ((frameOrphan w).toNat + 2 * (frameMarked w).toNat))
  | _ => .ok (status (-1))

def execDinfo (d a : Reg) : State → Out :=
  issue { word := wordDinfo d a, gr := [a], gw := [d] }
    (fun s => do
      let x ← dinfo (s.rg a).toNat s
      .ok (retire (s.wg d x)))

/-- A descriptor that GPUB refuses (R299). -/
def badDescriptor (w : Nat → Word) : Bool :=
  field (w 0) 1 0 != 0 || field (w 4) 1 0 != 0 || field (w 3) 5 0 != 0 || decide (2 ^ 36 < field (w 6) 39 0)
    || field (w 1) 63 16 != 0 || field (w 2) 63 32 != 0 || field (w 6) 63 42 != 0 || w 7 != 0

def execGpub (d a b : Reg) : State → Out :=
  issue { word := wordGpub d a b, gr := [a, b], gw := [d] }
    (fun s => do
      aligned (s.rg a) 64
      let (s1, l) ← loadRanges s false [((s.rg a).toNat, 64)]
      let w := fun (i : Nat) => BitVec.ofNat 64 (ofBytes ((l.drop (8 * i)).take 8))
      let p := s.partOf (clusterOf s.cur)
      let dom := s.thr.dom
      let x := (s.rg b).toNat
      let g ← gateIpa s1 p dom (x % 256)
      let slot ← ipaLoad s1 p (g + 0x38)
      if 255 < x || field slot 1 0 ≠ 0 then .ok (retire (s1.wg d (status (-1))))
      else if badDescriptor w then .ok (retire (s1.wg d (status (-2))))
      else
        let gen := (field slot 31 16 + 1) % 65536
        let e := BitVec.ofNat 64 (x * 2 ^ 44 + dom.toNat * 2 ^ 32 + 0xFF03 * 2 ^ 16 + 1)
        match ← placeHandle s1 p dom e (BitVec.ofNat 64 gen) with
        | none => .ok (retire (s1.wg d (status (-3))))
        | some (h, s2) =>
          let s3 ← ipaStores s2 p g ((List.range 7).map w ++ [BitVec.ofNat 64 (gen * 65536 + 1)])
          .ok (retire (s3.wg d (BitVec.ofNat 64 h))))

/-- The step of GREV at a gate slot: the new status word, none where the mode does not apply (R300). -/
def grevSlot (mode : Nat) (slot : Word) : Option Word :=
  let st := field slot 1 0
  if mode = 0 then (if st = 1 then some (setField slot 1 0 2) else none)
  else if mode = 2 then (if st = 2 then some (setField slot 1 0 1) else none)
  else if st = 1 || st = 2 then
    let x := setField slot 31 16 (field slot 31 16 + 1)
    some (setField x 1 0 (if field slot 47 32 = 0 then 0 else 3))
  else none

def execGrev (d a b : Reg) (s : State) : Out :=
  issue { word := wordGrev d a b, priv := s.known [b] && s.rg b == 3 && s.thr.level == 0, gr := [a, b], gw := [d] }
    (fun s => do
      let p := s.partOf (clusterOf s.cur)
      let x := (s.rg a).toNat
      let mode := (s.rg b).toNat
      if 3 < mode || (mode = 3 && 4096 ≤ x) || (mode < 3 && 256 ≤ x) then .ok (retire (s.wg d (status (-2))))
      else if mode = 3 then
        let dom := BitVec.ofNat 12 x
        let state ← ipaLoad s p (s.domIpa p dom 0)
        if field state 1 0 ≠ 1 then .ok (retire (s.wg d (status (-1))))
        else
          let s1 ← ipaStore s p (s.domIpa p dom 0) (setField state 1 0 2)
          .ok (killDomain p dom (retire (s1.wg d 0)))
      else
        let g ← gateIpa s p s.thr.dom x
        let slot ← ipaLoad s p (g + 0x38)
        match grevSlot mode slot with
        | none => .ok (retire (s.wg d (status (-1))))
        | some slot2 =>
          let s1 ← ipaStore s p (g + 0x38) slot2
          let s2 := retire (s1.wg d (if mode = 2 then 0 else BitVec.ofNat 64 (field slot 47 32)))
          .ok (if mode = 1 then markGate p s.thr.dom x s2 else s2)) s

def execHgive (d a b c : Reg) : State → Out :=
  issue { word := wordHgive d a b c, gr := [a, b, c], gw := [d] }
    (fun s => do
      let p := s.partOf (clusterOf s.cur)
      let (e, y) ← handleEntry s p s.thr.dom (s.rg a)
      if field e 1 0 = 0 || !bit e 17 || field (s.rg c) 63 16 ≠ 0 then .ok (retire (s.wg d (status (-4))))
      else if 4096 ≤ (s.rg b).toNat then .ok (retire (s.wg d (status (-2))))
      else
        let dom : BitVec 12 := (s.rg b).setWidth 12
        let state ← ipaLoad s p (s.domIpa p dom 0)
        if field state 1 0 ≠ 1 then .ok (retire (s.wg d (status (-2))))
        else
          match ← placeHandle s p dom (setField e 31 16 (entryRights e &&& field (s.rg c) 15 0)) y with
          | none => .ok (retire (s.wg d (status (-1))))
          | some (h, s1) => .ok (retire (s1.wg d (BitVec.ofNat 64 h))))

def execHdrop (d a : Reg) : State → Out :=
  issue { word := wordHdrop d a, gr := [a], gw := [d] }
    (fun s => do
      let p := s.partOf (clusterOf s.cur)
      let (e, _) ← handleEntry s p s.thr.dom (s.rg a)
      match ← handleIpa s p s.thr.dom (s.rg a) with
      | none => .ok (retire (s.wg d (status (-4))))
      | some at_ =>
        if field e 1 0 = 0 then .ok (retire (s.wg d (status (-4))))
        else
          let s1 ← ipaStores s p at_ [0, 0]
          .ok (retire (s1.wg d 0)))

end Sys2Proof.Machine
end

