-- ==== Sys2Proof/Machine/Links.lean ====
section
/-! DEFINITION. Col bundles: LBIAS and LSTAT, turns, grants, flits and the credit audit (R388-R399). -/
namespace Sys2Proof.Machine

/-! ### Bundles (R388, R392) -/

/-- Link clocks since reset: 2.5 GHz beside a fabric of 1.4 GHz (log entry 19). -/
def State.linkClock (s : State) : Nat := s.now * 25 / 14

/-- The ownable groups of a partition, ascending. -/
def Bundle.owned (b : Bundle) (p : Nat) : List Nat :=
  (List.range 16).filter (fun g => decide (2 ≤ g) && b.owner.get none g == some p)

/-- The group points up, or will once its running turn ends. -/
def Bundle.upAfter (b : Bundle) (g : Nat) : Bool :=
  match b.turning.find? (fun t => t.1 == g) with
  | some (_, u, _) => u
  | none => bit b.up g

/-- The partition's target in groups up; ⌊G/2⌋ from the grant on (R392). -/
def Bundle.target (b : Bundle) (p : Nat) : Nat := b.targets.get ((b.owned p).length / 2) p

/-! ### LBIAS and LSTAT (R395-R397) -/

/-- LBIAS at a bundle: the bundle and g[d] (R396). -/
def Bundle.bias (b : Bundle) (p n : Nat) (outUp : Bool) : Bundle × Word :=
  let own := b.owned p
  let target := if outUp then n else own.length - n
  let b := { b with targets := b.targets.set p target, queue := b.queue.filter (fun e => !own.contains e.1) }
  let ups := (own.filter b.upAfter).length
  let wantUp := decide (ups < target)
  let k := if wantUp then target - ups else ups - target
  let wrong := (own.filter (fun g => b.upAfter g != wantUp)).reverse.take k
  let chosen := wrong.take (min 4 (8 - b.queue.length))
  ({ b with queue := b.queue ++ chosen.map (fun g => (g, wantUp)) },
    BitVec.ofNat 64 ((k - chosen.length) * 256 + chosen.length))

def linkAccept : Accept := {}

def execLbias (d a b : Reg) : State → Out :=
  issue { word := wordLbias d a b, gr := [a, b], gw := [d], accept := linkAccept }
    (fun s =>
      let x := s.rg a
      let n := s.rg b
      let die := field x 2 0
      let sel := field x 4 3
      let p := s.partOf (clusterOf s.cur)
      let bu := s.bundle (bundleOf die sel)
      let own := (bu.owned p).length
      if field x 63 5 ≠ 0 || field n 63 5 ≠ 0 then .ok (retire (s.wg d (status (-2))))
      else if own = 0 then .ok (retire (s.wg d (status (-3))))
      else if n.toNat < 1 || own - 1 < n.toNat then .ok (retire (s.wg d (status (-2))))
      else
        let (bu, r) := bu.bias p n.toNat (outwardUp die sel)
        .ok (retire ((s.setBundle (bundleOf die sel) bu).wg d r)))

/-- Turns of the bundle that started in the last 250,000 link clocks (R394). -/
def Bundle.recent (b : Bundle) (clock : Nat) : Nat := (b.starts.filter (fun t => decide (clock < t + 250000))).length

/-- A number with a bit for each listed group. -/
def groupBits (l : List Nat) : Nat := l.foldl (fun x g => x + 2 ^ g) 0

/-- What LSTAT reads of a bundle (R397). -/
def Bundle.stat (b : Bundle) (p clock : Nat) (outUp : Bool) : Nat :=
  let own := b.owned p
  let target := if own.isEmpty then 0 else if outUp then b.target p else own.length - b.target p
  groupBits own * 2 ^ 48 + groupBits ((List.range 16).filter b.upAfter) * 2 ^ 32
    + (b.queue.filter (fun e => own.contains e.1)).length * 2 ^ 28 + target * 2 ^ 23 + b.recent clock * 2 ^ 16
    + (own.map (fun g => b.replay.get 0 g)).sum % 256 * 2 ^ 8 + (own.map (fun g => b.repair.get 0 g)).sum % 256

def execLstat (d a : Reg) : State → Out :=
  issue { word := wordLstat d a, gr := [a], gw := [d], accept := linkAccept }
    (fun s =>
      let x := s.rg a
      if field x 63 5 ≠ 0 then .ok (retire (s.wg d (status (-2))))
      else
        let r := (s.bundle (bundleOf (field x 2 0) (field x 4 3))).stat (s.partOf (clusterOf s.cur)) s.linkClock
          (outwardUp (field x 2 0) (field x 4 3))
        .ok (retire (s.wg d (BitVec.ofNat 64 r))))

/-! ### Turns (R394) -/

/-- A group has a flit in flight, or one that is not acknowledged. -/
def Bundle.busy (b : Bundle) (g : Nat) : Bool :=
  b.flight.any (fun f => f.1 == g) || !(b.retry.get [] (2 * g)).isEmpty || !(b.retry.get [] (2 * g + 1)).isEmpty

/-- The head entry of the turn queue starts where its group has dwelt and the limit of 64 allows. -/
def Bundle.startTurn (b : Bundle) (clock : Nat) : Bundle :=
  match b.queue with
  | [] => b
  | (g, u) :: r =>
    if b.turning.any (fun t => t.1 == g) || decide (clock < b.lastTurn.get 0 g + 5000) || decide (64 ≤ b.recent clock) then b
    else
      { b with
        queue := r
        starts := b.starts.filter (fun t => decide (clock < t + 250000)) ++ [clock]
        turning := b.turning ++ [(g, u, if b.busy g then none else some (clock + 48))] }

def execTurnStart (bundle : Nat) (s : State) : Out :=
  .next (s.setBundle bundle ((s.bundle bundle).startTurn s.linkClock))

/-- The turn of a group ends once its dead time is over: the group points the new way with a full send window. -/
def Bundle.endTurn (b : Bundle) (clock g : Nat) : Bundle :=
  match b.turning.find? (fun t => t.1 == g) with
  | some (_, u, some t) =>
    if clock < t then b
    else
      { b with
        turning := b.turning.filter (fun t => t.1 != g)
        up := setField b.up g g u.toNat
        lastTurn := b.lastTurn.set g clock
        window := b.window.set (2 * g + u.toNat) 128 }
  | _ => b

def execTurnEnd (bundle group : Nat) (s : State) : Out :=
  .next (s.setBundle bundle ((s.bundle bundle).endTurn s.linkClock group))

/-! ### Grants (R392) -/

/-- The groups of a grant: ownable ones of a mask. -/
def grantGroups (mask : Nat) : List Nat := (List.range 16).filter (fun g => decide (2 ≤ g) && mask.testBit g)

/-- Firmware may make the grant: none or at least two groups, no other owner's, none with a flit in flight or a turn under
way, which always completes (R394), and at most seven owners on the bundle. -/
def Bundle.grantable (b : Bundle) (p : Nat) (gs : List Nat) : Bool :=
  gs.length != 1 && gs.all (fun g => b.owner.get none g == none || b.owner.get none g == some p)
    && (gs ++ b.owned p).all (fun g => !b.busy g && b.turning.all (fun t => t.1 != g))
    && decide ((((List.range 16).filterMap (fun g => b.owner.get none g)).filter (· != p)).eraseDups.length
        + (if gs.isEmpty then 0 else 1) ≤ 7)

/-- The grant made: the lower half of the groups points up, the others down, each through the dead time where it
changes. -/
def Bundle.grant (b : Bundle) (p clock : Nat) (gs : List Nat) : Bundle :=
  let old := b.owned p
  let b := { b with
    owner := gs.foldl (fun m g => m.set g (some p)) (old.foldl (fun m g => m.set g none) b.owner)
    queue := b.queue.filter (fun e => !(old ++ gs).contains e.1)
    replay := gs.foldl (fun m g => m.set g 0) b.replay
    repair := gs.foldl (fun m g => m.set g 0) b.repair
    targets := if gs.isEmpty then b.targets.erase p else b.targets.set p (gs.length / 2) }
  (gs.zip (List.range gs.length)).foldl (fun b x =>
    let u := decide (x.2 < gs.length / 2)
    if b.upAfter x.1 == u then b
    else { b with turning := b.turning ++ [(x.1, u, some (clock + 48))] }) b

/-- Firmware gives a partition the groups of a mask (its whole share of the bundle). A grant that breaks the rules of
ownership is not made. -/
def execLaneGrant (bundle part groups : Nat) (s : State) : Out :=
  let b := s.bundle bundle
  let gs := grantGroups groups
  if b.grantable part gs then .next (s.setBundle bundle (b.grant part s.linkClock gs)) else .next s

/-! ### Flits (R390, R398, R399) -/

/-- Units that a class must leave in the window, itself included. -/
def classUnits (cls : Nat) : Nat := if cls = 2 then 1 else if cls = 1 then 9 else 17

/-- A group is idle: ownable, and its owner has had no flit waiting for 64 link clocks. -/
def Bundle.idle (b : Bundle) (clock g : Nat) : Bool := decide (2 ≤ g) && decide (b.wanted.get 0 g + 64 ≤ clock)

/-- A flit may travel on a group: its own partition's, a common group where its partition owns none, or an idle group
that is lent. `bars` gives bars [3:2] of a partition: no lending, no borrowing. -/
def Bundle.takes (b : Bundle) (bars : Nat → Bool × Bool) (clock g : Nat) (f : Flit) : Bool :=
  bit b.up g == f.up &&
    match f.part with
    | none => decide (g < 2)
    | some p =>
      if g < 2 then (b.owned p).isEmpty
      else if b.owner.get none g == some p then true
      else b.idle clock g && !(bars p).2 && (match b.owner.get none g with | some o => !(bars o).1 | none => false)

/-- The sequence numbers up to which the flits of the other direction are acknowledged (R398). -/
def Bundle.acks (b : Bundle) (up : Bool) : SMap Nat := b.expected.filter (fun e => e.1 % 2 != up.toNat)

/-- What a flit of a direction carries in its header leaves with it. -/
def Bundle.headed (b : Bundle) (up : Bool) : Bundle :=
  { b with due := b.due.filter (fun j => j % 2 == up.toNat), ackDue := b.ackDue.filter (fun j => j % 2 == up.toNat) }

/-- The units that a flit of a direction returns. -/
def Bundle.returnsFor (b : Bundle) (up : Bool) : List Nat := b.due.filter (fun j => j % 2 != up.toNat)

/-- One group sends in one link clock: the first waiting flit of its owner, else the first that may borrow it, within
the send window and the retry buffer; with units to return or flits to acknowledge and no flit, an empty control flit. -/
def Bundle.sendGroup (b : Bundle) (bars : Nat → Bool × Bool) (clock g : Nat) : Bundle :=
  if b.turning.any (fun t => t.1 == g) then b
  else
    let up := bit b.up g
    let i := 2 * g + up.toNat
    let w := b.window.get 128 i
    let kept := b.retry.get [] i
    let ok := fun (f : Flit) => b.takes bars clock g f && decide (classUnits f.cls ≤ w) && decide (kept.length < 128)
    let mine := fun (f : Flit) => f.part == b.owner.get none g
    match (b.waiting.find? (fun f => ok f && mine f)).or (b.waiting.find? ok) with
    | some f =>
      let f2 : Flit := { f with seq := b.sent.get 0 i, returns := b.returnsFor up, acks := b.acks up }
      { b.headed up with
        waiting := b.waiting.erase f
        flight := b.flight ++ [(g, f2)]
        retry := b.retry.set i (kept ++ [f2])
        window := b.window.set i (w - 1)
        sent := b.sent.set i (b.sent.get 0 i + 1) }
    | none =>
      if (b.returnsFor up).isEmpty && b.ackDue.all (fun j => j % 2 == up.toNat) then b
      else
        { b.headed up with
          flight := b.flight ++
            [(g, { cls := 3, part := none, up := up, seq := b.sent.get 0 i, returns := b.returnsFor up, acks := b.acks up })] }

/-- The link clock at which an owner last had a flit for a group. -/
def Bundle.noteWanted (b : Bundle) (clock : Nat) : Bundle :=
  { b with wanted := (List.range 16).foldl (fun m g =>
      if b.waiting.any (fun f => f.part.isSome && f.part == b.owner.get none g && f.up == bit b.up g) then m.set g clock else m) b.wanted }

/-- The first link clock of the present fabric cycle. -/
def State.firstClock (s : State) : Nat := if s.now = 0 then 0 else (s.now - 1) * 25 / 14 + 1

/-- The link clock for which a bundle sends next: one of the present fabric cycle in which it has not sent (R390). -/
def State.sendClock (s : State) (b : Bundle) : Nat := max b.nextClock s.firstClock

/-- Every group sends in one link clock, which no bundle does twice. -/
def Bundle.send (b : Bundle) (bars : Nat → Bool × Bool) (clock : Nat) : Bundle :=
  let b := (List.range 16).foldl (fun b g => b.sendGroup bars clock g) (b.noteWanted clock)
  { b with nextClock := clock + 1 }

def execFlitSend (bundle : Nat) (s : State) : Out :=
  let bars := fun p => (bit (s.prec p 0x48) 2, bit (s.prec p 0x48) 3)
  let b := s.bundle bundle
  if s.linkClock < s.sendClock b then .next s else .next (s.setBundle bundle (b.send bars (s.sendClock b)))

/-- Two flits belong to one order of messages: one direction, one partition, one class (R391). -/
def Flit.sameOrder (f h : Flit) : Bool := f.up == h.up && f.part == h.part && f.cls == h.cls

/-- Flits that have not left the bundle: waiting, sent and not received, or in receive entries. -/
def Bundle.within (b : Bundle) : List Flit :=
  b.waiting ++ (b.retry.map (fun e => e.2.filter (fun f => decide (b.expected.get 0 e.1 ≤ f.seq)))).flatten
    ++ (b.entries.map (·.2)).flatten

/-- A received flit may go on: none that entered before it in its order is still within the bundle (R391). -/
def Bundle.inOrder (b : Bundle) (f : Flit) : Bool := b.within.all (fun h => !f.sameOrder h || decide (f.order ≤ h.order))

/-- Received flits go on in the order in which they entered, and free their entries (R391, R398). The fuel is their number. -/
def Bundle.passOn : Nat → Bundle → Bundle
  | 0, b => b
  | fuel + 1, b =>
    match b.entries.find? (fun e => e.2.any b.inOrder) with
    | none => b
    | some (i, l) =>
      match l.find? b.inOrder with
      | none => b
      | some f =>
        Bundle.passOn fuel
          { b with entries := b.entries.set i (l.erase f), freed := b.freed.set i (b.freed.get 0 i + 1), due := b.due ++ [i] }

/-- Acknowledged flits leave their retry buffers. -/
def Bundle.acknowledge (b : Bundle) (acks : SMap Nat) : Bundle :=
  { b with retry := acks.foldl (fun m e => m.set e.1 ((m.get [] e.1).filter (fun f => decide (e.2 ≤ f.seq)))) b.retry }

/-- Turns that waited for the last flit of their group begin their dead time (R394). -/
def Bundle.beginDead (b : Bundle) (clock : Nat) : Bundle :=
  { b with turning := b.turning.map (fun t => if t.2.2.isNone && !b.busy t.1 then (t.1, t.2.1, some (clock + 48)) else t) }

/-- A flit accepted: it takes a receive entry, which it frees once it may go on; the units and the acknowledgements that it
carries reach their windows and retry buffers. -/
def Bundle.accept (b : Bundle) (clock g : Nat) (f : Flit) : Bundle :=
  let i := 2 * g + f.up.toNat
  let b := { b with flight := b.flight.erase (g, f) }
  let b := if f.cls = 3 then b
    else { b with expected := b.expected.set i (f.seq + 1), entries := b.entries.set i (b.entries.get [] i ++ [f])
                  ackDue := if b.ackDue.contains i then b.ackDue else b.ackDue ++ [i] }
  let b := f.returns.foldl (fun b j => { b with window := b.window.set j (b.window.get 128 j + 1) }) (b.acknowledge f.acks)
  (b.passOn (b.entries.map (fun e => e.2.length)).sum).beginDead clock

/-- A flit refused: the sender replays from it, in order, out of its retry buffer; the first flit of the replay carries the
returns and acknowledgements that are current then (R398). -/
def Bundle.refuse (b : Bundle) (g : Nat) (f : Flit) : Bundle :=
  let again := (if f.cls = 3 then [f] else []) ++ (b.retry.get [] (2 * g + f.up.toNat)).filter (fun h => decide (f.seq ≤ h.seq))
  let first := fun (h : Flit) => ({ h with returns := b.returnsFor f.up, acks := b.acks f.up } : Flit)
  { b.headed f.up with
    flight := b.flight.filter (fun x => !(x.1 == g && x.2.up == f.up))
      ++ ((again.take 1).map first ++ (again.drop 1).map (fun h => ({ h with returns := [] } : Flit))).map (fun h => (g, h))
    replay := b.replay.set g (b.replay.get 0 g + 1) }

/-- The receiver takes a flit: it is the next in sequence, and an entry is free (R398). -/
def Bundle.takesFlit (b : Bundle) (g : Nat) (f : Flit) : Bool :=
  let i := 2 * g + f.up.toNat
  f.cls == 3 || (f.seq == b.expected.get 0 i && decide ((b.entries.get [] i).length < 128))

/-- The oldest flit in flight on a group in a direction (true: up) arrives; whether its CRC is good is free. -/
def execFlitArrival (bundle group : Nat) (dir : Bool) (s : State) : Out :=
  let b := s.bundle bundle
  match b.flight.find? (fun x => x.1 == group && x.2.up == dir) with
  | none => .next s
  | some (_, f) =>
    let good := Config.flitIntact bundle group s.drawn && b.takesFlit group f
    let s := { s with drawn := s.drawn + 1 }
    .next (s.setBundle bundle (if good then b.accept s.linkClock group f else b.refuse group f))

/-- The audit of one group and direction: the window becomes 128 less the units out, a change being a repair. -/
def Bundle.auditOne (b : Bundle) (i : Nat) : Bundle :=
  let w := 128 - (b.sent.get 0 i - b.freed.get 0 i)
  if w = b.window.get 128 i then b
  else { b with window := b.window.set i w, repair := b.repair.set (i / 2) (b.repair.get 0 (i / 2) + 1) }

/-- An audit is due: a multiple of 4,096 link clocks has passed in the present fabric cycle, and it has not been made. -/
def State.auditDue (s : State) (b : Bundle) : Bool :=
  decide (s.firstClock ≤ s.linkClock / 4096 * 4096) && decide (b.audits < s.linkClock / 4096)

/-- Every group and direction audited, as the n-th audit since reset. -/
def Bundle.audit (b : Bundle) (n : Nat) : Bundle :=
  let b := (List.range 32).foldl Bundle.auditOne b
  { b with audits := n }

def execCreditAudit (bundle : Nat) (s : State) : Out :=
  let b := s.bundle bundle
  if s.auditDue b then
    .next (s.setBundle bundle (b.audit (s.linkClock / 4096)))
  else .next s

end Sys2Proof.Machine
end

