-- ==== Sys2Proof/Machine/Messages.lean ====
section
/-! DEFINITION. The protocol engines' events one by one (R362-R379), and the release of a stopped line (R371). The
accesses of instructions run their whole exchange at once (log entry 3); these events move messages in flight, and
start exchanges of caches that replace lines and of requesters that the model does not hold (log entry 18). -/
namespace Sys2Proof.Machine

/-- The requester of an event: for the partition whose memory the line is. -/
def eventCtx (s : State) (line : Nat) : Ctx := { part := ownerOf s line }

/-- A line comes to its slice, then an exchange of messages about it (R361); where the slice has no way for it yet, nothing
happens. -/
def protocolEvent (line : Nat) (f : Plane → Plane) (s : State) : State :=
  match fillLine (eventCtx s line) line line false s with
  | .ok s => exchange line f s
  | .error _ => s

/-- A message of a code from a party to another for a line, in flight. -/
def Msg.matches (m : Msg) (code src dst line : Nat) : Bool := m.code == code && m.src == src && m.dst == dst && m.line == line

/-- A message in flight is delivered; without one, nothing arrives. -/
def receive (code src dst line : Nat) (p : Plane) : Plane := deliverFirst (fun m => m.matches code src dst line) p

/-- A request that comes to a slice takes a token of the partition whose memory it asks for, where its code is metered
(R422). -/
def meter (code line : Nat) (s : State) : Except Stop State :=
  if code = mPUTS || code = mPUTM then .ok s
  else takeToken { part := ownerOf s line } (s.coh.entry line).slice s

/-- A request of an agent reaches the home: the message in flight, or one that `first` sends now. Without a token it stays
in flight (R423). -/
def agentRequest (code agent line : Nat) (first : Plane → Plane) (s : State) : State :=
  let sent := fun (s : State) => s.coh.msgs.any (fun m => m.matches code agent atHome line)
  let s := if sent s then s else exchange line first s
  if !sent s then s
  else
    match meter code line s with
    | .ok s => exchange line (receive code agent atHome line) s
    | .error _ => s

/-- A request of an agent for a line, which comes to its slice first; a line that comes to an L1 takes a way there (R361,
R385). -/
def agentRequestEvent (code agent line : Nat) (first : Plane → Plane) (s : State) : State :=
  let ready := do
    let s ← fillLine (eventCtx s line) line line false s
    if code = mGETS || code = mGETM then takeWay agent line line s else .ok s
  match ready with
  | .ok s => agentRequest code agent line first s
  | .error _ => s

/-- A request that an agent's access sends, as an event; an agent beyond the device's is none (R357). A scratchpad line
takes no part (R156). -/
def requestEvent (code ev agent line : Nat) (s : State) : Out :=
  if 2176 ≤ agent || !isLine s line then .next s
  else .next (agentRequestEvent code agent line (agentEvent 8 line agent ev {}) s)

/-- LINV or LWB of a core reaches the home. -/
def maintenanceEvent (code agent line : Nat) (s : State) : Out :=
  if 2048 ≤ agent || !isLine s line then .next s
  else .next (agentRequestEvent code agent line (fun p => p.send code agent atHome line) s)

/-- What a transaction of a control core was answered is taken; a refused write is counted (R379). -/
def takeAnswer (slice dst : Nat) (s : State) : State :=
  let i := answerKey slice dst
  match s.coh.answers.get none i with
  | none => s
  | some (refused, _) =>
    let s := { s with coh := { s.coh with answers := s.coh.answers.erase i } }
    if refused then countRefused slice s else s

/-- A control core as a requester, for the partition whose memory it asks for, with the number of its transaction (R12, R23). -/
def coreCtx (s : State) (core txn line : Nat) : Ctx :=
  { part := ownerOf s line, io := some (core / 16), engine := some (coreNumber core txn) }

/-- A request of a control core at the home of its line, as uncached transaction t of the slice (R446): its message crosses from
the core's IO die (R389), and its reply stays on the way. -/
def coreAtSlice (c : Ctx) (code txn line : Nat) (data : Payload) (s : State) : Except Stop State := do
  let s ← fillLine c line line false s
  let slice := (s.coh.entry line).slice
  let i := 64 * slice + txn
  if (s.coh.txns.get none i).isSome then .error (.wait (.port 0 0))
  let s ← takeToken c slice s
  let s := takeAnswer slice (0x8000 + txn) s
  let s := { s with coh := { s.coh with txns := s.coh.txns.set i (some { line := line, die := c.die.number }) } }
  .ok (exchange line (fun p => receive code (0x8000 + txn) atHome line (p.send code (0x8000 + txn) atHome line data)) s)

/-- A request of a control core for bytes of a scratchpad, which takes no part in coherence (R156). -/
def coreAtScratch (c : Ctx) (line : Nat) (data : Payload) (s : State) : State :=
  let s := enterBoth none c.die (clusterDie ((line - 0xA0000000000) / 0x400000)) s
  match data.op with
  | some o => s.writeBytes (line + o.off) (toBytes o.size (atomNew o (ofBytes (s.readBytes (line + o.off) o.size))))
  | none => data.bytes.foldl (fun s r => s.writeBytes (line + r.1) r.2) s

/-- A request `i` of a control core for a line (R23). `at_` and `n` are the place and length of the bytes that it changes: behind
the grant of a reservation it waits in its place (R211); without a token it waits in the deferral queue, with a transaction of
its number in use it is refused and sent again (R423, R446). The device keeps it until it is performed. -/
def transactionEvent (i : Instr) (code core txn line at_ n : Nat) (data : Payload) (s : State) : Out :=
  let c := coreCtx s core txn line
  let me := c.me s
  let waits := fun (w : Wait) => Host.Outcome.next (engineWaits (coreNumber core txn) (some w)
    { s with coreRequests := if s.coreRequests.contains i then s.coreRequests else s.coreRequests ++ [i] })
  let done := fun (s : State) => Host.Outcome.next (performedBy me (line + at_) n { s with coreRequests := s.coreRequests.erase i })
  if 32 ≤ core || 64 ≤ txn || !(isLine s line || (isScratch line && decide (line % 128 = 0))) then .next s
  else
    match heldBack s me (line + at_) n with
    | some w => waits (.word w)
    | none =>
      if isScratch line then done (coreAtScratch c line data s)
      else
        match coreAtSlice c code txn line data s with
        | .ok s => done s
        | .error (.wait w) => waits w
        | .error _ => .next s

/-- A message from an agent to the home, or from the home to an agent. -/
def toHome (code agent line : Nat) (s : State) : Out := .next (protocolEvent line (receive code agent atHome line) s)
def toAgent (code agent line : Nat) (s : State) : Out := .next (protocolEvent line (receive code atHome agent line) s)
/-- The reply to a request reaches its requester, a transaction or the core of a LINV or LWB. -/
def toRequester (code requester line : Nat) (s : State) : Out :=
  let s := exchange line (receive code atHome requester line) s
  .next (takeAnswer (s.coh.entry line).slice requester s)

/-! ### Requests (R372, R373, R376-R379) -/

def execGets (agent line : Nat) (s : State) : Out := requestEvent mGETS 0 agent line s
def execGetm (agent line : Nat) (s : State) : Out := requestEvent mGETM 1 agent line s
/-- A stable shared line is replaced (REPL), and the home handles the PUTS. -/
def execPuts (agent line : Nat) (s : State) : Out :=
  if (s.coh.agentLine agent line).copy then requestEvent mPUTS 2 agent line s else toHome mPUTS agent line s
def execPutm (agent line : Nat) (s : State) : Out :=
  if (s.coh.agentLine agent line).copy then requestEvent mPUTM 2 agent line s else toHome mPUTM agent line s
def execUread (txn : CoreTxn) (line : Nat) (s : State) : Out :=
  transactionEvent (.uread txn line) mUREAD txn.core txn.number line 0 0 { reads := some (0, 128) } s
/-- The bytes are written at EXEC (R375): a write of the line for monitors and stashes, with no change of full/empty state
(R279). -/
def execUwrite (txn : CoreTxn) (write : LineWrite) (s : State) : Out :=
  transactionEvent (.uwrite txn write) mUWRITE txn.core txn.number write.line write.off write.bytes.length
    { bytes := [(write.off, write.bytes)] } s
/-- The operation is performed at EXEC on its word. -/
def execAtom (txn : CoreTxn) (operation : LineAtom) (s : State) : Out :=
  transactionEvent (.atom txn operation) mATOM txn.core txn.number operation.line operation.off operation.size
    { op := some operation } s
def execUpdw (agent line : Nat) (s : State) : Out := requestEvent mUPDW 1 agent line s
def execLinvMsg (agent line : Nat) (s : State) : Out := maintenanceEvent mLINV agent line s
def execLwbMsg (agent line : Nat) (s : State) : Out := maintenanceEvent mLWB agent line s

/-! ### Forwards and responses (R373, R374, R377, R379) -/

def execAck (agent line : Nat) (s : State) : Out := toHome mACK agent line s
def execOdata (agent line : Nat) (s : State) : Out := toHome mODATA agent line s
def execInv (agent line : Nat) (s : State) : Out := toAgent mINV agent line s
def execDown (agent line : Nat) (s : State) : Out := toAgent mDOWN agent line s
def execRecall (agent line : Nat) (s : State) : Out := toAgent mRECALL agent line s
def execUpd (agent line : Nat) (s : State) : Out := toAgent mUPD agent line s
def execDataS (agent line : Nat) (s : State) : Out := toAgent mDATAS agent line s
def execDataM (agent line : Nat) (s : State) : Out := toAgent mDATAM agent line s
def execPutack (agent line : Nat) (s : State) : Out := toAgent mPUTACK agent line s
def execUpdack (agent line : Nat) (s : State) : Out := toAgent mUPDACK agent line s
def execNackw (agent line : Nat) (s : State) : Out := toAgent mNACKW agent line s
def execUdata (requester line : Nat) (s : State) : Out := toRequester mUDATA requester line s
def execWack (requester line : Nat) (s : State) : Out := toRequester mWACK requester line s

/-! ### The release of a stopped line (R371) -/

/-- The requests that wait on a line with what they carry: the one being completed, those queued, those on their way. -/
def waitingRequests (c : Coh) (line : Nat) : List (Nat × Nat × Payload) :=
  let d := c.entry line
  let request := fun (e : Nat × Nat × Payload) => decide (e.1 ≤ 0x0A) && e.1 != mPUTS && e.1 != mPUTM
  let recorded := d.req.toList.map (fun e => (e.1, e.2, d.reqData))
  let flying := (c.msgs.filter (fun m => m.line == line && m.dst == atHome)).map (fun m => (m.code, m.src, m.data))
  ((if homeClass c d.prot d.state = 0 then recorded else []) ++ d.stalled ++ flying).filter request

/-- The line as reset: the LLC's content stands, no copy, no message, the entry at state 0; then the waiting requests are
answered. -/
def Plane.reset (line : Nat) (p : Plane) : Plane :=
  let waiting := waitingRequests p.coh line
  let kept := waiting.map (·.2.1)
  let p := p.llcNow line
  let agents := p.coh.agents.filter (fun e => e.1 / 4096 != line || kept.contains (e.1 % 4096))
  let d := p.coh.entry line
  let c := { p.coh with
    msgs := p.coh.msgs.filter (fun m => m.line != line)
    agents := SMap.mapVals agents (fun k x => if k / 4096 == line then { x with copy := false, old := none, stopped := none, later := [] } else x)
    dir := p.coh.dir.set line { prot := d.prot, page := d.page, part := d.part, slice := d.slice, low := d.low, used := d.used, trans := d.trans, tensor := d.tensor } }
  waiting.foldl (fun p e => homeEvent 64 line e.1 e.2.1 e.2.2 p) { p with coh := c }

end Sys2Proof.Machine
end

