-- ==== Sys2Proof/Machine/Network.lean ====
section
/-! DEFINITION. The Steppe network engine: major 0x32, packets, acknowledgements, timers and ports (R400-R412). -/
namespace Sys2Proof.Machine

/-! ### The engine's state (R401) -/

def State.steppe (s : State) (p : Nat) : Steppe := (s.part p).steppe
def State.setSteppe (s : State) (p : Nat) (x : Steppe) : State := s.setPart p { s.part p with steppe := x }
def State.mapSteppe (s : State) (p : Nat) (f : Steppe → Steppe) : State := s.setSteppe p (f (s.steppe p))

/-- A word of the state that firmware places at the record's Steppe state base, 0 where stage 2 refuses it. The layout is the
model's (log entry 37). -/
def State.steppeWord (s : State) (p off : Nat) : Word :=
  match ipaRead s p ((s.prec p 0x50).toNat + off) with
  | .ok x => x
  | .error _ => 0

/-- A valid entry of the peer table, which the supervisor writes (R401). A world sends only under transport security: its
entries need a valid security association (R400). -/
def peerOf (s : State) (p n : Nat) : Option Peer :=
  let x := s.steppeWord p (16 * n + 8)
  if bit x 63 && (bit x 62 || !bit (s.prec p 0) 5) then
    some { address := (s.steppeWord p (16 * n)).toNat, part := field x 36 32, association := field x 31 0 }
  else none

/-- The domain to which the supervisor has assigned a counter (R401). -/
def counterDom (s : State) (p n : Nat) : Option (BitVec 12) :=
  let x := s.steppeWord p (0x10000 + 8 * n)
  if bit x 63 then some (x.setWidth 12) else none

/-- What firmware sets (R401, R406): entries of the send queue, the retransmit time in fabric cycles, the retry limit. -/
def sendEntries (s : State) (p : Nat) : Nat := max 64 (min 4096 (field (s.steppeWord p 0x10200) 12 0))
def retransmitTime (s : State) (p : Nat) : Nat :=
  if field (s.steppeWord p 0x10200) 63 32 = 0 then 89600 else field (s.steppeWord p 0x10200) 63 32
def resendLimit (s : State) (p : Nat) : Nat :=
  if bit (s.steppeWord p 0x10200) 24 then field (s.steppeWord p 0x10200) 23 16 else 7

/-- The IO die of a port (R12). -/
def portDie (port : Nat) : Nat := port / 4

/-- The fields of a quad (R402). -/
def NetReq.length (r : NetReq) : Nat := r.quad[2].toNat
def NetReq.peer (r : NetReq) : Nat := field r.quad[3] 27 16
def NetReq.read (r : NetReq) : Bool := field r.quad[3] 29 28 == 1
def NetReq.rod (r : NetReq) : Bool := bit r.quad[3] 30
def NetReq.mask (r : NetReq) : Nat := field r.quad[3] 47 40
def NetReq.counter (r : NetReq) : Option Nat := if bit r.quad[3] 38 then some (field r.quad[3] 37 32) else none
/-- Data packets of a message of n bytes (R404). -/
def packetsOf (n : Nat) : Nat := max 1 ((n + 2047) / 2048)
/-- Packets that the request sends: one for a READ. -/
def NetReq.total (r : NetReq) : Nat := if r.read then 1 else packetsOf r.length
/-- Bytes of packet j of a message. -/
def packetBytes (len j : Nat) : Nat := min 2048 (len - 2048 * j)

/-- The ports of a mask that are up, ascending. -/
def upPorts (s : State) (mask : Nat) : List Nat := (List.range 8).filter (fun p => mask.testBit p && bit s.ports p)

/-- A request replaced in the queue of its partition. -/
def putReq (p : Nat) (r : NetReq) (s : State) : State :=
  s.mapSteppe p (fun x => { x with queue := x.queue.map (fun q => if q.number == r.number && q.answers == r.answers && q.peer == r.peer then r else q) })

/-- A counter grows, or takes an error (R408). -/
def Counter.add (c : Counter) (n : Nat) : Counter := { c with value := c.value + BitVec.ofNat 48 n }
def Counter.fail (c : Counter) (code : Nat) : Counter :=
  { c with err := if c.err = 255 then c.err else c.err + 1, lasterr := BitVec.ofNat 8 code }

def mapCounter (p n : Nat) (f : Counter → Counter) (s : State) : State :=
  s.mapSteppe p (fun x => { x with counters := x.counters.set n (f (x.counters.get {} n)) })

/-! ### The end of a request (R405, R408) -/

/-- The number under which a request waits on a page request. -/
def netTag (r : NetReq) : Nat := 2 ^ 61 + r.number

/-- The failure that a request has met, once it may end with it: its own error at once, a peer's refusal when every
packet has been acknowledged. -/
def NetReq.failure (r : NetReq) : Option Nat :=
  match r.error with
  | some e => some e
  | none =>
    if r.total ≤ r.next && r.sent.all (·.acked) then (r.sent.find? (fun x => x.code != 0)).map (·.code) else none

/-- A request has succeeded: a WRITE when every packet is acknowledged, a READ when its data is placed. -/
def NetReq.succeeded (r : NetReq) : Bool :=
  if r.read then decide (packetsOf r.length ≤ r.placed.length)
  else decide (r.total ≤ r.next) && r.sent.all (·.acked)

/-- A request leaves the queue; an error goes to its counter, or to the supervisor (R408, R428); success is counted. An
answer to a peer's READ has neither. -/
def endRequest (p : Nat) (r : NetReq) (s : State) : State :=
  let s := match r.request with | some (n, _) => leaveEngine p n (netTag r) s | none => s
  let s := s.mapSteppe p (fun x =>
    { x with queue := x.queue.erase r, sentBefore := x.sentBefore + (r.sent.map (·.sends)).sum })
  if r.answers.isSome then s
  else
    match r.failure, r.counter with
    | some e, some n => mapCounter p n (·.fail e) s
    | some e, none => notice p 4 (BitVec.ofNat 64 (r.ctx.dom.toNat + e * 65536)) (BitVec.ofNat 64 r.number) s
    | none, some n => mapCounter p n (·.add (if bit r.quad[3] 31 then r.length else 1)) s
    | none, none => s

/-- Requests of a partition that have come to their end leave the queue, oldest first. -/
def endRequests (p : Nat) (s : State) : State :=
  ((s.steppe p).queue.filter (fun r => r.failure.isSome || r.succeeded)).foldl (fun s r => endRequest p r s) s

/-! ### NPOST (R402, R403) -/

/-- A quad is malformed (R402, R403). -/
def quadBad (q : Vector Word 4) : Bool :=
  let x := q[3]
  field q[1] 63 40 != 0 || field q[2] 63 32 != 0 || bit x 39 || field x 63 48 != 0 || 2 ≤ field x 29 28
    || field x 47 40 == 0 || (field x 29 28 == 1 && !bit x 38)
    || (apertureBase ≤ q[0].toNat && q[0].toNat < apertureTop) || (localBase ≤ q[0].toNat && q[0].toNat < 2 ^ 52)

/-- The queue has room for a request of slot k (R401, R403): its entries hold accepted work requests, at most 16 of one slot. -/
def sendRoom (s : State) (p k : Nat) : Bool :=
  let own := (s.steppe p).queue.filter (·.answers.isNone)
  decide (own.length < sendEntries s p) && decide ((own.filter (fun r => r.slot == k)).length < 16)

/-- Packets that the partition has sent so far, each as often as it was sent (R413). -/
def Steppe.packetsSent (x : Steppe) : Nat := x.sentBefore + (x.queue.map (fun r => (r.sent.map (·.sends)).sum)).sum

/-- The body of NPOST; `leave` says that a long request has its leave. -/
def postRequest (d a : Reg) (wait leave : Bool) (s : State) : Except Stop State :=
  let q : Vector Word 4 := #v[s.rg a, s.rg (a + 1), s.rg (a + 2), s.rg (a + 3)]
  let p := s.partOf (clusterOf s.cur)
  let x := s.steppe p
  let r : NetReq := { number := x.accepted % 2 ^ 48, slot := s.cur, unit := s.thr.unit, task := s.thr.task, quad := q
                      ctx := { s.ctx with agent := none, slot := none, engine := some (steppeNumber p), win := none, localOpen := false } }
  let io := portDie ((upPorts s r.mask).headD 0)
  if quadBad q then .ok (retire (s.wg d (status (-2))))
  else if (peerOf s p r.peer).isNone || (upPorts s r.mask).isEmpty then .ok (retire (s.wg d (status (-3))))
  else if r.counter.any (fun n => counterDom s p n != some s.thr.dom) then .ok (retire (s.wg d (status (-4))))
  else if !sendRoom s p s.cur then
    if wait then .error (.wait .sendRoom) else .ok (retire (s.wg d (status (-1))))
  else if 65536 ≤ r.length && !leave then .error (.wait (.leave d a wait))
  else do
    afterPosted s
    let r := { r with leave := decide (65536 ≤ r.length), dest := (peerOf s p r.peer).getD {}, ctx := { r.ctx with io := some io } }
    let s := enterBoth s.ctx.tag (clusterDie (clusterOf s.cur)) (.io io) s
    .ok (retire ((s.setSteppe p { x with queue := x.queue ++ [r], accepted := x.accepted + 1 }).wg d (BitVec.ofNat 64 r.number)))

def execNpost (d a : Reg) : State → Out :=
  issue { word := wordNpost d a, ill := a == 0 || decide (12 < a.toNat), gr := regs a 4, gw := [d], accept := { wait := true } }
    (fun s => postRequest d a s.waitHint false s)

/-- The island's controller grants leave to the NPOST of a slot, which goes on (R403, R442). -/
def grantPost (k : Nat) (s : State) : State :=
  match (s.thread k).wait with
  | some (.leave d a wait) =>
    (match postRequest d a wait true { s with cur := k } with
      | .ok s' => { s' with cur := s.cur }
      | .error e => { stopAt e { s with cur := k } with cur := s.cur })
  | _ => s

/-! ### Counters (R408-R410) -/

def State.counter (s : State) (n : Nat) : Counter := (s.steppe (s.partOf (clusterOf s.cur))).counters.get {} n

/-- The counter is not one of the current domain's. -/
def foreignCounter (s : State) (n : Nat) : Bool := counterDom s (s.partOf (clusterOf s.cur)) n != some s.thr.dom

/-- VALUE has reached t (R409). -/
def Counter.reached (c : Counter) (t : Nat) : Bool := decide ((c.value - BitVec.ofNat 48 t).toNat < 2 ^ 47)

/-- NETFAULT of a counter with an error (R410). -/
def netFault (n : Nat) (c : Counter) : Trap := { cause := 0x1A, eaddr := BitVec.ofNat 64 (n + c.lasterr.toNat * 256) }

def execNcwait (d a b c : Reg) : State → Out :=
  issue { word := wordNcwait d a b c, gr := [a, b, c], gw := [d] }
    (fun s =>
      let n := field (s.rg a) 5 0
      let t := field (s.rg b) 47 0
      let x := s.counter n
      if field (s.rg a) 63 6 ≠ 0 || foreignCounter s n then .ok (retire (s.wg d (status (-1))))
      else if x.err ≠ 0 then .error (.trap (netFault n x))
      else if x.reached t then .ok (retire (s.wg d (x.value.setWidth 64)))
      else .error (.wait (.counter d n t (if s.rg c = 0 then none else some (s.rg c).toNat))))

/-- The timeout of a waiting NCWAIT passes: it answers VALUE, or takes NETFAULT with an error (R409). -/
def execNcwaitTimeout (slot : Nat) (s : State) : Out :=
  match (s.thread slot).wait with
  | some (.counter d n _ (some 0)) =>
    let x := (s.steppe (s.partOf (clusterOf slot))).counters.get {} n
    if x.err ≠ 0 then .next (trapNow slot (netFault n x) s)
    else .next (s.mapThread slot (fun t => ({ t with wait := none }.wg d (x.value.setWidth 64)).retire))
  | _ => .next s

def execNcrd (d a : Reg) : State → Out :=
  issue { word := wordNcrd d a, gr := [a], gw := [d] }
    (fun s =>
      let n := field (s.rg a) 5 0
      let x := s.counter n
      if field (s.rg a) 7 6 ≠ 0 || field (s.rg a) 63 10 ≠ 0 || foreignCounter s n then .ok (retire (s.wg d (status (-1))))
      else
        let y := if bit (s.rg a) 9 then { x with value := 0 } else x
        let y := if bit (s.rg a) 8 then { y with err := 0, lasterr := 0 } else y
        let w := BitVec.ofNat 64 (x.err.toNat * 2 ^ 56 + x.lasterr.toNat * 2 ^ 48 + x.value.toNat)
        .ok (retire ((mapCounter (s.partOf (clusterOf s.cur)) n (fun _ => y) s).wg d w)))

/-! ### NREG (R407) -/

/-- The pages of a range of the current domain as a registration translates and charges them, one after another, not through a
window, not local: with R for RR, with W for RW, as a load where it has neither (R55, R162, R407). -/
def regionPieces (c : Ctx) (rr rw : Bool) : Nat → Nat → Nat → State → Except Stop (State × List Piece)
  | 0, _, _, s => .ok (s, [])
  | fuel + 1, va, hi, s =>
    if hi ≤ va then .ok (s, [])
    else if apertureBase ≤ va then .error (.fault causeXlate va)
    else do
      let next := min hi (va + (65536 - va % 65536))
      let p ← domainPiece s c c.dom va (next - va) va (if rr || !rw then .load else .store)
      let p ← if rr && rw then domainPiece s c c.dom va (next - va) va .store else .ok p
      ordCheck s [p]
      let s ← charge c (if rw then .store else .load) [p] s
      let (s, r) ← regionPieces c rr rw fuel next hi s
      .ok (s, p :: r)

/-- A key of a registered region (R407). -/
def keyOf (i : Nat) (r : Region) : Word := BitVec.ofNat 64 (i + r.gen.toNat * 4096)

/-- Some placement with the key of a region is in flight: a held packet, or the data that answers a peer's READ (R407). -/
def Steppe.inFlight (x : Steppe) (key : BitVec 16) : Bool :=
  x.waiting.any (fun k => k.kind != .data && k.key == key)
    || x.queue.any (fun r => r.answers.isSome && r.quad[3].setWidth 16 == key)

/-- A deregistered region's key becomes stale once the placements in flight with it have been performed (R407). -/
def closeRegions (x : Steppe) : Steppe :=
  if x.regions.any (fun e => e.2.closing) then
    { x with regions := x.regions.mapVals (fun i r =>
      if r.closing && !x.inFlight ((keyOf i r).setWidth 16) then { r with live := false, closing := false } else r) }
  else x

/-- The live region that a key names. -/
def regionOf (s : State) (p : Nat) (key : BitVec 16) : Option (Nat × Region) :=
  let i := field key 11 0
  let r := (s.steppe p).regions.get {} i
  if r.live && r.gen.toNat == field key 15 12 then some (i, r) else none

def execNreg (d a b c : Reg) : State → Out :=
  issue { word := wordNreg d a b c, gr := [a, b, c], gw := [d] }
    (fun s => do
      let base := s.rg a
      let len := s.rg b
      let x := s.rg c
      let ctx := s.ctx
      let p := ctx.part
      let st := s.steppe p
      let ctr := if bit x 15 then some (field x 13 8) else none
      if bit x 63 then
        if field x 62 0 ≠ 0 || len ≠ 0 then .ok (retire (s.wg d (status (-2))))
        else
          match if field base 63 16 = 0 then regionOf s p (base.setWidth 16) else none with
          | some (i, r) =>
            if r.dom == ctx.dom then
              .ok (retire ((s.setSteppe p (closeRegions { st with regions := st.regions.set i { r with closing := true } })).wg d 0))
            else .ok (retire (s.wg d (status (-3))))
          | none => .ok (retire (s.wg d (status (-3))))
      else if field x 7 2 ≠ 0 || field x 62 16 ≠ 0 || base.toNat % 64 ≠ 0 || len.toNat % 64 ≠ 0 || len.toNat < 64
          || 2 ^ 40 < len.toNat || (match ctr with | some n => foreignCounter s n | none => false) then
        .ok (retire (s.wg d (status (-2))))
      else
        match (List.range 4096).find? (fun i => !(st.regions.get {} i).live) with
        | none => .ok (retire (s.wg d (status (-1))))
        | some i =>
          let rr := bit x 0
          let rw := bit x 1
          let (s, qs) ← regionPieces ctx rr rw (len.toNat / 65536 + 2) base.toNat (base.toNat + len.toNat) s
          let r : Region :=
            { live := true, gen := (st.regions.get {} i).gen + 1, dom := ctx.dom, base := base.toNat, len := len.toNat
              rr := rr, rw := rw, counter := ctr, cbytes := bit x 14, pages := qs.map (fun q => q.pa / 65536 * 65536)
              tables := (qs.map (·.tables)).flatten.eraseDups }
          .ok (retire ((s.mapSteppe p (fun st => { st with regions := st.regions.set i r })).wg d (keyOf i r))))

/-! ### Sending (R404) -/

/-- The parts of n bytes at an offset of a region, in pages that its translation holds. -/
def Region.parts (r : Region) (off n : Nat) : List Piece :=
  (stepsFrom ((r.base + off) / 65536 * 65536) (r.base + off + n) 65536).map (fun q =>
    let lo := max q (r.base + off)
    { va := lo, len := min (q + 65536) (r.base + off + n) - lo
      pa := r.pages.getD (q / 65536 - r.base / 65536) 0 + lo % 65536
      cls := 1, cp := 0, travel := false, leaf := none, big := false, dom := r.dom, tables := [] })

/-- The port of a first send: ROD the lowest, RUD by the sequence number. -/
def firstPort (ports : List Nat) (rod : Bool) (seq : Nat) : Nat :=
  if rod then ports.headD 0 else ports.getD (seq % ports.length) 0

/-- The port by which the next packet of a request leaves. -/
def NetReq.port (r : NetReq) (p : Nat) (s : State) : Nat :=
  firstPort (upPorts s r.mask) r.rod ((s.steppe p).flows.get 0 r.peer)

/-- The bytes of packet j that a request sends: those of the local range, or of the region that a peer READs; none for
the request packet of a READ, whose local range is translated and charged first. The key of a region that has become stale
since ends the answer to a READ (log entry 37). -/
def payloadOf (p : Nat) (r : NetReq) (j : Nat) (s : State) : Except EStop (State × List Byte) :=
  let c := { r.ctx with io := some (portDie (r.port p s)) }
  match r.answers with
  | some _ =>
    match regionOf s p (r.quad[3].setWidth 16) with
    | some (_, x) =>
      asEngine r.quad[1].toNat
        (loadPieces c (engineParts (x.parts (r.quad[1].toNat + 2048 * j) (packetBytes r.length j))) s)
    | none => .error (.fail (-4) 0 false)
  | none =>
    if r.read then
      asEngine r.quad[0].toNat (do
        let ps ← rangeOf s c r.quad[0].toNat r.length .store
        ordCheck s ps
        let s ← charge c .store ps s
        .ok (s, []))
    else if packetBytes r.length j = 0 then .ok (s, [])
    else do
      let (s, x, _) ← engineRead c (r.quad[0].toNat + 2048 * j) (packetBytes r.length j) s
      .ok (s, x)

/-- A request may send now: nothing holds it, packets are left, and an earlier ROD request to its peer has ended (R405). -/
def maySend (s : State) (p : Nat) (r : NetReq) : Bool :=
  let q := (s.steppe p).queue
  decide (r.next < r.total) && r.error.isNone && !(upPorts s r.mask).isEmpty
    && (!r.rod || ((q.takeWhile (fun x => x != r)).all (fun x => !(x.rod && x.peer == r.peer))))

/-- A stop of the engine's access: an error of the request (1 XLATE, 2 PROT, 3 QUOTA), or a page request (R404, R408). -/
def netStop (p : Nat) (r : NetReq) (e : EStop) (s : State) : State :=
  match e with
  | .fail st _ _ => putReq p { r with error := some st.natAbs } s
  | .demand va dom kind eaddr =>
    let (n, s) := joinEngine p (netTag r) va dom kind s
    putReq p { r with request := some (n, eaddr) } s
  | .hold port w =>
    let s := engineWaits (steppeNumber p) w s
    if port then noticePort p 1 s else s

/-- A request whose page request has been answered goes on, or ends with XLATE (R404). -/
def netReply (p : Nat) (r : NetReq) (s : State) : State :=
  match r.request with
  | none => s
  | some (n, _) =>
    match replyOf s p n with
    | none => s
    | some x => leaveEngine p n (netTag r) (putReq p { r with request := none, error := if x = 0 then r.error else some 1 } s)

/-- One packet of a request leaves, its bytes read. With its last local byte read, a WRITE gives up its leave (R442). -/
def sendPacket (p : Nat) (r : NetReq) (bytes : List Byte) (s : State) : State :=
  let seq := (s.steppe p).flows.get 0 r.peer
  let x : Sent := { j := r.next, seq := seq, port := r.port p s, bytes := bytes, expires := s.now + retransmitTime s p }
  let s := s.mapSteppe p (fun st => { st with flows := st.flows.set r.peer (seq + 1) })
  putReq p { r with next := r.next + 1, sent := r.sent ++ [x], staged := none
                    leave := r.leave && (r.read || decide (r.next + 1 < r.total)) } s

/-- An integrity check of the partition's reads is under way (R432). -/
def checking (s : State) (p : Nat) : Bool := s.checks.any (fun c => c.2 == p)

/-- The first of these requests that can send a packet sends it; one that is stopped holds back no other. A packet whose own
bytes are still being checked is kept to leave later (R411). -/
def sendFirst (p : Nat) : List NetReq → State → State
  | [], s => s
  | r :: l, s =>
    match r.staged with
    | some bytes => sendPacket p r bytes s
    | none =>
      match payloadOf p r r.next s with
      | .ok (s, bytes) => if checking s p then putReq p { r with staged := some bytes } s else sendPacket p r bytes s
      | .error e => sendFirst p l (netStop p r e s)

/-! ### Acknowledgements and timers (R406, R412) -/

/-- An acknowledgement shows a sequence number received. -/
def ackShows (a : Ack) (seq : Nat) : Bool := decide (seq < a.low) || (decide (a.low < seq) && decide (seq ≤ a.low + 64) && bit a.map (seq - a.low - 1))
/-- The higher sequence numbers that it shows received. -/
def ackHigher (a : Ack) (seq : Nat) : Nat :=
  if seq < a.low then 0 else ((List.range 64).filter (fun i => bit a.map i && decide (seq < a.low + 1 + i))).length

/-- The port of a resend: RUD the next up port after the last one, ROD the lowest (R406). -/
def nextPort (ports : List Nat) (rod : Bool) (last : Nat) : Nat :=
  if rod then ports.headD 0 else (ports.find? (fun x => decide (last < x))).getD (ports.headD 0)

/-- A packet is sent again: same number, next port, a new timer (R406). -/
def Sent.again (x : Sent) (ports : List Nat) (rod : Bool) (expires : Nat) : Sent :=
  { x with sends := x.sends + 1, port := nextPort ports rod x.port, expires := expires }

/-- What an acknowledgement does to one sent packet. -/
def Sent.acknowledge (x : Sent) (a : Ack) (ports : List Nat) (rod : Bool) (limit expires : Nat) : Sent :=
  let code := match a.failed.find? (fun f => f.1 == x.seq) with | some f => f.2 | none => x.code
  if x.acked then x
  else if ackShows a x.seq then { x with acked := true, code := code }
  else if !x.fast && decide (3 ≤ ackHigher a x.seq) && decide (x.sends ≤ limit) && !ports.isEmpty then
    { x.again ports rod expires with fast := true }
  else x

def execAckArrival (p : Nat) (a : Ack) (s : State) : Out :=
  let st := s.steppe p
  .next (endRequests p (s.setSteppe p { st with queue := st.queue.map (fun r =>
    if r.peer == a.peer then
      { r with sent := r.sent.map (fun x =>
          x.acknowledge a (upPorts s r.mask) r.rod (resendLimit s p) (s.now + retransmitTime s p)) }
    else r) }))

/-- The timer of a packet has run out: it is sent again, or after the last permitted resend its request ends with error 7
(R406). -/
def NetReq.timerExpired (r : NetReq) (seq now : Nat) (ports : List Nat) (limit expires : Nat) : NetReq :=
  match r.sent.find? (fun x => x.seq == seq && !x.acked && decide (x.expires ≤ now)) with
  | none => r
  | some x =>
    if limit < x.sends then { r with error := some 7 }
    else if ports.isEmpty then r
    else { r with sent := r.sent.map (fun y => if y.seq == seq then y.again ports r.rod expires else y) }

def execRetransmitTimerExpiry (p peer seq : Nat) (s : State) : Out :=
  let st := s.steppe p
  .next (endRequests p (s.setSteppe p { st with queue := st.queue.map (fun r =>
    if r.peer == peer then r.timerExpired seq s.now (upPorts s r.mask) (resendLimit s p) (s.now + retransmitTime s p)
    else r) }))

/-! ### Arrival (R405, R407, R408) -/

/-- The flow has received a sequence number. -/
def Flow.has (f : Flow) (seq : Nat) : Bool := decide (seq < f.low) || f.above.contains seq

/-- The lowest missing number moves up over the numbers received. The fuel is their count. -/
def Flow.settle : Nat → Flow → Flow
  | 0, f => f
  | n + 1, f => if f.above.contains f.low then settle n { f with low := f.low + 1, above := f.above.filter (· != f.low) } else f

/-- A sequence number received, with the failure code of its packet (0 for none). -/
def Flow.receive (f : Flow) (seq code : Nat) : Flow :=
  let f := if f.has seq then f else { f with above := f.above ++ [seq] }
  let f := if code = 0 then f else { f with failed := f.failed ++ [(seq, code)] }
  f.settle (f.above.length + 1)

/-- The packet counts as received, and its acknowledgement is owed. -/
def received (p : Nat) (pkt : Packet) (code : Nat) (s : State) : State :=
  s.mapSteppe p (fun st =>
    { st with
      received := st.received.set pkt.peer ((st.received.get {} pkt.peer).receive pkt.seq code)
      owed := if st.owed.contains pkt.peer then st.owed else st.owed ++ [pkt.peer] })

/-- The acknowledgement of a peer's flow (R405, R412): the lowest number not received, the map of the 64 that follow it, the
packets that failed a check. -/
def Flow.ack (f : Flow) (peer : Nat) : Ack :=
  { peer := peer, low := f.low, failed := f.failed
    map := BitVec.ofNat 64 (((List.range 64).filter (fun i => f.above.contains (f.low + 1 + i))).map (2 ^ ·)).sum }

/-- The acknowledgements that are owed leave; those of one peer are combined (R412). -/
def sendAcks (p : Nat) (s : State) : State :=
  s.mapSteppe p (fun st =>
    { st with acks := st.acks ++ st.owed.map (fun n => (st.received.get {} n).ack n), owed := [] })

/-- The region of a packet, or the failure code of its check: 4 the key, 5 the rights, 6 the range. -/
def checkRegion (s : State) (p : Nat) (pkt : Packet) : Except Nat (Nat × Region) :=
  match if field (s.prec p 0) 7 6 = 1 then regionOf s p pkt.key else none with
  | none => .error 4
  | some (i, r) =>
    if (pkt.kind == .write && !r.rw) || (pkt.kind == .read && !r.rr) then .error 5
    else if r.len < pkt.offset + pkt.len then .error 6
    else .ok (i, r)

/-- The bytes of a WRITE's packet placed in a region, in its pages (R405). -/
def placeInRegion (p : Nat) (r : Region) (io off : Nat) (l : List Byte) (s : State) : Except EStop State :=
  enginePuts { part := p, dom := r.dom, io := some io, engine := some (steppeNumber p) } 1 (r.parts off l.length) l s

/-- A packet of a WRITE message has been placed: the region's counter takes the message when it is whole (R408). -/
def countPlaced (p : Nat) (r : Region) (pkt : Packet) (s : State) : State :=
  let st := s.steppe p
  let id := (pkt.peer, pkt.msg)
  let old := match st.incoming.find? (fun e => e.1 == id) with | some e => e.2 | none => []
  let l := if old.contains pkt.j then old else old ++ [pkt.j]
  let rest := st.incoming.filter (fun e => e.1 != id)
  if packetsOf pkt.len ≤ l.length then
    let s := s.setSteppe p { st with incoming := rest }
    match r.counter with
    | some n => mapCounter p n (·.add (if r.cbytes then pkt.len else 1)) s
    | none => s
  else s.setSteppe p { st with incoming := rest ++ [(id, l)] }

/-- A packet whose placement is held: the fill-event port holds it and all later ones of the engine (R197); what else holds it
leaves it unreceived, to arrive again. -/
def holdPacket (p : Nat) (pkt : Packet) (port : Bool) (w : Option Wait) (s : State) : State :=
  let s := engineWaits (steppeNumber p) w s
  if port then noticePort p 1 (s.mapSteppe p (fun st => { st with waiting := st.waiting ++ [pkt] })) else s

/-- A packet of a WRITE (R405). -/
def writeArrival (p : Nat) (pkt : Packet) (s : State) : State :=
  match checkRegion s p pkt with
  | .error code => received p pkt code s
  | .ok (_, r) =>
    match placeInRegion p r (portDie pkt.port) (pkt.offset + 2048 * pkt.j) (pkt.payload.take (packetBytes pkt.len pkt.j)) s with
    | .ok s => received p pkt 0 (countPlaced p r pkt s)
    | .error (.hold port w) => holdPacket p pkt port w s
    | .error _ => received p pkt 8 s

/-- A peer's request to READ (R404): the data goes back as a message of its own, to the message number of the request, over the
ports of the request's mask. -/
def readArrival (p : Nat) (pkt : Packet) (s : State) : State :=
  match checkRegion s p pkt with
  | .error code => received p pkt code s
  | .ok (i, r) =>
    let q : Vector Word 4 := #v[0, BitVec.ofNat 64 pkt.offset, BitVec.ofNat 64 pkt.len,
      BitVec.ofNat 64 (pkt.key.toNat + pkt.peer % 4096 * 2 ^ 16 + pkt.rod.toNat * 2 ^ 30 + pkt.mask % 256 * 2 ^ 40)]
    let a : NetReq := { number := pkt.msg, slot := 2 ^ 20, unit := none, quad := q, answers := some (i, pkt.msg)
                        ctx := { part := p, dom := r.dom, io := some (portDie pkt.port), engine := some (steppeNumber p) }
                        dest := (peerOf s p (pkt.peer % 4096)).getD {} }
    received p pkt 0 (s.mapSteppe p (fun st => { st with queue := st.queue ++ [a] }))

/-- Data for a READ (R404, R408): placed at the local address by the translation of its domain. -/
def dataArrival (p : Nat) (pkt : Packet) (s : State) : State :=
  match (s.steppe p).queue.find? (fun r => r.read && r.number == pkt.msg && r.peer == pkt.peer && r.answers.isNone) with
  | none => received p pkt 0 s
  | some r =>
    let l := pkt.payload.take (packetBytes r.length pkt.j)
    let done := fun (s : State) =>
      received p pkt 0 (putReq p { r with placed := if r.placed.contains pkt.j then r.placed else r.placed ++ [pkt.j] } s)
    if l.isEmpty then done s
    else
      match engineStore { r.ctx with io := some (portDie pkt.port) } 1 (r.quad[0].toNat + 2048 * pkt.j) l s with
      | .ok s => done s
      | .error (.fail st va rf) => received p pkt 0 (netStop p r (.fail st va rf) s)
      | .error (.hold port w) => holdPacket p pkt port w s
      | .error e => netStop p r e s

/-- What a packet does that its flow has not received (R404, R405). -/
def takePacket (p : Nat) (pkt : Packet) (s : State) : State :=
  if ((s.steppe p).received.get {} pkt.peer).has pkt.seq then received p pkt 0 s
  else match pkt.kind with
    | .write => writeArrival p pkt s
    | .read => readArrival p pkt s
    | .data => dataArrival p pkt s

/-- Held packets are placed in order, as far as the fill-event port has room for their events (R197). -/
def placeWaiting (p : Nat) : List Packet → State → State
  | [], s => s
  | pkt :: r, s =>
    if (s.steppe p).waiting.isEmpty then placeWaiting p r (takePacket p pkt s)
    else placeWaiting p r (s.mapSteppe p (fun st => { st with waiting := st.waiting ++ [pkt] }))

def retryWaiting (p : Nat) (s : State) : State :=
  (placeWaiting p (s.steppe p).waiting (s.mapSteppe p (fun st => { st with waiting := [] }))).mapSteppe p closeRegions

/-- A packet arrives at the partition that its sender's peer entry names; a duplicate is acknowledged and not placed
again (R405, R406). Behind a held write it waits where it writes (R197). -/
def execPacketArrival (p : Nat) (pkt : Packet) (s : State) : Out :=
  let s := retryWaiting p s
  let st := s.steppe p
  if st.waiting.any (fun x => x.peer == pkt.peer && x.seq == pkt.seq) then .next s
  else if !st.waiting.isEmpty && pkt.kind != .read && !(st.received.get {} pkt.peer).has pkt.seq then
    .next (s.mapSteppe p (fun st => { st with waiting := st.waiting ++ [pkt] }))
  else .next (endRequests p (takePacket p pkt s))

/-! ### The engine's turn -/

/-- The engine places what it holds, and sends the next packet of the oldest request that can send one. No packet leaves while
an integrity check of the world's reads is under way (R411, R432). -/
def execPacketSend (p : Nat) (s : State) : Out :=
  let s := retryWaiting p s
  let s := endRequests p ((s.steppe p).queue.foldl (fun s r => netReply p r s) s)
  if checking s p then .next s
  else
    let s := sendAcks p s
    .next (endRequests p (sendFirst p ((s.steppe p).queue.filter (fun r => r.request.isNone && maySend s p r)) s))

/-- The engine has something to do for a request, or places or acknowledges packets. -/
def steppeDue (s : State) (p : Nat) : Bool :=
  let x := s.steppe p
  !x.waiting.isEmpty || (!x.owed.isEmpty && !checking s p)
    || x.queue.any (fun r => r.failure.isSome || r.succeeded
      || (match r.request with | some (n, _) => (replyOf s p n).isSome | none => !checking s p && maySend s p r))

/-- The retransmit timers that have run out (R406), each by peer and sequence number. -/
def expiredTimers (s : State) (p : Nat) : List (Nat × Nat) :=
  ((s.steppe p).queue.map (fun r =>
    (r.sent.filter (fun x => !x.acked && decide (x.expires ≤ s.now)
        && (decide (resendLimit s p < x.sends) || !(upPorts s r.mask).isEmpty))).map
      (fun x => (r.peer, x.seq)))).flatten

/-- A port goes up or down (R403). -/
def execPortStateChange (port : Nat) (up : Bool) (s : State) : Out :=
  if 8 ≤ port then .next s else .next { s with ports := setField s.ports port port up.toNat }

end Sys2Proof.Machine
end

