-- ==== Sys2Proof/Machine/Launch.lean ====
section
/-! DEFINITION. Launches: records, wait counts, dispatch, completion (R310-R319, R327, R330, R344). -/
namespace Sys2Proof.Machine

/-! ### Records (R310, R311) -/

/-- The fields of a well-formed record of sixteen words; none where it is not well formed. -/
def parseRecord (w : Nat → Word) : Option Launch :=
  let ctl := w 2
  let nl := field ctl 21 20 + 1
  let lv := fun (k : Nat) => field (w 4) (8 * k + 7) (8 * k)
  let ext := fun (k : Nat) => if k < 2 then field (w 5) (32 * k + 31) (32 * k) else field (w 6) (32 * k - 33) (32 * k - 64)
  let levels := List.range nl
  let per : Nat → Nat := fun d => match levels.find? (fun k => lv k % 4 == d) with | some k => ext k | none => 1
  let has : Nat → Bool := fun d => levels.any (fun k => lv k % 4 == d)
  let s : Nat := per 0
  let k : Nat := per 1
  let e : Nat := per 3
  let units : Nat := if has 2 then per 2 * e else if has 1 then k * e else e
  let spad := field (w 8) 22 0
  let ok : Bool :=
    lv 0 % 4 == 0 && (List.range (nl - 1)).all (fun i => decide (lv i % 4 < lv (i + 1) % 4))
      && levels.all (fun i => lv i / 4 % 4 == lv i % 4 && decide (1 ≤ ext i))
      && (List.range 4).all (fun i => lv i / 16 == 0 && (decide (i < nl) || ext i == 0))
  let slots : Nat := if has 2 then s * k else s
  let ok2 : Bool := Nat.ble s 7 && Nat.ble k 16 && field (w 8) 38 32 == slots && Nat.blt units (2 ^ 32)
  let ok3 : Bool :=
    field (w 0) 1 0 == 0 && field (w 3) 3 0 == 0
      && (List.range 4).all (fun i => field (w (12 + i)) 6 0 == 0)
      && field ctl 63 22 == 0 && field (w 4) 63 32 == 0 && field (w 7) 63 32 == 0 && field (w 8) 31 23 == 0
      && field (w 8) 63 39 == 0 && spad % 64 == 0 && decide (spad ≤ 0x400000) && w 10 == 0 && w 11 == 0
  if ok && ok2 && ok3 then
    some { addr := 0, key := 0, dom := ctl.extractLsb' 0 12, entry := w 0, args := w 1, prio := field ctl 13 12
           restart := bit ctl 18, ox := bit ctl 19, groups := e, cores := if has 2 then k else 1, threads := s
           units := units, dieLevel := has 3, spad := spad, cycles := field (w 7) 31 0, done := w 3
           succ := [w 12, w 13, w 14, w 15], queued := false, order := 0 }
  else none

/-! ### The launch table (R312, R315-R317) -/

def State.launches (s : State) (p : Nat) : List Launch := (s.part p).launches
def State.setLaunches (s : State) (p : Nat) (l : List Launch) : State := s.setPart p { s.part p with launches := l }
/-- A launch of the table changed. -/
def mapLaunch (p key : Nat) (f : Launch → Launch) (s : State) : State :=
  s.setLaunches p ((s.launches p).map (fun l => if l.key == key then f l else l))

/-- Entries of the partition's launch table (R414). -/
def tableSize (s : State) (p : Nat) : Nat := field (s.prec p 0x38) 42 32
/-- The hold limit (R312). -/
def holdLimit (s : State) (p : Nat) : Nat := if field (s.prec p 0x38) 31 0 = 0 then 65536 else field (s.prec p 0x38) 31 0

/-- A pending record enters the launch queue (R315). -/
def enqueueLaunch (p key : Nat) (s : State) : State :=
  mapLaunch p key (fun l => if l.queued then l else { l with queued := true, order := s.serial }) s.next

/-- One decrement of the wait count at pa, the word of the record there: the count after it (R315). -/
def decrement (p pa : Nat) (s : State) : State × Word :=
  let w := s.read64 pa
  if w = 0 then (s, 0)
  else
    let s := s.write64 pa (w - 1)
    (if w - 1 = 0 then enqueueLaunch p (s.key pa - 0x48) s else s, w - 1)

/-- A domain may not be named by a launch or a spawn of this issuer (R316, R321, R447). -/
def domainDenied (s : State) (p level : Nat) (own dom : BitVec 12) : Except Stop Bool := do
  let state ← ipaLoad s p (s.domIpa p dom 0)
  .ok ((level == 0 && dom != own) || field state 1 0 != 1)

/-- LAUNCH of the record at va in a context (R316): the new state and the status. -/
def launchStep (c : Ctx) (va : Nat) (s : State) : Except Stop (State × Word) := do
  aligned (BitVec.ofNat 64 va) 128
  let (s, ps) ← access s c va 128 .load
  let (s, bytes) ← loadPieces c (engineParts ps) s
  let (s, qs) ← access s c (va + 0x48) 8 .store
  let w := fun (i : Nat) => BitVec.ofNat 64 (ofBytes ((bytes.drop (8 * i)).take 8))
  let pa := match qs with | q :: _ => q.pa | [] => 0
  let key := s.key pa - 0x48
  match parseRecord w with
  | none => .ok (s, status (-2))
  | some l =>
    if ← domainDenied s c.part c.level c.dom l.dom then .ok (s, status (-4))
    else if (s.launches c.part).any (fun x => x.key == key) then .ok (s, status (-3))
    else if tableSize s c.part ≤ (s.launches c.part).length then .ok (s, status (-1))
    else
      let s ← qs.foldlM (fun s q => atHomes c q mUREAD s) s
      let s := s.setLaunches c.part (s.launches c.part ++ [{ l with addr := BitVec.ofNat 64 va, key := key }])
      if s.read64 pa = 0 then .ok (enqueueLaunch c.part key s, 0) else .ok (s, 1)

/-- DEPDEC of the record at va in a context (R317). -/
def depdecStep (c : Ctx) (va : Nat) (s : State) : Except Stop (State × Word) := do
  aligned (BitVec.ofNat 64 va) 128
  let (s, qs) ← access s c (va + 0x48) 8 .store
  match qs with
  | q :: _ =>
    match heldBack s (c.me s) q.pa 8 with
    | some w => .error (.wait (.word w))
    | none =>
      let s ← atHomes c q mATOM s
      let (s, x) := decrement c.part q.pa s
      .ok (performedBy (c.me s) q.pa 8 s, x)
  | [] => .ok (s, 0)

def execLaunch (d a : Reg) : State → Out :=
  issue { word := wordLaunch d a, gr := [a], gw := [d] }
    (fun s => do
      afterPosted s
      let (s, x) ← launchStep s.ctx (s.rg a).toNat s
      .ok (retire (s.wg d x)))

def execDepdec (d a : Reg) : State → Out :=
  issue { word := wordDepdec d a, gr := [a], gw := [d] }
    (fun s => do
      afterPosted s
      let (s, x) ← depdecStep s.ctx (s.rg a).toNat s
      .ok (retire (s.wg d x)))

/-! ### Dispatch (R312-R314) -/

/-- Indices of one die group. -/
def Launch.per (l : Launch) : Nat := l.units / l.groups
/-- A die group of a launch has an index to hand out. -/
def Launch.groupLeft (l : Launch) (j : Nat) : Bool :=
  l.returned.any (fun r => r.1 == j) || decide (l.counters.get 0 j < l.per)
/-- Units of the launch are left to dispatch. -/
def Launch.left (l : Launch) : Bool := l.queued && !l.killed && (List.range l.groups).any l.groupLeft

/-- The die group from which compute die x takes an index: one bound to it, else the lowest that is unbound (R313). -/
def Launch.groupFor (l : Launch) (x : Nat) : Option Nat :=
  let ok := fun (want : Option Nat) => (List.range l.groups).find? (fun j =>
    (!l.dieLevel || l.groupDie.get none j == want) && l.groupLeft j)
  match ok (some x) with
  | some j => some j
  | none => ok none

/-- The lowest free contiguous range of n bytes of a cluster's scratchpad (R313): its first byte. -/
def freeRange (s : State) (c n : Nat) : Option Nat :=
  let as_ := (s.cluster c).allocs.filter (fun a => a.2 != 0)
  ((0 :: as_.map (fun a => a.1 + a.2)).filter (fun x =>
    decide (x + n ≤ 0x400000) && as_.all (fun a => !overlap x n a.1 a.2))).foldl
    (fun best x => match best with | none => some x | some b => some (min b x)) none

/-- The cores of a cluster that can hold a core group of n threads, lowest first (R312). -/
def freeCores (s : State) (c n : Nat) : List Nat :=
  ((List.range 16).map (fun i => 16 * c + i)).filter (fun m =>
    (s.core m).unit.isNone && (List.range n).all (fun i => !(s.thread (8 * m + i)).occupied))

/-- No Ox-using unit and no Ox task occupies the cluster. -/
def oxFree (s : State) (c : Nat) : Bool := (s.cluster c).oxUnit.isNone && (s.cluster c).oxTask.isNone

/-- A unit of the launch fits the cluster (R312). -/
def fits (s : State) (c : Nat) (l : Launch) : Bool :=
  decide (l.cores ≤ (freeCores s c l.threads).length) && (freeRange s c l.spad).isSome && (!l.ox || oxFree s c)

/-- A dispatcher of the partition may take the launch: no launch past its hold limit has a claim before it (R312). -/
def mayTake (s : State) (p : Nat) (l : Launch) : Bool :=
  (s.launches p).all (fun h => !(h.held && h.left) || h.key == l.key || (decide (l.prio ≤ h.prio) && decide (l.order < h.order)))

/-- The oldest fitting launch of the highest priority that holds one. -/
def chooseLaunch (s : State) (p c : Nat) : Option Launch :=
  ((s.launches p).filter (fun l => l.left && (l.groupFor (c / 16)).isSome && mayTake s p l && fits s c l)).foldl
    (fun best l => match best with
      | none => some l
      | some b => if l.prio < b.prio || (l.prio == b.prio && decide (l.order < b.order)) then some l else some b) none

/-- The domain-stack area of a device slot, or of task `id` of core n (R414). -/
def slotArea (s : State) (p k : Nat) : Word := s.prec p 0x78 + BitVec.ofNat 64 (1024 * k)
def taskArea (s : State) (p n id : Nat) : Word := s.prec p 0x78 + BitVec.ofNat 64 (0x1000000 + 1024 * (32 * n + id))

/-- A thread of a work unit as it starts (R313). -/
def unitThread (s : State) (p k : Nat) (l : Launch) (w : WorkUnit) (unit index : Nat) : Thread :=
  let t : Thread := { occupied := true, pc := l.entry, root := l.dom, dsp := setField (zext (slotArea s p k) 48) 9 0 0
                      spbase := w.spbase, splen := w.splen, home := w.cluster, unit := some unit }
  loadDomain p l.dom s ((((t.wg 1 l.args).wg 2 (BitVec.ofNat 64 w.u)).wg 3 (BitVec.ofNat 64 index)).wg 4 (BitVec.ofNat 64 l.units))

/-- The index that a launch hands out for a die group: a returned one before a new one (R313, R318). -/
def Launch.take (l : Launch) (j x : Nat) : Nat × Launch :=
  let l := { l with holdClock := 0, held := false, groupDie := if l.dieLevel then l.groupDie.set j (some x) else l.groupDie }
  match l.returned.find? (fun r => r.1 == j) with
  | some r => (r.2, { l with returned := l.returned.erase r })
  | none => (l.counters.get 0 j, { l with counters := l.counters.set j (l.counters.get 0 j + 1) })

/-- The Ox of a new occupant: latches, tiles and queue are empty, and leave that is held stays so (R234). -/
def Ox.cleared (x : Ox) : Ox := { leave := x.leave, leaveIdle := if x.queue.all OxCmd.isFill then x.leaveIdle else 0 }

/-- A unit of a launch placed on a cluster (R313): the window buffers, neighbour queues and limits of its cores start anew
(R107, R109, R111). -/
def placeUnit (p c : Nat) (l : Launch) (s : State) : State :=
  let j := (l.groupFor (c / 16)).getD 0
  let (i, l2) := l.take j (c / 16)
  let cores := (freeCores s c l.threads).take l.cores
  let base := (freeRange s c l.spad).getD 0
  let unit := s.serial
  let w : WorkUnit := { part := p, launch := l.key, index := i, group := j, u := i + l.per * j, cluster := c, cores := cores
                        spbase := base, splen := l.spad, threads := l.threads * l.cores, started := s.now
                        cycles := l.cycles, ox := l.ox, restart := l.restart }
  let s := mapLaunch p l.key (fun _ => l2) { s.next with units := s.units.set unit w }
  let s := s.setCluster c { s.cluster c with
    allocs := (s.cluster c).allocs ++ [(base, l.spad)]
    oxUnit := if l.ox then some unit else (s.cluster c).oxUnit }
  let s := if l.ox then s.setOx c (s.ox c).cleared else s
  let s := freshScratch c base l.spad s
  let s := cores.foldl (fun s n => s.setCore n { s.core n with unit := some unit, windows := [], neighbours := [] }) s
  (cores.zip (List.range l.cores)).foldl (fun s n =>
    (List.range l.threads).foldl (fun s i =>
      s.setThread (8 * n.1 + i) (unitThread s p (8 * n.1 + i) l w unit (i + l.threads * n.2))) s) s

/-- A cluster takes units: it belongs to a partition, and neither a vacate nor a move nor a gift has stopped it. -/
def dispatching (s : State) (c : Nat) : Bool :=
  let cl := s.cluster c
  cl.part.isSome && !cl.stopped && cl.leaving.isNone && !cl.givenBack

def execLaunchDispatch (c : Nat) (s : State) : Out :=
  let p := s.partOf c
  if dispatching s c then
    match chooseLaunch s p c with
    | some l => .next (placeUnit p c l s)
    | none => .next s
  else .next s

/-- Launches at the head of their priority for longer than the hold limit get the claim of R312. -/
def execHoldLimitExpiry (p : Nat) (s : State) : Out :=
  .next (s.setLaunches p ((s.launches p).map (fun l =>
    if l.left && decide (holdLimit s p < l.holdClock) then { l with held := true } else l)))

/-! ### Completion (R318, R319) -/

/-- A save area holds a thread or a command of a unit, which counts as running until it is restored (R190, R353). -/
def SavedCluster.holds (x : SavedCluster) (u : Nat) : Bool :=
  x.threads.any (fun t => t.2.unit == some u) || x.away.any (fun t => t.unit == some u) || x.mule.any (fun m => m.unit == some u)

/-- Work of a unit that is still in flight: threads, migrants, Mule commands, work requests, MMAs, and what save areas hold
(R318, R353). -/
def unitBusy (s : State) (u : Nat) : Bool :=
  !(unitThreads s u).isEmpty
    || s.cores.any (fun e => (e.2.arrivals ++ e.2.incoming).any (fun m => m.thread.unit == some u))
    || s.clusters.any (fun e => e.2.mule.any (fun m => m.unit == some u)
        || e.2.ox.queue.any (fun q => match q with | .mma _ _ _ _ _ v _ => v == some u | .fill .. => false))
    || s.parts.any (fun e => e.2.steppe.queue.any (fun r => r.unit == some u) || e.2.saved.any (fun x => x.2.holds u))

/-- The number under which a launch waits on a page request. -/
def launchTag (l : Launch) : Nat := 2 ^ 60 + l.key

/-- A write of a completion is skipped: its notice (R319, R428). -/
def skipWrite (p : Nat) (l : Launch) (which : Nat) (status : Int) (refused : Bool) (s : State) : State :=
  let cause := if refused then 4 else if status = -1 then 1 else if status = -3 then 3 else 2
  notice p 6 (BitVec.ofNat 64 (l.dom.toNat + which * 65536 + cause * 2 ^ 20)) l.addr s

/-- The context of the launch engine: the owning domain of the record (R319). -/
def launchCtx (p : Nat) (l : Launch) : Ctx := { part := p, dom := l.dom, engine := some (dispatchNumber p) }

/-- The write at step n of a completion: word 1, word 0, then successors 0 to 3. -/
def completionWrite (p : Nat) (l : Launch) (n : Nat) (s : State) : Except EStop State :=
  let c := launchCtx p l
  if n ≤ 2 then
    if l.done = 0 then .ok s
    else if n = 1 then (if l.killed then .ok s else engineStore c 2 (l.done.toNat + 8) (toBytes 8 s.now) s)
    else engineStore c 2 l.done.toNat (toBytes 8 (if l.killed then (status (-1)).toNat else l.units)) s
  else
    let a := l.succ.getD (n - 3) 0
    if a = 0 || l.killed then .ok s
    else do
      let (s, qs) ← asEngine (a.toNat + 0x48) (access s c (a.toNat + 0x48) 8 .store)
      match qs with
      | q :: _ =>
        match heldBack s (c.me s) q.pa 8 with
        | some w => .error (.hold false (some (.word w)))
        | none =>
          let s ← asEngine q.va (atHomes c q mATOM s)
          .ok (performedBy (c.me s) q.pa 8 (decrement p q.pa s).1)
      | [] => .ok s

/-- The number in a notice of the write at step n: 0 for the completion object, 1 to 4 for the successors. -/
def writeNumber (n : Nat) : Nat := n - 2

/-- A completion goes on from its step until it ends or a write waits (R318, R319). -/
def completeLaunch (p key : Nat) : Nat → State → State
  | 0, s => s
  | fuel + 1, s =>
    match (s.launches p).find? (fun l => l.key == key) with
    | none => s
    | some l =>
      if l.completing = 0 then s
      else if 6 < l.completing then
        let left := (s.launches p).filter (fun x => x.key != key)
        let s := s.setLaunches p left
        if left.any (fun x => x.completing != 0) then s else engineLeaves (dispatchNumber p) s
      else
        let step := fun (s : State) =>
          completeLaunch p key fuel (mapLaunch p key (fun l => { l with completing := l.completing + 1, request := none }) s)
        let write := fun (s : State) =>
          match completionWrite p l l.completing s with
          | .ok s => step s
          | .error (.fail st _ rf) => step (skipWrite p l (writeNumber l.completing) st rf s)
          | .error (.demand va dom _ eaddr) =>
            let (n, s) := joinEngine p (launchTag l) va dom 1 s
            mapLaunch p key (fun l => { l with request := some (n, eaddr) }) s
          | .error (.hold _ w) => engineWaits (dispatchNumber p) w s
        match l.request with
        | none => write s
        | some (n, _) =>
          match replyOf s p n with
          | none => s
          | some x =>
            let s := leaveEngine p n (launchTag l) s
            if x = 0 then write (mapLaunch p key (fun l => { l with request := none }) s)
            else step (skipWrite p l (writeNumber l.completing) (-1) false s)

/-- A launch whose units have all ended, or that is killed and whose units have ended, begins its completion. -/
def finishLaunch (p key : Nat) (s : State) : State :=
  let running := s.units.any (fun e => e.2.part == p && e.2.launch == key)
  mapLaunch p key (fun l =>
    if l.completing = 0 && ((l.killed && !running) || l.finished == l.units) then { l with completing := 1 } else l) s

/-- A unit none of whose work is left completes (R318), and its launch goes on with its completion. -/
def execWorkUnitComplete (p record unit : Nat) (s : State) : Out :=
  let s := match s.units.find? (fun e => e.1 == unit) with
    | some (_, w) =>
      if w.part == p && w.launch == record && !w.saved && !unitBusy s unit then
        mapLaunch p record (fun l => { l with finished := l.finished + 1 }) (freeUnit unit s)
      else s
    | none => s
  .next (completeLaunch p record 8 (finishLaunch p record s))

/-! ### Timers, slices, forecasts (R327, R330, R344) -/

/-- The slot's timer has run down (R327). -/
def execTimerExpiry (slot : Nat) (s : State) : Out :=
  if (s.thread slot).timerDue then .next (post slot 0x0F 0 (s.mapThread slot (fun t => { t with timerDue := false })))
  else .next s

/-- The slice has run down: ON is cleared and SLICE posted (R344). -/
def execSliceExpiry (slot : Nat) (s : State) : Out :=
  if (s.thread slot).sliceOn && (s.thread slot).remain == 0 then
    .next (post slot 0x10 0 (s.mapThread slot (fun t => { t with slice := setField t.slice 32 32 0 })))
  else .next s

/-- Units of a launch that a dispatcher of compute die x may still take. -/
def Launch.unitsFor (l : Launch) (x : Nat) : Nat :=
  (((List.range l.groups).filter (fun j => !l.dieLevel || (l.groupDie.get none j).all (· == x))).map (fun j =>
    (l.returned.filter (fun r => r.1 == j)).length + (l.per - l.counters.get 0 j))).sum

/-- Units of the partition's queue that fit the cluster, up to 255 (R330). -/
def queuedUnits (s : State) (c : Nat) : Nat :=
  min 255 (((s.launches (s.partOf c)).filter (fun l => l.left && fits s c l)).map (fun l => l.unitsFor (c / 16))).sum

/-- The dispatcher writes the forecast: the units that wait, and the estimates that the event gives, READY up to 128 (R330, log
entry 11). -/
def execForecastUpdate (c : Nat) (value : BitVec 64) (s : State) : Out :=
  .next (s.setCluster c { s.cluster c with
    forecast := setField (setField (zext value 32) 31 24 (queuedUnits s c)) 7 0 (min 128 (field value 7 0))
    forecastAt := s.now })

end Sys2Proof.Machine
end

