-- ==== Sys2Proof/Machine/System.lean ====
section
/-! DEFINITION. Traps, returns and state registers: major 0x12 (R90, R339-R343); FENCE, major 0x13 (R273-R277); REPT,
major 0x2B (R240-R246); hints, major 0x3F (R46-R52); words that are no instruction (R54). -/
namespace Sys2Proof.Machine

/-! ### TRAP, BRK, HALT (R340, R343) -/

/-- TRAP: TRAPINS with the code, resumed at the word after it (R340). -/
def execTrap (n : BitVec 8) : State → Out :=
  issue { word := wordTrap n, ahead := true }
    (fun s =>
      let s := retire s
      .ok (trapAt s.cur s.thr.pc { cause := 0x11, eaddr := n.setWidth 64 } s))

/-- BRK: resumed at the BRK, or at its group (R340). -/
def execBrk : State → Out :=
  issue { word := wordBrk, ahead := true } (fun _ => .error (.trap { cause := 0x12, eaddr := 0 }))

/-- HALT: at F the slot leaves the rotation after it (R343). -/
def execHalt (s : State) : Out :=
  issue { word := wordHalt, priv := s.thr.level != 2 } (fun s => .ok ((retire s).mapThr (fun t => t.park .halt))) s

/-! ### State registers (R331, R332, R342) -/

/-- The access of a state register at a level (R332): none for a reserved number; PRIV, read only, or read and write. -/
inductive RegAccess where
  | priv | ro | rw
  deriving DecidableEq, Repr

def regAccess (n level : Nat) : Option RegAccess :=
  let atS := fun (u s : RegAccess) => if level = 0 then u else s
  match n with
  | 0x00 | 0x01 | 0x02 | 0x03 | 0x08 | 0x09 => some .rw
  | 0x05 | 0x06 | 0x11 | 0x12 | 0x13 | 0x15 | 0x16 => some (atS .ro .rw)
  | 0x10 | 0x14 | 0x18 | 0x19 | 0x1A | 0x1B | 0x1C => some .ro
  | 0x20 | 0x21 => some (atS .priv .ro)
  | 0x30 => some (atS .priv .rw)
  | 0x31 => some (if level = 2 then .rw else .priv)
  | _ => none

/-- The state register leave (R442): who holds leave, and whether a request waits. -/
def leaveWord (s : State) (c : Nat) : Word :=
  let cl := s.cluster c
  let steppe := ((s.part (s.partOf c)).steppe.queue).filter (fun r => r.ctx.cluster == c)
  let pend := oxAsksLeave cl.ox || cl.mule.any (fun m => m.leave == 1)
    || (List.range 128).any (fun i => (match (s.thread (128 * c + i)).wait with | some (.leave ..) => true | _ => false))
  BitVec.ofNat 64 (cl.island.mhz % 4096 * 2 ^ 32 + cl.island.mv % 1024 * 2 ^ 22 + (cl.island.cap != 0).toNat * 16
    + pend.toNat * 8 + (steppe.any (fun r => r.leave)).toNat * 4 + (cl.mule.any (fun m => m.leave == 2)).toNat * 2
    + cl.ox.leave.toNat)

/-- The content of a state register. -/
def readRegister (n : Nat) (s : State) : Except Stop Word :=
  let t := s.thr
  let c := clusterOf s.cur
  let p := s.partOf c
  match n with
  | 0x00 => .ok t.tstat
  | 0x01 => .ok t.epc
  | 0x02 => .ok t.ecause
  | 0x03 => .ok t.eaddr
  | 0x05 => .ok t.tvec
  | 0x06 => .ok t.sdeleg
  | 0x08 => .ok t.rstate
  | 0x09 => .ok t.fstat
  | 0x10 => .ok (t.dom.setWidth 64)
  | 0x11 => .ok t.dsp
  | 0x12 => .ok t.charge
  | 0x13 => .ok t.slice
  | 0x14 => .ok t.timer
  | 0x15 => ipaLoad s p (s.domIpa p t.dom 0x30)
  | 0x16 => ipaLoad s p (s.domIpa p t.dom 0x38)
  | 0x18 => .ok (BitVec.ofNat 64 s.now)
  | 0x19 => .ok (BitVec.ofNat 64 s.cur)
  | 0x1A => .ok (BitVec.ofNat 64 c)
  | 0x1B => .ok (BitVec.ofNat 64 p)
  | 0x1C => .ok ((s.cluster c).world.setWidth 64)
  | 0x20 => .ok (s.cluster c).forecast
  | 0x21 => .ok (leaveWord s c)
  | 0x30 => .ok (s.cluster c).ctxbase
  | 0x31 => .ok (s.cluster c).fvec
  | _ => .ok 0

/-- Vector context cleared: v0-v15, m1-m3, WIN and VX (R96). What is pending for one of these registers arrives as zero (log
entry 58). -/
def Thread.dropVectors (t : Thread) : Thread :=
  { t with
    v := Vector.replicate 16 0, m := Vector.replicate 4 0, tstat := setField t.tstat 3 2 0
    pending := t.pending.map (fun p => match p.dest with | .vec _ | .mask _ => { p with value := 0 } | _ => p) }

/-- SWRITE of tstat: VX and WIN at every level; PIE, PLEV (never 3) and IE at S and F (R96, R331). -/
def Thread.writeTstat (t : Thread) (x : Word) : Thread :=
  let y := t.tstat
  let y := if t.level = 0 then y
    else
      let y := setField (setField y 10 10 (field x 10 10)) 4 4 (field x 4 4)
      if field x 9 8 = 3 then y else setField y 9 8 (field x 9 8)
  let win := bit x 2
  let vx := bit x 3 || win
  let t := { t with tstat := setField (setField y 3 3 vx.toNat) 2 2 win.toNat }
  if vx then t else t.dropVectors

/-- A state register written, within its fields (R332). A dsp keeps DEPTH x 128 in [9:0] (R289, R331). -/
def writeRegister (n : Nat) (x : Word) (s : State) : Except Stop State :=
  let c := clusterOf s.cur
  let p := s.partOf c
  let put := fun (f : Thread → Thread) => (.ok (s.mapThr f) : Except Stop State)
  match n with
  | 0x00 => put (fun t => t.writeTstat x)
  | 0x01 => put (fun t => { t with epc := setField x 1 0 0 })
  | 0x02 => put (fun t => { t with ecause := zext x 8 })
  | 0x03 => put (fun t => { t with eaddr := x })
  | 0x05 => put (fun t => { t with tvec := x })
  | 0x06 => put (fun t => { t with sdeleg := x &&& delegable })
  | 0x08 => put (fun t => { t with rstate := setField (setField x 1 0 0) 55 52 0 })
  | 0x09 => put (fun t => { t with fstat := zext x 5 })
  | 0x11 => put (fun t => { t with dsp := setField (zext x 48) 9 0 (t.depth * 128) })
  | 0x12 => put (fun t => { t with charge := x })
  | 0x13 => put (fun t => { t with slice := zext x 33 })
  | 0x15 => ipaStore s p (s.domIpa p s.thr.dom 0x30) x
  | 0x16 => ipaStore s p (s.domIpa p s.thr.dom 0x38) x
  | 0x30 => .ok (s.setCluster c { s.cluster c with ctxbase := x })
  | 0x31 => .ok (s.setCluster c { s.cluster c with fvec := x })
  | _ => .ok s

def execSread (d : Reg) (n : BitVec 8) (s : State) : Out :=
  issue { word := wordSread d n, gw := [d], ahead := true
          ill := (regAccess n.toNat s.thr.level).isNone, priv := regAccess n.toNat s.thr.level == some .priv }
    (fun s => do
      let x ← readRegister n.toNat s
      .ok (retire (s.wg d x))) s

/-- SWRITE; where the register is read only at the level, nothing is written (R332). -/
def execSwrite (a : Reg) (n : BitVec 8) (s : State) : Out :=
  issue { word := wordSwrite a n, gr := [a]
          ill := (regAccess n.toNat s.thr.level).isNone, priv := regAccess n.toNat s.thr.level == some .priv }
    (fun s => do
      let s ← if regAccess n.toNat s.thr.level == some .rw then writeRegister n.toNat (s.rg a) s else .ok s
      .ok (retire s)) s

/-! ### REPT (R240, R241, R246) -/

/-- The words of a body, fetched in order. -/
def fetchBody (miss : Bool) (k : Nat) (addr : Word) : Nat → State → Except Stop (List (BitVec 32) × State)
  | 0, s => .ok ([], s)
  | n + 1, s => do
    let (w, s) ← fetchAt miss k addr s
    let (ws, s) ← fetchBody miss k (addr + 4) n s
    .ok (w :: ws, s)

/-- The last word of a body is no hint (R241). -/
def endsInHint (ws : List (BitVec 32)) : Bool :=
  match ws.getLast? with
  | some w => field w 31 26 == 0x3F
  | none => false

/-- A body that a REPT refuses (R241). -/
def badBody (ws : List (BitVec 32)) : Bool := !ws.all bodyAllows || endsInHint ws

/-- REPT: the body's words are fetched, any fault of that first, and checked with the instruction itself (R55, R241); with a
count of 0 the body is passed over (R240). -/
def execRept (n : BitVec 3) (c st m : BitVec 4) (s : State) : Out :=
  let start := fun (ws : List (BitVec 32)) (s : State) =>
    let at_ := s.thr.pc
    let count := (s.rg c).toNat
    let s := retireTo (at_ + 4 * BitVec.ofNat 64 (ws.length + 1)) s
    (.ok (if count = 0 then s
      else s.mapThr (fun t => { t with rep := some { addr := at_, words := ws, creg := c, stride := st.toNat, smask := m
                                                     off := 0, j := 0, left := count } })) : Except Stop State)
  match s.thr.rep, fetchBody false s.cur (s.thr.pc + 4) (n.toNat + 1) s with
  | none, .error e => .next (stopAt e s)
  | none, .ok (ws, s) => issue { word := wordRept n c st m, ill := c == 0 || badBody ws, gr := [c] } (start ws) s
  | some _, _ => issue { word := wordRept n c st m, ill := c == 0, gr := [c] } (start []) s

/-- The repetition that rstate names goes on (R246); none where its word is no REPT or J lies beyond its body. ERET has the
words brought in its own turn: a wait for them would be one of the level that it leaves. -/
def resumeRept (s : State) : Except Stop State := do
  let t := s.thr
  let addr := BitVec.ofNat 64 (field t.rstate 51 2 * 4)
  let j := field t.rstate 58 56
  let (w, s) ← fetchAt true s.cur addr s
  let len := field w 25 22 + 1
  let c : Reg := w.extractLsb' 18 4
  if field w 31 26 ≠ 0x2B || 8 < len || field w 9 0 ≠ 0 || c = 0 || len ≤ j then
    .error (illegal wordEret)
  else
    let (ws, s) ← fetchBody true s.cur (addr + 4) len s
    .ok (if s.rg c = 0 then s
      else s.mapThr (fun t => { t with rep := some { addr := addr, words := ws, creg := c, stride := field w 17 14
                                                     smask := w.extractLsb' 10 4, off := field t.rstate 62 59, j := j
                                                     left := (s.rg c).toNat } }))

/-! ### ERET (R341) -/

/-- The task that RQPOP chose takes the slot, its frames and its root checked (R306, R326); what marks said of the task before
it goes with that one (R305), but for the end of a killed launch's thread (R318). -/
def applySwitch (x : TaskSwitch) (s : State) : State :=
  let p := s.partOf (clusterOf s.cur)
  let s := s.mapThr (fun t =>
    let t := loadDomain p x.dom s { t with taskSwitch := none, unwind := t.unwind.filter (·.unit), root := x.root, dsp := x.dsp, spbase := x.spbase, splen := x.splen }
    t.withDepth x.depth.toNat)
  frameCheck s.cur s

def execEret (s : State) : Out :=
  issue { word := wordEret, priv := decide (s.thr.level < s.thr.plev) || s.thr.plev == 3, drain := true }
    (fun s =>
      let s := s.mapThr (fun t => t.returned.retireTo t.epc)
      let s := match s.thr.taskSwitch with
        | some x => if s.thr.level = 0 then applySwitch x s else s
        | none => s
      if bit s.thr.rstate 63 then resumeRept s else .ok s) s

/-! ### ICINV (R90-R92) -/

/-- Cluster c lies inside a scope of a thread of core n (R50): by core, cluster, die, device. -/
def inScope (scope n m : Nat) : Bool :=
  if scope ≤ 1 then n == m
  else if scope = 2 then n / 16 == m / 16
  else if scope = 3 then n / 256 == m / 256
  else true

/-- The blocks of lo..hi, by canonical address, on a page mapped at both stages in the issuing domain, as a fetch at its level
walks for it (R90). Addresses of the argument aperture name no page of that domain: they have none (log entry 46). -/
def pageBlocks (s : State) (c : Ctx) (lo hi : Nat) : List Nat :=
  if apertureBase ≤ lo then []
  else
    let fw := c.level == 2
    match stage1Leaf s c.part c.dom lo lo .fetch fw with
    | .error _ => []
    | .ok (_, e, big, _) =>
      let ipa := if big then field e 47 29 * 2 ^ 29 + lo % 2 ^ 29 else field e 47 16 * 65536 + lo % 65536
      match stage2Leaf s c.part ipa fw with
      | .error _ => []
      | .ok (_, pa, _) => (stepsFrom pa (pa + (hi - lo)) 64).map s.key

/-- A range's blocks, page by page. -/
def rangeBlocks (s : State) (c : Ctx) (lo hi : Nat) : List Nat :=
  ((stepsFrom (lo / 65536 * 65536) hi 65536).map (fun q => pageBlocks s c (max lo q) (min hi (q + 65536)))).flatten

/-- The cores of a partition inside a scope lose the blocks, and their slots' fetch buffers, that satisfy q. -/
def dropBlocks (p scope n : Nat) (q : Nat → Bool) (s : State) : State :=
  let mine := fun (m : Nat) => (s.cluster (m / 16)).part == some p && inScope scope n m
  { s with
    cores := s.cores.mapVals (fun m c => if mine m then { c with icache := c.icache.filter (fun b => !q b.block) } else c)
    threads := s.threads.mapVals (fun k t =>
      if mine (coreOf k) then
        match t.fetchBuf with
        | some (b, _) => if q b then { t with fetchBuf := none } else t
        | none => t
      else t) }

def execIcinv (a b : Reg) (sc : BitVec 3) : State → Out :=
  issue { word := wordIcinv a b sc, ill := sc == 0 || decide (6 ≤ sc.toNat), gr := [a, b] }
    (fun s =>
      if s.rg b = 0 then .ok (retire s)
      else
        let c := s.ctx
        let lo := (s.rg a).toNat / 64 * 64
        let hi := min (alignUp ((s.rg a).toNat + (s.rg b).toNat) 64) (2 ^ 52)
        let s :=
          if hi - lo > 0x40000 then dropBlocks c.part sc.toNat (coreOf s.cur) (fun _ => true) s
          else
            let bs := rangeBlocks s c lo hi
            dropBlocks c.part sc.toNat (coreOf s.cur) (fun x => bs.contains (s.key (64 * x))) s
        .ok (s.mapThr (fun t => t.park .icinv)))

/-- Every core in the scope has acknowledged (R90). -/
def execIcinvComplete (slot : Nat) (s : State) : Out :=
  if (s.thread slot).wait = some .icinv then .next (retireSlot slot s) else .next s

/-! ### FENCE (R273-R277) -/

/-- A command of an engine is the thread's in slot k: a task's wherever it runs on its core, another thread's by its slot and
its work unit (R276). -/
def issuedBy (t : Thread) (k slot : Nat) (unit task : Option Nat) : Bool :=
  task == t.task && (if task.isSome then coreOf slot == coreOf k else slot == k && unit == t.unit)

/-- Engine commands of the slot's thread that have not completed (R276). -/
def engineWork (s : State) (k : Nat) : Bool :=
  s.clusters.any (fun c => c.2.mule.any (fun m => issuedBy (s.thread k) k m.slot m.unit m.task)) ||
    s.parts.any (fun p => p.2.steppe.queue.any (fun r => issuedBy (s.thread k) k r.slot r.unit r.task))

/-- The slot's STFF, FEEMPTY and FEMARK that a FENCE of a kind waits for: full those to SO and RC pages, all every one (R274). -/
def fenceAwaits (s : State) (kind : BitVec 2) : Bool :=
  s.held.any (fun e => e.2.any (fun x => x.postedOf s.cur && (kind == 3 || (kind == 0 && !x.uo))))

/-- A release-side FENCE comes before them: what it orders after them waits when it comes to issue (R274). -/
def fencePosted (s : State) : State :=
  { s with held := s.held.mapVals (fun _ l => l.map (fun x => if x.postedOf s.cur && !x.uo then { x with fenced := true } else x)) }

/-- FENCE: an access of this model is performed at its turn, but for the slot's posted STFF, FEEMPTY and FEMARK, for which a full
or all FENCE waits (R196, R200, R274), as one with ENG does for the thread's engine commands (R276; log entry 3). With thread
scope and without ENG it completes at issue (R277). -/
def execFence (e : Bool) (k : BitVec 2) (sc : BitVec 3) : State → Out :=
  issue { word := wordFence e k sc, ill := decide (6 ≤ sc.toNat) || (e && sc == 0) }
    (fun s =>
      if sc = 0 then .ok (retire s)
      else if fenceAwaits s k then .error (.wait .posted)
      else if e && engineWork s s.cur then .error (.wait .engines)
      else .ok (retire (if k = 2 && postedBy s s.cur then fencePosted s else s)))

/-! ### Hints (R46-R52) -/

/-- A hint word joins the hint group of its stream and takes an issue slot of its own (R46). -/
def Thread.addHint (t : Thread) (f : Hints → Hints) : Thread :=
  match t.rep with
  | some r =>
    if r.issuing then { t with rep := some { r with hints := f r.hints, j := r.j + 1, issuing := false, bodyNext := false } }
    else { t with pc := t.pc + 4, hints := f t.hints, rep := some { r with bodyNext := true } }
  | none => { t with pc := t.pc + 4, hints := f t.hints }

def execHimm (p : BitVec 24) (s : State) : Out :=
  .next (s.mapThr (fun t => t.addHint (fun h => { h with himms := h.himms ++ [p] })))
def execHmod (p : BitVec 24) (s : State) : Out :=
  .next (s.mapThr (fun t => t.addHint (fun h => { h with hmods := h.hmods ++ [p] })))
def execHsched (p : BitVec 24) (s : State) : Out :=
  .next (s.mapThr (fun t => t.addHint (fun h => { h with hscheds := h.hscheds ++ [p] })))

/-- A hold of a legal payload; another payload makes the governed instruction trap (R51). -/
def execHschedHold (p : BitVec 21) (s : State) : Out :=
  let w : BitVec 24 := (1 : BitVec 3) ++ p
  let body := s.thr.inBody
  let s := s.mapThr (fun t => t.addHint (fun h => { h with hscheds := h.hscheds ++ [w] }))
  .next (if hschedLegal w then s.mapThr (fun t => t.await body (.hold (field p 5 0))) else s)

/-- The prefetch of fetch blocks has no architectural effect (R51). -/
def execHschedIfetch (p : BitVec 21) (s : State) : Out :=
  .next (s.mapThr (fun t => t.addHint (fun h => { h with hscheds := h.hscheds ++ [(2 : BitVec 3) ++ p] })))

/-- A hold whose cycles have passed ends, in either stream (R51). -/
def execHoldExpiry (slot : Nat) (s : State) : Out :=
  .next (s.mapThread slot (fun t =>
    { t with
      wait := if t.wait == some (.hold 0) then none else t.wait
      rep := t.rep.map (fun r => if r.wait == some (.hold 0) then { r with wait := none } else r) }))

/-! ### Words that are no instruction (R54) -/

def execIllegalInstruction (w : BitVec 32) : State → Out :=
  issue { word := w.toNat, ill := true } (fun s => .ok s)

end Sys2Proof.Machine
end

