-- ==== Sys2Proof/Machine/Vacate.lean ====
section
/-! DEFINITION. Vacating, saving, discarding and restoring clusters (R257, R347-R353, R190, R417-R419). -/
namespace Sys2Proof.Machine

/-- The state of an outcome that is a next state. -/
def nextOr (o : Out) (s : State) : State :=
  match o with
  | .next s' => s'
  | _ => s

/-! ### What a vacate takes (R349, R350, R190) -/

def clusterSlots (c : Nat) : List Nat := (List.range 128).map (fun i => 128 * c + i)
def clusterCores (c : Nat) : List Nat := (List.range 16).map (fun i => 16 * c + i)

/-- A slot has a thread that does not stand at HALT: a halted slot is idle to a vacate (R343). -/
def Thread.busy (t : Thread) : Bool := t.occupied && t.wait != some .halt

/-- The slots whose threads a vacate of a cluster takes: those of work units, or all with WHOLE. -/
def vacatedSlots (s : State) (c : Nat) (whole : Bool) : List Nat :=
  (clusterSlots c).filter (fun k => (s.thread k).busy && (whole || (s.thread k).unit.isSome))

/-- The arrivals queued on a cluster. -/
def queuedHere (s : State) (c : Nat) : List Migrant := ((clusterCores c).map (fun n => (s.core n).arrivals)).flatten

/-- The units placed on a cluster, and not saved. -/
def unitsOf (s : State) (c : Nat) : List Nat := (s.units.filter (fun e => e.2.cluster == c && !e.2.saved)).map (·.1)

/-- The slots of other clusters that hold threads of these units (R190). -/
def awaySlots (s : State) (c : Nat) (us : List Nat) : List Nat :=
  (s.threads.filter (fun e => e.2.busy && clusterOf e.1 != c && (match e.2.unit with | some u => us.contains u | none => false))).map (·.1)

/-- Arrivals of these units queued on other clusters. -/
def awayQueued (s : State) (c : Nat) (us : List Nat) : List Migrant :=
  ((s.cores.filter (fun e => e.1 / 16 != c)).map (fun e => e.2.arrivals.filter (fun m =>
    match m.thread.unit with | some u => us.contains u | none => false))).flatten

/-- The units of all vacated threads: those placed on the cluster, and those of its residents. -/
def involvedUnits (s : State) (c : Nat) (whole : Bool) : List Nat :=
  (unitsOf s c ++ (vacatedSlots s c whole).filterMap (fun k => (s.thread k).unit)
    ++ (queuedHere s c).filterMap (fun m => m.thread.unit)).eraseDups

/-- A unit's record. -/
def State.workUnit (s : State) (u : Nat) : Option WorkUnit := (s.units.find? (fun e => e.1 == u)).map (·.2)

/-- Ranges of the scratchpad that a vacate takes: those of the cluster's units, all with WHOLE. -/
def vacatedRanges (s : State) (c : Nat) (whole : Bool) : List (Nat × Nat) :=
  if whole then (s.cluster c).allocs.filter (fun a => a.2 != 0)
  else ((unitsOf s c).filterMap s.workUnit).filterMap (fun w => if w.splen = 0 then none else some (w.spbase, w.splen))

/-- Threads vacated: residents, queued arrivals, away threads. -/
def vacatedCount (s : State) (c : Nat) (whole : Bool) : Nat :=
  (vacatedSlots s c whole).length + (queuedHere s c).length + (awaySlots s c (unitsOf s c)).length
    + (awayQueued s c (unitsOf s c)).length

/-- The Ox user of the cluster is vacated. -/
def oxVacated (s : State) (c : Nat) (whole : Bool) : Bool :=
  (s.cluster c).oxUnit.isSome || (whole && (s.cluster c).oxTask.isSome)

/-- B of R350. -/
def saveBytes (s : State) (c : Nat) (whole : Bool) : Nat :=
  512 * vacatedCount s c whole + ((vacatedRanges s c whole).map (·.2)).sum
    + (if oxVacated s c whole then 200704 else 0) + 131072

/-- The cluster holds a task or an urgent thread, which only a vacate with WHOLE takes. -/
def holdsWhole (s : State) (c : Nat) : Bool :=
  (clusterCores c).any (fun n => (s.core n).tasks.any (fun t => t.2.state != .free) || (s.thread (8 * n + 7)).busy)

/-- Every running unit can end within d fabric cycles, by its own estimate (R350 step 1). -/
def drainsWithin (s : State) (c d : Nat) : Bool :=
  ((involvedUnits s c false).filterMap s.workUnit).all (fun w => w.cycles != 0 && decide (w.cycles ≤ d + (s.now - w.started)))

/-- The launch of a unit is restartable. -/
def restartable (s : State) (u : Nat) : Bool := match s.workUnit u with | some w => w.restart | none => false

/-- Every vacated thread belongs to a unit of a restartable launch (R350 step 3). -/
def mayDiscard (s : State) (c : Nat) (whole : Bool) : Bool :=
  (vacatedSlots s c whole).all (fun k => match (s.thread k).unit with | some u => restartable s u | none => false)
    && (queuedHere s c).all (fun m => match m.thread.unit with | some u => restartable s u | none => false)
    && (unitsOf s c).all (restartable s)

/-! ### Discarding (R351, R190, R318) -/

/-- The thread of a slot is dropped: its frames end with it (R296), and it holds nothing any more. -/
def dropThread (k : Nat) (s : State) : State := freeSlotOf k (dropFrames k 8 (revoke k (withdraw k s)))

/-- The frames of threads of a partition that stand in no slot end with them (R296), by a cluster that the partition holds. -/
def dropFramesAway (p : Nat) (l : List Thread) (s : State) : State :=
  match (List.range 128).find? (fun c => (s.cluster c).part == some p) with
  | some c => l.foldl (fun s t => dropAway c t s) s
  | none => s

/-- A Mule without a command waits nowhere. -/
def leaveIdleMules (s : State) : State :=
  (s.clusters.filter (fun e => e.2.mule.isEmpty)).foldl (fun s e => engineLeaves (muleNumber e.1) s) s

/-- The threads of a unit that stand in no slot: queued arrivals and saved threads. -/
def slotlessThreads (s : State) (u : Nat) : List Thread :=
  (s.cores.map (fun e => (e.2.arrivals.map (·.thread)))).flatten.filter (fun t => t.unit == some u)
    ++ (s.parts.map (fun e => (e.2.saved.map (fun x => x.2.threads.map (·.2) ++ x.2.away)).flatten)).flatten.filter (fun t => t.unit == some u)

/-- What a save area holds of a unit is dropped. -/
def SavedCluster.without (u : Nat) (x : SavedCluster) : SavedCluster :=
  { x with
    threads := x.threads.filter (fun t => t.2.unit != some u), away := x.away.filter (fun t => t.unit != some u)
    mule := x.mule.filter (fun m => m.unit != some u) }

/-- Threads of a unit, queued, running or saved, are dropped wherever they are, with its commands and Ox state. -/
def dropUnit (u : Nat) (s : State) : State :=
  let mine := fun (m : Migrant) => m.thread.unit == some u
  let s := dropFramesAway (match s.workUnit u with | some w => w.part | none => 32) (slotlessThreads s u) s
  let s := (unitThreads s u).foldl (fun s k => dropThread k s) s
  let s := leaveIdleMules { s with
    cores := s.cores.mapVals (fun _ c =>
      { c with arrivals := c.arrivals.filter (fun m => !mine m), incoming := c.incoming.filter (fun m => !mine m) })
    clusters := s.clusters.mapVals (fun _ c =>
      { c with mule := c.mule.filter (fun m => m.unit != some u), ox := if c.oxUnit == some u then c.ox.cleared else c.ox })
    parts := s.parts.mapVals (fun _ p => { p with saved := p.saved.mapVals (fun _ x => x.without u) }) }
  freeUnit u s

/-- A unit is discarded: its index goes back to its launch (R318). -/
def discardUnit (u : Nat) (s : State) : State :=
  match s.workUnit u with
  | none => s
  | some w => mapLaunch w.part w.launch (fun l => { l with returned := l.returned ++ [(w.group, w.index)] }) (dropUnit u s)

/-- A launch ends as a killed one does: no unit is dispatched any more, and its threads are marked (R318, R351). -/
def killLaunch (p key : Nat) (s : State) : State :=
  let us := (s.units.filter (fun e => e.2.part == p && e.2.launch == key)).map (·.1)
  markThreads p 2 (fun _ => false) (fun t => t.unit.any us.contains) (mapLaunch p key (fun l => { l with killed := true }) s)

/-- A unit is lost: its launch ends as a killed launch does (R351, R318). -/
def loseUnit (u : Nat) (s : State) : State :=
  match s.workUnit u with
  | none => s
  | some w => finishLaunch w.part w.launch (killLaunch w.part w.launch (dropUnit u s))

/-- A vacate or a save leaves no block in the instruction caches of the cluster (R89). -/
def dropCode (c : Nat) (s : State) : State :=
  { s with cores := s.cores.mapVals (fun n x => if n / 16 == c then { x with icache := [] } else x) }

/-- The units of a cluster discarded. -/
def discardCluster (c : Nat) (whole : Bool) (s : State) : State :=
  (involvedUnits s c whole).foldl (fun s u => discardUnit u s) s

/-- The vacated launches end as killed ones, and threads of no unit are dropped. -/
def loseCluster (c : Nat) (whole : Bool) (s : State) : State :=
  let s := (involvedUnits s c whole).foldl (fun s u => loseUnit u s) s
  if whole then
    let s := (vacatedSlots s c true).foldl (fun s k => dropThread k s) s
    (clusterCores c).foldl (fun s n => s.setCore n { s.core n with tasks := [], ready := [] }) s
  else s

/-! ### Slot records (R347) -/

/-- The 64 words of the slot record of a thread on a core, in its urgent slot or an ordinary one. -/
def slotRecord (s : State) (core : Nat) (urgent : Bool) (th : Thread) : List Word :=
  let t := th.countLeft
  let ox := (match t.unit with | some u => (s.workUnit u).any (·.ox) | none => false)
    || (match t.task with | some id => ((s.core core).tasks.get {} id).ox | none => false)
  let flags := 1 + urgent.toNat * 2 + (if t.task.isSome then 4 else 0) + t.task.getD 0 % 32 * 8
    + ox.toNat * 256 + t.home % 128 * 512
  [t.pc] ++ ((List.range 15).map (fun i => t.rg (BitVec.ofNat 4 (i + 1))))
    ++ ((List.range 16).map (fun i =>
        let v := t.rv (BitVec.ofNat 4 i)
        [v.setWidth 64, v.extractLsb' 64 64])).flatten
    ++ [t.tstat, t.fstat,
        BitVec.ofNat 64 ((t.rm 1).toNat + (t.rm 2).toNat * 2 ^ 16 + (t.rm 3).toNat * 2 ^ 32), t.dom.setWidth 64, t.dsp,
        t.epc, t.ecause, t.eaddr, if t.rep.isSome then t.repPoint else t.rstate, t.slice, t.timer,
        BitVec.ofNat 64 (t.spbase + t.splen * 2 ^ 32), BitVec.ofNat 64 flags, t.charge, 0, 0]

/-- rstate as a record holds it. -/
def recordPoint (w : Nat → Word) : Word := setField (setField (w 56) 1 0 0) 55 52 0

/-- The repetition of a saved thread after its record is read back: at the same point it goes on with the iterations that g[C]
holds; at a point that the supervisor has written, `resumeRept` takes it up (R246, R347). -/
def Rep.kept (r : Rep) (same : Bool) (count : Word) : Option Rep :=
  if same && count != 0 then some { r with left := count.toNat } else none

/-- A slot record read back: the fields that the supervisor may change, over the saved thread (R347). An illegal LEVEL
or PLEV is not taken, nor another DEPTH. -/
def readRecord (old : Thread) (w : Nat → Word) : Thread :=
  let st := (w 48) &&& 0x71F
  let st := if field st 1 0 = 3 then setField st 1 0 old.level else st
  let st := if field st 9 8 = 3 then setField st 9 8 old.plev else st
  let t := { old with
    pc := setField (w 0) 1 0 0
    tstat := setField st 7 5 old.depth
    fstat := zext (w 49) 5
    epc := setField (w 53) 1 0 0
    ecause := zext (w 54) 8
    eaddr := w 55
    rstate := if old.rep.isSome && recordPoint w == old.repPoint then old.rstate else recordPoint w
    slice := zext (w 57) 33
    timer := zext (w 58) 32
    charge := w 61 }
  let t := (List.range 15).foldl (fun t i => t.wg (BitVec.ofNat 4 (i + 1)) (w (i + 1))) t
  let t := (List.range 16).foldl (fun t i => t.wv (BitVec.ofNat 4 i) (w (17 + 2 * i) ++ w (16 + 2 * i))) t
  let t := ((t.wm 1 ((w 50).setWidth 16)).wm 2 ((w 50).extractLsb' 16 16)).wm 3 ((w 50).extractLsb' 32 16)
  { t with rep := t.rep.bind (fun r => r.kept (recordPoint w == old.repPoint) (t.rg r.creg)) }

/-- A thread as it is saved: its hint groups start over, and every armed monitor is lost (R52, R204, R351). -/
def Thread.stilled (t : Thread) : Thread :=
  let armed := t.monitors.any (·.armed)
  { t with
    pc := t.resumePc
    hints := {}
    wait := none
    rep := t.rep.map (fun r =>
      { r with j := r.j - r.hints.count, hints := {}, wait := none, refusals := 0, waited := 0, paid := [], issuing := false })
    monitors := t.monitors.map (fun m => if m.armed then { m with lost := true } else m)
    wakePending := t.wakePending || armed
    refusals := 0
    waited := 0
    paid := []
    noTravel := false
    lastIssue := none
    fetchBuf := none }

/-! ### Saving (R351) -/

/-- The Ox of a cluster runs until its queue and its transfers are empty (R247); the island's controller grants the leave that it
asks for meanwhile (R234). The fuel bounds its work. -/
def drainOx (c : Nat) : Nat → State → State
  | 0, s => s
  | fuel + 1, s =>
    let x := s.ox c
    if x.queue.isEmpty && x.transfers.isEmpty then s
    else
      let s := nextOr (execAccumTransferComplete c s) s
      let s := nextOr (execLatchFillComplete c s) s
      let s := if oxAsksLeave (s.ox c) then s.setOx c { s.ox c with leave := true, leaveIdle := 0 } else s
      let s := nextOr (execMmaStart c s) s
      drainOx c fuel (nextOr (execMmaComplete c s) s)

/-- A slot's thread is brought to rest: its wait withdrawn, its scoreboard complete, its reservation revoked, its
migration called back. -/
def stillSlot (k : Nat) (s : State) : State :=
  let s := { s with cores := s.cores.mapVals (fun _ c => { c with incoming := c.incoming.filter (fun m => m.source != k) }) }
  (revoke k (completeAll k (withdraw k s))).mapThread k Thread.stilled

/-- A 64-byte block copied with its sideband, and the waiters on its words examined (R193). -/
def copyBlock (a b : Nat) (s : State) : State :=
  let s := (s.writeBytes b (s.readBytes a 64)).setSideband b (s.sideband a)
  (waitedWords s (s.key b) 64).foldl (fun s w => examineWord w s) s

/-- The offsets of the blocks of ranges. -/
def rangeOffsets (l : List (Nat × Nat)) : List Nat := (l.map (fun a => stepsFrom a.1 (a.1 + a.2) 64)).flatten

/-- Stage 2 takes every write of a save: the records, the device's own parts, the away records, the image. -/
def areaWritable (s : State) (p area : Nat) (away : Bool) (ranges : List (Nat × Nat)) : Bool :=
  ([0, 0x10000, 0x20000, 0x30000, 0x40000, 0x50000] ++ (if away then [0x60000, 0x70000] else [])
      ++ ((ranges.map (fun (a : Nat × Nat) => stepsFrom (a.1 / 65536 * 65536) (a.1 + a.2) 65536)).flatten).map (0x100000 + ·)).all
    (fun o => match stage2 s p (area + o) .store with | .ok _ => true | .error _ => false)

/-- Words written at consecutive IPAs; a word that stage 2 refuses is not written. -/
def putWords (p ipa : Nat) : List Word → State → State
  | [], s => s
  | x :: r, s =>
    match ipaWrite s p ipa x with
    | .ok s => putWords p (ipa + 8) r s
    | .error _ => putWords p (ipa + 8) r s

/-- The scratchpad image of ranges written to the save area, or read back from it. -/
def saveImage (p c area : Nat) (ranges : List (Nat × Nat)) (s : State) : State :=
  (rangeOffsets ranges).foldl (fun s o =>
    match stage2 s p (area + 0x100000 + o) .store with
    | .ok (pa, _) => copyBlock (scratchBase c + o) pa s
    | .error _ => s) s
def loadImage (p c area : Nat) (ranges : List (Nat × Nat)) (s : State) : State :=
  (rangeOffsets ranges).foldl (fun s o =>
    match stage2 s p (area + 0x100000 + o) .load with
    | .ok (pa, _) => copyBlock pa (scratchBase c + o) s
    | .error _ => s) s

/-- The slot records of a cluster: the vacated threads', and VALID 0 for every other slot. -/
def saveRecords (p c area : Nat) (slots : List Nat) (s : State) : State :=
  (clusterSlots c).foldl (fun s k =>
    if slots.contains k then
      putWords p (area + 512 * (k % 128)) (slotRecord s (coreOf k) (localSlot k == 7) (s.thread k)) s
    else putWords p (area + 512 * (k % 128) + 0x1E0) [0] s) s

/-- The away records, in the order of their device slots (R190): each with the core of its thread. -/
def saveAway (p area : Nat) (l : List (Nat × Thread)) (s : State) : State :=
  ((List.range 256).zip l).foldl (fun s e => putWords p (area + 0x60000 + 512 * e.1) (slotRecord s e.2.1 false e.2.2) s) s

/-- The parts of a save area whose form only the device reads (R348). -/
def deviceParts : List Nat := [0x10000, 0x20000, 0x51000]

/-- Save n writes its parts, each known by its check value. -/
def saveParts (p area n : Nat) (s : State) : State :=
  deviceParts.foldl (fun s o => putWords p (area + o) [Config.savedPart n o] s) s

/-- The bytes of the pages of the device's parts at an area, by their places: what the keyed check values cover (R348). -/
def partPages (s : State) (p area : Nat) : List (List (Nat × Byte)) :=
  [0x10000, 0x20000, 0x30000, 0x40000, 0x50000].map (fun o =>
    match stage2 s p (area + o) .load with
    | .ok (pa, _) => (s.mem.filter (fun c => decide (pa ≤ c.1) && decide (c.1 < pa + 65536))).map (fun c => (c.1 - pa, c.2))
    | .error _ => [])

/-- The parts at an area are those that save n wrote, with nothing changed since (R353). -/
def partsPass (s : State) (p area n : Nat) (x : SavedCluster) : Bool :=
  deviceParts.all (fun o => match ipaRead s p (area + o) with | .ok x => x == Config.savedPart n o | .error _ => false)
    && partPages s p area == x.check

/-- The number under which the engine work of thread i of save n stands until the thread has a slot again (R276). -/
def savedTag (n i : Nat) : Nat := 2 ^ 22 + 512 * n + i

/-- A core's state in a save with WHOLE: nothing of its caches, nor of the threads that arrive. -/
def CoreState.kept (x : CoreState) : CoreState := { x with icache := [], tlb := [], arrivals := [], incoming := [] }

/-- A core's state in a save without WHOLE: the window buffers, queues and counters of the given local slots. -/
def CoreState.keptOf (slots : List Nat) (x : CoreState) : CoreState :=
  { windows := x.windows.filter (fun e => slots.contains (e.1 / 4))
    neighbours := x.neighbours.filter (fun e => slots.contains (e.1 / 2)) }

/-- The saved state of a core put back (R353): with WHOLE all of it, its tasks in the slots of cluster c, else what belongs to
the saved slots; the caches are the core's own (R89). -/
def CoreState.restored (x cur : CoreState) (whole : Bool) (c : Nat) : CoreState :=
  if whole then
    { cur with
      windows := x.windows, neighbours := x.neighbours, ready := x.ready, divides := x.divides, unit := x.unit
      tasks := x.tasks.mapVals (fun _ t => { t with slot := t.slot.map (fun k => 128 * c + k % 128) }) }
  else
    { cur with
      windows := x.windows.foldl (fun m e => m.set e.1 e.2) cur.windows
      neighbours := x.neighbours.foldl (fun m e => m.set e.1 e.2) cur.neighbours }

/-- A command's coverage of blocks of the scratchpad of cluster a is that of the same blocks of cluster b (R253). -/
def CopyCmd.onCluster (a b : Nat) (m : CopyCmd) : CopyCmd :=
  let moved := fun (x : Nat) => if scratchBase a / 64 ≤ x && x < scratchBase (a + 1) / 64 then x - scratchBase a / 64 + scratchBase b / 64 else x
  { m with
    ctx := { m.ctx with cluster := b, engine := some (muleNumber b) }
    track := m.track.foldl (fun t e => t.set (moved e.1) { e.2 with src := e.2.src.map moved }) [] }

/-- The vacated threads of a cluster, those here and those away, are brought to rest, after the Ox has emptied its queue with the
fills that they wait for (R247, R351). -/
def stillCluster (c : Nat) (whole : Bool) (s : State) : State :=
  let l := vacatedSlots s c whole ++ awaySlots s c (unitsOf s c)
  drainOx c 512 (l.foldl (fun s k => stillSlot k s) (drainOx c 512 s))

/-- A command of a saved cluster: one that waits on a page request asks again after the restore. -/
def leaveRequests (c : Nat) (s : State) : State :=
  let s := (s.cluster c).mule.foldl (fun s m =>
    match m.request with | some (n, _) => leaveEngine m.ctx.part n (muleTag c m) s | none => s) s
  s.setCluster c { s.cluster c with mule := (s.cluster c).mule.map (fun m => { m with request := none }) }

/-- A cluster saved: its vacated threads and what belongs to them leave it for the save area, in the order of R351. The answer
says whether the area could be written. -/
def saveCluster (c : Nat) (whole : Bool) (s : State) : State × Bool :=
  let p := s.partOf c
  let area := (s.cluster c).ctxbase.toNat
  let n := s.serial
  let us := unitsOf s c
  let slots := vacatedSlots s c whole
  let away := awaySlots s c us
  let s := stillCluster c whole s
  let queued := queuedHere s c ++ awayQueued s c us
  let awayThreads := away.map (fun k => (coreOf k, s.thread k)) ++ queued.map (fun m => (16 * c, m.thread.stilled))
  let ranges := vacatedRanges s c whole
  if !areaWritable s p area (!awayThreads.isEmpty) ranges then (s, false)
  else
    let s := renameWork (fun k unit task =>
      if clusterOf k == c && (whole || (slots.contains k && task.isNone && unit == (s.thread k).unit)) then savedTag n (k % 128) else k) s
    let tags := away.map (fun k => (k, (s.thread k).unit)) ++ queued.map (fun m => (m.source, m.thread.unit))
    let s := (tags.zip (List.range tags.length)).foldl (fun s e => renameIssuer e.1.2 e.1.1 (savedTag n (128 + e.2)) s) s
    let s := saveParts p area n (saveAway p area awayThreads (saveRecords p c area slots s))
    let check := partPages s p area
    let s := leaveRequests c (saveImage p c area ranges s)
    let cl := s.cluster c
    let ofUnit := fun (u : Option Nat) (task : Option (Nat × Nat)) => whole || (task.isNone && (match u with | some u => us.contains u | none => false))
    let moves := fun (m : CopyCmd) => whole || (m.unit.isSome && m.task.isNone)
    let dirty := cl.stash.filter (fun e => e.2.live && ofUnit e.2.unit e.2.task)
    let saved : SavedCluster :=
      { area := area, cluster := c, whole := whole, threads := slots.map (fun k => (k % 128, s.thread k)), away := awayThreads.map (·.2)
        units := us, check := check
        cores := (s.cores.filter (fun e => e.1 / 16 == c)).map (fun e =>
          (e.1, if whole then e.2.kept else e.2.keptOf ((slots.filter (fun k => coreOf k == e.1)).map localSlot)))
        ox := if whole || oxVacated s c whole || (cl.oxTask.isNone && !slots.isEmpty && cl.ox != cl.ox.cleared) then some cl.ox else none
        oxUnit := cl.oxUnit, oxTask := if whole then cl.oxTask else none
        mule := cl.mule.filter moves
        bufs := cl.bufs.filter (fun e => e.2.live && ofUnit e.2.unit e.2.task), stash := dirty, allocs := ranges }
    let s := dirty.foldl (fun s e => unmapEntry c e.1 s) s
    let cl := s.cluster c
    let mine := fun (m : Migrant) => match m.thread.unit with | some u => us.contains u | none => false
    let s := leaveIdleMules (s.setCluster c { cl with
      bufs := cl.bufs.filter (fun e => !(saved.bufs.any (fun x => x.1 == e.1)))
      mule := cl.mule.filter (fun m => !moves m)
      allocs := if whole then [] else cl.allocs.filter (fun a => !ranges.contains a)
      ox := if saved.ox.isSome then cl.ox.cleared else cl.ox
      oxUnit := none
      oxTask := if whole then none else cl.oxTask })
    let s := (slots ++ away).foldl (fun s k => freeSlotOf k s) s
    let s := { s with
      units := s.units.mapVals (fun u w => if us.contains u then { w with saved := true } else w)
      cores := s.cores.mapVals (fun n x =>
        if n / 16 == c then
          let x := { x with unit := none, arrivals := [] }
          let mine := (slots.filter (fun k => coreOf k == n)).map localSlot
          if whole then { x with tasks := [], ready := [], windows := [], neighbours := [], divides := [] }
          else { x with windows := x.windows.filter (fun e => !mine.contains (e.1 / 4))
                        neighbours := x.neighbours.filter (fun e => !mine.contains (e.1 / 2)) }
        else { x with arrivals := x.arrivals.filter (fun m => !mine m) }) }
    (s.next.setPart p { s.part p with saved := (s.part p).saved.set n saved }, true)

/-! ### The outcomes (R350) -/

/-- A cluster's part has come to its finish (R352). -/
def VacateCluster.done (x : VacateCluster) (accepted now : Nat) : Bool := x.finished && decide (accepted + x.took ≤ now)

/-- A cluster finishes with an outcome, some cycles from now: how many a save or a discard takes is free (R352). -/
def finishCluster (v : VacateCluster) (accepted outcome : Nat) (fail : Bool) (s : State) : State × VacateCluster :=
  ({ dropCode v.cluster s with drawn := s.drawn + 1 },
    { v with draining := false, finished := true, outcome := outcome, fail := fail
             took := s.now - accepted + (Config.vacateCycles s.drawn).toNat })

/-- A cluster saves from now on; where the area cannot be written it discards, or its launches end (R351). -/
def saveOrFail (v : VacateCluster) (accepted : Nat) (whole : Bool) (outcome : Nat) (s : State) : State × VacateCluster :=
  let discard := mayDiscard s v.cluster whole
  match saveCluster v.cluster whole s with
  | (s, true) => finishCluster v accepted outcome false s
  | (s, false) =>
    if discard then finishCluster v accepted 2 true (discardCluster v.cluster whole s)
    else finishCluster v accepted outcome true (loseCluster v.cluster whole s)

/-- An access of a vacated thread waits at its home although its slot went on: an STFF, FEEMPTY or FEMARK behind the grant of
another slot (R200, R351). -/
def savePosted (s : State) (c : Nat) (whole : Bool) : Bool :=
  (vacatedSlots s c whole ++ awaySlots s c (unitsOf s c)).any (postedBy s)

/-- A cluster saves once every access of its threads has been performed: they are at rest until then (R351). -/
def beginSave (v : VacateCluster) (accepted : Nat) (whole : Bool) (outcome : Nat) (s : State) : State × VacateCluster :=
  let s' := if savePosted s v.cluster whole then stillCluster v.cluster whole s else s
  if savePosted s' v.cluster whole then (s', { v with draining := false, saving := some outcome })
  else saveOrFail v accepted whole outcome s'

/-- The choice of one cluster (R350): 0 drain, 1 save, 2 discard, 3 save and report late. -/
def chooseOutcome (s : State) (c d : Nat) (whole : Bool) : Nat :=
  if !(whole && holdsWhole s c) && drainsWithin s c d then 0
  else if (saveBytes s c whole + 255) / 256 + 2048 ≤ d then 1
  else if mayDiscard s c whole then 2
  else 3

/-- What a cluster has chosen comes about. -/
def startOutcome (v : VacateCluster) (accepted : Nat) (whole : Bool) (outcome : Nat) (s : State) : State × VacateCluster :=
  if outcome = 0 then (s, { v with draining := true })
  else if outcome = 2 then finishCluster v accepted 2 false (discardCluster v.cluster whole s)
  else beginSave v accepted whole outcome s

/-- The critical-window word of a cluster is set (R418). -/
def critical (s : State) (p c : Nat) : Bool :=
  match ipaRead s p ((s.prec p 0x70).toNat + 8 * c) with
  | .ok x => bit x 0
  | .error _ => false

/-- A vacate accepted: every named cluster stops dispatch and new arrivals and chooses, each from the state at that moment
(R350), unless CRIT defers a forced one; then the choices come about. -/
def acceptVacate (p : Nat) (cs : List Nat) (d : Nat) (whole forced : Bool) (report : Option Word) (notify : Option Nat) (s : State) :
    State :=
  let s := cs.foldl (fun s c => s.setCluster c { s.cluster c with stopped := true }) s
  let chosen := cs.map (fun c => (c, if forced && critical s p c then none else some (chooseOutcome s c d whole)))
  let step := fun (r : State × List VacateCluster) (e : Nat × Option Nat) =>
    let v : VacateCluster := { cluster := e.1, since := r.1.now }
    match e.2 with
    | none => (r.1.setCluster e.1 { r.1.cluster e.1 with deferral := some 4096 }, r.2 ++ [{ v with deferred := true }])
    | some o =>
      let (s, v) := startOutcome v r.1.now whole o r.1
      (s, r.2 ++ [v])
  let (s, vs) := chosen.foldl step (s, [])
  s.setPart p { s.part p with vacates := (s.part p).vacates ++
    [{ clusters := vs, deadline := d, whole := whole, report := report, notify := notify, accepted := s.now }] }

/-- The fields of a vacate record (R349), none where it is not well formed. -/
def readVacate (s : State) (p ipa : Nat) : Option (List Nat × Nat × Bool × Word × Option Nat) :=
  let w : Nat → Word := fun i => match ipaRead s p (ipa + 8 * i) with | .ok x => x | .error _ => ~~~0
  let cs := (List.range 128).filter (fun c => if c < 64 then bit (w 0) c else bit (w 1) (c - 64))
  if field (w 2) 63 33 ≠ 0 || (w 3).toNat % 16 ≠ 0 || field (w 4) 63 16 ≠ 0 || bit (w 4) 14 || w 5 ≠ 0 || w 6 ≠ 0 || w 7 ≠ 0
      || cs.isEmpty || cs.any (fun c => (s.cluster c).part != some p) then none
  else some (cs, field (w 2) 31 0, bit (w 2) 32, w 3, if bit (w 4) 15 then some (field (w 4) 13 0) else none)

/-- A vacate of the record at an IPA of a partition, on firmware's policy (R349). -/
def execVacateRequest (p record : Nat) (s : State) : Out :=
  match readVacate s p record with
  | none => .next s
  | some (cs, d, whole, report, notify) => .next (acceptVacate p cs d whole false (some report) notify s)

/-! ### What follows -/

/-- The vacates of a partition with one cluster's part changed. -/
def mapVacates (p : Nat) (f : Vacate → VacateCluster → State → State × VacateCluster) (s : State) : State :=
  let vs := (s.part p).vacates
  let (s, vs) := vs.foldl (fun (r : State × List Vacate) v =>
    let (s, cs) := v.clusters.foldl (fun (q : State × List VacateCluster) x =>
      let (s, x) := f v x q.1
      (s, q.2 ++ [x])) (r.1, [])
    (s, r.2 ++ [{ v with clusters := cs }])) (s, [])
  s.setPart p { s.part p with vacates := vs }

/-- A draining cluster with no unit and no vacated thread left has finished, and a save that waits no more takes place (R350,
R351, R352). -/
def drained (p : Nat) (s : State) : State :=
  mapVacates p (fun v x s =>
    if x.draining && (involvedUnits s x.cluster v.whole).isEmpty && (!v.whole || !holdsWhole s x.cluster) then
      (dropCode x.cluster s, { x with draining := false, finished := true, took := s.now - v.accepted })
    else
      match x.saving with
      | some o => if savePosted s x.cluster v.whole then (s, x) else saveOrFail { x with saving := none } v.accepted v.whole o s
      | none => (s, x)) s

/-- A cluster that still drains at its deadline saves from then on (R350). -/
def execDrainDeadlineExpiry (cluster : Nat) (s : State) : Out :=
  let p := s.partOf cluster
  .next (mapVacates p (fun v x s =>
    if x.cluster == cluster && x.draining && decide (x.since + v.deadline ≤ s.now) then
      beginSave x v.accepted v.whole 3 s
    else (s, x))
    (drained p s))

/-- The deferral of a forced move ends when CRIT is cleared or 4,096 fabric cycles have passed; its deadline counts from
then (R418). -/
def execCritDeferralExpiry (cluster : Nat) (s : State) : Out :=
  let p := s.partOf cluster
  match (s.cluster cluster).deferral with
  | none => .next s
  | some n =>
    if n ≠ 0 && critical s p cluster then .next s
    else
      .next (mapVacates p (fun v x s =>
        if x.cluster == cluster && x.deferred then
          startOutcome { x with deferred := false, since := s.now } v.accepted v.whole (chooseOutcome s cluster v.deadline v.whole) s
        else (s, x)) (s.setCluster cluster { s.cluster cluster with deferral := none }))

/-- Entry i of a report (R352). -/
def reportEntry (x : VacateCluster) : Word :=
  BitVec.ofNat 64 (x.cluster + x.outcome * 2 ^ 8 + x.fail.toNat * 2 ^ 10 + x.took % 2 ^ 32 * 2 ^ 32)

/-- The report written at an IPA: the entries, word 1, then word 0, which becomes full last (R352). -/
def writeReport (p ipa : Nat) (v : Vacate) (s : State) : State :=
  let s := putWords p (ipa + 8) (0 :: v.clusters.map reportEntry) s
  match stage2 s p ipa .store with
  | .ok (pa, _) => engineWrite pa (toBytes 8 v.clusters.length) s
  | .error _ => s

/-- The oldest vacate of a partition that has finished reports, and VACATE goes to the notify slot (R352). -/
def execVacateReport (p : Nat) (s : State) : Out :=
  let s := drained p s
  match (s.part p).vacates.find? (fun v => v.clusters.all (·.done v.accepted s.now)) with
  | none => .next s
  | some v =>
    let s := s.setPart p { s.part p with vacates := (s.part p).vacates.erase v }
    let s := match v.report with | some x => writeReport p x.toNat v s | none => s
    match v.notify with
    | some k => .next (if (s.cluster (clusterOf k)).part == some p then post k 0x1B (v.report.getD 0) s else s)
    | none => .next s

/-! ### Restore (R353, R190) -/

/-- A cluster can take a saved state: its own partition's, with its slots and the ranges free, and an ordinary slot for each away
record. -/
def canRestore (s : State) (c : Nat) (x : SavedCluster) : Bool :=
  x.threads.all (fun e => !(s.thread (128 * c + e.1)).busy || (x.whole && e.1 % 8 == 7))
    && (unitsOf s c).isEmpty && x.allocs.all (fun a => (s.cluster c).allocs.all (fun b => !overlap a.1 a.2 b.1 b.2))
    && (x.ox.isNone || oxFree s c)
    && decide (x.away.length ≤ ((clusterSlots c).filter (fun k =>
        localSlot k != 7 && !(s.thread k).occupied && !x.threads.any (fun e => e.1 == k % 128))).length)

/-- A thread put back in a slot: the slot record over the saved thread, the cluster its home, its domain's registers
loaded; a repetition goes on from the point that the record names, before the thread's next instruction. -/
def restoreThread (p c k : Nat) (old : Thread) (w : Nat → Word) (s : State) : State :=
  let t := readRecord old w
  s.setThread k (loadDomain p t.dom s { t with
    occupied := true, home := c
    resumes := old.resumes || (old.rep.isSome && recordPoint w != old.repPoint && bit (recordPoint w) 63) })

/-- The mismatch of a check value: restartable units are discarded, the other launches end as killed, and threads of no unit end
(R296, R353). -/
def restoreFails (p : Nat) (x : SavedCluster) (s : State) : State :=
  let s := dropFramesAway p (x.threads.map (·.2) ++ x.away) s
  (x.units ++ x.threads.filterMap (fun e => e.2.unit) ++ x.away.filterMap (·.unit)).eraseDups.foldl
    (fun s u => if restartable s u then discardUnit u s else loseUnit u s) s

/-- The words of the record of a slot in a save area. -/
def recordWord (s : State) (p at_ i : Nat) : Word :=
  match ipaRead s p (at_ + 8 * i) with
  | .ok x => x
  | .error _ => 0

/-- A thread restored into a slot is checked before it issues: its frames and its root (R306), and its launch, which may have
ended as a killed one meanwhile (R318). -/
def restoreCheck (p k : Nat) (s : State) : State :=
  let s := frameCheck k s
  let dead := (s.thread k).unit.any (fun u => (s.workUnit u).any (fun w =>
    (s.launches p).any (fun l => l.key == w.launch && l.killed)))
  if dead then s.mapThread k (fun t => t.marked s p 2 true) else s

/-- Save n written back from an area onto a cluster (R353). -/
def restoreCluster (p c area n : Nat) (x : SavedCluster) (s : State) : State :=
  let core := fun (n : Nat) => 16 * c + n % 16
  let owner := fun (o : Option (Nat × Nat)) => o.map (fun e => (core e.1, e.2))
  let s := loadImage p c area x.allocs s
  let cl := s.cluster c
  let fresh := 2 ^ 32 * s.serial
  let s := s.next.setCluster c { cl with
    stopped := false
    allocs := cl.allocs ++ x.allocs
    ox := match x.ox with | some o => { o with leave := cl.ox.leave, leaveIdle := cl.ox.leaveIdle } | none => cl.ox
    oxUnit := x.oxUnit
    oxTask := if x.whole then owner x.oxTask else cl.oxTask
    bufs := x.bufs.foldl (fun m e => m.set e.1 { e.2 with task := owner e.2.task }) cl.bufs
    stash := x.stash.foldl (fun m e => m.set e.1 { e.2 with task := owner e.2.task, stale := true }) cl.stash
    mule := cl.mule ++ x.mule.map (fun m => { m.onCluster x.cluster c with number := fresh + m.number }) }
  let s := renameWork (fun k _ _ => if savedTag n 0 ≤ k && k < savedTag n 128 then 128 * c + (k - savedTag n 0) else k) s
  let s := { s with
    cores := x.cores.foldl (fun m e => m.set (core e.1) (e.2.restored (m.get {} (core e.1)) x.whole c)) s.cores
    units := s.units.mapVals (fun u w =>
      if x.units.contains u then { w with saved := false, cluster := c, cores := w.cores.map core } else w) }
  let s := x.units.foldl (fun s u =>
    match s.workUnit u with
    | some w => w.cores.foldl (fun s n => s.setCore n { s.core n with unit := some u }) s
    | none => s) s
  let s := x.threads.foldl (fun s e =>
    restoreThread p c (128 * c + e.1) e.2 (recordWord s p (area + 512 * e.1)) s) s
  let s := ((List.range x.away.length).zip x.away).foldl (fun s e =>
    match ((clusterCores c).findSome? (freeSlot s)) with
    | some k =>
      renameWork (fun x _ _ => if x == savedTag n (128 + e.1) then k else x)
        (restoreThread p c k e.2 (recordWord s p (area + 0x60000 + 512 * e.1)) s)
    | none => s) s
  portChecked p (((clusterSlots c).filter (fun k => (s.thread k).occupied)).foldl (fun s k => restoreCheck p k s) s)

/-- Firmware restores the saved state at a save area onto a cluster of the same partition: what the check values there say is
a save, or else the last save made to that area fails (R353). -/
def execRestore (cluster area : Nat) (s : State) : Out :=
  let p := s.partOf cluster
  let q := s.part p
  if (s.cluster cluster).part.isNone then .next s
  else
    match q.saved.find? (fun e => partsPass s p area e.1 e.2) with
    | some (n, x) =>
      if canRestore s cluster x then
        .next (restoreCluster p cluster area n x (s.setPart p { q with saved := q.saved.erase n }))
      else .next s
    | none =>
      match (q.saved.filter (fun e => e.2.area == area)).getLast? with
      | some (n, x) => .next (restoreFails p x (s.setPart p { q with saved := q.saved.erase n }))
      | none => .next s

end Sys2Proof.Machine
end

