-- ==== Sys2Proof/Machine/Partitions.lean ====
section
/-! DEFINITION. Partitions: borders, moves, tokens, fresh memory, integrity, the service ring, creation (R414-R432). -/
namespace Sys2Proof.Machine

/-! ### Records (R414) -/

/-- A word of a partition's record written by firmware. -/
def setRecord (p off : Nat) (x : Word) (s : State) : State :=
  match (s.part p).record with
  | some a => s.write64 (a + off) x
  | none => s

/-- The partition is live. -/
def State.live (s : State) (p : Nat) : Bool := (s.part p).record.isSome && field (s.prec p 0) 7 6 == 1

/-- Bit n of a pair of words of a record, set or cleared. -/
def setOwned (p off n : Nat) (b : Bool) (s : State) : State :=
  let o := off + n / 64 * 8
  setRecord p o (setField (s.prec p o) (n % 64) (n % 64) b.toNat) s

/-- The clusters that a partition holds. -/
def clustersOf (s : State) (p : Nat) : List Nat := (List.range 128).filter (fun c => (s.cluster c).part == some p)

/-- The live partitions. -/
def livePartitions (s : State) : List Nat := (List.range 32).filter s.live

/-! ### The border controller (R416) -/

def floorOf (s : State) (p : Nat) : Nat := field (s.prec p 0x58) 7 0
def ceilingOf (s : State) (p : Nat) : Nat := field (s.prec p 0x58) 15 8
def weightOf (s : State) (p : Nat) : Nat := field (s.prec p 0x58) 23 16

/-- The demand of a partition: its clusters and the units queued for them, capped. -/
def demandOf (s : State) (p : Nat) : Nat :=
  min (ceilingOf s p)
    ((clustersOf s p).length + ((clustersOf s p).map (fun c => field (s.cluster c).forecast 31 24)).sum)

/-- The target of a partition: its floor and its share of what no floor claims, rounded down (log entry 20). -/
def targetOf (s : State) (p : Nat) : Nat :=
  let ps := livePartitions s
  let free := 128 - (ps.map (floorOf s)).sum
  let claim := fun q => weightOf s q * (demandOf s q - floorOf s q)
  let total := (ps.map claim).sum
  floorOf s p + (if total = 0 then 0 else free * claim p / total)

/-- Clusters that the partition will hold once the marked ones have moved. -/
def heldAfter (s : State) (p : Nat) : Nat :=
  ((List.range 128).filter (fun c => (match (s.cluster c).leaving with | some q => some q | none => (s.cluster c).part) == some p)).length

/-- One cluster is marked to move where its partition holds more than its target and more than its floor, to the lowest
partition that holds fewer than its target. -/
def markCluster (c : Nat) (s : State) : State :=
  let cl := s.cluster c
  match cl.part with
  | none => s
  | some p =>
    if cl.leaving.isSome || heldAfter s p ≤ targetOf s p || heldAfter s p ≤ floorOf s p then s
    else
      match (livePartitions s).find? (fun q => q != p && decide (heldAfter s q < targetOf s q)) with
      | some q => s.setCluster c { cl with leaving := some q, leavingAt := s.now }
      | none => s

/-- A period of 140,000 fabric cycles has begun in which the controller has not run. -/
def borderDue (s : State) : Bool := decide (s.borderRuns < s.now / 140000)

/-- Every 140,000 fabric cycles the border controller marks clusters, those given back first. -/
def execBorderControllerRun (s : State) : Out :=
  if !borderDue s then .next s
  else
  let s := { s with borderRuns := s.now / 140000 }
  let cs := (List.range 128).filter (fun c => (s.cluster c).givenBack) ++ (List.range 128).filter (fun c => !(s.cluster c).givenBack)
  .next (cs.foldl (fun s c => markCluster c s) s)

/-! ### Moves (R417, R420) -/

/-- Migrants on their way to a cluster go on at their sources (R189). -/
def turnBack (c : Nat) (s : State) : State :=
  (((clusterCores c).map (fun n => (s.core n).incoming)).flatten).foldl (fun s m =>
    s.mapThread m.source (fun t => { t with wait := none, noTravel := true })) s

/-- The lines that an agent of the cluster holds. -/
def clusterLines (s : State) (c : Nat) : List (Nat × Nat) :=
  s.coh.agents.filterMap (fun e =>
    if (clusterCores c ++ [2048 + c]).contains (e.1 % 4096) && e.2.copy then some (e.1 % 4096, e.1 / 4096) else none)

/-- The caches of a cluster are written back and invalidated, its instruction caches and TLBs dropped; Ox, windows, buffers and
stash return to reset (R417 step 2). -/
def cleanCluster (c : Nat) (s : State) : State :=
  let s := (clusterLines s c).foldl (fun s e => exchange e.2 (Plane.replace e.1 e.2) s) s
  let s := leaveRequests c (turnBack c s)
  let s := { s with cores := s.cores.filter (fun e => e.1 / 16 != c) }
  engineLeaves (muleNumber c) (s.setCluster c { s.cluster c with
    ox := {}, oxUnit := none, oxTask := none, mule := [], muleHeld := none, bufs := [], stash := [], allocs := [], tlb := [] })

/-- A cluster given to a partition, clean and fresh: its registers, and its urgent slots at the supervisor's vector
(R417 steps 3-5). -/
def giveCluster (c q : Nat) (s : State) : State :=
  let s := freshScratch c 0 0x400000 s
  let s := s.setCluster c { s.cluster c with
    part := some q
    world := BitVec.ofNat 17 (field (s.prec q 0) 31 16 + (bit (s.prec q 0) 5).toNat * 2 ^ 16)
    ctxbase := s.prec q 0x40 + BitVec.ofNat 64 (0x500000 * c)
    leaving := none, givenBack := false, stopped := false, deferral := none, moveReport := 0 }
  (clusterCores c).foldl (fun s n =>
    let t : Thread := { occupied := true, pc := s.prec q 0x18, tstat := 1, home := c }
    s.setThread (8 * n + 7) (t.wg 1 (BitVec.ofNat 64 c))) s

/-- A notice of a border change, with the report of a forced move's save (R428). -/
def borderNotice (p c : Nat) (joined : Bool) (report : Word) (s : State) : State :=
  notice p 5 (BitVec.ofNat 64 (c + joined.toNat * 256)) report s

/-- The cluster holds no work unit, no task and no queued arrival; a slot at HALT is idle (R343). -/
def cleared (s : State) (c : Nat) : Bool :=
  (unitsOf s c).isEmpty && (queuedHere s c).isEmpty
    && (clusterSlots c).all (fun k => localSlot k == 7 || !(s.thread k).busy)
    && (clusterCores c).all (fun n => (s.core n).tasks.all (fun t => t.2.state == .free))

/-- No vacate of the cluster is under way. -/
def settled (s : State) (p c : Nat) : Bool :=
  (s.part p).vacates.all (fun v => v.clusters.all (fun x => x.cluster != c || x.done v.accepted s.now))

/-- A marked cluster that holds nothing more moves: its urgent slots are saved where a forced move has not saved them
already, it is cleaned and given over, and both supervisors are told. -/
def execClusterMove (c : Nat) (s : State) : Out :=
  match (s.cluster c).part, (s.cluster c).leaving with
  | some p, some q =>
    if !cleared s c || !settled s p c || !s.live q then .next s
    else
      let s := if (vacatedSlots s c true).isEmpty then s
        else
          match saveCluster c true s with
          | (s, true) => s
          | (s, false) => loseCluster c true s
      let s := ((clusterSlots c).filter (fun k => (s.thread k).occupied)).foldl (fun s k => dropThread k s) s
      let report := (s.cluster c).moveReport
      let s := setOwned q 0x80 c true (setOwned p 0x80 c false (cleanCluster c s))
      .next (borderNotice q c true 0 (borderNotice p c false report (giveCluster c q s)))
  | _, _ => .next s

/-- A marked cluster that has not moved within 1 ms is vacated whole, with a deadline and a report IPA of firmware's; its move
then goes on (R417, R428). -/
def execForcedMove (c : Nat) (force : ForcedVacate) (s : State) : Out :=
  match (s.cluster c).part, (s.cluster c).leaving with
  | some p, some _ =>
    if s.now < (s.cluster c).leavingAt + 1400000 || !settled s p c then .next s
    else
      .next (acceptVacate p [c] force.deadline true true (if force.report = 0 then none else some force.report) none
        (s.setCluster c { s.cluster c with moveReport := force.report }))
  | _, _ => .next s

/-- The canonical range of a channel: near 0-127, far 128-159 (R153). -/
def channelRange (ch : Nat) : Nat × Nat :=
  if ch < 128 then (ch * 0xC0000000, 0xC0000000) else (0x10000000000 + (ch - 128) * 0x4000000000, 0x4000000000)

/-- The offset and the bit of a channel in a record. -/
def setChannel (p ch : Nat) (b : Bool) (s : State) : State :=
  if ch < 128 then setOwned p 0x90 ch b s else setOwned p 0xA0 (ch - 128) b s

/-- Every line of a channel leaves every slice, L1 and stash without write-back; the channel is fresh, and its pages
follow protocol 1 (R420). -/
def wipeChannel (ch : Nat) (s : State) : State :=
  let (lo, n) := channelRange ch
  let inside := fun (a : Nat) => decide (lo ≤ s.key a) && decide (s.key a < lo + n)
  let c := s.coh
  let coh := { c with
    dir := c.dir.filter (fun e => !inside e.1)
    agents := c.agents.filter (fun e => !inside (e.1 / 4096))
    msgs := c.msgs.filter (fun m => !inside m.line)
    backing := c.backing.filter (fun e => !inside e.1), dram := c.dram.filter (fun e => !inside e.1)
    ids := c.ids.filter (fun e => !((List.range 512).any (fun i => inside (65536 * e.1 + 128 * i)))) }
  let s := freshNow lo n { s with coh := coh }
  { s with pageClear := s.pageClear.dropRange (lo / 65536) ((lo + n) / 65536) }

/-- A leaf entry of stage 2 reaches a channel: the first 64 KiB of a page or a block have a line in each channel that it
reaches (R153). -/
def leafReaches (ch : Nat) (e : Word) (s : State) : Bool :=
  let (lo, n) := channelRange ch
  (List.range 512).any (fun i =>
    let a := s.key (field e 47 16 * 65536 + 128 * i)
    decide (lo ≤ a) && decide (a < lo + n))

/-- The entries of a table of n entries that are valid. -/
def validEntries (base n : Nat) (s : State) (q : Word → Bool) : Bool :=
  (List.range n).any (fun i =>
    let e := s.read64 (base + 8 * i)
    bit e 0 && s2Ok e && q e)

/-- The stage 2 of a partition maps a channel (R160, R420). -/
def mapsChannel (s : State) (ch p : Nat) : Bool :=
  let below := fun (e : Word) => field e 47 16 * 65536
  validEntries (s.prec p 0x08).toNat 64 s (fun e1 => !bit e1 9 && validEntries (below e1) 8192 s (fun e2 =>
    if bit e2 9 then field e2 28 16 == 0 && leafReaches ch e2 s
    else validEntries (below e2) 8192 s (fun e3 => bit e3 9 && leafReaches ch e3 s)))

/-- The partitions that have a record and are not free: live ones and halted ones. -/
def heldPartitions (s : State) : List Nat := (List.range 32).filter (fun p => (s.part p).record.isSome && field (s.prec p 0) 7 6 != 0)

/-- Firmware moves a channel that no partition maps (R420). -/
def execChannelMove (channel part : Nat) (s : State) : Out :=
  if 160 ≤ channel || !s.live part || (heldPartitions s).any (fun q => mapsChannel s channel q) then .next s
  else
    let s := wipeChannel channel s
    let s := (heldPartitions s).foldl (fun s p => if p == part then s else setChannel p channel false s) s
    .next (setChannel part channel true s)

/-! ### Token buckets (R422-R424) -/

/-- A bucket gains its rate; the answer is what overflowed. -/
def refill (slice p : Nat) (s : State) : State × Nat :=
  let x := tokensOf s slice p + tokenRate s p
  let kept := min x (tokenDepth s p)
  ({ s with tokens := s.tokens.set (32 * slice + p) (some kept) }, x - kept)

/-- A stream that waits for a token of a bucket sends its request again. -/
def Thread.takeUp (t : Thread) (body : Bool) (i : Nat) : Thread :=
  match t.waitOf body with
  | some (.token j _) =>
    if i ≠ j then t
    else if body then { t with rep := t.rep.map (fun r => { r with wait := none }) }
    else { t with wait := none }
  | _ => t

/-- n tokens go to the first n deferred requests of a bucket, in order (R423). -/
def giveTokens (i n : Nat) (s : State) : State :=
  let q := s.deferred.get [] i
  if q.isEmpty then s
  else
    (q.take n).foldl (fun s e =>
      let s := s.earn e i 1
      if isSlot e.1 then s.mapThread e.1 (fun t => t.takeUp e.2 i) else s)
      { s with deferred := if q.length ≤ n then s.deferred.erase i else s.deferred.set i (q.drop n) }

/-- Deferred requests are served by the tokens there are. -/
def serveDeferred (slice p : Nat) (s : State) : State :=
  let i := 32 * slice + p
  let n := min (s.deferred.get [] i).length (tokensOf s slice p)
  giveTokens i n { s with tokens := s.tokens.set i (some (tokensOf s slice p - n)) }

/-- Deferred requests of an empty bucket are served by tokens that it borrows (R424). The fuel is the length of its queue. -/
def borrowDeferred (slice p : Nat) : Nat → State → State
  | 0, s => s
  | fuel + 1, s =>
    if tokensOf s slice p ≠ 0 || (s.deferred.get [] (32 * slice + p)).isEmpty then s
    else
      match borrowToken slice p s with
      | some s => borrowDeferred slice p fuel (giveTokens (32 * slice + p) 1 s)
      | none => s

/-- A window of 256 fabric cycles has begun in which the buckets of a slice have not gained their tokens (R422). -/
def refillDue (s : State) (slice : Nat) : Bool := decide (s.refills.get 0 slice < s.now / 256)

/-- Every 256 fabric cycles the buckets of a slice refill (R422), deferred requests are served (R423), and what overflows may be
borrowed until the next refill (R424). -/
def execTokenRefill (slice : Nat) (s : State) : Out :=
  if !refillDue s slice then .next s
  else
    let ps := livePartitions s
    let other := fun (m : SMap Nat) => m.filter (fun e => e.1 / 32 != slice)
    let s := { s with refills := s.refills.set slice (s.now / 256), spill := other s.spill, borrowed := other s.borrowed }
    let s := ps.foldl (fun (s : State) p =>
      let (s, n) := refill slice p s
      { s with spill := if n = 0 then s.spill else s.spill.set (32 * slice + p) n }) s
    let s := ps.foldl (fun s p => serveDeferred slice p s) s
    .next (ps.foldl (fun s p => borrowDeferred slice p 32 s) s)

/-! ### Fresh memory (R425, R426) -/

/-- A 64 KiB page of DRAM by its number is fresh no more; it reads as zero before and after. -/
def clearPage (page : Nat) (s : State) : State :=
  if isScratch (65536 * page) || s.pageClear.get 0 page = 2 then s else { s with pageClear := s.pageClear.set page 2 }

/-- The bit of a GiB of DRAM (R425): no page of it has been touched, and each of its page bits counts as set. -/
def gibFresh (s : State) (gib : Nat) : Bool := s.pageClear.all (fun e => e.1 / 16384 != gib || e.2 == 0)

def execFreshPageClearComplete (page : Nat) (s : State) : Out := .next (clearPage page s)
def execBackgroundClear (page : Nat) (s : State) : Out := .next (clearPage page s)

/-- The bank has cleared a fresh unit for its first write. -/
def execScratchpadUnitClear (cluster unit : Nat) (s : State) : Out :=
  if 128 ≤ cluster || 1024 ≤ unit then .next s
  else .next (s.setCluster cluster { s.cluster cluster with clear := (s.cluster cluster).clear.set unit true })

/-! ### Integrity and outward transfers (R432) -/

def State.hostFn (s : State) (n : Nat) : HostFn := s.hostFns.get {} n
def State.setHostFn (s : State) (n : Nat) (f : HostFn) : State := { s with hostFns := s.hostFns.set n f }

/-- A word of host memory. -/
def hostWord (s : State) (a : Nat) : Word :=
  BitVec.ofNat 64 (ofBytes ((List.range 8).map (fun i => Memory.get s.hostMem (a + i))))
def putHostWord (a : Nat) (x : Word) (s : State) : State :=
  { s with hostMem := Memory.setAll s.hostMem (((List.range 8).map (a + ·)).zip (toBytes 8 x.toNat)) }

/-- A transfer reaches the host. -/
def sendNow (fn : Nat) (o : Outward) (s : State) : State :=
  match o with
  | .result a x => putHostWord a x s
  | .answer x => s.setHostFn fn { s.hostFn fn with completion := some x }
  | .interrupt => s.setHostFn fn { s.hostFn fn with msix := true }

/-- Nothing holds back what a function sends: no check of its world is in flight, and nothing waits before it. -/
def mayLeave (s : State) (fn : Nat) : Bool :=
  match (s.hostFn fn).bound with
  | some p => (s.hostFn fn).outward.isEmpty && s.checks.all (fun c => c.2 != p)
  | none => true

/-- A transfer leaves for the host, or waits for the checks of its world. -/
def sendOut (fn : Nat) (o : Outward) (s : State) : State :=
  if mayLeave s fn then sendNow fn o s
  else s.setHostFn fn { s.hostFn fn with outward := (s.hostFn fn).outward ++ [o] }

/-- What the functions of a world have to send: none in a halted one. -/
def takeOutward (p : Nat) (s : State) : State × List (Nat × Outward) :=
  let mine := s.hostFns.filter (fun e => e.2.bound == some p)
  ({ s with hostFns := s.hostFns.mapVals (fun _ f => if f.bound == some p then { f with outward := [] } else f) },
    (mine.map (fun e => e.2.outward.map (fun o => (e.1, o)))).flatten)

/-- With its last check passed, what a world has to send leaves in order. -/
def releaseOutward (p : Nat) (s : State) : State :=
  if s.checks.any (fun c => c.2 == p) then s
  else
    let (s, l) := takeOutward p s
    l.foldl (fun s e => sendNow e.1 e.2 s) s

/-- Every slot of a cluster stops at once, and keeps nothing (R432). -/
def clearSlots (c : Nat) (s : State) : State :=
  let mine := fun (k : Nat) => clusterOf k == c
  let s := (((s.threads.filter (fun e => mine e.1 && e.2.occupied)).map (·.1)).foldl (fun s k => revoke k (withdraw k s)) s)
  { s with
    threads := s.threads.filter (fun e => !mine e.1)
    held := s.held.mapVals (fun _ l => l.filter (fun x => !mine x.slot)) }

/-- The lines of a world leave every L1, stash and slice without write-back: what was written to them since they were filled is
lost (R432). -/
def loseLines (mine : Nat → Bool) (s : State) : State :=
  let c := s.coh
  let s := (c.dram.filter (fun e => mine e.1)).foldl (fun s e =>
    if s.lineData e.1 == e.2 then s
    else ((s.writeBytes e.1 e.2.bytes).setSideband e.1 (e.2.side.getD 0 0)).setSideband (e.1 + 64) (e.2.side.getD 1 0)) s
  { s with coh := { c with
    dir := c.dir.filter (fun e => !mine e.1), agents := c.agents.filter (fun e => !mine (e.1 / 4096))
    msgs := c.msgs.filter (fun m => !mine m.line), backing := c.backing.filter (fun e => !mine e.1)
    dram := c.dram.filter (fun e => !mine e.1) } }

/-- The world of a partition is halted, and firmware is told (R432). -/
def haltWorld (p : Nat) (s : State) : State :=
  let cs := clustersOf s p
  let s := cs.foldl (fun s c => clearSlots c s) s
  let s := loseLines (fun l => s.reachable p false l) s
  let s := cs.foldl (fun s c => freshScratch c 0 0x400000 (cleanCluster c s)) s
  let s := s.mapSteppe p (fun x => { x with queue := [], waiting := [], owed := [] })
  let s := s.setPart p { s.part p with halted := true, launches := [], vacates := [] }
  let s := (takeOutward p { s with units := s.units.filter (fun e => e.2.part != p) }).1
  tellFirmware { cause := 0x16, detail := p } (setRecord p 0 (setField (s.prec p 0) 7 6 2) s)

/-- The integrity check of a block ends: a good one lets outward transfers go on, a failed one halts the world (R432). -/
def execIntegrityCheckComplete (block : Nat) (good : Bool) (s : State) : Out :=
  match s.checks.find? (fun c => c.1 == block) with
  | none => .next s
  | some (_, p) =>
    let s := { s with checks := s.checks.filter (fun c => c.1 != block) }
    .next (if good then releaseOutward p s else haltWorld p { s with checks := s.checks.filter (fun c => c.2 != p) })

/-- Firmware releases a line that an impossible row has stopped: it resets the line, or halts the world that owns it (R371). -/
def execLineReset (release : LineRelease) (s : State) : Out :=
  if (s.coh.stopOf release.line).isNone then .next s
  else if release.halt then .next (haltWorld (ownerOf s release.line) s)
  else .next (exchange release.line (Plane.reset release.line) s)

/-! ### The service ring (R415) -/

/-- The entry at the head of the ring, by its IPA, where one waits. -/
def serviceEntry (s : State) (p : Nat) : Option Nat :=
  let ring := (s.prec p 0x68).toNat
  match ipaRead s p (ring + 0x1000), ipaRead s p (ring + 0x1008) with
  | .ok tail, .ok head => if tail = head then none else some (ring + 64 * (head.toNat % 64))
  | _, _ => none

/-- Firmware writes the status of an entry with STFF and advances the head. -/
def serviceDone (p entry : Nat) (st : Int) (s : State) : State :=
  let ring := (s.prec p 0x68).toNat
  let s := match stage2 s p (entry + 0x30) .store with
    | .ok (pa, _) => engineWrite pa (toBytes 8 (status st).toNat) s
    | .error _ => s
  match ipaRead s p (ring + 0x1008) with
  | .ok head => putWords p (ring + 0x1008) [head + 1] s
  | .error _ => s

/-- Firmware serves the entry at the head where it has this code: −2 for a malformed operand, −1 refused by policy, 0
once the change is made. Any of these events answers a code that is not listed with −2. -/
def service (p code : Nat) (granted : Bool) (ok : State → Word → Bool) (change : State → Word → State) (s : State) : Out :=
  match serviceEntry s p with
  | none => .next s
  | some e =>
    match ipaRead s p e, ipaRead s p (e + 8) with
    | .ok x, .ok operand =>
      let c := field x 7 0
      if c = 0 || 5 < c then .next (serviceDone p e (-2) s)
      else if c ≠ code then .next s
      else if !ok s operand then .next (serviceDone p e (-2) s)
      else if !granted then .next (serviceDone p e (-1) s)
      else .next (serviceDone p e 0 (change s operand))
    | _, _ => .next s

/-- Code 1: a vacate without WHOLE, on the record at an IPA. -/
def execServiceVacate (part : Nat) (granted : Bool) (s : State) : Out :=
  service part 1 granted
    (fun s x => match readVacate s part x.toNat with | some (_, _, whole, _, _) => !whole | none => false)
    (fun s x => match readVacate s part x.toNat with
      | some (cs, d, _, report, notify) => acceptVacate part cs d false false (some report) notify s
      | none => s) s

/-- Code 2: the full/empty limits. -/
def execServiceFeLimits (part : Nat) (granted : Bool) (s : State) : Out :=
  service part 2 granted
    (fun _ x => field x 31 8 == 0 && field x 63 57 == 0 && field x 7 0 != 0
      && decide (1024 ≤ field x 56 32) && decide (field x 56 32 ≤ 16777216))
    (fun s x => setRecord part 0x30 x s) s

/-- The sum of the floors of the live partitions but one (R416). -/
def floorsBut (s : State) (p : Nat) : Nat := (((livePartitions s).filter (· != p)).map (floorOf s)).sum

/-- Code 3: the service target. Firmware grants none whose floor takes the sum of the floors above 128 (R416). -/
def execServiceTarget (part : Nat) (granted : Bool) (s : State) : Out :=
  service part 3
    (granted && (match serviceEntry s part with
      | some e => (match ipaRead s part (e + 8) with | .ok x => decide (floorsBut s part + field x 7 0 ≤ 128) | .error _ => false)
      | none => false))
    (fun _ x => decide (field x 7 0 ≤ 128) && decide (field x 15 8 ≤ 128) && field x 23 16 != 0 && field x 63 24 == 0)
    (fun s x => setRecord part 0x58 x s) s

/-- Code 4: the bars. -/
def execServiceBars (part : Nat) (granted : Bool) (s : State) : Out :=
  service part 4 granted (fun _ x => field x 63 4 == 0) (fun s x => setRecord part 0x48 x s) s

/-- Code 5: a cluster given back. -/
def execServiceGiveBack (part : Nat) (granted : Bool) (s : State) : Out :=
  service part 5 granted
    (fun s x => field x 63 7 == 0 && (s.cluster (field x 6 0)).part == some part)
    (fun s x => s.setCluster (field x 6 0) { s.cluster (field x 6 0) with givenBack := true }) s

/-! ### Creation (R429, R430, R417) -/

/-- A record names a cluster that a partition holds, or a channel that a live partition owns (R27). -/
def overlapsOwners (s : State) (record : Nat) : Bool :=
  let w := fun (o : Nat) => s.raw64 (record + o)
  (List.range 128).any (fun c => bit (w (0x80 + c / 64 * 8)) (c % 64) && (s.cluster c).part.isSome) ||
    (livePartitions s).any (fun q => s.prec q 0x90 &&& w 0x90 != 0 || s.prec q 0x98 &&& w 0x98 != 0 || zext (s.prec q 0xA0 &&& w 0xA0) 32 != 0)

/-- A record keeps the bounds that firmware keeps over all partitions: WMIN no more than WMAX and at most 15 in sum, floors at
most 128 in sum (R416, R421). -/
def boundsKept (s : State) (record : Nat) : Bool :=
  let llc := s.raw64 (record + 0x60)
  let most := if field llc 12 8 = 0 then 16 else min 16 (field llc 12 8)
  decide (field llc 4 0 ≤ most)
    && decide (((livePartitions s).map (wmin s)).sum + field llc 4 0 ≤ 15)
    && decide (((livePartitions s).map (floorOf s)).sum + field (s.raw64 (record + 0x58)) 7 0 ≤ 128)

/-- Firmware creates a partition of the record at a physical address, under a world identifier that no partition has had
since reset; the security processor makes its key. The clusters that the record names join it, and a host function is bound to
it (log entry 21). What another partition owns is given to no second one (R27). -/
def execPartitionCreation (part record world : Nat) (s : State) : Out :=
  if 32 ≤ part || world = 0 || 65536 ≤ world || s.usedWorlds.contains world || s.live part || overlapsOwners s record
      || s.stopped || !boundsKept s record then .next s
  else
    let s := { s with usedWorlds := s.usedWorlds ++ [world] }
    let s := { s with parts := s.parts.set part { record := some record, key := s.serial, debugOn := (s.part part).debugOn } }.next
    let w0 := s.prec part 0
    let s := setRecord part 0 (BitVec.ofNat 64 (part + (bit w0 5).toNat * 32 + 64 + world * 65536)) s
    let cs := (List.range 128).filter (fun c => bit (s.prec part (0x80 + c / 64 * 8)) (c % 64))
    let s := cs.foldl (fun s c => borderNotice part c true 0 (giveCluster c part s)) s
    let fn := s.hostFns.get {} part
    .next { s with hostFns := s.hostFns.set part { fn with bound := some part, dmaLen := 2 ^ 64, bar2 := 2 ^ 40 } }

end Sys2Proof.Machine
end

