-- ==== Sys2Proof/Machine/HostLink.lean ====
section
/-! DEFINITION. The host link: command queues, BARs, attestation (R433-R439). -/
namespace Sys2Proof.Machine

/-! ### The queue's programming (R437, R439) -/

/-- QSIZE is a power of two from 16 to 4096. -/
def sizeOk (x : Word) : Bool := (List.range 9).any (fun i => x.toNat == 16 * 2 ^ i)

/-- The ring lies in the DMA window of the function. -/
def ringInWindow (f : HostFn) : Bool :=
  decide (f.dmaBase ≤ f.qbase.toNat) && decide (f.qbase.toNat + 64 * f.qsize.toNat ≤ f.dmaBase + f.dmaLen)

/-- The cause of the first check of the programming that fails; `moved` says that QBASE or QSIZE is being written. -/
def programmingFault (f : HostFn) (moved : Bool) : Option Nat :=
  if f.qbase.toNat % 64 ≠ 0 || !ringInWindow f then some 1
  else if !sizeOk f.qsize then some 2
  else if f.qsize.toNat < (f.qwr - f.qrd).toNat then some 3
  else if moved && f.qwr != f.qrd then some 4
  else none

/-- The queue state kept in the record at +0xA8 (R434, R437). -/
def recordQueue (p st : Nat) (s : State) : State := setRecord p 0xA8 (setField (s.prec p 0xA8) 33 32 st) s

/-- A queue enters state 3 with a cause and raises MSI-X vector 0 of its function (R439). -/
def failQueue (fn p cause : Nat) (f : HostFn) (s : State) : State :=
  sendOut fn .interrupt (recordQueue p 3 (s.setHostFn fn { f with qstate := 3, cause := cause }))

/-- A queue register written: the checks of R439. An unbound function takes no write (R435). -/
def writeQueue (n : Nat) (moved : Bool) (put : HostFn → HostFn) (s : State) : Out :=
  match (s.hostFn n).bound with
  | none => .next s
  | some p =>
    let f := put (s.hostFn n)
    match programmingFault f moved with
    | some c => .next (failQueue n p c f s)
    | none => .next (s.setHostFn n f)

def execQwr (fn : Nat) (value : BitVec 64) (s : State) : Out :=
  writeQueue fn false (fun f => { f with qwr := value.setWidth 32 }) s
def execQbase (fn : Nat) (value : BitVec 64) (s : State) : Out := writeQueue fn true (fun f => { f with qbase := value }) s
def execQsize (fn : Nat) (value : BitVec 64) (s : State) : Out :=
  writeQueue fn true (fun f => { f with qsize := zext value 13 }) s

/-- The number by which a function's entry stands in a page request. -/
def hostTag (fn : Nat) : Nat := 2 ^ 62 + fn

/-- The entry at the head of a queue leaves its page request. -/
def leaveEntry (fn : Nat) (s : State) : State :=
  match (s.hostFn fn).bound, (s.hostFn fn).request with
  | some p, some n => leaveEngine p n (hostTag fn) (s.setHostFn fn { s.hostFn fn with request := none })
  | _, _ => s

/-- A queue keyed from an established session: E is 1, the state running, and every unconsumed entry discarded (R434); state 3 is
left only with valid programming (R439). -/
def execQueueKeying (fn : Nat) (s : State) : Out :=
  let s := leaveEntry fn s
  let f := s.hostFn fn
  match f.bound with
  | some p =>
    if !f.spdm.established then .next s
    else
      let f := { f with qrd := f.qwr, keyed := true, expected := 1 }
      if f.qstate = 3 && (programmingFault f false).isSome then .next (s.setHostFn fn f)
      else .next (recordQueue p 0 (s.setHostFn fn { f with qstate := 0, cause := 0 }))
  | none => .next s

/-! ### Entries (R434, R438) -/

/-- Where the next entry lies. -/
def nextEntry (f : HostFn) : Nat := f.qbase.toNat + 64 * (f.qrd.toNat % f.qsize.toNat)

/-- A count of the record that saturates at 0xFFFF. -/
def bumpCount (p lo : Nat) (s : State) : State :=
  let x := s.prec p 0xA8
  setRecord p 0xA8 (setField x (lo + 15) lo (min 0xFFFF (field x (lo + 15) lo + 1))) s

/-- What an entry's effect answers: a new state and a result, or a wait that leaves the entry where it is. -/
inductive EntryResult where
  | done (s : State) (x : Word)
  | waits (s : State)

/-- A function of the host as a requester: an uncached one on IO die 0 (R11, R357). -/
def hostCtx (fn p : Nat) : Ctx := { part := p, io := some 0, engine := some (hostNumber fn) }

/-- The context of an entry: level S, the named domain (R438). -/
def entryCtx (fn p : Nat) (dom : BitVec 12) : Ctx := { hostCtx fn p with dom := dom, level := 1 }

/-- An access of an entry as its result: a demand fault makes a page request, on whose reply the entry waits; another
fault gives a result that no rule states. -/
def entryOutcome (fn p seq : Nat) (s : State) (r : Except Stop (State × Word)) : EntryResult :=
  match r with
  | .ok (s, x) => .done s x
  | .error (.demand va dom kind _) =>
    let (n, s) := joinEngine p (hostTag fn) va dom kind s
    .waits (s.setHostFn fn { s.hostFn fn with request := some n })
  | .error (.wait w) => .waits (engineWaits (hostNumber fn) (some w) s)
  | .error (.trap _) => .done s (Config.hostFault fn seq)

/-- The table entries of stage 2 that an access of the host needs are read at their homes (R165, R357). -/
def hostWalk (fn p ipa n : Nat) (s : State) : Except Stop State :=
  ([ipa, ipa + n - 1].filterMap (fun x => match stage2Leaf s p x with | .ok (_, _, l) => some l | .error _ => none)).flatten.eraseDups.foldlM
    (fun s l => walkerRead (hostCtx fn p) ipa l s) s

/-- STFF at system scope on an IPA (R192, R438). A sealed line refuses it: the write is dropped and counted (R379). -/
def hostStore (fn p seq ipa : Nat) (x : Word) (s : State) : EntryResult :=
  match stage2 s p ipa .store with
  | .error _ => .done s (Config.hostFault fn seq)
  | .ok (pa, _) =>
    if ipa % 8 ≠ 0 || !s.reachable p false pa then .done s (Config.hostFault fn seq)
    else
      let me := (hostCtx fn p).me s
      match heldBack s me pa 8 with
      | some w => .waits (takePlace (hostNumber fn, false) w s)
      | none =>
      match hostWalk fn p ipa 8 s >>= lineAccess (hostCtx fn p) 0 (pa / 128 * 128) ipa mATOM {} with
      | .ok (s, _) => .done (performedBy me pa 8 (examineWord pa (fePerform .stff pa x s).1)) 0
      | .error (.wait w) => .waits (engineWaits (hostNumber fn) (some w) s)
      | .error _ => .done (countRefused (sliceOf s p pa) s) 0

/-- The effect of an entry of a code: 1 LAUNCH, 2 DEPDEC, 3 STFF; another code or reserved bits give −2 (R438). -/
def performEntry (fn p at_ : Nat) (s : State) : EntryResult :=
  let seq := (hostWord s at_).toNat
  let ctl := hostWord s (at_ + 8)
  let a := hostWord s (at_ + 0x10)
  let b := hostWord s (at_ + 0x18)
  let code := field ctl 7 0
  let dom : BitVec 12 := ctl.extractLsb' 8 12
  if field ctl 63 20 ≠ 0 || hostWord s (at_ + 0x28) ≠ 0 || code = 0 || 3 < code || (code ≤ 2 && b ≠ 0) then .done s (status (-2))
  else if code = 1 then entryOutcome fn p seq s (launchStep (entryCtx fn p dom) a.toNat s)
  else if code = 2 then entryOutcome fn p seq s (depdecStep (entryCtx fn p dom) a.toNat s)
  else hostStore fn p seq a.toNat b s

/-- An entry performed, once the reply to its page request allows it: a refusal ends it with a result that no rule
states. -/
def entryTurn (fn p at_ : Nat) (s : State) : EntryResult :=
  match (s.hostFn fn).request with
  | none => performEntry fn p at_ s
  | some n =>
    match replyOf s p n with
    | none => .waits s
    | some r =>
      let s := leaveEntry fn s
      if r = 0 then performEntry fn p at_ s else .done s (Config.hostFault fn (hostWord s at_).toNat)

/-- The next entry of a queue, handled where it holds this code or none of the listed ones (R434): the order of its
number decides, then its tag. -/
def consumeEntry (fn code : Nat) (s : State) : State :=
  let f := s.hostFn fn
  match f.bound with
  | none => s
  | some p =>
    if f.qstate ≠ 0 || !f.keyed || f.qrd == f.qwr || (s.part p).halted || (programmingFault f false).isSome then s
    else
      let e := nextEntry f
      let seq := (hostWord s e).toNat
      let c := field (hostWord s (e + 8)) 7 0
      let skip := fun (s : State) => s.setHostFn fn { s.hostFn fn with qrd := f.qrd + 1 }
      if Config.ringRefused fn s.drawn then failQueue fn p 5 f { s with drawn := s.drawn + 1 }
      else if 1 ≤ c && c ≤ 3 && c ≠ code then s
      else if seq < f.expected then skip (bumpCount p 0 s)
      else if 2 ^ 63 ≤ seq then s
      else if f.expected < seq then recordQueue p 1 (s.setHostFn fn { f with qstate := 1 })
      else if !Config.tagPasses fn seq s.drawn then skip (bumpCount p 16 { s with drawn := s.drawn + 1 })
      else
        match entryTurn fn p e s with
        | .waits s => s
        | .done s x =>
          let s := sendOut fn (.result (e + 0x20) x) { s with drawn := s.drawn + 1 }
          let st := if f.expected + 1 = 2 ^ 63 then 2 else 0
          recordQueue p st (s.setHostFn fn { s.hostFn fn with qrd := f.qrd + 1, expected := f.expected + 1, qstate := st })

def execHostqLaunch (fn : Nat) (s : State) : Out := .next (consumeEntry fn 1 s)
def execHostqDepdec (fn : Nat) (s : State) : Out := .next (consumeEntry fn 2 s)
def execHostqStff (fn : Nat) (s : State) : Out := .next (consumeEntry fn 3 s)

/-! ### BAR 2 and BAR 4 (R436) -/

/-- The physical address of each byte of an access at an IPA, none where stage 2 or ownership refuses one. -/
def hostBytes (s : State) (p ipa n : Nat) (k : Access) : Option (List Nat) :=
  let l := (List.range n).map (fun i =>
    match stage2 s p (ipa + i) k with
    | .ok (pa, _) => if s.reachable p false pa then some pa else none
    | .error _ => none)
  if l.all Option.isSome then some (l.filterMap id) else none

/-- The lines of an access with the bytes of each: the physical addresses, ascending. -/
def hostLines (pas : List Nat) : List (Nat × List Nat) :=
  ((pas.map (fun a => a / 128 * 128)).eraseDups).map (fun l => (l, pas.filter (fun a => a / 128 * 128 == l)))

/-- Bytes read by the host as an uncached requester (R357), line by line. -/
def hostLoad (fn p ipa : Nat) (pas : List Nat) (s : State) : Except Stop (State × List Byte) :=
  do
    let s ← hostWalk fn p ipa pas.length s
    (hostLines pas).foldlM (fun (r : State × List Byte) l => do
      let (s, v) ← lineAccess (hostCtx fn p) 0 l.1 ipa mUREAD { reads := some (l.2.headD 0 - l.1, l.2.length) } r.1
      .ok (s, r.2 ++ v.bytes s (l.2.headD 0) l.2.length)) (s, [])

/-- Bytes written by the host, line by line, each behind the grants of its words (R211); a write that a sealed line refuses is
dropped and counted (R379). -/
def hostWrite (fn p ipa : Nat) (data : List (Nat × Byte)) (s : State) : Except Stop State := do
  let s ← hostWalk fn p ipa data.length s
  let me := (hostCtx fn p).me s
  (hostLines (data.map (·.1))).foldlM (fun s l =>
    let at_ := l.2.headD 0
    let run := (at_ - l.1, (data.filter (fun e => l.2.contains e.1)).map (·.2))
    match heldBack s me at_ l.2.length with
    | some w => .error (.wait (.word w))
    | none =>
      match lineAccess (hostCtx fn p) 0 l.1 ipa mUWRITE { bytes := [run] } s with
      | .ok (s, _) => .ok (performedBy me at_ l.2.length s)
      | .error (.trap _) => .ok (performedBy me at_ l.2.length (countRefused (sliceOf s p l.1) s))
      | .error e => .error e) s

/-- The completion of a request leaves when it may (R432). -/
def answerHost (fn : Nat) (x : Completion) (s : State) : State := sendOut fn (.answer x) s

/-- An access of the host to the bytes of n addresses from an IPA. -/
def bar2Access (fn p ipa n : Nat) (data : Option (List Byte)) (pas : List Nat) (s : State) : Except Stop (State × Completion) :=
  match data with
  | none => (hostLoad fn p ipa pas s).map (fun r => (r.1, .data r.2))
  | some l => (hostWrite fn p ipa (pas.zip (l.take n)) s).map (fun s => (s, .data []))

/-- The sideband of the block at an IPA, as four bytes. -/
def sidebandAccess (fn p ipa : Nat) (pas : List Nat) (s : State) : Except Stop (State × Completion) := do
  let pa := pas.headD 0
  let s ← hostWalk fn p ipa 1 s
  let (s, v) ← lineAccess (hostCtx fn p) 0 (pa / 128 * 128) ipa mUREAD { reads := some (pa % 128 / 64 * 64, 64) } s
  .ok (s, .data (toBytes 4 (v.sideband s pa).toNat))

/-- A request `i` of the host that passes through stage 2: what that refuses completes as Completer Abort; what must wait for a
token, a line or a grant the device keeps until it is performed (R211, R423, R436). -/
def hostAccess (i : Instr) (fn p ipa n : Nat) (k : Access) (f : List Nat → State → Except Stop (State × Completion)) (s : State) : Out :=
  match hostBytes s p ipa n k with
  | none => .next (answerHost fn .abort s)
  | some pas =>
    match f pas s with
    | .ok (s, x) => .next (answerHost fn x { s with coreRequests := s.coreRequests.erase i })
    | .error (.wait w) => .next (engineWaits (hostNumber fn) (some w)
        { s with coreRequests := if s.coreRequests.contains i then s.coreRequests else s.coreRequests ++ [i] })
    | .error _ => .next (answerHost fn .abort s)

/-- The registers of BAR 0 by their offsets (R437). -/
def hostRegister (s : State) (fn off : Nat) : Nat :=
  let f := s.hostFn fn
  match off with
  | 0x0000 => s.ready.toNat + f.bound.isSome.toNat * 2 + s.bringUpError % 256 * 2 ^ 8 + f.bound.getD 0 % 32 * 2 ^ 16
  | 0x0100 => f.qbase.toNat
  | 0x0108 => f.qsize.toNat
  | 0x0110 => f.qwr.toNat
  | 0x0118 => f.qrd.toNat
  | 0x0120 => f.qstate % 4 + f.keyed.toNat * 4 + f.cause % 256 * 2 ^ 8
  | _ => 0

/-- n bytes read from BAR 0. -/
def registerBytes (s : State) (fn addr n : Nat) : List Byte :=
  (List.range n).map (fun i => BitVec.ofNat 8 (hostRegister s fn ((addr + i) / 8 * 8) / 2 ^ (8 * ((addr + i) % 8))))

/-- A write to BAR 0: QBASE, QSIZE and QWR take it, every other register discards it. -/
def registerWrite (fn addr : Nat) (l : List Byte) (s : State) : Out :=
  let x := BitVec.ofNat 64 (ofBytes l)
  if addr = 0x100 then execQbase fn x s else if addr = 0x108 then execQsize fn x s
  else if addr = 0x110 then execQwr fn x s else .next s

/-- The function answers requests through its BARs (R435); after a bring-up error function 0's registers alone do (R440). -/
def answersBars (s : State) (fn bar : Nat) : Bool := if s.ready then (s.hostFn fn).bound.isSome else fn == 0 && bar == 0

/-- A request of the host to a BAR of a function (R435-R437), or to its configuration space (log entry 22: number 7). Bytes
beyond the BAR, and a BAR that the function does not have, complete as Unsupported Request. -/
def execHostBar2Access (fn : Nat) (place : BarPlace) (size : Nat) (data : Option (List (BitVec 8))) (s : State) : Out :=
  let bar := place.bar
  let addr := place.addr
  let p := (s.hostFn fn).bound.getD 0
  let top := (s.hostFn fn).bar2
  if bar = 7 then
    .next (answerHost fn (.data (if data.isSome then [] else (List.range size).map (fun i => Config.pcieConfig fn (addr + i)))) s)
  else if !answersBars s fn bar then .next (answerHost fn .unsupported s)
  else if bar = 0 && decide (addr + size ≤ 65536) then
    match data with
    | none => .next (answerHost fn (.data (registerBytes s fn addr size)) s)
    | some l => registerWrite fn addr l s
  else if bar = 2 && decide (addr + size ≤ top) then
    hostAccess (.hostBar2Access fn place size data) fn p addr size (if data.isSome then .store else .load)
      (bar2Access fn p addr size data) s
  else if bar = 4 && data.isSome && decide (addr + size ≤ top / 16) then .next s
  else .next (answerHost fn .unsupported s)

/-- A 32-bit read of BAR 4: the sideband of the block at 16 times the offset. -/
def execHostSidebandRead (fn addr : Nat) (s : State) : Out :=
  let p := (s.hostFn fn).bound.getD 0
  if !answersBars s fn 4 || (s.hostFn fn).bar2 ≤ 16 * addr || addr % 4 ≠ 0 then .next (answerHost fn .unsupported s)
  else hostAccess (.hostSidebandRead fn addr) fn p (16 * addr) 1 .load (sidebandAccess fn p (16 * addr)) s

/-! ### Attestation (R433) -/

/-- The configuration of a function's partition, the item of measurement 5. -/
def configurationOf (s : State) (fn : Nat) : List Nat :=
  match (s.hostFn fn).bound with
  | none => []
  | some p =>
    [p, field (s.prec p 0) 31 16, (bit (s.prec p 0) 5).toNat, (s.prec p 0x80).toNat, (s.prec p 0x88).toNat,
      (s.prec p 0x90).toNat, (s.prec p 0x98).toNat, (s.prec p 0xA0).toNat, (s.prec p 0x48).toNat, (s.prec p 0x58).toNat]
      ++ (s.bundles.map (fun b => (b.2.owned p).map (fun g => 16 * b.1 + g))).flatten

/-- The content of a protocol table as numbers. -/
def ProtoTable.numbers (t : ProtoTable) : List Nat :=
  [t.mca.toNat] ++ t.homeClass ++ t.agentClass ++ (t.home ++ t.agent).map (fun e => e.2.toNat)

/-- The item of a measurement (R433): the firmware images and the partition manager's policy, which are free values; the loaded
tables; the function's configuration; the debug setting of R431. -/
def measuredItem (s : State) (fn i : Nat) : List Nat :=
  match i with
  | 1 | 2 | 4 => Config.firmwareItem i
  | 3 => (s.coh.tables.map (fun e => match e.2 with | some t => e.1 :: t.numbers | none => [])).flatten
  | 5 => configurationOf s fn
  | 6 => ((s.hostFn fn).bound.map (fun p => (s.part p).debugOn.toNat)).toList
  | _ => []

/-- The measurement of an index, 1 to 6. -/
def measurement (s : State) (fn i : Nat) : Nat := Config.digest (i :: measuredItem s fn i)

/-- An answer of a responder, after a bring-up error of function 0's alone (R440); a request out of its order gets the error UnexpectedRequest (PRESUMED from SPDM 1.4; log
entry 23). -/
def spdm (fn : Nat) (ok : Spdm → Bool) (answer : State → Spdm → Spdm) (s : State) : Out :=
  if 32 ≤ fn || (!s.ready && fn != 0) then .next s
  else
    let f := s.hostFn fn
    let x := if ok f.spdm then answer s f.spdm else { f.spdm with answer := [0x7F, 0x04] }
    .next (s.setHostFn fn { f with spdm := x })

/-- The connection is negotiated. -/
def Spdm.negotiated (x : Spdm) : Bool := x.algorithms
/-- A session stands. -/
def Spdm.inSession (x : Spdm) : Bool := x.session.isSome && x.established

/-- The version 1.4; a new connection ends what stood before. -/
def execGetVersion (fn : Nat) (s : State) : Out := spdm fn (fun _ => true) (fun _ _ => { version := true, answer := [0x04, 0x14] }) s

/-- Capabilities: certificates, challenge, measurements, encryption, authentication, key exchange, heartbeat and key
update; no pre-shared keys, no mutual authentication, no chunking. -/
def execGetCapabilities (fn : Nat) (s : State) : Out :=
  spdm fn (·.version) (fun _ x => { x with capabilities := true, answer := [0x61, 0x22F6] }) s

/-- ML-DSA-87, SHA3-512, ML-KEM-1024 and AES-256-GCM, the only algorithms, by numbers of this model. -/
def execNegotiateAlgorithms (fn : Nat) (s : State) : Out :=
  spdm fn (·.capabilities) (fun _ x => { x with algorithms := true, answer := [0x63, 1, 2, 3, 4] }) s

/-- The digest of the one certificate chain, which serves every responder. -/
def execGetDigests (fn : Nat) (s : State) : Out :=
  spdm fn Spdm.negotiated (fun _ x => { x with answer := [0x01, Config.digest [0]] }) s

/-- The chain, rooted in the security processor's device key. -/
def execGetCertificate (fn : Nat) (s : State) : Out :=
  spdm fn Spdm.negotiated (fun _ x => { x with answer := [0x02, Config.signature [0]] }) s

def execChallenge (fn nonce : Nat) (s : State) : Out :=
  spdm fn Spdm.negotiated (fun s x =>
    { x with answer := [0x03, Config.signature ([fn, nonce] ++ ((List.range 6).map (fun i => measurement s fn (i + 1))))] }) s

/-- Measurement 1 to 6; index 0 asks for their count, 0xFF for all of them, as SPDM has it. -/
def execGetMeasurements (fn index : Nat) (s : State) : Out :=
  spdm fn Spdm.negotiated (fun s x =>
    let all := (List.range 6).map (fun i => measurement s fn (i + 1))
    { x with answer := 0x60 :: (if index = 0 then [6] else if index = 0xFF then all else if index ≤ 6 then [measurement s fn index] else []) }) s

/-- A session is set up under a new number. -/
def execKeyExchange (fn : Nat) (s : State) : Out :=
  spdm fn Spdm.negotiated (fun s x =>
    { x with session := some s.serial, established := false, answer := [0x64, s.serial, Config.signature [fn, s.serial]] }) s.next

def execFinish (fn : Nat) (s : State) : Out :=
  spdm fn (fun x => x.session.isSome && !x.established) (fun _ x => { x with established := true, answer := [0x65] }) s
def execHeartbeat (fn : Nat) (s : State) : Out := spdm fn Spdm.inSession (fun _ x => { x with answer := [0x68] }) s
def execKeyUpdate (fn : Nat) (s : State) : Out :=
  spdm fn Spdm.inSession (fun _ x => { x with keyUpdates := x.keyUpdates + 1, answer := [0x69] }) s
def execEndSession (fn : Nat) (s : State) : Out :=
  spdm fn Spdm.inSession (fun _ x => { x with session := none, established := false, keyUpdates := 0, answer := [0x6C] }) s

end Sys2Proof.Machine
end

