-- ==== Sys2Proof/Machine/Protocol.lean ====
section
/-! DEFINITION. Coherence control: major 0x30 (R380-R384), with the checker of protocol tables (R366-R370). -/
namespace Sys2Proof.Machine

/-! ### Table images (R366, R367) -/

/-- A protocol-table image as read: header, the 512 home rows and the 256 agent rows. -/
structure Image where
  header : List Byte
  home : List (BitVec 64)
  agent : List (BitVec 64)
  deriving DecidableEq, Repr

def Image.word (i : Image) (off n : Nat) : Nat := ofBytes ((i.header.drop off).take n)
/-- The class of home state s: 0 transient, 1 U, 2 S, 3 M (R367). -/
def Image.homeClass (i : Image) (s : Nat) : Nat := i.word 0x20 4 / 4 ^ s % 4
/-- The class of agent state s: 0 transient, 1 I, 2 S, 3 M. -/
def Image.agentClass (i : Image) (s : Nat) : Nat := i.word 0x24 4 / 4 ^ s % 4
def Image.homeStates (i : Image) : Nat := i.word 0x18 8 % 32
def Image.agentStates (i : Image) : Nat := i.word 0x18 8 / 256 % 32
def Image.mca (i : Image) : Bool := i.word 0x14 4 % 2 == 1

/-- The header follows R367. -/
def Image.headerOk (i : Image) : Bool :=
  (i.header.take 16).all (fun b => decide (b.toNat < 128)) && decide (i.word 0x14 4 < 2)
    && decide (1 ≤ i.homeStates) && decide (i.homeStates ≤ 16) && decide (1 ≤ i.agentStates)
    && decide (i.agentStates ≤ 16) && i.word 0x18 8 == i.homeStates + 256 * i.agentStates
    && i.homeClass 0 == 1 && i.agentClass 0 == 1 && (i.header.drop 0x28).all (fun b => b == 0)

/-- 64-bit words from bytes. -/
def words64 : Nat → List Byte → List (BitVec 64)
  | 0, _ => []
  | n + 1, l => BitVec.ofNat 64 (ofBytes (l.take 8)) :: words64 n (l.drop 8)

/-- An image of 6,208 bytes, without its signature (R366). -/
def imageOf (l : List Byte) : Image :=
  { header := l.take 64, home := words64 512 ((l.drop 0x40).take 4096), agent := words64 256 ((l.drop 0x1040).take 2048) }

/-- The image at a physical address (R366). -/
def readImage (s : State) (a : Nat) : Image := imageOf (s.readBytes a 6208)

/-! ### The checker (R370) -/

/-- Classes of home events: 0 requests, 1 forwards, 2 responses and DONE. EVICT starts the handling of a line as a
request does (log entry 17). -/
def homeEventClass (e : Nat) : Nat := if e ≤ 0x0A || 0x1E ≤ e then 0 else if e ≤ 0x0F then 1 else 2
/-- Classes of agent events; accesses, which may send requests, are 3. -/
def agentEventClass (e : Nat) : Nat := if e ≤ 2 then 3 else if e ≤ 6 then 1 else 2

/-- A message code of R362, or 0 for none. -/
def messageCode (c : Nat) : Bool := c ≤ 0x0A || (0x0C ≤ c && c ≤ 0x0F) || (0x14 ≤ c && c ≤ 0x1D)

/-- Reserved fields and codes of a row are zero (R368, R369). -/
def reservedZero (agent : Bool) (x : BitVec 64) : Bool :=
  let r := rowOf x
  field x 63 38 == 0 && r.ackc != 3 && decide (r.set ≤ 9) && decide (r.dsrc ≤ 4) && messageCode r.toReq
    && messageCode r.toSh && messageCode r.toOwn
    && (if agent then r.toSh == 0 && r.toOwn == 0 && r.set == 0 && r.ackc == 0 && !r.wllc && !r.exec else !r.drop)

/-- Check 2 of one row of state s: V or IMP, and in every row zeros in the reserved fields and codes. -/
def rowDefined (agent : Bool) (used s : Nat) (x : BitVec 64) : Bool :=
  (if s < used then bit x 4 != bit x 5 else bit x 5) && reservedZero agent x

/-- Check 3: messages of a class above the event's, and STALL only where it may be. -/
def homeOrder (e : Nat) (r : Row) : Bool :=
  let k := homeEventClass e
  [r.toReq, r.toSh, r.toOwn].all (fun m => m == 0 || (if k = 2 then msgClass m == 2 else decide (k < msgClass m)))
    && (!r.stall || k == 0)
def agentOrder (e : Nat) (r : Row) : Bool :=
  let k := agentEventClass e
  (r.toReq == 0 || k == 3 || (if k = 2 then msgClass r.toReq == 2 else decide (k < msgClass r.toReq)))
    && (!r.stall || k == 3)

/-- From state s every sequence of rows for responses and DONE reaches a stable state within n changes (check 4). -/
def settles (class_ : Nat → Nat) (rows : Nat → List Row) : Nat → Nat → Bool
  | n, s =>
    if class_ s ≠ 0 then true
    else
      match n with
      | 0 => false
      | n + 1 => (rows s).all (fun r => !r.v || r.imp || (if r.next = s then r.ackc == 2 else settles class_ rows n r.next))
termination_by structural n => n

/-- Check 4 of one row of a transient state. -/
def rowSettles (class_ : Nat → Nat) (rows : Nat → List Row) (s : Nat) (r : Row) : Bool :=
  if r.next = s then r.ackc == 2 else settles class_ rows 3 r.next

/-- Check 5: a single writer. -/
def singleWriter (class_ : Nat → Nat) (s : Nat) (r : Row) : Bool :=
  if class_ r.next = 3 then r.set == 3 || r.set == 7 || (r.next == s && r.set == 0)
  else if class_ r.next = 0 then true
  else if class_ s = 1 || class_ s = 2 then r.set != 3 && r.set != 4 && r.set != 5
  else r.set == 6 || r.set == 8 || r.set == 9

/-- Every row that enters state s recalls the owner. -/
def recalled (rows : List (Nat × Nat × Row)) (s : Nat) : Bool :=
  let into := rows.filter (fun x => x.2.2.v && !x.2.2.imp && x.2.2.next == s && x.1 != s)
  !into.isEmpty && into.all (fun x => x.2.2.toOwn == mRECALL)

/-- The states in which a request to write may stand recorded: those that its rows enter, and what responses lead to from them.
The fuel counts state changes. -/
def writeStates (class_ : Nat → Nat) (rows : List (Nat × Nat × Row)) : Nat → List Nat
  | 0 => (rows.filter (fun x => [mGETM, mUPDW, mUWRITE, mATOM].contains x.2.1 && class_ x.2.2.next == 0)).map (fun x => x.2.2.next)
  | n + 1 =>
    let l := writeStates class_ rows n
    l ++ (rows.filter (fun x => l.contains x.1 && homeEventClass x.2.1 == 2 && class_ x.2.2.next == 0)).map (fun x => x.2.2.next)

/-- A row completes a write: it sends DATA_M or UPDACK, or WACK or REPLY to a request to write. -/
def completesWrite (class_ : Nat → Nat) (rows : List (Nat × Nat × Row)) (s e : Nat) (r : Row) : Bool :=
  let sent := [r.toReq, r.toSh, r.toOwn]
  sent.contains mDATAM || sent.contains mUPDACK ||
    ((sent.contains mWACK || sent.contains mREPLY) && !r.refuse &&
      (if homeEventClass e = 0 then [mGETM, mUPDW, mUWRITE, mATOM].contains e else (writeStates class_ rows 4).contains s))

/-- Check 6: a write becomes visible at once. -/
def atomicRow (class_ : Nat → Nat) (rows : List (Nat × Nat × Row)) (s e : Nat) (r : Row) : Bool :=
  let writes := completesWrite class_ rows s e r || r.exec || r.merge
  !writes || e == evDONE || (e == mODATA && recalled rows s) || class_ s == 1

/-- The rows of a table with their states and events: `n` events to a state. -/
def tableRows (n : Nat) (l : List (BitVec 64)) : List (Nat × Nat × Row) :=
  ((List.range l.length).zip l).map (fun x => (x.1 / n, x.1 % n, rowOf x.2))

/-- The first row of a table that fails a check, as the answer of PTLOAD names it. -/
def firstBad (check agent n : Nat) (l : List (Nat × Nat × Row)) (ok : Nat × Nat × Row → Bool) : Option (Nat × Nat × Nat) :=
  match l.find? (fun x => !ok x) with
  | some (s, e, _) => some (check, agent, n * s + e)
  | none => none

/-- The first check from 2 on that the image fails: check, table, row index. -/
def checkRows (i : Image) : Option (Nat × Nat × Nat) :=
  let home := tableRows 32 i.home
  let agent := tableRows 16 i.agent
  let defd := fun (l : List (Nat × Nat × Row)) => l.filter (fun x => x.2.2.v && !x.2.2.imp)
  let homeRows := fun (s : Nat) =>
    (home.filter (fun x => x.1 == s && homeEventClass x.2.1 == 2)).map (fun x => x.2.2)
  let agentRows := fun (s : Nat) =>
    (agent.filter (fun x => x.1 == s && agentEventClass x.2.1 == 2)).map (fun x => x.2.2)
  let raw := fun (l : List (BitVec 64)) (n : Nat) (x : Nat × Nat × Row) => l.getD (n * x.1 + x.2.1) 0
  (firstBad 2 0 32 home (fun x => rowDefined false i.homeStates x.1 (raw i.home 32 x)))
    <|> (firstBad 2 1 16 agent (fun x => rowDefined true i.agentStates x.1 (raw i.agent 16 x)))
    <|> (firstBad 3 0 32 (defd home) (fun x => homeOrder x.2.1 x.2.2))
    <|> (firstBad 3 1 16 (defd agent) (fun x => agentOrder x.2.1 x.2.2))
    <|> (firstBad 4 0 32 ((defd home).filter (fun x => i.homeClass x.1 == 0 && homeEventClass x.2.1 == 2))
          (fun x => rowSettles i.homeClass homeRows x.1 x.2.2))
    <|> (firstBad 4 1 16 ((defd agent).filter (fun x => i.agentClass x.1 == 0 && agentEventClass x.2.1 == 2))
          (fun x => rowSettles i.agentClass agentRows x.1 x.2.2))
    <|> (firstBad 5 0 32 (defd home) (fun x => singleWriter i.homeClass x.1 x.2.2))
    <|> (firstBad 5 1 16 (defd agent) (fun x => x.2.1 != 1 || !x.2.2.perf || i.agentClass x.1 == 3))
    <|> (if i.mca then firstBad 6 0 32 (defd home) (fun x => atomicRow i.homeClass (defd home) x.1 x.2.1 x.2.2) else none)

/-- The checks of R370 in order: none where the image passes. -/
def checkImage (s : State) (a id : Nat) (i : Image) : Option (Nat × Nat × Nat) :=
  if id < 5 || 7 < id || s.coh.ids.any (fun e => e.2 == id) then some (0, 0, 0)
  else if !Config.imageSigned a s.drawn || !i.headerOk then some (1, 0, 0)
  else checkRows i

/-- The table that an image installs. -/
def Image.table (i : Image) : ProtoTable :=
  { mca := i.mca, homeClass := (List.range 16).map i.homeClass, agentClass := (List.range 16).map i.agentClass
    home := (List.range 512).zip i.home, agent := (List.range 256).zip i.agent }

def coherenceAccept : Accept := {}

/-- PTLOAD (R381). Each verdict on a signature is a new free value. -/
def execPtload (d a b : Reg) (s : State) : Out :=
  issue { word := wordPtload d a b, priv := decide (s.thr.level < 2), gr := [a, b], gw := [d], accept := coherenceAccept }
    (fun s => do
      let a := s.rg a
      let id := (s.rg b).toNat
      aligned a 64
      if !s.admits s.ctx a.toNat 10835 then
        .error (.trap { cause := causeProt, eaddr := a, firmware := true, refused := true })
      else
        let i := readImage s a.toNat
        let verdict := checkImage s a.toNat id i
        let s := { s with drawn := s.drawn + 1 }
        match verdict with
        | none =>
          .ok (retire ({ s with coh := { s.coh with tables := s.coh.tables.set id (some i.table) } }.wg d 0))
        | some (check, agent, row) =>
          .ok (retire (s.wg d (BitVec.ofNat 64 (2 ^ 63 + check * 2 ^ 16 + agent * 2 ^ 12 + row))))) s

/-! ### PTBIND and PTUNBIND (R382) -/

/-- The physical page at which one page of the range lies, none where the range may not be bound: an IPA at S or F, a
virtual address of the domain at U, with W at both stages. -/
def boundPage (s : State) (c : Ctx) (x : Nat) : Option Nat :=
  let pa : Option Nat :=
    if c.level = 0 then
      if apertureBase ≤ x then none
      else
        match stage1Leaf s c.part c.dom x x .store with
        | .error _ => none
        | .ok (_, e, big, _) =>
          if !bit e 2 then none
          else
            let ipa := if big then field e 47 29 * 2 ^ 29 + x % 2 ^ 29 else field e 47 16 * 65536 + x % 65536
            match stage2 s c.part ipa .store with
            | .ok (pa, _) => some pa
            | .error _ => none
    else
      match stage2Leaf s c.part x with
      | .ok (_, pa, _) => some pa
      | .error _ => none
  match pa with
  | some pa => if isScratch pa || !s.reachable c.part false pa then none else some pa
  | none => none

/-- The pages of a range, ascending, none where one of them may not be bound. The fuel counts pages. -/
def boundPages (s : State) (c : Ctx) : Nat → Nat → Option (List Nat)
  | 0, _ => some []
  | n + 1, x =>
    match boundPage s c x with
    | none => none
    | some pa =>
      match boundPages s c n (x + 65536) with
      | none => none
      | some r => some (pa :: r)

/-- One line leaves its slice: dirty copies written back, copies invalidated, sealed lines opened (R382). An impossible
row holds it (R371). -/
def dropOut (line : Nat) (s : State) : Except Stop State :=
  let s := evictLine line s
  if s.coh.holds line then .error (.wait (.line line (s.coh.stopOf line))) else .ok s

/-- Every TLB drops its entries of a physical page (R382). -/
def forgetFrame (f : Nat) (s : State) : State :=
  let keep := fun (l : List Translation) => l.filter (fun x => x.frame != f)
  { s with
    cores := s.cores.mapVals (fun _ c => { c with tlb := keep c.tlb })
    clusters := s.clusters.mapVals (fun _ c => { c with tlb := keep c.tlb }) }

/-- A page cleaned and given its protocol id. A reservation held on a word of it ends first (R382). -/
def bindPage (id pa : Nat) (s : State) : Except Stop State :=
  match heldBack s (some (s.cur, s.thr.inBody)) pa 65536 with
  | some w => .error (.wait (.word w))
  | none => do
    let s ← (linesHeld s pa 65536).foldlM (fun s l => dropOut l s) s
    let ids := if id = 1 then s.coh.ids.erase (pa / 65536) else s.coh.ids.set (pa / 65536) id
    .ok (performedAt (s.cur, s.thr.inBody) pa 65536 (forgetFrame (pa / 65536) { s with coh := { s.coh with ids := ids } }))

/-- The range of PTBIND or PTUNBIND bound to an id (R382). -/
def bindRange (d : Reg) (base len id : Word) (s : State) : Except Stop State :=
  if base.toNat % 65536 ≠ 0 || len.toNat % 65536 ≠ 0 || len = 0 || 2 ^ 64 < base.toNat + len.toNat || 7 < id.toNat then
    .ok (retire (s.wg d (status (-2))))
  else if 5 ≤ id.toNat && (s.coh.tables.get none id.toNat).isNone then .ok (retire (s.wg d (status (-1))))
  else
    match boundPages s s.ctx (len.toNat / 65536) base.toNat with
    | none => .ok (retire (s.wg d (status (-3))))
    | some pages => do
      let s ← pages.foldlM (fun s pa => bindPage id.toNat pa s) s
      .ok (retire (s.wg d 0))

def execPtbind (d a b c : Reg) (s : State) : Out :=
  issue { word := wordPtbind d a b c, priv := s.thr.level == 0, gr := [a, b, c], gw := [d], accept := coherenceAccept }
    (fun s => bindRange d (s.rg a) (s.rg b) (s.rg c) s) s

def execPtunbind (d a b : Reg) : State → Out :=
  issue { word := wordPtunbind d a b, gr := [a, b], gw := [d], accept := coherenceAccept }
    (fun s => bindRange d (s.rg a) (s.rg b) 1 s)

/-! ### DIRQ (R383) -/

/-- The entry of a line; one that the slice does not hold reads as the reset entry (R359, R361). -/
def entryOf (s : State) (pa : Nat) : Dir :=
  let line := s.key pa / 128 * 128
  if s.coh.holds line then s.coh.entry line else { prot := s.protId pa }

def execDirq (d a : Reg) : State → Out :=
  issue { word := wordDirq d a, ill := d == 0 || d == 15, gr := [a], gw := [d, d + 1], accept := coherenceAccept }
    (fun s => do
      let (s, ps) ← access s s.ctx (s.rg a).toNat 8 .load
      let x := match ps with
        | p :: _ => if isScratch p.pa || localBase ≤ p.va then 0 else (entryOf s p.pa).bits
        | [] => 0
      .ok (retire ((s.wg d (BitVec.ofNat 64 x)).wg (d + 1) (BitVec.ofNat 64 (x / 2 ^ 64)))))

/-! ### LINV and LWB (R384) -/

/-- The parts of a range whose lines LINV and LWB act on: mapped, readable, in DRAM; through the aperture the window's
bytes alone. -/
def lineParts (s : State) (va n : Nat) : List Piece :=
  let c := s.ctx
  let top := min (va + n) localBase
  let hi := match c.win with
    | some (_, wlen, _) => if apertureBase ≤ va || apertureBase < top then min top (apertureBase + wlen) else top
    | none => min top (max va apertureBase)
  (mappedPieces s c va (hi - va) .load).filter (fun p => !isScratch p.pa)

/-- LINV or LWB of every line that a range meets; a line that its slice does not hold has no copy (R361). -/
def lineMaintenance (code va n : Nat) (s : State) : Except Stop State :=
  let me := (s.cur, s.thr.inBody)
  (lineParts s va n).foldlM (fun s p =>
    let lo := p.pa / 128 * 128
    let len := alignUp (p.pa + p.len) 128 - lo
    match heldBack s (some me) lo len with
    | some w => .error (.wait (.word w))
    | none => do
      let s ← (linesHeld s p.pa p.len).foldlM (fun s l => maintainLine s.ctx code (coreOf s.cur) l s) s
      .ok (performedAt me lo len s)) s

def execLinv (a b : Reg) : State → Out :=
  issue { word := wordLinv a b, gr := [a, b], accept := coherenceAccept }
    (fun s => do
      let s ← lineMaintenance mLINV (s.rg a).toNat (s.rg b).toNat s
      .ok (retire s))

def execLwb (a b : Reg) : State → Out :=
  issue { word := wordLwb a b, gr := [a, b], accept := coherenceAccept }
    (fun s => do
      let s ← lineMaintenance mLWB (s.rg a).toNat (s.rg b).toNat s
      .ok (retire s))

end Sys2Proof.Machine
end

