-- ==== Sys2Proof/Machine/Power.lean ====
section
/-! DEFINITION. Resets and bring-up, islands, leave, thermal trip (R440-R444). -/
namespace Sys2Proof.Machine

/-! ### Resets (R440) -/

/-- The machine after the bring-up of a cold or fundamental reset, whose verdict is free: with an error no cluster runs.
The schedule, the count of draws and host memory are not the device's. -/
def bringUp (s : State) : State :=
  let e := (Config.bringUp s.drawn).val
  let table := fun (id : Nat) => (Config.firmwareImage s.drawn id).map (fun l => (id, some (imageOf l).table))
  { State.reset with
    coh := { State.reset.coh with tables := if e = 0 then [5, 6, 7].filterMap table else [] }
    agenda := s.agenda, drawn := s.drawn + 1, hostMem := s.hostMem, ready := e == 0, bringUpError := e, stopped := e != 0 }

def execColdReset (s : State) : Out := .next (bringUp s)
/-- A fundamental reset of function 0; after THERMTRIP# only a cold reset restarts the device (R444). -/
def execFundamentalReset (s : State) : Out := .next (if s.tripped then s else bringUp s)

/-- A function-level reset of a virtual function: entries discarded, unkeyed, sessions ended, registers cleared; what
firmware set for it stays, and the partition runs on. -/
def execFunctionLevelReset (fn : Nat) (s : State) : Out :=
  if fn = 0 || 32 ≤ fn then .next s
  else
    let s := leaveEntry fn s
    let f := s.hostFn fn
    let s := match f.bound with | some p => recordQueue p 0 s | none => s
    .next (s.setHostFn fn { bound := f.bound, dmaBase := f.dmaBase, dmaLen := f.dmaLen, bar2 := f.bar2 })

/-! ### Islands (R28, R441, R443, R444) -/

def State.setIsland (s : State) (c : Nat) (i : Island) : State := s.setCluster c { s.cluster c with island := i }

/-- The caps of all islands but one, in sum. -/
def capsBut (s : State) (c : Nat) : Nat := (((List.range 128).filter (· != c)).map (fun x => (s.cluster x).island.amps)).sum

/-- Power firmware sets a point within the limits of the island, and a cap that keeps the sum of all at 5000 A: the frequency falls
at once, the voltage ramps, and the frequency rises when it has arrived (R441, R443). From 100 degrees on it raises neither
(R444). -/
def execIslandPointChange (cluster mhz : Nat) (power : IslandPower) (s : State) : Out :=
  let i := { (s.cluster cluster).island with temp := power.temp, process := power.process }
  if 128 ≤ cluster || mhz < 600 || 1800 < mhz || power.mv < 350 || 550 < power.mv || 5000 < capsBut s cluster + power.cap then .next s
  else if 100 ≤ power.temp && (decide (i.toMhz < mhz) || decide (i.toMv < power.mv)) then .next (s.setIsland cluster i)
  else .next (s.setIsland cluster { i with toMhz := mhz, toMv := power.mv, amps := power.cap }.settle)

/-- An island that draws more than its cap has cycles removed (R443); CAP reads 1 for a microsecond after the last (R442). -/
def execCurrentCapThrottle (cluster : Nat) (excess : Throttle) (s : State) : Out :=
  let i := (s.cluster cluster).island
  if 128 ≤ cluster || excess.draw ≤ i.amps then .next s
  else .next (s.setIsland cluster { i with throttled := i.throttled + excess.cycles, cap := 1400 })

/-- Every island stops. -/
def execThermtrip (s : State) : Out := .next { s with stopped := true, tripped := true }

/-! ### Leave (R234, R255, R403, R442) -/

/-- The oldest Mule command of a cluster that asks for leave is granted it. -/
def grantMule : List CopyCmd → List CopyCmd
  | [] => []
  | m :: r => if m.leave = 1 then { m with leave := 2 } :: r else m :: grantMule r

/-- The slot of the cluster whose NPOST asks for leave, the lowest. -/
def postWaiting (s : State) (c : Nat) : Option Nat :=
  (clusterSlots c).find? (fun k => match (s.thread k).wait with | some (.leave ..) => true | _ => false)

/-- An operation fits the cap of an island at a frequency and its present supply. -/
def Island.fits (i : Island) (kind mhz : Nat) : Bool := decide (Config.operationAmps kind mhz i.mv ≤ i.amps)

/-- The island at the highest frequency, from its own down to 600 MHz, at which an operation fits its cap (R442). -/
def Island.loweredFor (i : Island) (kind : Nat) : Island :=
  if i.fits kind i.mhz then i
  else
    let x := (((List.range (i.mhz - 600)).map (fun n => i.mhz - 1 - n)).find? (i.fits kind)).getD (min i.mhz 600)
    { i with mhz := x, toMhz := min i.toMhz x }

/-- The island of a cluster is brought to a point at which an operation fits. -/
def lowerFor (c kind : Nat) (s : State) : State := s.setIsland c ((s.cluster c).island.loweredFor kind)

/-- The island's controller grants one request for leave, at a frequency at which the operation fits the cap: the Ox, then the
Mule, then a Steppe request. -/
def execLeaveGrant (cluster : Nat) (s : State) : Out :=
  let cl := s.cluster cluster
  if oxAsksLeave cl.ox then .next (lowerFor cluster 0 (s.setOx cluster { cl.ox with leave := true, leaveIdle := 0 }))
  else if cl.mule.any (fun m => m.leave == 1) then
    .next (lowerFor cluster 1 (s.setCluster cluster { cl with mule := grantMule cl.mule }))
  else
    match postWaiting s cluster with
    | some k => .next (grantPost k (lowerFor cluster 2 s))
    | none => .next s

end Sys2Proof.Machine
end

