-- ==== Sys2Proof/Machine/Scalar.lean ====
section
/-! DEFINITION. Scalar integer instructions: majors 0x01 to 0x0C (R73-R80), and the divider. -/
namespace Sys2Proof.Machine

/-! ### Major 0x01 (R73-R76) -/

/-- A binary instruction of major 0x01: d = wres(f A B). -/
def binary (word : Nat) (d a b : Reg) (w : Bool) (f : Word → Word → Word) : State → Out :=
  issue { word := word, gr := [a, b], gw := [d], ahead := true }
    (fun s => .ok (retire (s.wg d (wres w (f (s.rg a) (s.rg b))))))

/-- A unary instruction of major 0x01. -/
def unary (word : Nat) (d a : Reg) (w : Bool) (f : Word → Word) : State → Out :=
  issue { word := word, gr := [a], gw := [d], ahead := true }
    (fun s => .ok (retire (s.wg d (wres w (f (s.rg a))))))

def execAdd (d a b : Reg) (w : Bool) : State → Out := binary (wordAdd d a b w) d a b w (fun x y => x + y)
def execSub (d a b : Reg) (w : Bool) : State → Out := binary (wordSub d a b w) d a b w (fun x y => x - y)
def execAnd (d a b : Reg) (w : Bool) : State → Out := binary (wordAnd d a b w) d a b w (fun x y => x &&& y)
def execOr (d a b : Reg) (w : Bool) : State → Out := binary (wordOr d a b w) d a b w (fun x y => x ||| y)
def execXor (d a b : Reg) (w : Bool) : State → Out := binary (wordXor d a b w) d a b w (fun x y => x ^^^ y)
def execAndn (d a b : Reg) (w : Bool) : State → Out := binary (wordAndn d a b w) d a b w (fun x y => x &&& ~~~y)
def execOrn (d a b : Reg) (w : Bool) : State → Out := binary (wordOrn d a b w) d a b w (fun x y => x ||| ~~~y)
def execShl (d a b : Reg) (w : Bool) : State → Out :=
  binary (wordShl d a b w) d a b w (fun x y => x <<< amount w y)
def execShr (d a b : Reg) (w : Bool) : State → Out :=
  binary (wordShr d a b w) d a b w (fun x y => natOp w x >>> amount w y)
def execSra (d a b : Reg) (w : Bool) : State → Out :=
  binary (wordSra d a b w) d a b w (fun x y => (intOp w x).sshiftRight (amount w y))
def execRol (d a b : Reg) (w : Bool) : State → Out :=
  binary (wordRol d a b w) d a b w (fun x y => rotl w x (amount w y))
def execRor (d a b : Reg) (w : Bool) : State → Out :=
  binary (wordRor d a b w) d a b w (fun x y => rotr w x (amount w y))
def execMin (d a b : Reg) (w : Bool) : State → Out :=
  binary (wordMin d a b w) d a b w (fun x y => if (intOp w x).slt (intOp w y) then x else y)
def execMax (d a b : Reg) (w : Bool) : State → Out :=
  binary (wordMax d a b w) d a b w (fun x y => if (intOp w y).slt (intOp w x) then x else y)
def execMinn (d a b : Reg) (w : Bool) : State → Out :=
  binary (wordMinn d a b w) d a b w (fun x y => if natOp w x < natOp w y then x else y)
def execMaxn (d a b : Reg) (w : Bool) : State → Out :=
  binary (wordMaxn d a b w) d a b w (fun x y => if natOp w y < natOp w x then x else y)
def execSlt (d a b : Reg) (w : Bool) : State → Out :=
  binary (wordSlt d a b w) d a b w (fun x y => boolWord ((intOp w x).slt (intOp w y)))
def execSltn (d a b : Reg) (w : Bool) : State → Out :=
  binary (wordSltn d a b w) d a b w (fun x y => boolWord (decide (natOp w x < natOp w y)))
def execSeq (d a b : Reg) (w : Bool) : State → Out :=
  binary (wordSeq d a b w) d a b w (fun x y => boolWord (natOp w x == natOp w y))
def execSne (d a b : Reg) (w : Bool) : State → Out :=
  binary (wordSne d a b w) d a b w (fun x y => boolWord (natOp w x != natOp w y))
def execMul (d a b : Reg) (w : Bool) : State → Out := binary (wordMul d a b w) d a b w (fun x y => x * y)
def execMulh (d a b : Reg) (w : Bool) : State → Out :=
  binary (wordMulh d a b w) d a b w
    (fun x y => BitVec.ofInt 64 ((intOp w x).toInt * (intOp w y).toInt / (2 ^ width w : Nat)))
def execMulhn (d a b : Reg) (w : Bool) : State → Out :=
  binary (wordMulhn d a b w) d a b w
    (fun x y => BitVec.ofNat 64 ((natOp w x).toNat * (natOp w y).toNat / 2 ^ width w))
def execClz (d a : Reg) (w : Bool) : State → Out :=
  unary (wordClz d a w) d a w (fun x => BitVec.ofNat 64 (leadingZeros (width w) (natOp w x).toNat))
def execCtz (d a : Reg) (w : Bool) : State → Out :=
  unary (wordCtz d a w) d a w (fun x => BitVec.ofNat 64 (trailingZeros (width w) x.toNat))
def execPopc (d a : Reg) (w : Bool) : State → Out :=
  unary (wordPopc d a w) d a w (fun x => BitVec.ofNat 64 (popCount (width w) x.toNat))
def execBrev (d a : Reg) (w : Bool) : State → Out :=
  unary (wordBrev d a w) d a w (fun x => BitVec.ofNat 64 (reverseBits (width w) x.toNat))
def execBswap (d a : Reg) (w : Bool) : State → Out :=
  unary (wordBswap d a w) d a w (fun x => BitVec.ofNat 64 (ofBytes (toBytes (width w / 8) x.toNat).reverse))

/-- SEL: with W only bits [31:0] of g[c] are tested (R75). -/
def execSel (d a b c : Reg) (w : Bool) : State → Out :=
  issue { word := wordSel d a b c w, gr := [a, b, c], gw := [d], ahead := true }
    (fun s => .ok (retire (s.wg d (wres w (if natOp w (s.rg c) ≠ 0 then s.rg a else s.rg b)))))

def execExtr (d a b c : Reg) (w : Bool) : State → Out :=
  issue { word := wordExtr d a b c w, gr := [a, b, c], gw := [d], ahead := true }
    (fun s => .ok (retire (s.wg d (wres w
      ((natOp w (s.rg a) >>> fieldPos w (s.rg b)) &&& ones (fieldLen w (s.rg b) (s.rg c)))))))

def execExtrs (d a b c : Reg) (w : Bool) : State → Out :=
  issue { word := wordExtrs d a b c w, gr := [a, b, c], gw := [d], ahead := true }
    (fun s => .ok (retire (s.wg d (wres w
      (sext (natOp w (s.rg a) >>> fieldPos w (s.rg b)) (fieldLen w (s.rg b) (s.rg c)))))))

/-- INSB reads d as a source; every source is read first (R56, R76). -/
def execInsb (d a b c : Reg) (w : Bool) : State → Out :=
  issue { word := wordInsb d a b c w, gr := [d, a, b, c], gw := [d], ahead := true }
    (fun s =>
      let pos := fieldPos w (s.rg b)
      let mask := ones (fieldLen w (s.rg b) (s.rg c))
      .ok (retire (s.wg d (wres w
        ((natOp w (s.rg d) &&& ~~~(mask <<< pos)) ||| ((natOp w (s.rg a) &&& mask) <<< pos))))))

/-! ### Division (R77, R78) -/

/-- Quotient or remainder of signed operands in N bits (R77). -/
def divSigned (rem w : Bool) (x y : Word) : Word :=
  let a := (intOp w x).toInt
  let b := (intOp w y).toInt
  if b = 0 then (if rem then intOp w x else BitVec.allOnes 64)
  else BitVec.ofInt 64 (if rem then a.tmod b else a.tdiv b)

/-- Quotient or remainder of natural operands (R77). -/
def divNatural (rem w : Bool) (x y : Word) : Word :=
  let a := (natOp w x).toNat
  let b := (natOp w y).toNat
  if b = 0 then (if rem then natOp w x else BitVec.allOnes 64)
  else BitVec.ofNat 64 (if rem then a % b else a / b)

/-- A divide of the current slot stands last in its core's queue (R78). -/
def addDivide (s : State) : State :=
  let n := coreOf s.cur
  s.setCore n { s.core n with divides := (s.core n).divides ++ [localSlot s.cur] }

/-- A divide joins the core's queue of 8, and waits to issue while it is full (R78). -/
def joinDivider (s : State) : Except Stop State :=
  if 8 ≤ (s.core (coreOf s.cur)).divides.length then .error (.wait .divider) else .ok (addDivide s)

def divide (word : Nat) (d a b : Reg) (l : BitVec 4) (w : Bool) (f : Word → Word → Word) : State → Out :=
  issue { word := word, gr := [a, b], gw := [d], long := true, ahead := true }
    (fun s => do
      let s ← joinDivider s
      .ok (retireLong (.gen d) ((wres w (f (s.rg a) (s.rg b))).setWidth 128) l.toNat true s))

def execDiv (d a b : Reg) (l : BitVec 4) (w : Bool) : State → Out :=
  divide (wordDiv d a b l w) d a b l w (divSigned false w)
def execDivn (d a b : Reg) (l : BitVec 4) (w : Bool) : State → Out :=
  divide (wordDivn d a b l w) d a b l w (divNatural false w)
def execRem (d a b : Reg) (l : BitVec 4) (w : Bool) : State → Out :=
  divide (wordRem d a b l w) d a b l w (divSigned true w)
def execRemn (d a b : Reg) (l : BitVec 4) (w : Bool) : State → Out :=
  divide (wordRemn d a b l w) d a b l w (divNatural true w)

/-- The oldest divide of a core completes (R78). -/
def execDivideComplete (core : Nat) (s : State) : Out := .next (divideComplete core s)

/-! ### Immediate forms (R79, R80) -/

/-- An I-format instruction that accepts HIMM: d = f g[a] imm. -/
def immediate (word : Nat) (d a : Reg) (i : BitVec 18) (f : Word → Word → Word) : State → Out :=
  issue { word := word, gr := [a], gw := [d], ahead := true, accept := { himm := true } }
    (fun s => .ok (retire (s.wg d (f (s.rg a) (s.grp.imm i)))))

def execAddi (d a : Reg) (i : BitVec 18) : State → Out := immediate (wordAddi d a i) d a i (fun x y => x + y)
def execAndi (d a : Reg) (i : BitVec 18) : State → Out := immediate (wordAndi d a i) d a i (fun x y => x &&& y)
def execOri (d a : Reg) (i : BitVec 18) : State → Out := immediate (wordOri d a i) d a i (fun x y => x ||| y)
def execXori (d a : Reg) (i : BitVec 18) : State → Out := immediate (wordXori d a i) d a i (fun x y => x ^^^ y)
def execSlti (d a : Reg) (i : BitVec 18) : State → Out :=
  immediate (wordSlti d a i) d a i (fun x y => boolWord (x.slt y))
def execSltni (d a : Reg) (i : BitVec 18) : State → Out :=
  immediate (wordSltni d a i) d a i (fun x y => boolWord (decide (x < y)))
def execMuli (d a : Reg) (i : BitVec 18) : State → Out := immediate (wordMuli d a i) d a i (fun x y => x * y)

def execLi (d : Reg) (i : BitVec 18) : State → Out :=
  issue { word := wordLi d i, gw := [d], ahead := true, accept := { himm := true } }
    (fun s => .ok (retire (s.wg d (s.grp.imm i))))

/-- LPC: the base is the address of the LPC itself, never that of a hint (R39, R47). -/
def execLpc (d : Reg) (i : BitVec 18) : State → Out :=
  issue { word := wordLpc d i, gw := [d], ahead := true, accept := { himm := true } }
    (fun s => .ok (retire (s.wg d (s.thr.ipc + s.grp.imm i * 4))))

/-- Major 0x07: shift by a constant, no HIMM (R80). -/
def shiftImm (word : Nat) (d a : Reg) (f : Word → Word) : State → Out :=
  issue { word := word, gr := [a], gw := [d], ahead := true } (fun s => .ok (retire (s.wg d (f (s.rg a)))))

def execShli (d a : Reg) (n : BitVec 6) : State → Out := shiftImm (wordShli d a n) d a (fun x => x <<< n.toNat)
def execShri (d a : Reg) (n : BitVec 6) : State → Out := shiftImm (wordShri d a n) d a (fun x => x >>> n.toNat)
def execSrai (d a : Reg) (n : BitVec 6) : State → Out :=
  shiftImm (wordSrai d a n) d a (fun x => x.sshiftRight n.toNat)
def execRoli (d a : Reg) (n : BitVec 6) : State → Out :=
  shiftImm (wordRoli d a n) d a (fun x => x.rotateLeft n.toNat)

end Sys2Proof.Machine
end

