-- ==== Sys2Proof/Machine/Tables.lean ====
section
/-! DEFINITION. The constants of the reference algorithms of VEXP2, VLOG2 and VTANH, computed from their definitions
(R135); a fixed-point entry is a multiple of 2^-40. -/
namespace Sys2Proof.Machine

def tw0 : List Nat :=
  [1099511627776, 1102492706220, 1105481867187, 1108479132592, 1111484524408, 1114498064668, 1117519775464, 1120549678949,
   1123587797336, 1126634152898, 1129688767967, 1132751664939, 1135822866266, 1138902394464, 1141990272111, 1145086521844,
   1148191166361, 1151304228423, 1154425730852, 1157555696534, 1160694148413, 1163841109499, 1166996602861, 1170160651634,
   1173333279014, 1176514508259, 1179704362691, 1182902865696, 1186110040723, 1189325911283, 1192550500953, 1195783833372]

def tw1 : List Nat :=
  [1199025932245, 1202276821340, 1205536524489, 1208805065590, 1212082468605, 1215368757561, 1218663956550, 1221968089730,
   1225281181324, 1228603255620, 1231934336974, 1235274449805, 1238623618601, 1241981867915, 1245349222366, 1248725706641,
   1252111345494, 1255506163745, 1258910186282, 1262323438061, 1265745944104, 1269177729502, 1272618819414, 1276069239068,
   1279529013758, 1282998168849, 1286476729774, 1289964722034, 1293462171200, 1296969102913, 1300485542883, 1304011516889]

def tw2 : List Nat :=
  [1307547050779, 1311092170475, 1314646901966, 1318211271311, 1321785304641, 1325369028160, 1328962468138, 1332565650921,
   1336178602923, 1339801350631, 1343433920606, 1347076339476, 1350728633946, 1354390830791, 1358062956859, 1361745039070,
   1365437104419, 1369139179973, 1372851292872, 1376573470330, 1380305739635, 1384048128148, 1387800663307, 1391563372620,
   1395336283673, 1399119424125, 1402912821712, 1406716504243, 1410530499604, 1414354835755, 1418189540733, 1422034642651]

def tw3 : List Nat :=
  [1425890169699, 1429756150140, 1433632612318, 1437519584651, 1441417095635, 1445325173843, 1449243847926, 1453173146613,
   1457113098709, 1461063733099, 1465025078745, 1468997164689, 1472980020050, 1476973674028, 1480978155900, 1484993495024,
   1489019720837, 1493056862856, 1497104950676, 1501164013977, 1505234082514, 1509315186127, 1513407354734, 1517510618335,
   1521625007013, 1525750550931, 1529887280332, 1534035225545, 1538194416978, 1542364885123, 1546546660555, 1550739773929]

def tw4 : List Nat :=
  [1554944255988, 1559160137553, 1563387449534, 1567626222919, 1571876488786, 1576138278292, 1580411622681, 1584696553283,
   1588993101510, 1593301298861, 1597621176920, 1601952767357, 1606296101926, 1610651212471, 1615018130918, 1619396889282,
   1623787519664, 1628190054253, 1632604525324, 1637030965240, 1641469406453, 1645919881500, 1650382423010, 1654857063696,
   1659343836365, 1663842773908, 1668353909308, 1672877275638, 1677412906057, 1681960833818, 1686521092262, 1691093714822]

def tw5 : List Nat :=
  [1695678735018, 1700276186465, 1704886102868, 1709508518022, 1714143465815, 1718790980227, 1723451095328, 1728123845283,
   1732809264348, 1737507386874, 1742218247301, 1746941880167, 1751678320101, 1756427601826, 1761189760160, 1765964830016,
   1770752846399, 1775553844412, 1780367859250, 1785194926207, 1790035080670, 1794888358124, 1799754794147, 1804634424417,
   1809527284706, 1814433410886, 1819352838923, 1824285604883, 1829231744928, 1834191295319, 1839164292415, 1844150772674]

def tw6 : List Nat :=
  [1849150772653, 1854164329007, 1859191478491, 1864232257961, 1869286704369, 1874354854773, 1879436746326, 1884532416284,
   1889641902006, 1894765240949, 1899902470672, 1905053628839, 1910218753212, 1915397881658, 1920591052146, 1925798302747,
   1931019671637, 1936255197094, 1941504917501, 1946768871344, 1952047097213, 1957339633805, 1962646519918, 1967967794460,
   1973303496441, 1978653664977, 1984018339292, 1989397558715, 1994791362681, 2000199790733, 2005622882521, 2011060677802]

def tw7 : List Nat :=
  [2016513216442, 2021980538414, 2027462683800, 2032959692790, 2038471605683, 2043998462888, 2049540304923, 2055097172416,
   2060669106106, 2066256146840, 2071858335578, 2077475713391, 2083108321460, 2088756201079, 2094419393653, 2100097940699,
   2105791883849, 2111501264845, 2117226125542, 2122966507912, 2128722454038, 2134494006116, 2140281206460, 2146084097495,
   2151902721764, 2157737121924, 2163587340748, 2169453421124, 2175335406057, 2181233338669, 2187147262199, 2193077220002]

/-- Tw[i] = fx40(2^(i/256)), times 2^40. -/
def tw : List Nat := tw0 ++ tw1 ++ tw2 ++ tw3 ++ tw4 ++ tw5 ++ tw6 ++ tw7

def lg0 : List Nat :=
  [0, 12344503795, 24593669035, 36748973655, 48811803165, 60783640758, 72665870312, 84459670221,
   96166405044, 107787427667, 119323872579, 130777056285, 142148171541, 153438384863, 164648728668, 175780411464,
   186834503117, 197812142323, 208714321545, 219542097394, 230296372576, 240978329304, 251588772442, 262128784482,
   272599172058, 283000907422, 293334905105, 303602018688, 313803037550, 323938915553, 334010425028, 344018502129]

def lg1 : List Nat :=
  [353963659999, 363846925768, 373669018053, 383430697443, 393132645705, 402775584305, 412360274733, 421887272110,
   431357538578, 440771580846, 450130063566, 459433686994, 468683060215, 477878825502, 487021530043, 496111881031,
   505150359585, 514137736574, 523074422819, 531961119339, 540798160162, 549586303635, 558326071533, 567018012216,
   575662428999, 584260056212, 592811383508, 601316786789, 609776941283, 618192131073, 626562799557, 634889694388]

def lg2 : List Nat :=
  [643173024082, 651413441322, 659611194388, 667766692378, 675880653814, 683953241073, 691984923273, 699976189805,
   707927402729, 715838941667, 723711203936, 731544604653, 739339426171, 747096268771, 754815297339, 762496994903,
   770141555559, 777749649091, 785321191191, 792856883671, 800356980251, 807821747579, 815251623389, 822646743852,
   830007574473, 837334436697, 844627665324, 851887446823, 859114140725, 866307956910, 873469443931, 880598672872]

def lg3 : List Nat :=
  [887696053633, 894761843798, 901796311942, 908799737699, 915772243414, 922714297972, 929626214571, 936507976461,
   943360086463, 950182717565, 956976051290, 963740624920, 970476292994, 977183613092, 983862454245, 990513571079,
   997136672262, 1003732356589, 1010300880199, 1016842149240, 1023356613695, 1029844373645, 1036305717061, 1042740758641,
   1049149985726, 1055533346089, 1061890975566, 1068223387185, 1074530547886, 1080812801881, 1087070315219, 1093303072136]

def lg4 : List Nat :=
  [1099511627776]

/-- Lg[i] = fx40(-log2 Rc[i]), times 2^40. -/
def lg : List Nat := lg0 ++ lg1 ++ lg2 ++ lg3 ++ lg4

/-- c1 to c4: fx40((ln 2)^k / k!), times 2^40. -/
def expCoeffs : List Int := [762123384786, 264131837702, 61027412866, 10575244791]

/-- d1 to d4: fx40((-1)^(k+1) / (k ln 2)), times 2^40. -/
def logCoeffs : List Int := [1586259972792, -793129986396, 528753324264, -396564993198]

/-- K2 = fx40(2 / ln 2), times 2^40. -/
def kTwo : Nat := 3172519945584

end Sys2Proof.Machine
end

