-- ==== Sys2Proof/Machine/Special.lean ====
section
/-! DEFINITION. Special functions: major 0x17 (R114, R115), with the reference algorithms of VEXP2, VLOG2 and VTANH
(R135-R140), computed exactly and rounded once. -/
namespace Sys2Proof.Machine

/-! ### Exact dyadic numbers m * 2^e -/

structure Dyadic where
  m : Int
  e : Int
  deriving DecidableEq, Repr

def Dyadic.add (x y : Dyadic) : Dyadic :=
  let e := min x.e y.e
  { m := x.m * (2 ^ (x.e - e).toNat : Nat) + y.m * (2 ^ (y.e - e).toNat : Nat), e := e }
def Dyadic.mul (x y : Dyadic) : Dyadic := { m := x.m * y.m, e := x.e + y.e }
def Dyadic.neg (x : Dyadic) : Dyadic := { x with m := -x.m }
def Dyadic.ofInt (n : Int) : Dyadic := { m := n, e := 0 }
/-- A multiple of 2^-40. -/
def fixed (n : Int) : Dyadic := { m := n, e := -40 }
def Dyadic.floor (x : Dyadic) : Int := if 0 ≤ x.e then x.m * (2 ^ x.e.toNat : Nat) else x.m / (2 ^ (-x.e).toNat : Nat)
def Dyadic.val (x : Dyadic) : FVal := .fin (decide (x.m < 0)) x.m.natAbs x.e

/-- a1 + x * (a2 + x * (...)). -/
def horner (x : Dyadic) : List Dyadic → Dyadic
  | [] => Dyadic.ofInt 0
  | a :: r => a.add (x.mul (horner x r))

/-! ### The reference algorithms -/

/-- Kexp(z) (R136). -/
def kexp (z : Dyadic) : Dyadic :=
  let j := ({ z with e := z.e + 8 } : Dyadic).floor
  let i := (j % 256).toNat
  let f := z.add { m := -j, e := -8 }
  let p := horner f (Dyadic.ofInt 1 :: expCoeffs.map fixed)
  let r := (fixed (tw.getD i 0)).mul p
  { r with e := r.e + (j - i) / 256 }

/-- Rc[i] = rne24(1 / (1 + i/128)), as a multiple of 2^-24 (R135). -/
def rc (i : Nat) : Nat := (2 ^ 32 + (128 + i)) / (2 * (128 + i))

/-- VEXP2 (R137, R138). -/
def exp2 (f : Fmt) : FVal → Nat × Nat
  | .nan sig => f.invalid sig
  | .inf n => (if n then 0 else f.infCode false, 0)
  | .fin n m e => f.round 0 false (kexp { m := if n then -(m : Int) else m, e := e }).val

/-- VLOG2 (R137, R139). -/
def log2 (f : Fmt) : FVal → Nat × Nat
  | .nan sig => f.invalid sig
  | .inf n => if n then f.invalid true else (f.infCode false, 0)
  | .fin n m e =>
    if m = 0 then (f.infCode true, flagDZ)
    else if n then f.invalid true
    else
      let l := m.log2
      let i := (256 * (m - 2 ^ l) + 2 ^ l) / 2 ^ (l + 1)
      let u := ({ m := (m * rc i : Nat), e := -(l : Int) - 24 } : Dyadic).add (Dyadic.ofInt (-1))
      let y := ((Dyadic.ofInt (e + l)).add (fixed (lg.getD i 0))).add (u.mul (horner u (logCoeffs.map fixed)))
      f.round 0 false y.val

/-- VTANH (R137, R140). -/
def tanh (f : Fmt) : FVal → Nat × Nat
  | .nan sig => f.invalid sig
  | .inf n => f.round 0 false (.fin n 1 0)
  | .fin n m e =>
    let top := (m.log2 : Int) + e
    if m = 0 then (f.signed n 0, 0)
    else if top < -12 then f.ratio 0 n (3 * m * 2 ^ (-2 * e).toNat - m ^ 3) 3 (3 * e)
    else if 4 ≤ top then f.round 0 false (.fin n 1 0)
    else
      let x := kexp ((fixed (-(kTwo : Int))).mul { m := m, e := e })
      let num := (Dyadic.ofInt 1).add x.neg
      let den := (Dyadic.ofInt 1).add x
      f.ratio 0 n (num.m * (2 ^ (num.e - min num.e den.e).toNat : Nat)).toNat
        (den.m * (2 ^ (den.e - min num.e den.e).toNat : Nat)).toNat 0

/-! ### The instructions (R114, R115) -/

/-- A special function: the results of the active elements are pending together; the merge reads d at issue. Its flags rise at
issue: R115 does not say whether they come with the result (log entry 66). -/
def special (word : Nat) (d : Reg) (rs : List Reg) (l : BitVec 4) (m q : BitVec 2) (rm : Bool)
    (results : State → Fmt → List (Nat × Nat)) : State → Out :=
  issue { floatUse word rs [d] m q rm with long := true }
    (fun s =>
      let f := formatOf q
      let w := f.bits / 8
      let rs := results s f
      let flags := (List.zipWith (fun on p => if on then p.2 else 0) (activity (s.rm m) w) rs).foldl (fun a b => a ||| b) 0
      .ok (retireLong (.vec d) (merge (s.rm m) w (s.oldv d) (rs.map (·.1))) l.toNat false (raise flags s)))

/-- A special function of one source. -/
def special1 (word : Nat) (d a : Reg) (l : BitVec 4) (m q : BitVec 2) (rm : Bool)
    (op : Nat → Fmt → FVal → Nat × Nat) : State → Out :=
  special word d [a] l m q rm (fun s f => (f.vals (s.rv a)).map (op s.rounding f))

def execVrcp (d a : Reg) (l : BitVec 4) (m f : BitVec 2) : State → Out :=
  special1 (wordVrcp d a l m f) d a l m f true (fun rm f x => f.div rm (.fin false 1 0) x)
def execVrsq (d a : Reg) (l : BitVec 4) (m f : BitVec 2) : State → Out :=
  special1 (wordVrsq d a l m f) d a l m f true (fun rm f x => f.rsqrt rm x)
def execVsqrt (d a : Reg) (l : BitVec 4) (m f : BitVec 2) : State → Out :=
  special1 (wordVsqrt d a l m f) d a l m f true (fun rm f x => f.sqrt rm x)
def execVdiv (d a b : Reg) (l : BitVec 4) (m f : BitVec 2) : State → Out :=
  special (wordVdiv d a b l m f) d [a, b] l m f true
    (fun s f => List.zipWith (f.div s.rounding) (f.vals (s.rv a)) (f.vals (s.rv b)))
def execVexp2 (d a : Reg) (l : BitVec 4) (m f : BitVec 2) : State → Out :=
  special1 (wordVexp2 d a l m f) d a l m f false (fun _ f x => exp2 f x)
def execVlog2 (d a : Reg) (l : BitVec 4) (m f : BitVec 2) : State → Out :=
  special1 (wordVlog2 d a l m f) d a l m f false (fun _ f x => log2 f x)
def execVtanh (d a : Reg) (l : BitVec 4) (m f : BitVec 2) : State → Out :=
  special1 (wordVtanh d a l m f) d a l m f false (fun _ f x => tanh f x)

end Sys2Proof.Machine
end

