-- ==== Sys2Proof/Machine/Tasks.lean ====
section
/-! DEFINITION. Tasks, ports and the ready queue, EXIT and TIMER: major 0x2F (R318, R320-R329, R355). -/
namespace Sys2Proof.Machine

/-! ### The task table (R320) -/

def State.task (s : State) (n id : Nat) : Task := (s.core n).tasks.get {} id
/-- The task whose ports the slot has: the current one, but after an RQPOP the one before it until the next ERET to level
U (R320, R326). -/
def portsOf (t : Thread) : Option Nat :=
  match t.taskSwitch with
  | some x => x.ports
  | none => t.task

/-- A task reference, or a port reference (R320). -/
def taskRef (n id : Nat) (gen : BitVec 16) (port : Nat) : Word :=
  BitVec.ofNat 64 (gen.toNat * 2 ^ 32 + port * 2 ^ 16 + id * 2 ^ 11 + n)

/-- Inside a gate call the instruction takes PROT with eaddr 0 (R329). -/
def outsideGates (s : State) : Except Stop Unit := if s.thr.depth ≠ 0 then .error (.fault causeProt 0) else .ok ()

/-! ### TSPAWN (R321, R322) -/

/-- Slots of port i of a spawn record. -/
def spawnSlots (w : Nat → Word) (i : Nat) : Nat := field (w 4) (16 * i + 15) (16 * i)
def spawnHandle (w : Nat → Word) (i : Nat) : Bool := bit (w 5) i
def spawnEng (w : Nat → Word) (i : Nat) : Bool := bit (w 5) (4 + i)

/-- A spawn record that is not well formed (R321). -/
def badSpawn (w : Nat → Word) : Bool :=
  let size := field (w 3) 22 0
  field (w 2) 63 15 != 0 || field (w 3) 63 23 != 0 || size % 64 != 0 || decide (0x400000 < size)
    || field (w 5) 31 8 != 0 || field (w 6) 8 0 != 0 || field (w 0) 1 0 != 0
    || (List.range 4).any (fun i => decide (4096 < spawnSlots w i) || (spawnSlots w i == 0 && (spawnHandle w i || spawnEng w i)))
    || decide (size < 64 * ((List.range 4).map (spawnSlots w)).sum)

/-- The lowest free buffers of a cluster, enough for the ports. -/
def freeBuffers (s : State) (c n : Nat) : List Nat :=
  ((List.range 256).filter (fun b => !(s.buffer c b).live)).take n

/-- The ports of a spawn record with slots, ascending, with the offset of each in the allocation. -/
def spawnPorts (w : Nat → Word) : List (Nat × Nat) :=
  ((List.range 4).filter (fun i => spawnSlots w i != 0)).map (fun i =>
    (i, 64 * ((List.range i).map (spawnSlots w)).sum))

/-- Port handles placed in the domain's table, ascending: which entry each port got; none where the table is full. -/
def placePorts (p : Nat) (dom : BitVec 12) (ref : Nat → Word) : List Nat → State → Except Stop (Option (List (Nat × Nat) × State))
  | [], s => .ok (some ([], s))
  | i :: r, s => do
    match ← placeHandle s p dom (BitVec.ofNat 64 (dom.toNat * 2 ^ 32 + 6 * 2 ^ 16 + 2)) (ref i) with
    | none => .ok none
    | some (h, s) =>
      match ← placePorts p dom ref r s with
      | none => .ok none
      | some (l, s) => .ok (some ((i, h) :: l, s))

/-- The initial task block (R322). -/
def taskBlock (entry arg ref : Word) (dom : BitVec 12) : List Byte :=
  toBytes 8 entry.toNat ++ toBytes 8 arg.toNat ++ toBytes 8 ref.toNat ++ List.replicate 0x168 0
    ++ toBytes 8 0x10 ++ List.replicate 16 0 ++ toBytes 8 dom.toNat ++ List.replicate 0x60 0

/-- The effect of a TSPAWN that passed its checks: the new state, without the registers (R321). -/
def spawn (n id base : Nat) (bufs : List Nat) (va : Nat) (w : Nat → Word) (handles : List (Nat × Nat)) (s : State) :
    Except Stop State := do
  let c := n / 16
  let p := s.partOf (clusterOf s.cur)
  let dom : BitVec 12 := (w 2).extractLsb' 0 12
  let old := s.task n id
  let ref := taskRef n id old.gen 0
  let ports := (spawnPorts w).zip bufs
  let task : Task :=
    { gen := old.gen, state := .queued, dom := dom, prio := field (w 2) 13 12, ox := bit (w 2) 14, spbase := base
      splen := field (w 3) 22 0, savedDom := dom, savedDsp := setField (zext (taskArea s p n id) 48) 9 0 0, block := w 6
      ports := Vector.ofFn (fun i : Fin 4 => (ports.find? (fun x => x.1.1 == i.val)).map (fun x => { buf := x.2 })) }
  let s := ports.foldl (fun s x =>
    s.setBuffer c x.2 { live := true, dom := dom, eng := spawnEng w x.1.1, base := base + x.1.2, size := 64
                        slots := spawnSlots w x.1.1, free := spawnSlots w x.1.1, task := some (n, id), port := true }) s
  let s := s.setCluster c { s.cluster c with
    allocs := (s.cluster c).allocs ++ [(base, field (w 3) 22 0)]
    oxTask := if bit (w 2) 14 then some (n, id) else (s.cluster c).oxTask }
  let s := freshScratch c base (field (w 3) 22 0) s
  let numbers := (ports.map (fun x => x.2 * 2 ^ (8 * x.1.1))).sum
  let hs := (handles.map (fun h => (0x8000 + h.2) * 2 ^ (16 * h.1))).sum
  let s ← storeRanges s false [(va + 0x28, toBytes 8 (field (w 5) 31 0 + numbers * 2 ^ 32)), (va + 0x38, toBytes 8 hs)]
  let s ← storeRanges s false [((w 6).toNat, taskBlock (w 0) (w 1) ref dom)]
  afterPosted s
  .ok (portChecked p (pushReady n id (s.setTask n id task)))

def execTspawn (d a b : Reg) : State → Out :=
  issue { word := wordTspawn d a b, gr := [a, b], gw := [d] }
    (fun s => do
      let va := (s.rg a).toNat
      let ctx := s.ctx
      let done := fun (x : Int) (s : State) => (.ok (retire (s.wg d (status x))) : Except Stop State)
      if va % 64 ≠ 0 then done (-2) s
      else
        let (s, bytes) ← loadRanges s false [(va, 64)]
        let (s, _) ← access s ctx (va + 0x28) 24 .store
        let w := fun (i : Nat) => BitVec.ofNat 64 (ofBytes ((bytes.drop (8 * i)).take 8))
        if badSpawn w then done (-2) s
        else
          let (s, _) ← access s ctx (w 6).toNat 512 .store
          let n := if s.rg b = status (-1) then coreOf s.cur else (s.rg b).toNat
          let c := n / 16
          let dom : BitVec 12 := (w 2).extractLsb' 0 12
          if ← domainDenied s ctx.part ctx.level ctx.dom dom then done (-4) s
          else if 2048 ≤ n || (s.cluster c).part != some ctx.part || (bit (w 2) 14 && !oxFree s c) then done (-4) s
          else
            match (List.range 32).find? (fun id => (s.task n id).state == .free) with
            | none => done (-1) s
            | some id =>
              let bufs := freeBuffers s c (spawnPorts w).length
              match freeRange s c (field (w 3) 22 0) with
              | none => done (-3) s
              | some base =>
                if bufs.length < (spawnPorts w).length then done (-3) s
                else
                  let gen := (s.task n id).gen
                  match ← placePorts ctx.part dom (taskRef n id gen) ((List.range 4).filter (spawnHandle w)) s with
                  | none => done (-5) s
                  | some (handles, s) =>
                    let s ← spawn n id base bufs va w handles s
                    .ok (retire (s.wg d (taskRef n id gen 0))))

/-! ### QSEND, EOS, QRECV (R323, R324) -/

/-- The port that a handle reaches: its core, task, cluster and buffer; or the status of R323. A port reference with an old
GEN is closed, status 2, as the table of R323 has it; the entry that R302 calls stale is read as one whose handle no longer
stands (log entry 56). -/
def portTarget (s : State) (h : Word) (eos : Bool) : Except Stop (Except Int (Nat × Nat × Nat)) := do
  let p := s.partOf (clusterOf s.cur)
  let (e, y) ← handleEntry s p s.thr.dom h
  if field e 1 0 ≠ 2 || !bit e 18 then .ok (.error 3)
  else
    let n := field y 10 0
    let t := s.task n (field y 15 11)
    if t.state == .free || t.gen != y.extractLsb' 32 16 || (s.cluster (n / 16)).part != some p then .ok (.error 2)
    else
      match t.ports[field y 17 16]? with
      | some (some port) =>
        if (s.buffer (n / 16) port.buf).eng && !eos then .ok (.error 3) else .ok (.ok (n, n / 16, port.buf))
      | _ => .ok (.error 3)

/-- A message or a token sent to a port; none sends a token (R323). -/
def sendTo (c b : Nat) (msg : Option (List Byte)) (s : State) : State :=
  let (j, buf) := (s.buffer c b).take
  let s := match msg with
    | some l => s.writeBytes (scratchBase c + buf.base + j * buf.size) l
    | none => s
  let buf := if msg.isNone then { buf with tokens := buf.tokens ++ [j] } else buf
  updateBuffer c b (buf.publish j) s

/-- QSEND and EOS. -/
def send (u : Use) (d a : Reg) (msg : Option (State → List Byte)) : State → Out :=
  issue u
    (fun s => do
      match ← portTarget s (s.rg a) msg.isNone with
      | .error x => .ok (retire (s.wg d (status x)))
      | .ok (_, c, b) =>
        if (s.buffer c b).free = 0 then
          if s.waitHint then .error (.wait (.qsend c b)) else .ok (retire (s.wg d 1))
        else
          afterPosted s
          .ok (retire ((sendTo c b (msg.map (fun f => f s)) s).wg d 0)))

def execQsend (d a b : Reg) : State → Out :=
  send { word := wordQsend d a b, ill := passes b 4, gr := [a], gw := [d], vr := regs b 4, vx := true, accept := { wait := true } }
    d a (some (fun s => ((regs b 4).map (fun r => toBytes 16 (s.rv r).toNat)).flatten))

def execEos (d a : Reg) : State → Out :=
  send { word := wordEos d a, gr := [a], gw := [d], accept := { wait := true } } d a none

/-- The buffer of a port of the current task (R324). -/
def ownPort (s : State) (x : Word) : Option Nat :=
  match portsOf s.thr with
  | some id => (match (s.task (coreOf s.cur) id).ports[x.toNat]? with | some (some p) => some p.buf | _ => none)
  | none => none

/-- QRECV names a vector register, so it sets VX, and so does QSEND: R96 does not list their major (log entry 57). -/
def execQrecv (d a b : Reg) : State → Out :=
  issue { word := wordQrecv d a b, ill := passes d 4, gr := [a], gw := [b], vw := regs d 4, vx := true, accept := { wait := true } }
    (fun s => do
      outsideGates s
      match ownPort s (s.rg a) with
      | none => .ok (retire (s.wg b 3))
      | some i =>
        let c := clusterOf s.cur
        let buf := s.buffer c i
        if buf.filled = 0 then
          if s.waitHint then .error (.wait (.qrecv i)) else .ok (retire (s.wg b 1))
        else
          let (j, buf2) := buf.acquire
          let token := buf.tokens.contains j
          let l := s.readBytes (scratchBase c + buf.base + j * buf.size) 64
          let s := s.setBuffer c i (buf2.release j)
          let s := (List.range 4).foldl (fun s m =>
            s.wv (d + BitVec.ofNat 4 m) (if token then 0 else BitVec.ofNat 128 (ofBytes ((l.drop (16 * m)).take 16)))) s
          .ok (retire (s.wg b (if token then 2 else 0))))

/-! ### PARK and the ready queue (R325, R326) -/

/-- The ports that a mask names, all of which the task has; none otherwise (R325). -/
def namedPorts (s : State) (x : Word) : Option (List (Nat × Nat)) :=
  if 16 ≤ x.toNat then none
  else match s.thr.task with
    | none => none
    | some _ => ((List.range 4).filter (fun i => bit x i)).mapM (fun i =>
        (ownPort s (BitVec.ofNat 64 i)).map (fun b => (i, b)))

def execPark (d a : Reg) (s : State) : Out :=
  issue { word := wordPark d a, ill := s.thr.task.isNone || (s.known [a] && (namedPorts s (s.rg a)).isNone), gr := [a], gw := [d] }
    (fun s => do
      if (namedPorts s (s.rg a)).isNone then .error (illegal (wordPark d a))
      outsideGates s
      match namedPorts s (s.rg a), s.thr.task with
      | some l, some id =>
        let n := coreOf s.cur
        let r := ((l.filter (fun x => decide (0 < (s.buffer (clusterOf s.cur) x.2).filled))).map (fun x => 2 ^ x.1)).sum
        if r ≠ 0 then .ok (retire (s.wg d (BitVec.ofNat 64 r)))
        else
          let owner := (portsOf s.thr).getD id
          let t := s.task n owner
          let ports := Vector.ofFn (fun i : Fin 4 => (t.ports[i.val]).map (fun q =>
            { q with sleeper := q.sleeper || l.any (fun x => x.1 == i.val) }))
          let s := s.setTask n owner { t with ports := ports }
          let s := s.setTask n id { s.task n id with state := .parked }
          .ok (trap s.cur { cause := 0x11, eaddr := 0x100 + s.rg a } s)
      | _, _ => .ok s) s

def execRqpush (d a : Reg) (s : State) : Out :=
  issue { word := wordRqpush d a, ill := s.known [a] && decide (32 ≤ (s.rg a).toNat), priv := s.thr.level == 0, gr := [a], gw := [d] }
    (fun s => do
      if 32 ≤ (s.rg a).toNat then .error (illegal (wordRqpush d a))
      let n := coreOf s.cur
      let id := (s.rg a).toNat
      let t := s.task n id
      let mine := t.state == .current && t.slot == some s.cur && s.thr.task == some id
      if t.state == .free then .ok (retire (s.wg d (status (-2))))
      else if t.state == .idle || mine then
        .ok (retire ((pushReady n id (s.setTask n id { t with state := .queued })).wg d 0))
      else .ok (retire (s.wg d (status (-1))))) s

/-- The oldest id of the highest priority that holds one (R326). -/
def readyHead (c : CoreState) : Option (Nat × Nat) :=
  (List.range 4).findSome? (fun p => match c.ready.get [] p with | id :: _ => some (p, id) | [] => none)

/-- The current task of the slot is recorded in its entry and, neither queued nor parked, becomes idle (R326). -/
def replaceTask (s : State) : State :=
  match s.thr.task with
  | none => s
  | some id =>
    let n := coreOf s.cur
    let t := s.task n id
    let th := s.thr
    s.setTask n id { t with
      savedDom := th.dom, savedDsp := th.dsp, savedDepth := BitVec.ofNat 3 th.depth
      state := if t.state == .current && t.slot == some s.cur then .idle else t.state }

def execRqpop (d a : Reg) (s : State) : Out :=
  issue { word := wordRqpop d a, ill := s.known [a] && decide (2 ≤ (s.rg a).toNat), priv := s.thr.level == 0, gr := [a], gw := [d] }
    (fun s => do
      if 2 ≤ (s.rg a).toNat then .error (illegal (wordRqpop d a))
      outsideGates s
      let n := coreOf s.cur
      match readyHead (s.core n) with
      | none => if s.rg a = 1 then .error (.wait .rqpop) else .ok (retire (s.wg d (status (-1))))
      | some (p, id) =>
        let owner := portsOf s.thr
        let s := replaceTask s
        let s := s.setCore n { s.core n with ready := (s.core n).ready.set p (((s.core n).ready.get [] p).drop 1) }
        let t := s.task n id
        let s := s.setTask n id { t with state := .current, slot := some s.cur }
        let x : TaskSwitch := { ports := owner, root := t.dom, dom := t.savedDom, dsp := t.savedDsp, depth := t.savedDepth
                                spbase := t.spbase, splen := t.splen }
        .ok (retire ((s.mapThr (fun th => { th with task := some id, taskSwitch := some x })).wg d (BitVec.ofNat 64 id)))) s

/-! ### TIMER, EXIT (R318, R327) -/

def execTimer (d a : Reg) (s : State) : Out :=
  issue { word := wordTimer d a, priv := s.thr.level == 0, gr := [a], gw := [d] }
    (fun s =>
      let left := s.thr.timer
      .ok (retire ((s.mapThr (fun t => { t with timer := s.rg a })).wg d left))) s

def execExit (s : State) : Out :=
  issue { word := wordExit, ill := s.thr.depth != 0 || localSlot s.cur == 7, drain := true }
    (fun s => do
      afterPosted s
      .ok (exitThread s.cur (s.thr.pc + 4) s)) s

end Sys2Proof.Machine
end

