-- ==== Sys2Proof/Machine/Waits.lean ====
section
/-! DEFINITION. When a wait ends, which slots are ready (R67, R70), which one issues (R68), and YIELD (R328). -/
namespace Sys2Proof.Machine

/-- The wait of a stream of slot k is over, and its instruction may issue again. Waits that an event or the home
completes never end here. -/
def waitOver (s : State) (k : Nat) (body : Bool) (w : Wait) : Bool :=
  let t := s.thread k
  let c := clusterOf k
  let n := coreOf k
  let p := s.partOf c
  match w with
  | .monitor .. => t.wakePending
  | .page r _ => (replyOf s p r).isSome
  | .windows full empty => s.windowsReady k full empty
  | .nsend r => decide ((s.neighbour n (localSlot k) r).count < (s.neighbour n (localSlot k) r).limit)
  | .nrecv r => !(s.neighbour n (localSlot k) r).queue.isEmpty
  | .oxRoom _ => decide ((s.ox c).queue.length < 32) && roomTurn s c == some (k, body)
  | .tile x => !(s.ox c).held x
  | .mmaTurn x => !accessWaits s c x
  | .mmaDone x => t.pending.all (fun q => q.dest != .tile x)
  | .muleRoom => muleRoom s k
  | .qsend cl b => decide (0 < (s.buffer cl b).free)
  | .qrecv b => decide (0 < (s.buffer c b).filled)
  | .rqpop => (readyHead (s.core n)).isSome
  | .counter _ x v _ =>
    let q := (s.steppe p).counters.get {} x
    q.err != 0 || q.reached v
  | .sendRoom => sendRoom s p k
  | .line l _ _ => (s.coh.stopOf l).isNone
  | .word x _ => (heldBack s (some (k, body)) x 8).isNone
  | .port _ left _ => left == 0
  | .scoreboard dests drain room =>
    dests.all (fun d => t.pending.all (fun p => p.dest != d)) && (!drain || t.pending.all (fun p => !p.register))
      && (!room || decide (t.pending.length < 8))
  | .behind => !t.outstanding body
  | .posted => !postedBy s k
  | .divider => decide ((s.core n).divides.length < 8)
  | .way _ _ => true
  | .yield l => l.isEmpty
  | .engines => !engineWork s k
  | .ahead => match t.rep with | none => true | some r => r.j == 0
  | .hold _ | .halt | .fe _ | .refused _ _ _ | .rsv _ | .fill | .transfer | .icinv | .leave _ _ _ | .travel _ | .fetch _
  | .token _ _ | .cbacq _ _ _ | .cbres _ _ _ => false

/-- The stream that slot k issues next, true for the body: streams take turns, and a stream that waits leaves its
turn to the other (R243). -/
def nextStream (s : State) (k : Nat) : Option Bool :=
  let t := s.thread k
  let main := t.wait.all (waitOver s k false)
  match t.rep with
  | none => if main then some false else none
  | some r =>
    let body := r.wait.all (waitOver s k true)
    if body && (r.bodyNext || !main) then some true else if main then some false else none

/-- The event that slot k takes before its next instruction (R338). -/
def nextEvent (t : Thread) : Option Posted := if t.atBoundary then firstEvent t else none

/-- A save has brought the thread of slot k to rest and waits for accesses of its cluster's threads (R351). -/
def savedSoon (s : State) (k : Nat) : Bool :=
  let unit := (s.thread k).unit
  (s.part (s.partOf (clusterOf k))).vacates.any (fun v => v.clusters.any (fun x => x.saving.isSome &&
    ((x.cluster == clusterOf k && (v.whole || unit.isSome))
      || unit.any (fun u => s.units.any (fun e => e.1 == u && e.2.cluster == x.cluster)))))

/-- Slot k holds a thread in the rotation (R67, R70), or one that has an event to take. The slots of a halted
partition and of a stopped device issue nothing (R432, R444). -/
def slotReady (s : State) (k : Nat) : Bool :=
  let t := s.thread k
  t.occupied && !s.stopped && !(s.part (s.partOf (clusterOf k))).halted && !savedSoon s k &&
    (t.unwindDue || (nextEvent t).isSome || (nextStream s k).isSome)

/-- Island cycles since reset of the island of core n. -/
def State.islandCycle (s : State) (n : Nat) : Nat := (s.cluster (n / 16)).island.cycles

/-- A ready slot is eligible 4 cycles after its previous issue (R67). -/
def eligible (s : State) (k : Nat) : Bool :=
  slotReady s k && (match (s.thread k).lastIssue with
    | none => true
    | some x => decide (x + 4 ≤ s.islandCycle (coreOf k)))

/-- The age by which R68 chooses: 0 for a slot that has not issued since it was loaded, and for slot 7 whose previous
issue lies 8 cycles back. -/
def issueAge (s : State) (k : Nat) : Nat :=
  match (s.thread k).lastIssue with
  | none => 0
  | some x => if localSlot k = 7 && decide (x + 8 ≤ s.islandCycle (coreOf k)) then 0 else x + 1

/-- The local slots in the order in which ties are broken (R68). -/
def tieOrder : List Nat := [7, 0, 1, 2, 3, 4, 5, 6]

/-- The slot that core n issues from in this cycle, none where no slot is eligible or one has issued already (R68), and none in
a fabric cycle that the current cap removes from its island (R443). -/
def chooseSlot (s : State) (n : Nat) : Option Nat :=
  if (s.core n).issued == some (s.islandCycle n) || (s.cluster (n / 16)).island.throttled != 0 then none
  else
    ((tieOrder.map (fun i => 8 * n + i)).filter (eligible s)).foldl (fun b k => match b with
      | none => some k
      | some x => if issueAge s k < issueAge s x then some k else some x) none

/-- What the YIELDs of core n still wait for: slots that have left the rotation, and `issued`, count no longer (R328). -/
def settleYields (n : Nat) (issued : Option Nat) (s : State) : State :=
  (List.range 8).foldl (fun s i => match (s.thread (8 * n + i)).wait with
    | some (.yield l) =>
      s.mapThread (8 * n + i) (fun t =>
        { t with wait := some (.yield (l.filter (fun j => issued != some (8 * n + j) && slotReady s (8 * n + j)))) })
    | _ => s) s

/-- The cores with a slot that YIELD has passed over. -/
def yieldingCores (s : State) : List Nat :=
  ((s.threads.filter (fun e => match e.2.wait with | some (.yield _) => true | _ => false)).map (fun e => coreOf e.1)).eraseDups

/-- Slot k issues: it is recorded, and no YIELD of its core waits for it any longer (R68, R328). -/
def noteIssue (k : Nat) (s : State) : State :=
  let now := s.islandCycle (coreOf k)
  settleYields (coreOf k) (some k)
    ((s.setCore (coreOf k) { s.core (coreOf k) with issued := some now }).mapThread k (fun t => { t with lastIssue := some now }))

/-- YIELD (R328). Inside a gate call it takes PROT, as every task instruction does. -/
def execYield : State → Out :=
  issue { word := wordYield }
    (fun s => do
      outsideGates s
      let k := s.cur
      if s.thr.task.isSome then
        .ok (trapAt k (s.thr.pc + 4) { cause := 0x11, eaddr := 0x300 } s)
      else
        let others := (List.range 8).filter (fun i => i != localSlot k && slotReady s (coreOf k * 8 + i))
        .ok (if others.isEmpty then retire s else (retire s).mapThr (fun t => { t with wait := some (.yield others) })))

/-- A page request that no ring entry was free for is posted (R427); notices that wait for the ring go first (R428). -/
def execPageRequestDeferredPost (part : Nat) (s : State) : Out := .next (postDeferred part (postNotices part s))

end Sys2Proof.Machine
end

