-- ==== Sys2Proof/Machine/Dispatch.lean ====
section
/-! DEFINITION. The dispatcher: one arm per constructor of `Instr`, each one call of its meaning. -/
namespace Sys2Proof.Machine

def exec (i : Instr) (s : State) : Host.Outcome State Fault Refusal :=
  match i with
  | .divideComplete core => Sys2Proof.Machine.execDivideComplete core s
  | .icinvComplete slot => Sys2Proof.Machine.execIcinvComplete slot s
  | .holdExpiry slot => Sys2Proof.Machine.execHoldExpiry slot s
  | .longLatencyComplete slot => Sys2Proof.Machine.execLongLatencyComplete slot s
  | .migrationArrival core => Sys2Proof.Machine.execMigrationArrival core s
  | .arrivalDequeue core => Sys2Proof.Machine.execArrivalDequeue core s
  | .pageRequestDeferredPost part => Sys2Proof.Machine.execPageRequestDeferredPost part s
  | .feRefusalRetry slot => Sys2Proof.Machine.execFeRefusalRetry slot s
  | .feretry slot => Sys2Proof.Machine.execFeretry slot s
  | .mwaitTimeout slot => Sys2Proof.Machine.execMwaitTimeout slot s
  | .reservationTimeout word => Sys2Proof.Machine.execReservationTimeout word s
  | .latchFillComplete cluster => Sys2Proof.Machine.execLatchFillComplete cluster s
  | .mmaStart cluster => Sys2Proof.Machine.execMmaStart cluster s
  | .mmaComplete cluster => Sys2Proof.Machine.execMmaComplete cluster s
  | .accumTransferComplete cluster => Sys2Proof.Machine.execAccumTransferComplete cluster s
  | .leaveGrant cluster => Sys2Proof.Machine.execLeaveGrant cluster s
  | .muleChunk cluster => Sys2Proof.Machine.execMuleChunk cluster s
  | .muleCommandComplete cluster => Sys2Proof.Machine.execMuleCommandComplete cluster s
  | .unwindBudgetExpiry slot => Sys2Proof.Machine.execUnwindBudgetExpiry slot s
  | .callergone slot => Sys2Proof.Machine.execCallergone slot s
  | .launchDispatch cluster => Sys2Proof.Machine.execLaunchDispatch cluster s
  | .holdLimitExpiry part => Sys2Proof.Machine.execHoldLimitExpiry part s
  | .workUnitComplete part record unit => Sys2Proof.Machine.execWorkUnitComplete part record unit s
  | .forecastUpdate cluster value => Sys2Proof.Machine.execForecastUpdate cluster value s
  | .timerExpiry slot => Sys2Proof.Machine.execTimerExpiry slot s
  | .sliceExpiry slot => Sys2Proof.Machine.execSliceExpiry slot s
  | .gets agent line => Sys2Proof.Machine.execGets agent line s
  | .getm agent line => Sys2Proof.Machine.execGetm agent line s
  | .puts agent line => Sys2Proof.Machine.execPuts agent line s
  | .putm agent line => Sys2Proof.Machine.execPutm agent line s
  | .uread txn line => Sys2Proof.Machine.execUread txn line s
  | .uwrite txn write => Sys2Proof.Machine.execUwrite txn write s
  | .atom txn operation => Sys2Proof.Machine.execAtom txn operation s
  | .updw agent line => Sys2Proof.Machine.execUpdw agent line s
  | .linvMsg agent line => Sys2Proof.Machine.execLinvMsg agent line s
  | .lwbMsg agent line => Sys2Proof.Machine.execLwbMsg agent line s
  | .ack agent line => Sys2Proof.Machine.execAck agent line s
  | .odata agent line => Sys2Proof.Machine.execOdata agent line s
  | .inv agent line => Sys2Proof.Machine.execInv agent line s
  | .down agent line => Sys2Proof.Machine.execDown agent line s
  | .recall agent line => Sys2Proof.Machine.execRecall agent line s
  | .upd agent line => Sys2Proof.Machine.execUpd agent line s
  | .dataS agent line => Sys2Proof.Machine.execDataS agent line s
  | .dataM agent line => Sys2Proof.Machine.execDataM agent line s
  | .putack agent line => Sys2Proof.Machine.execPutack agent line s
  | .updack agent line => Sys2Proof.Machine.execUpdack agent line s
  | .nackw agent line => Sys2Proof.Machine.execNackw agent line s
  | .udata requester line => Sys2Proof.Machine.execUdata requester line s
  | .wack requester line => Sys2Proof.Machine.execWack requester line s
  | .turnStart bundle => Sys2Proof.Machine.execTurnStart bundle s
  | .turnEnd bundle group => Sys2Proof.Machine.execTurnEnd bundle group s
  | .laneGrant bundle part groups => Sys2Proof.Machine.execLaneGrant bundle part groups s
  | .flitArrival bundle group dir => Sys2Proof.Machine.execFlitArrival bundle group dir s
  | .creditAudit bundle => Sys2Proof.Machine.execCreditAudit bundle s
  | .packetSend part => Sys2Proof.Machine.execPacketSend part s
  | .packetArrival part pkt => Sys2Proof.Machine.execPacketArrival part pkt s
  | .ackArrival part ack => Sys2Proof.Machine.execAckArrival part ack s
  | .retransmitTimerExpiry part peer seq => Sys2Proof.Machine.execRetransmitTimerExpiry part peer seq s
  | .ncwaitTimeout slot => Sys2Proof.Machine.execNcwaitTimeout slot s
  | .vacateRequest part record => Sys2Proof.Machine.execVacateRequest part record s
  | .drainDeadlineExpiry cluster => Sys2Proof.Machine.execDrainDeadlineExpiry cluster s
  | .vacateReport part => Sys2Proof.Machine.execVacateReport part s
  | .restore cluster area => Sys2Proof.Machine.execRestore cluster area s
  | .critDeferralExpiry cluster => Sys2Proof.Machine.execCritDeferralExpiry cluster s
  | .borderControllerRun => Sys2Proof.Machine.execBorderControllerRun s
  | .clusterMove cluster => Sys2Proof.Machine.execClusterMove cluster s
  | .forcedMove cluster force => Sys2Proof.Machine.execForcedMove cluster force s
  | .tokenRefill slice => Sys2Proof.Machine.execTokenRefill slice s
  | .freshPageClearComplete page => Sys2Proof.Machine.execFreshPageClearComplete page s
  | .backgroundClear page => Sys2Proof.Machine.execBackgroundClear page s
  | .scratchpadUnitClear cluster unit => Sys2Proof.Machine.execScratchpadUnitClear cluster unit s
  | .integrityCheckComplete block good => Sys2Proof.Machine.execIntegrityCheckComplete block good s
  | .serviceVacate part granted => Sys2Proof.Machine.execServiceVacate part granted s
  | .serviceFeLimits part granted => Sys2Proof.Machine.execServiceFeLimits part granted s
  | .serviceTarget part granted => Sys2Proof.Machine.execServiceTarget part granted s
  | .serviceBars part granted => Sys2Proof.Machine.execServiceBars part granted s
  | .serviceGiveBack part granted => Sys2Proof.Machine.execServiceGiveBack part granted s
  | .hostqLaunch fn => Sys2Proof.Machine.execHostqLaunch fn s
  | .hostqDepdec fn => Sys2Proof.Machine.execHostqDepdec fn s
  | .hostqStff fn => Sys2Proof.Machine.execHostqStff fn s
  | .qwr fn value => Sys2Proof.Machine.execQwr fn value s
  | .qbase fn value => Sys2Proof.Machine.execQbase fn value s
  | .qsize fn value => Sys2Proof.Machine.execQsize fn value s
  | .queueKeying fn => Sys2Proof.Machine.execQueueKeying fn s
  | .hostBar2Access fn place size data => Sys2Proof.Machine.execHostBar2Access fn place size data s
  | .hostSidebandRead fn addr => Sys2Proof.Machine.execHostSidebandRead fn addr s
  | .getVersion fn => Sys2Proof.Machine.execGetVersion fn s
  | .getCapabilities fn => Sys2Proof.Machine.execGetCapabilities fn s
  | .negotiateAlgorithms fn => Sys2Proof.Machine.execNegotiateAlgorithms fn s
  | .getDigests fn => Sys2Proof.Machine.execGetDigests fn s
  | .getCertificate fn => Sys2Proof.Machine.execGetCertificate fn s
  | .challenge fn nonce => Sys2Proof.Machine.execChallenge fn nonce s
  | .getMeasurements fn index => Sys2Proof.Machine.execGetMeasurements fn index s
  | .keyExchange fn => Sys2Proof.Machine.execKeyExchange fn s
  | .finish fn => Sys2Proof.Machine.execFinish fn s
  | .heartbeat fn => Sys2Proof.Machine.execHeartbeat fn s
  | .keyUpdate fn => Sys2Proof.Machine.execKeyUpdate fn s
  | .endSession fn => Sys2Proof.Machine.execEndSession fn s
  | .coldReset => Sys2Proof.Machine.execColdReset s
  | .fundamentalReset => Sys2Proof.Machine.execFundamentalReset s
  | .functionLevelReset fn => Sys2Proof.Machine.execFunctionLevelReset fn s
  | .islandPointChange cluster mhz power => Sys2Proof.Machine.execIslandPointChange cluster mhz power s
  | .currentCapThrottle cluster excess => Sys2Proof.Machine.execCurrentCapThrottle cluster excess s
  | .thermtrip => Sys2Proof.Machine.execThermtrip s
  | .illegalInstruction w => Sys2Proof.Machine.execIllegalInstruction w s
  | .fetchMissFill slot => Sys2Proof.Machine.execFetchMissFill slot s
  | .leaveHoldExpiry cluster => Sys2Proof.Machine.execLeaveHoldExpiry cluster s
  | .flitSend bundle => Sys2Proof.Machine.execFlitSend bundle s
  | .portStateChange port up => Sys2Proof.Machine.execPortStateChange port up s
  | .lineReset release => Sys2Proof.Machine.execLineReset release s
  | .channelMove channel part => Sys2Proof.Machine.execChannelMove channel part s
  | .partitionCreation part record world => Sys2Proof.Machine.execPartitionCreation part record world s
  | .add d a b w => Sys2Proof.Machine.execAdd d a b w s
  | .sub d a b w => Sys2Proof.Machine.execSub d a b w s
  | .and d a b w => Sys2Proof.Machine.execAnd d a b w s
  | .or d a b w => Sys2Proof.Machine.execOr d a b w s
  | .xor d a b w => Sys2Proof.Machine.execXor d a b w s
  | .andn d a b w => Sys2Proof.Machine.execAndn d a b w s
  | .orn d a b w => Sys2Proof.Machine.execOrn d a b w s
  | .shl d a b w => Sys2Proof.Machine.execShl d a b w s
  | .shr d a b w => Sys2Proof.Machine.execShr d a b w s
  | .sra d a b w => Sys2Proof.Machine.execSra d a b w s
  | .rol d a b w => Sys2Proof.Machine.execRol d a b w s
  | .ror d a b w => Sys2Proof.Machine.execRor d a b w s
  | .min d a b w => Sys2Proof.Machine.execMin d a b w s
  | .max d a b w => Sys2Proof.Machine.execMax d a b w s
  | .minn d a b w => Sys2Proof.Machine.execMinn d a b w s
  | .maxn d a b w => Sys2Proof.Machine.execMaxn d a b w s
  | .slt d a b w => Sys2Proof.Machine.execSlt d a b w s
  | .sltn d a b w => Sys2Proof.Machine.execSltn d a b w s
  | .seq d a b w => Sys2Proof.Machine.execSeq d a b w s
  | .sne d a b w => Sys2Proof.Machine.execSne d a b w s
  | .mul d a b w => Sys2Proof.Machine.execMul d a b w s
  | .mulh d a b w => Sys2Proof.Machine.execMulh d a b w s
  | .mulhn d a b w => Sys2Proof.Machine.execMulhn d a b w s
  | .clz d a w => Sys2Proof.Machine.execClz d a w s
  | .ctz d a w => Sys2Proof.Machine.execCtz d a w s
  | .popc d a w => Sys2Proof.Machine.execPopc d a w s
  | .brev d a w => Sys2Proof.Machine.execBrev d a w s
  | .bswap d a w => Sys2Proof.Machine.execBswap d a w s
  | .sel d a b c w => Sys2Proof.Machine.execSel d a b c w s
  | .extr d a b c w => Sys2Proof.Machine.execExtr d a b c w s
  | .extrs d a b c w => Sys2Proof.Machine.execExtrs d a b c w s
  | .insb d a b c w => Sys2Proof.Machine.execInsb d a b c w s
  | .div d a b l w => Sys2Proof.Machine.execDiv d a b l w s
  | .divn d a b l w => Sys2Proof.Machine.execDivn d a b l w s
  | .rem d a b l w => Sys2Proof.Machine.execRem d a b l w s
  | .remn d a b l w => Sys2Proof.Machine.execRemn d a b l w s
  | .addi d a imm => Sys2Proof.Machine.execAddi d a imm s
  | .andi d a imm => Sys2Proof.Machine.execAndi d a imm s
  | .ori d a imm => Sys2Proof.Machine.execOri d a imm s
  | .xori d a imm => Sys2Proof.Machine.execXori d a imm s
  | .shli d a n => Sys2Proof.Machine.execShli d a n s
  | .shri d a n => Sys2Proof.Machine.execShri d a n s
  | .srai d a n => Sys2Proof.Machine.execSrai d a n s
  | .roli d a n => Sys2Proof.Machine.execRoli d a n s
  | .slti d a imm => Sys2Proof.Machine.execSlti d a imm s
  | .sltni d a imm => Sys2Proof.Machine.execSltni d a imm s
  | .li d imm => Sys2Proof.Machine.execLi d imm s
  | .lpc d imm => Sys2Proof.Machine.execLpc d imm s
  | .muli d a imm => Sys2Proof.Machine.execMuli d a imm s
  | .beq a b imm => Sys2Proof.Machine.execBeq a b imm s
  | .bne a b imm => Sys2Proof.Machine.execBne a b imm s
  | .blt a b imm => Sys2Proof.Machine.execBlt a b imm s
  | .bge a b imm => Sys2Proof.Machine.execBge a b imm s
  | .bltn a b imm => Sys2Proof.Machine.execBltn a b imm s
  | .bgen a b imm => Sys2Proof.Machine.execBgen a b imm s
  | .beqz a imm => Sys2Proof.Machine.execBeqz a imm s
  | .bnez a imm => Sys2Proof.Machine.execBnez a imm s
  | .bltz a imm => Sys2Proof.Machine.execBltz a imm s
  | .bgez a imm => Sys2Proof.Machine.execBgez a imm s
  | .bgtz a imm => Sys2Proof.Machine.execBgtz a imm s
  | .blez a imm => Sys2Proof.Machine.execBlez a imm s
  | .j imm => Sys2Proof.Machine.execJ imm s
  | .jl imm => Sys2Proof.Machine.execJl imm s
  | .jr a => Sys2Proof.Machine.execJr a s
  | .jlr d a => Sys2Proof.Machine.execJlr d a s
  | .trap n => Sys2Proof.Machine.execTrap n s
  | .eret => Sys2Proof.Machine.execEret s
  | .sread d n => Sys2Proof.Machine.execSread d n s
  | .swrite a n => Sys2Proof.Machine.execSwrite a n s
  | .icinv a b src => Sys2Proof.Machine.execIcinv a b src s
  | .brk => Sys2Proof.Machine.execBrk s
  | .halt => Sys2Proof.Machine.execHalt s
  | .fence e k src => Sys2Proof.Machine.execFence e k src s
  | .himm p => Sys2Proof.Machine.execHimm p s
  | .hmod p => Sys2Proof.Machine.execHmod p s
  | .hsched p => Sys2Proof.Machine.execHsched p s
  | .hschedHold p => Sys2Proof.Machine.execHschedHold p s
  | .hschedIfetch p => Sys2Proof.Machine.execHschedIfetch p s
  | .vadd d a b m w => Sys2Proof.Machine.execVadd d a b m w s
  | .vsub d a b m w => Sys2Proof.Machine.execVsub d a b m w s
  | .vadds d a b m w => Sys2Proof.Machine.execVadds d a b m w s
  | .vaddsn d a b m w => Sys2Proof.Machine.execVaddsn d a b m w s
  | .vsubs d a b m w => Sys2Proof.Machine.execVsubs d a b m w s
  | .vsubsn d a b m w => Sys2Proof.Machine.execVsubsn d a b m w s
  | .vmul d a b m w => Sys2Proof.Machine.execVmul d a b m w s
  | .vmulh d a b m w => Sys2Proof.Machine.execVmulh d a b m w s
  | .vmulhn d a b m w => Sys2Proof.Machine.execVmulhn d a b m w s
  | .vmin d a b m w => Sys2Proof.Machine.execVmin d a b m w s
  | .vmax d a b m w => Sys2Proof.Machine.execVmax d a b m w s
  | .vminn d a b m w => Sys2Proof.Machine.execVminn d a b m w s
  | .vmaxn d a b m w => Sys2Proof.Machine.execVmaxn d a b m w s
  | .vand d a b m w => Sys2Proof.Machine.execVand d a b m w s
  | .vor d a b m w => Sys2Proof.Machine.execVor d a b m w s
  | .vxor d a b m w => Sys2Proof.Machine.execVxor d a b m w s
  | .vandn d a b m w => Sys2Proof.Machine.execVandn d a b m w s
  | .vshl d a b m w => Sys2Proof.Machine.execVshl d a b m w s
  | .vshr d a b m w => Sys2Proof.Machine.execVshr d a b m w s
  | .vsra d a b m w => Sys2Proof.Machine.execVsra d a b m w s
  | .vabs d a m w => Sys2Proof.Machine.execVabs d a m w s
  | .vavg d a b m w => Sys2Proof.Machine.execVavg d a b m w s
  | .vavgn d a b m w => Sys2Proof.Machine.execVavgn d a b m w s
  | .vdot4 d a b m => Sys2Proof.Machine.execVdot4 d a b m s
  | .vdot4n d a b m => Sys2Proof.Machine.execVdot4n d a b m s
  | .vcmpeq d a b m w => Sys2Proof.Machine.execVcmpeq d a b m w s
  | .vcmplt d a b m w => Sys2Proof.Machine.execVcmplt d a b m w s
  | .vcmpltn d a b m w => Sys2Proof.Machine.execVcmpltn d a b m w s
  | .vsel d a b c m w => Sys2Proof.Machine.execVsel d a b c m w s
  | .vfadd d a b m f => Sys2Proof.Machine.execVfadd d a b m f s
  | .vfsub d a b m f => Sys2Proof.Machine.execVfsub d a b m f s
  | .vfmul d a b m f => Sys2Proof.Machine.execVfmul d a b m f s
  | .vfmin d a b m f => Sys2Proof.Machine.execVfmin d a b m f s
  | .vfmax d a b m f => Sys2Proof.Machine.execVfmax d a b m f s
  | .vfabs d a m f => Sys2Proof.Machine.execVfabs d a m f s
  | .vfneg d a m f => Sys2Proof.Machine.execVfneg d a m f s
  | .vfcmpeq d a b m f => Sys2Proof.Machine.execVfcmpeq d a b m f s
  | .vfcmplt d a b m f => Sys2Proof.Machine.execVfcmplt d a b m f s
  | .vfcmple d a b m f => Sys2Proof.Machine.execVfcmple d a b m f s
  | .vfcmpun d a b m f => Sys2Proof.Machine.execVfcmpun d a b m f s
  | .vfma d a b c m f => Sys2Proof.Machine.execVfma d a b c m f s
  | .vfms d a b c m f => Sys2Proof.Machine.execVfms d a b c m f s
  | .vfnma d a b c m f => Sys2Proof.Machine.execVfnma d a b c m f s
  | .vrcp d a l m f => Sys2Proof.Machine.execVrcp d a l m f s
  | .vrsq d a l m f => Sys2Proof.Machine.execVrsq d a l m f s
  | .vsqrt d a l m f => Sys2Proof.Machine.execVsqrt d a l m f s
  | .vdiv d a b l m f => Sys2Proof.Machine.execVdiv d a b l m f s
  | .vexp2 d a l m f => Sys2Proof.Machine.execVexp2 d a l m f s
  | .vlog2 d a l m f => Sys2Proof.Machine.execVlog2 d a l m f s
  | .vtanh d a l m f => Sys2Proof.Machine.execVtanh d a l m f s
  | .vshuf d a b c m w => Sys2Proof.Machine.execVshuf d a b c m w s
  | .vzip d a b h m w => Sys2Proof.Machine.execVzip d a b h m w s
  | .vunzip d a b h m w => Sys2Proof.Machine.execVunzip d a b h m w s
  | .vrotl d a b m w => Sys2Proof.Machine.execVrotl d a b m w s
  | .vbcst d a b m w => Sys2Proof.Machine.execVbcst d a b m w s
  | .vcompress d a m w => Sys2Proof.Machine.execVcompress d a m w s
  | .mand d a b => Sys2Proof.Machine.execMand d a b s
  | .mor d a b => Sys2Proof.Machine.execMor d a b s
  | .mxor d a b => Sys2Proof.Machine.execMxor d a b s
  | .mnot d a => Sys2Proof.Machine.execMnot d a s
  | .mcnt d a => Sys2Proof.Machine.execMcnt d a s
  | .mff d a => Sys2Proof.Machine.execMff d a s
  | .mfromg d a => Sys2Proof.Machine.execMfromg d a s
  | .mtog d a => Sys2Proof.Machine.execMtog d a s
  | .vsplat d a m w => Sys2Proof.Machine.execVsplat d a m w s
  | .vins d a b m w => Sys2Proof.Machine.execVins d a b m w s
  | .vext d a b w => Sys2Proof.Machine.execVext d a b w s
  | .vmov d a m w => Sys2Proof.Machine.execVmov d a m w s
  | .vradd d a m w => Sys2Proof.Machine.execVradd d a m w s
  | .vrmax d a m w => Sys2Proof.Machine.execVrmax d a m w s
  | .vrmin d a m w => Sys2Proof.Machine.execVrmin d a m w s
  | .vfradd d a m f => Sys2Proof.Machine.execVfradd d a m f s
  | .nsend a r => Sys2Proof.Machine.execNsend a r s
  | .nrecv d r => Sys2Proof.Machine.execNrecv d r s
  | .nwin d a r => Sys2Proof.Machine.execNwin d a r s
  | .vcvtf d a src t m p => Sys2Proof.Machine.execVcvtf d a src t m p s
  | .vcvtfi d a src t m p => Sys2Proof.Machine.execVcvtfi d a src t m p s
  | .vcvtif d a src t m p => Sys2Proof.Machine.execVcvtif d a src t m p s
  | .vpack8 d a src t m p => Sys2Proof.Machine.execVpack8 d a src t m p s
  | .vunpk8 d a src t m p => Sys2Proof.Machine.execVunpk8 d a src t m p s
  | .vpack4 d a src t m p => Sys2Proof.Machine.execVpack4 d a src t m p s
  | .vunpk4 d a src t m p => Sys2Proof.Machine.execVunpk4 d a src t m p s
  | .vscale d a b t m => Sys2Proof.Machine.execVscale d a b t m s
  | .ldb d b o v l => Sys2Proof.Machine.execLdb d b o v l s
  | .ldbs d b o v l => Sys2Proof.Machine.execLdbs d b o v l s
  | .ldh d b o v l => Sys2Proof.Machine.execLdh d b o v l s
  | .ldhs d b o v l => Sys2Proof.Machine.execLdhs d b o v l s
  | .ldw d b o v l => Sys2Proof.Machine.execLdw d b o v l s
  | .ldws d b o v l => Sys2Proof.Machine.execLdws d b o v l s
  | .ldd d b o v l => Sys2Proof.Machine.execLdd d b o v l s
  | .stb d b o v => Sys2Proof.Machine.execStb d b o v s
  | .sth d b o v => Sys2Proof.Machine.execSth d b o v s
  | .stw d b o v => Sys2Proof.Machine.execStw d b o v s
  | .std d b o v => Sys2Proof.Machine.execStd d b o v s
  | .vld d b o v l => Sys2Proof.Machine.execVld d b o v l s
  | .vst d b o v => Sys2Proof.Machine.execVst d b o v s
  | .ldxd d a b l => Sys2Proof.Machine.execLdxd d a b l s
  | .stxd d a b => Sys2Proof.Machine.execStxd d a b s
  | .vldx d a b l => Sys2Proof.Machine.execVldx d a b l s
  | .vstx d a b => Sys2Proof.Machine.execVstx d a b s
  | .vldm d a b l m => Sys2Proof.Machine.execVldm d a b l m s
  | .vstm d a b m => Sys2Proof.Machine.execVstm d a b m s
  | .vgath d a b l m w => Sys2Proof.Machine.execVgath d a b l m w s
  | .pref a b p => Sys2Proof.Machine.execPref a b p s
  | .tres d a b => Sys2Proof.Machine.execTres d a b s
  | .stmap d a b c => Sys2Proof.Machine.execStmap d a b c s
  | .stunmap d a => Sys2Proof.Machine.execStunmap d a s
  | .stwb a b => Sys2Proof.Machine.execStwb a b s
  | .tilereg d a => Sys2Proof.Machine.execTilereg d a s
  | .ldf d b o l => Sys2Proof.Machine.execLdf d b o l s
  | .ldfe d b o l => Sys2Proof.Machine.execLdfe d b o l s
  | .stf d b o => Sys2Proof.Machine.execStf d b o s
  | .stff d b o => Sys2Proof.Machine.execStff d b o s
  | .feget d b o l => Sys2Proof.Machine.execFeget d b o l s
  | .feempty b o => Sys2Proof.Machine.execFeempty b o s
  | .femark d b o => Sys2Proof.Machine.execFemark d b o s
  | .mona a => Sys2Proof.Machine.execMona a s
  | .monc => Sys2Proof.Machine.execMonc s
  | .mwait d a => Sys2Proof.Machine.execMwait d a s
  | .rsv d b o l => Sys2Proof.Machine.execRsv d b o l s
  | .rel d b o => Sys2Proof.Machine.execRel d b o s
  | .relc d b o => Sys2Proof.Machine.execRelc d b o s
  | .rsvt d b o l => Sys2Proof.Machine.execRsvt d b o l s
  | .fadd d a b l w r => Sys2Proof.Machine.execFadd d a b l w r s
  | .fand d a b l w r => Sys2Proof.Machine.execFand d a b l w r s
  | .fOr d a b l w r => Sys2Proof.Machine.execFOr d a b l w r s
  | .fxor d a b l w r => Sys2Proof.Machine.execFxor d a b l w r s
  | .fmax d a b l w r => Sys2Proof.Machine.execFmax d a b l w r s
  | .fmin d a b l w r => Sys2Proof.Machine.execFmin d a b l w r s
  | .fmaxn d a b l w r => Sys2Proof.Machine.execFmaxn d a b l w r s
  | .fminn d a b l w r => Sys2Proof.Machine.execFminn d a b l w r s
  | .fswp d a b l w r => Sys2Proof.Machine.execFswp d a b l w r s
  | .fcas d a b l w r => Sys2Proof.Machine.execFcas d a b l w r s
  | .fincb d a b l w r => Sys2Proof.Machine.execFincb d a b l w r s
  | .fincw d a b l w r => Sys2Proof.Machine.execFincw d a b l w r s
  | .fdecp d a l w r => Sys2Proof.Machine.execFdecp d a l w r s
  | .faddl d a b l w r => Sys2Proof.Machine.execFaddl d a b l w r s
  | .gath d a b c n => Sys2Proof.Machine.execGath d a b c n s
  | .bld a b c n => Sys2Proof.Machine.execBld a b c n s
  | .mma d a b l => Sys2Proof.Machine.execMma d a b l s
  | .acz d => Sys2Proof.Machine.execAcz d s
  | .acld d a b => Sys2Proof.Machine.execAcld d a b s
  | .acst d a b f => Sys2Proof.Machine.execAcst d a b f s
  | .acrd d a b => Sys2Proof.Machine.execAcrd d a b s
  | .acwr d a b => Sys2Proof.Machine.execAcwr d a b s
  | .mxstat d a => Sys2Proof.Machine.execMxstat d a s
  | .rept n c src m => Sys2Proof.Machine.execRept n c src m s
  | .cpy d a b l => Sys2Proof.Machine.execCpy d a b l s
  | .cpy2 d a b l => Sys2Proof.Machine.execCpy2 d a b l s
  | .cpyg d a b l => Sys2Proof.Machine.execCpyg d a b l s
  | .cpys d a b l => Sys2Proof.Machine.execCpys d a b l s
  | .cpycb d a b l => Sys2Proof.Machine.execCpycb d a b l s
  | .cbinit d a b => Sys2Proof.Machine.execCbinit d a b s
  | .cbacq d a => Sys2Proof.Machine.execCbacq d a s
  | .cbrel a b => Sys2Proof.Machine.execCbrel a b s
  | .cbstat d a => Sys2Proof.Machine.execCbstat d a s
  | .cbres d a => Sys2Proof.Machine.execCbres d a s
  | .cbpub a b => Sys2Proof.Machine.execCbpub a b s
  | .tspawn d a b => Sys2Proof.Machine.execTspawn d a b s
  | .park d a => Sys2Proof.Machine.execPark d a s
  | .qsend d a b => Sys2Proof.Machine.execQsend d a b s
  | .qrecv d a b => Sys2Proof.Machine.execQrecv d a b s
  | .eos d a => Sys2Proof.Machine.execEos d a s
  | .rqpush d a => Sys2Proof.Machine.execRqpush d a s
  | .rqpop d a => Sys2Proof.Machine.execRqpop d a s
  | .timer d a => Sys2Proof.Machine.execTimer d a s
  | .launch d a => Sys2Proof.Machine.execLaunch d a s
  | .depdec d a => Sys2Proof.Machine.execDepdec d a s
  | .exit => Sys2Proof.Machine.execExit s
  | .yield => Sys2Proof.Machine.execYield s
  | .bdld d a => Sys2Proof.Machine.execBdld d a s
  | .bdst a b => Sys2Proof.Machine.execBdst a b s
  | .gcall a b c => Sys2Proof.Machine.execGcall a b c s
  | .gret => Sys2Proof.Machine.execGret s
  | .gabt a => Sys2Proof.Machine.execGabt a s
  | .dinfo d a => Sys2Proof.Machine.execDinfo d a s
  | .gpub d a b => Sys2Proof.Machine.execGpub d a b s
  | .grev d a b => Sys2Proof.Machine.execGrev d a b s
  | .hgive d a b c => Sys2Proof.Machine.execHgive d a b c s
  | .hdrop d a => Sys2Proof.Machine.execHdrop d a s
  | .ptload d a b => Sys2Proof.Machine.execPtload d a b s
  | .ptbind d a b c => Sys2Proof.Machine.execPtbind d a b c s
  | .ptunbind d a b => Sys2Proof.Machine.execPtunbind d a b s
  | .dirq d a => Sys2Proof.Machine.execDirq d a s
  | .linv a b => Sys2Proof.Machine.execLinv a b s
  | .lwb a b => Sys2Proof.Machine.execLwb a b s
  | .lbias d a b => Sys2Proof.Machine.execLbias d a b s
  | .lstat d a => Sys2Proof.Machine.execLstat d a s
  | .npost d a => Sys2Proof.Machine.execNpost d a s
  | .ncwait d a b c => Sys2Proof.Machine.execNcwait d a b c s
  | .ncrd d a => Sys2Proof.Machine.execNcrd d a s
  | .nreg d a b c => Sys2Proof.Machine.execNreg d a b c s

end Sys2Proof.Machine
end

