-- ==== Sys2Proof/Machine/Run.lean ====
section
/-! DEFINITION. A word run as the instruction that it decodes to. The compiler cannot build a term of `Instr` beyond
its 244th constructor, so compiled code runs a word through the opcode map straight to its meaning; the two ways are
proved equal, and only `exec` of `decode` counts in proofs. -/
namespace Sys2Proof.Machine

/-- A decoded word executed: where the map assigns no well-formed instruction, the word is an illegal one (R54). -/
noncomputable def execOption (o : Option Instr) (w : BitVec 32) (s : State) : Host.Outcome State Fault Refusal :=
  match o with
  | some i => if i.wellFormed then exec i s else execIllegalInstruction w s
  | none => execIllegalInstruction w s

/-- The word w executed. -/
noncomputable def execWord (w : BitVec 32) (s : State) : Host.Outcome State Fault Refusal := exec (decode w) s

theorem execOption_ite (c : Prop) [Decidable c] (a b : Option Instr) (w : BitVec 32) (s : State) :
    execOption (if c then a else b) w s = if c then execOption a w s else execOption b w s := by
  split <;> rfl

theorem execWord_eq_execOption (w : BitVec 32) (s : State) : execWord w s = execOption (decodeNat w.toNat) w s := by
  unfold execWord decode execOption
  cases decodeNat w.toNat with
  | none => rfl
  | some i =>
    dsimp only
    cases i.wellFormed <;> rfl

/-- Major 0x01 run from its fields. -/
def runMajor01 (n : Nat) (w : BitVec 32) (s : State) : Host.Outcome State Fault Refusal :=
  if fld n 13 1 = 0 then execAdd (.ofNat 4 (fld n 25 22)) (.ofNat 4 (fld n 21 18)) (.ofNat 4 (fld n 17 14)) (flag n 0) s
  else if fld n 13 1 = 8 then execSub (.ofNat 4 (fld n 25 22)) (.ofNat 4 (fld n 21 18)) (.ofNat 4 (fld n 17 14)) (flag n 0) s
  else if fld n 13 1 = 16 then execAnd (.ofNat 4 (fld n 25 22)) (.ofNat 4 (fld n 21 18)) (.ofNat 4 (fld n 17 14)) (flag n 0) s
  else if fld n 13 1 = 24 then execOr (.ofNat 4 (fld n 25 22)) (.ofNat 4 (fld n 21 18)) (.ofNat 4 (fld n 17 14)) (flag n 0) s
  else if fld n 13 1 = 32 then execXor (.ofNat 4 (fld n 25 22)) (.ofNat 4 (fld n 21 18)) (.ofNat 4 (fld n 17 14)) (flag n 0) s
  else if fld n 13 1 = 40 then execAndn (.ofNat 4 (fld n 25 22)) (.ofNat 4 (fld n 21 18)) (.ofNat 4 (fld n 17 14)) (flag n 0) s
  else if fld n 13 1 = 48 then execOrn (.ofNat 4 (fld n 25 22)) (.ofNat 4 (fld n 21 18)) (.ofNat 4 (fld n 17 14)) (flag n 0) s
  else if fld n 13 1 = 56 then execShl (.ofNat 4 (fld n 25 22)) (.ofNat 4 (fld n 21 18)) (.ofNat 4 (fld n 17 14)) (flag n 0) s
  else if fld n 13 1 = 64 then execShr (.ofNat 4 (fld n 25 22)) (.ofNat 4 (fld n 21 18)) (.ofNat 4 (fld n 17 14)) (flag n 0) s
  else if fld n 13 1 = 72 then execSra (.ofNat 4 (fld n 25 22)) (.ofNat 4 (fld n 21 18)) (.ofNat 4 (fld n 17 14)) (flag n 0) s
  else if fld n 13 1 = 80 then execRol (.ofNat 4 (fld n 25 22)) (.ofNat 4 (fld n 21 18)) (.ofNat 4 (fld n 17 14)) (flag n 0) s
  else if fld n 13 1 = 88 then execRor (.ofNat 4 (fld n 25 22)) (.ofNat 4 (fld n 21 18)) (.ofNat 4 (fld n 17 14)) (flag n 0) s
  else if fld n 13 1 = 96 then execMin (.ofNat 4 (fld n 25 22)) (.ofNat 4 (fld n 21 18)) (.ofNat 4 (fld n 17 14)) (flag n 0) s
  else if fld n 13 1 = 104 then execMax (.ofNat 4 (fld n 25 22)) (.ofNat 4 (fld n 21 18)) (.ofNat 4 (fld n 17 14)) (flag n 0) s
  else if fld n 13 1 = 112 then execMinn (.ofNat 4 (fld n 25 22)) (.ofNat 4 (fld n 21 18)) (.ofNat 4 (fld n 17 14)) (flag n 0) s
  else if fld n 13 1 = 120 then execMaxn (.ofNat 4 (fld n 25 22)) (.ofNat 4 (fld n 21 18)) (.ofNat 4 (fld n 17 14)) (flag n 0) s
  else if fld n 13 1 = 128 then execSlt (.ofNat 4 (fld n 25 22)) (.ofNat 4 (fld n 21 18)) (.ofNat 4 (fld n 17 14)) (flag n 0) s
  else if fld n 13 1 = 136 then execSltn (.ofNat 4 (fld n 25 22)) (.ofNat 4 (fld n 21 18)) (.ofNat 4 (fld n 17 14)) (flag n 0) s
  else if fld n 13 1 = 144 then execSeq (.ofNat 4 (fld n 25 22)) (.ofNat 4 (fld n 21 18)) (.ofNat 4 (fld n 17 14)) (flag n 0) s
  else if fld n 13 1 = 152 then execSne (.ofNat 4 (fld n 25 22)) (.ofNat 4 (fld n 21 18)) (.ofNat 4 (fld n 17 14)) (flag n 0) s
  else if fld n 13 1 = 160 then execMul (.ofNat 4 (fld n 25 22)) (.ofNat 4 (fld n 21 18)) (.ofNat 4 (fld n 17 14)) (flag n 0) s
  else if fld n 13 1 = 168 then execMulh (.ofNat 4 (fld n 25 22)) (.ofNat 4 (fld n 21 18)) (.ofNat 4 (fld n 17 14)) (flag n 0) s
  else if fld n 13 1 = 176 then execMulhn (.ofNat 4 (fld n 25 22)) (.ofNat 4 (fld n 21 18)) (.ofNat 4 (fld n 17 14)) (flag n 0) s
  else if fld n 17 1 = 184 then execClz (.ofNat 4 (fld n 25 22)) (.ofNat 4 (fld n 21 18)) (flag n 0) s
  else if fld n 17 1 = 192 then execCtz (.ofNat 4 (fld n 25 22)) (.ofNat 4 (fld n 21 18)) (flag n 0) s
  else if fld n 17 1 = 200 then execPopc (.ofNat 4 (fld n 25 22)) (.ofNat 4 (fld n 21 18)) (flag n 0) s
  else if fld n 17 1 = 208 then execBrev (.ofNat 4 (fld n 25 22)) (.ofNat 4 (fld n 21 18)) (flag n 0) s
  else if fld n 17 1 = 216 then execBswap (.ofNat 4 (fld n 25 22)) (.ofNat 4 (fld n 21 18)) (flag n 0) s
  else if fld n 9 1 = 224 then execSel (.ofNat 4 (fld n 25 22)) (.ofNat 4 (fld n 21 18)) (.ofNat 4 (fld n 17 14)) (.ofNat 4 (fld n 13 10)) (flag n 0) s
  else if fld n 9 1 = 232 then execExtr (.ofNat 4 (fld n 25 22)) (.ofNat 4 (fld n 21 18)) (.ofNat 4 (fld n 17 14)) (.ofNat 4 (fld n 13 10)) (flag n 0) s
  else if fld n 9 1 = 240 then execExtrs (.ofNat 4 (fld n 25 22)) (.ofNat 4 (fld n 21 18)) (.ofNat 4 (fld n 17 14)) (.ofNat 4 (fld n 13 10)) (flag n 0) s
  else if fld n 9 1 = 248 then execInsb (.ofNat 4 (fld n 25 22)) (.ofNat 4 (fld n 21 18)) (.ofNat 4 (fld n 17 14)) (.ofNat 4 (fld n 13 10)) (flag n 0) s
  else execIllegalInstruction w s

theorem runMajor01_eq (n : Nat) (w : BitVec 32) (s : State) :
    runMajor01 n w s = execOption (decodeMajor01 n) w s := by
  simp only [decodeMajor01, execOption_ite]
  rfl

/-- Major 0x02 run from its fields. -/
def runMajor02 (n : Nat) (w : BitVec 32) (s : State) : Host.Outcome State Fault Refusal :=
  if fld n 9 1 = 0 then execDiv (.ofNat 4 (fld n 25 22)) (.ofNat 4 (fld n 21 18)) (.ofNat 4 (fld n 17 14)) (.ofNat 4 (fld n 13 10)) (flag n 0) s
  else if fld n 9 1 = 8 then execDivn (.ofNat 4 (fld n 25 22)) (.ofNat 4 (fld n 21 18)) (.ofNat 4 (fld n 17 14)) (.ofNat 4 (fld n 13 10)) (flag n 0) s
  else if fld n 9 1 = 16 then execRem (.ofNat 4 (fld n 25 22)) (.ofNat 4 (fld n 21 18)) (.ofNat 4 (fld n 17 14)) (.ofNat 4 (fld n 13 10)) (flag n 0) s
  else if fld n 9 1 = 24 then execRemn (.ofNat 4 (fld n 25 22)) (.ofNat 4 (fld n 21 18)) (.ofNat 4 (fld n 17 14)) (.ofNat 4 (fld n 13 10)) (flag n 0) s
  else execIllegalInstruction w s

theorem runMajor02_eq (n : Nat) (w : BitVec 32) (s : State) :
    runMajor02 n w s = execOption (decodeMajor02 n) w s := by
  simp only [decodeMajor02, execOption_ite]
  rfl

/-- Major 0x03 run from its fields. -/
def runMajor03 (n : Nat) (_w : BitVec 32) (s : State) : Host.Outcome State Fault Refusal :=
  execAddi (.ofNat 4 (fld n 25 22)) (.ofNat 4 (fld n 21 18)) (.ofNat 18 (fld n 17 0)) s

theorem runMajor03_eq (n : Nat) (w : BitVec 32) (s : State) :
    runMajor03 n w s = execOption (decodeMajor03 n) w s := by
  simp only [decodeMajor03]
  rfl

/-- Major 0x04 run from its fields. -/
def runMajor04 (n : Nat) (_w : BitVec 32) (s : State) : Host.Outcome State Fault Refusal :=
  execAndi (.ofNat 4 (fld n 25 22)) (.ofNat 4 (fld n 21 18)) (.ofNat 18 (fld n 17 0)) s

theorem runMajor04_eq (n : Nat) (w : BitVec 32) (s : State) :
    runMajor04 n w s = execOption (decodeMajor04 n) w s := by
  simp only [decodeMajor04]
  rfl

/-- Major 0x05 run from its fields. -/
def runMajor05 (n : Nat) (_w : BitVec 32) (s : State) : Host.Outcome State Fault Refusal :=
  execOri (.ofNat 4 (fld n 25 22)) (.ofNat 4 (fld n 21 18)) (.ofNat 18 (fld n 17 0)) s

theorem runMajor05_eq (n : Nat) (w : BitVec 32) (s : State) :
    runMajor05 n w s = execOption (decodeMajor05 n) w s := by
  simp only [decodeMajor05]
  rfl

/-- Major 0x06 run from its fields. -/
def runMajor06 (n : Nat) (_w : BitVec 32) (s : State) : Host.Outcome State Fault Refusal :=
  execXori (.ofNat 4 (fld n 25 22)) (.ofNat 4 (fld n 21 18)) (.ofNat 18 (fld n 17 0)) s

theorem runMajor06_eq (n : Nat) (w : BitVec 32) (s : State) :
    runMajor06 n w s = execOption (decodeMajor06 n) w s := by
  simp only [decodeMajor06]
  rfl

/-- Major 0x07 run from its fields. -/
def runMajor07 (n : Nat) (w : BitVec 32) (s : State) : Host.Outcome State Fault Refusal :=
  if fld n 17 6 = 0 then execShli (.ofNat 4 (fld n 25 22)) (.ofNat 4 (fld n 21 18)) (.ofNat 6 (fld n 5 0)) s
  else if fld n 17 6 = 1024 then execShri (.ofNat 4 (fld n 25 22)) (.ofNat 4 (fld n 21 18)) (.ofNat 6 (fld n 5 0)) s
  else if fld n 17 6 = 2048 then execSrai (.ofNat 4 (fld n 25 22)) (.ofNat 4 (fld n 21 18)) (.ofNat 6 (fld n 5 0)) s
  else if fld n 17 6 = 3072 then execRoli (.ofNat 4 (fld n 25 22)) (.ofNat 4 (fld n 21 18)) (.ofNat 6 (fld n 5 0)) s
  else execIllegalInstruction w s

theorem runMajor07_eq (n : Nat) (w : BitVec 32) (s : State) :
    runMajor07 n w s = execOption (decodeMajor07 n) w s := by
  simp only [decodeMajor07, execOption_ite]
  rfl

/-- Major 0x08 run from its fields. -/
def runMajor08 (n : Nat) (_w : BitVec 32) (s : State) : Host.Outcome State Fault Refusal :=
  execSlti (.ofNat 4 (fld n 25 22)) (.ofNat 4 (fld n 21 18)) (.ofNat 18 (fld n 17 0)) s

theorem runMajor08_eq (n : Nat) (w : BitVec 32) (s : State) :
    runMajor08 n w s = execOption (decodeMajor08 n) w s := by
  simp only [decodeMajor08]
  rfl

/-- Major 0x09 run from its fields. -/
def runMajor09 (n : Nat) (_w : BitVec 32) (s : State) : Host.Outcome State Fault Refusal :=
  execSltni (.ofNat 4 (fld n 25 22)) (.ofNat 4 (fld n 21 18)) (.ofNat 18 (fld n 17 0)) s

theorem runMajor09_eq (n : Nat) (w : BitVec 32) (s : State) :
    runMajor09 n w s = execOption (decodeMajor09 n) w s := by
  simp only [decodeMajor09]
  rfl

/-- Major 0x0A run from its fields. -/
def runMajor0A (n : Nat) (w : BitVec 32) (s : State) : Host.Outcome State Fault Refusal :=
  if fld n 21 18 = 0 then execLi (.ofNat 4 (fld n 25 22)) (.ofNat 18 (fld n 17 0)) s
  else execIllegalInstruction w s

theorem runMajor0A_eq (n : Nat) (w : BitVec 32) (s : State) :
    runMajor0A n w s = execOption (decodeMajor0A n) w s := by
  simp only [decodeMajor0A, execOption_ite]
  rfl

/-- Major 0x0B run from its fields. -/
def runMajor0B (n : Nat) (w : BitVec 32) (s : State) : Host.Outcome State Fault Refusal :=
  if fld n 21 18 = 0 then execLpc (.ofNat 4 (fld n 25 22)) (.ofNat 18 (fld n 17 0)) s
  else execIllegalInstruction w s

theorem runMajor0B_eq (n : Nat) (w : BitVec 32) (s : State) :
    runMajor0B n w s = execOption (decodeMajor0B n) w s := by
  simp only [decodeMajor0B, execOption_ite]
  rfl

/-- Major 0x0C run from its fields. -/
def runMajor0C (n : Nat) (_w : BitVec 32) (s : State) : Host.Outcome State Fault Refusal :=
  execMuli (.ofNat 4 (fld n 25 22)) (.ofNat 4 (fld n 21 18)) (.ofNat 18 (fld n 17 0)) s

theorem runMajor0C_eq (n : Nat) (w : BitVec 32) (s : State) :
    runMajor0C n w s = execOption (decodeMajor0C n) w s := by
  simp only [decodeMajor0C]
  rfl

/-- Major 0x0D run from its fields. -/
def runMajor0D (n : Nat) (w : BitVec 32) (s : State) : Host.Outcome State Fault Refusal :=
  if fld n 25 22 = 0 then execBeq (.ofNat 4 (fld n 21 18)) (.ofNat 4 (fld n 17 14)) (.ofNat 14 (fld n 13 0)) s
  else if fld n 25 22 = 1 then execBne (.ofNat 4 (fld n 21 18)) (.ofNat 4 (fld n 17 14)) (.ofNat 14 (fld n 13 0)) s
  else if fld n 25 22 = 2 then execBlt (.ofNat 4 (fld n 21 18)) (.ofNat 4 (fld n 17 14)) (.ofNat 14 (fld n 13 0)) s
  else if fld n 25 22 = 3 then execBge (.ofNat 4 (fld n 21 18)) (.ofNat 4 (fld n 17 14)) (.ofNat 14 (fld n 13 0)) s
  else if fld n 25 22 = 4 then execBltn (.ofNat 4 (fld n 21 18)) (.ofNat 4 (fld n 17 14)) (.ofNat 14 (fld n 13 0)) s
  else if fld n 25 22 = 5 then execBgen (.ofNat 4 (fld n 21 18)) (.ofNat 4 (fld n 17 14)) (.ofNat 14 (fld n 13 0)) s
  else execIllegalInstruction w s

theorem runMajor0D_eq (n : Nat) (w : BitVec 32) (s : State) :
    runMajor0D n w s = execOption (decodeMajor0D n) w s := by
  simp only [decodeMajor0D, execOption_ite]
  rfl

/-- Major 0x0E run from its fields. -/
def runMajor0E (n : Nat) (w : BitVec 32) (s : State) : Host.Outcome State Fault Refusal :=
  if fld n 25 22 = 0 then execBeqz (.ofNat 4 (fld n 21 18)) (.ofNat 18 (fld n 17 0)) s
  else if fld n 25 22 = 1 then execBnez (.ofNat 4 (fld n 21 18)) (.ofNat 18 (fld n 17 0)) s
  else if fld n 25 22 = 2 then execBltz (.ofNat 4 (fld n 21 18)) (.ofNat 18 (fld n 17 0)) s
  else if fld n 25 22 = 3 then execBgez (.ofNat 4 (fld n 21 18)) (.ofNat 18 (fld n 17 0)) s
  else if fld n 25 22 = 4 then execBgtz (.ofNat 4 (fld n 21 18)) (.ofNat 18 (fld n 17 0)) s
  else if fld n 25 22 = 5 then execBlez (.ofNat 4 (fld n 21 18)) (.ofNat 18 (fld n 17 0)) s
  else execIllegalInstruction w s

theorem runMajor0E_eq (n : Nat) (w : BitVec 32) (s : State) :
    runMajor0E n w s = execOption (decodeMajor0E n) w s := by
  simp only [decodeMajor0E, execOption_ite]
  rfl

/-- Major 0x0F run from its fields. -/
def runMajor0F (n : Nat) (_w : BitVec 32) (s : State) : Host.Outcome State Fault Refusal :=
  execJ (.ofNat 26 (fld n 25 0)) s

theorem runMajor0F_eq (n : Nat) (w : BitVec 32) (s : State) :
    runMajor0F n w s = execOption (decodeMajor0F n) w s := by
  simp only [decodeMajor0F]
  rfl

/-- Major 0x10 run from its fields. -/
def runMajor10 (n : Nat) (_w : BitVec 32) (s : State) : Host.Outcome State Fault Refusal :=
  execJl (.ofNat 26 (fld n 25 0)) s

theorem runMajor10_eq (n : Nat) (w : BitVec 32) (s : State) :
    runMajor10 n w s = execOption (decodeMajor10 n) w s := by
  simp only [decodeMajor10]
  rfl

/-- Major 0x11 run from its fields. -/
def runMajor11 (n : Nat) (w : BitVec 32) (s : State) : Host.Outcome State Fault Refusal :=
  if fld n 25 22 = 0 ∧ fld n 17 0 = 0 then execJr (.ofNat 4 (fld n 21 18)) s
  else if fld n 17 0 = 16 then execJlr (.ofNat 4 (fld n 25 22)) (.ofNat 4 (fld n 21 18)) s
  else execIllegalInstruction w s

theorem runMajor11_eq (n : Nat) (w : BitVec 32) (s : State) :
    runMajor11 n w s = execOption (decodeMajor11 n) w s := by
  simp only [decodeMajor11, execOption_ite]
  rfl

/-- Major 0x12 run from its fields. -/
def runMajor12 (n : Nat) (w : BitVec 32) (s : State) : Host.Outcome State Fault Refusal :=
  if fld n 25 18 = 0 ∧ fld n 9 0 = 0 then execTrap (.ofNat 8 (fld n 17 10)) s
  else if fld n 25 0 = 16 then execEret s
  else if fld n 21 18 = 0 ∧ fld n 9 0 = 32 then execSread (.ofNat 4 (fld n 25 22)) (.ofNat 8 (fld n 17 10)) s
  else if fld n 25 22 = 0 ∧ fld n 9 0 = 48 then execSwrite (.ofNat 4 (fld n 21 18)) (.ofNat 8 (fld n 17 10)) s
  else if fld n 25 22 = 0 ∧ fld n 13 3 = 8 then (if scopeOk (.ofNat 3 (fld n 2 0)) then execIcinv (.ofNat 4 (fld n 21 18)) (.ofNat 4 (fld n 17 14)) (.ofNat 3 (fld n 2 0)) s else execIllegalInstruction w s)
  else if fld n 25 0 = 80 then execBrk s
  else if fld n 25 0 = 96 then execHalt s
  else execIllegalInstruction w s

theorem runMajor12_eq (n : Nat) (w : BitVec 32) (s : State) :
    runMajor12 n w s = execOption (decodeMajor12 n) w s := by
  simp only [decodeMajor12, execOption_ite]
  rfl

/-- Major 0x13 run from its fields. -/
def runMajor13 (n : Nat) (w : BitVec 32) (s : State) : Host.Outcome State Fault Refusal :=
  if fld n 25 13 = 0 ∧ fld n 9 3 = 0 then (if scopeOk (.ofNat 3 (fld n 2 0)) then execFence (flag n 12) (.ofNat 2 (fld n 11 10)) (.ofNat 3 (fld n 2 0)) s else execIllegalInstruction w s)
  else execIllegalInstruction w s

theorem runMajor13_eq (n : Nat) (w : BitVec 32) (s : State) :
    runMajor13 n w s = execOption (decodeMajor13 n) w s := by
  simp only [decodeMajor13, execOption_ite]
  rfl

/-- Major 0x3F run from its fields. -/
def runMajor3F (n : Nat) (w : BitVec 32) (s : State) : Host.Outcome State Fault Refusal :=
  if fld n 25 24 = 0 then execHimm (.ofNat 24 (fld n 23 0)) s
  else if fld n 25 24 = 1 then execHmod (.ofNat 24 (fld n 23 0)) s
  else if fld n 25 21 = 17 then execHschedHold (.ofNat 21 (fld n 20 0)) s
  else if fld n 25 21 = 18 then execHschedIfetch (.ofNat 21 (fld n 20 0)) s
  else if fld n 25 24 = 2 then (if hschedOk (.ofNat 24 (fld n 23 0)) then execHsched (.ofNat 24 (fld n 23 0)) s else execIllegalInstruction w s)
  else execIllegalInstruction w s

theorem runMajor3F_eq (n : Nat) (w : BitVec 32) (s : State) :
    runMajor3F n w s = execOption (decodeMajor3F n) w s := by
  simp only [decodeMajor3F, execOption_ite]
  rfl

/-- Major 0x14 run from its fields. -/
def runMajor14 (n : Nat) (w : BitVec 32) (s : State) : Host.Outcome State Fault Refusal :=
  if fld n 13 4 = 0 then execVadd (.ofNat 4 (fld n 25 22)) (.ofNat 4 (fld n 21 18)) (.ofNat 4 (fld n 17 14)) (.ofNat 2 (fld n 3 2)) (.ofNat 2 (fld n 1 0)) s
  else if fld n 13 4 = 1 then execVsub (.ofNat 4 (fld n 25 22)) (.ofNat 4 (fld n 21 18)) (.ofNat 4 (fld n 17 14)) (.ofNat 2 (fld n 3 2)) (.ofNat 2 (fld n 1 0)) s
  else if fld n 13 4 = 2 then execVadds (.ofNat 4 (fld n 25 22)) (.ofNat 4 (fld n 21 18)) (.ofNat 4 (fld n 17 14)) (.ofNat 2 (fld n 3 2)) (.ofNat 2 (fld n 1 0)) s
  else if fld n 13 4 = 3 then execVaddsn (.ofNat 4 (fld n 25 22)) (.ofNat 4 (fld n 21 18)) (.ofNat 4 (fld n 17 14)) (.ofNat 2 (fld n 3 2)) (.ofNat 2 (fld n 1 0)) s
  else if fld n 13 4 = 4 then execVsubs (.ofNat 4 (fld n 25 22)) (.ofNat 4 (fld n 21 18)) (.ofNat 4 (fld n 17 14)) (.ofNat 2 (fld n 3 2)) (.ofNat 2 (fld n 1 0)) s
  else if fld n 13 4 = 5 then execVsubsn (.ofNat 4 (fld n 25 22)) (.ofNat 4 (fld n 21 18)) (.ofNat 4 (fld n 17 14)) (.ofNat 2 (fld n 3 2)) (.ofNat 2 (fld n 1 0)) s
  else if fld n 13 4 = 6 then execVmul (.ofNat 4 (fld n 25 22)) (.ofNat 4 (fld n 21 18)) (.ofNat 4 (fld n 17 14)) (.ofNat 2 (fld n 3 2)) (.ofNat 2 (fld n 1 0)) s
  else if fld n 13 4 = 7 then execVmulh (.ofNat 4 (fld n 25 22)) (.ofNat 4 (fld n 21 18)) (.ofNat 4 (fld n 17 14)) (.ofNat 2 (fld n 3 2)) (.ofNat 2 (fld n 1 0)) s
  else if fld n 13 4 = 8 then execVmulhn (.ofNat 4 (fld n 25 22)) (.ofNat 4 (fld n 21 18)) (.ofNat 4 (fld n 17 14)) (.ofNat 2 (fld n 3 2)) (.ofNat 2 (fld n 1 0)) s
  else if fld n 13 4 = 9 then execVmin (.ofNat 4 (fld n 25 22)) (.ofNat 4 (fld n 21 18)) (.ofNat 4 (fld n 17 14)) (.ofNat 2 (fld n 3 2)) (.ofNat 2 (fld n 1 0)) s
  else if fld n 13 4 = 10 then execVmax (.ofNat 4 (fld n 25 22)) (.ofNat 4 (fld n 21 18)) (.ofNat 4 (fld n 17 14)) (.ofNat 2 (fld n 3 2)) (.ofNat 2 (fld n 1 0)) s
  else if fld n 13 4 = 11 then execVminn (.ofNat 4 (fld n 25 22)) (.ofNat 4 (fld n 21 18)) (.ofNat 4 (fld n 17 14)) (.ofNat 2 (fld n 3 2)) (.ofNat 2 (fld n 1 0)) s
  else if fld n 13 4 = 12 then execVmaxn (.ofNat 4 (fld n 25 22)) (.ofNat 4 (fld n 21 18)) (.ofNat 4 (fld n 17 14)) (.ofNat 2 (fld n 3 2)) (.ofNat 2 (fld n 1 0)) s
  else if fld n 13 4 = 13 then execVand (.ofNat 4 (fld n 25 22)) (.ofNat 4 (fld n 21 18)) (.ofNat 4 (fld n 17 14)) (.ofNat 2 (fld n 3 2)) (.ofNat 2 (fld n 1 0)) s
  else if fld n 13 4 = 14 then execVor (.ofNat 4 (fld n 25 22)) (.ofNat 4 (fld n 21 18)) (.ofNat 4 (fld n 17 14)) (.ofNat 2 (fld n 3 2)) (.ofNat 2 (fld n 1 0)) s
  else if fld n 13 4 = 15 then execVxor (.ofNat 4 (fld n 25 22)) (.ofNat 4 (fld n 21 18)) (.ofNat 4 (fld n 17 14)) (.ofNat 2 (fld n 3 2)) (.ofNat 2 (fld n 1 0)) s
  else if fld n 13 4 = 16 then execVandn (.ofNat 4 (fld n 25 22)) (.ofNat 4 (fld n 21 18)) (.ofNat 4 (fld n 17 14)) (.ofNat 2 (fld n 3 2)) (.ofNat 2 (fld n 1 0)) s
  else if fld n 13 4 = 17 then execVshl (.ofNat 4 (fld n 25 22)) (.ofNat 4 (fld n 21 18)) (.ofNat 4 (fld n 17 14)) (.ofNat 2 (fld n 3 2)) (.ofNat 2 (fld n 1 0)) s
  else if fld n 13 4 = 18 then execVshr (.ofNat 4 (fld n 25 22)) (.ofNat 4 (fld n 21 18)) (.ofNat 4 (fld n 17 14)) (.ofNat 2 (fld n 3 2)) (.ofNat 2 (fld n 1 0)) s
  else if fld n 13 4 = 19 then execVsra (.ofNat 4 (fld n 25 22)) (.ofNat 4 (fld n 21 18)) (.ofNat 4 (fld n 17 14)) (.ofNat 2 (fld n 3 2)) (.ofNat 2 (fld n 1 0)) s
  else if fld n 17 4 = 20 then execVabs (.ofNat 4 (fld n 25 22)) (.ofNat 4 (fld n 21 18)) (.ofNat 2 (fld n 3 2)) (.ofNat 2 (fld n 1 0)) s
  else if fld n 13 4 = 21 then execVavg (.ofNat 4 (fld n 25 22)) (.ofNat 4 (fld n 21 18)) (.ofNat 4 (fld n 17 14)) (.ofNat 2 (fld n 3 2)) (.ofNat 2 (fld n 1 0)) s
  else if fld n 13 4 = 22 then execVavgn (.ofNat 4 (fld n 25 22)) (.ofNat 4 (fld n 21 18)) (.ofNat 4 (fld n 17 14)) (.ofNat 2 (fld n 3 2)) (.ofNat 2 (fld n 1 0)) s
  else if fld n 13 4 = 23 ∧ fld n 1 0 = 2 then execVdot4 (.ofNat 4 (fld n 25 22)) (.ofNat 4 (fld n 21 18)) (.ofNat 4 (fld n 17 14)) (.ofNat 2 (fld n 3 2)) s
  else if fld n 13 4 = 24 ∧ fld n 1 0 = 2 then execVdot4n (.ofNat 4 (fld n 25 22)) (.ofNat 4 (fld n 21 18)) (.ofNat 4 (fld n 17 14)) (.ofNat 2 (fld n 3 2)) s
  else if fld n 25 24 = 0 ∧ fld n 13 4 = 25 then execVcmpeq (.ofNat 2 (fld n 23 22)) (.ofNat 4 (fld n 21 18)) (.ofNat 4 (fld n 17 14)) (.ofNat 2 (fld n 3 2)) (.ofNat 2 (fld n 1 0)) s
  else if fld n 25 24 = 0 ∧ fld n 13 4 = 26 then execVcmplt (.ofNat 2 (fld n 23 22)) (.ofNat 4 (fld n 21 18)) (.ofNat 4 (fld n 17 14)) (.ofNat 2 (fld n 3 2)) (.ofNat 2 (fld n 1 0)) s
  else if fld n 25 24 = 0 ∧ fld n 13 4 = 27 then execVcmpltn (.ofNat 2 (fld n 23 22)) (.ofNat 4 (fld n 21 18)) (.ofNat 4 (fld n 17 14)) (.ofNat 2 (fld n 3 2)) (.ofNat 2 (fld n 1 0)) s
  else if fld n 9 4 = 28 then execVsel (.ofNat 4 (fld n 25 22)) (.ofNat 4 (fld n 21 18)) (.ofNat 4 (fld n 17 14)) (.ofNat 4 (fld n 13 10)) (.ofNat 2 (fld n 3 2)) (.ofNat 2 (fld n 1 0)) s
  else execIllegalInstruction w s

theorem runMajor14_eq (n : Nat) (w : BitVec 32) (s : State) :
    runMajor14 n w s = execOption (decodeMajor14 n) w s := by
  simp only [decodeMajor14, execOption_ite]
  rfl

/-- Major 0x15 run from its fields. -/
def runMajor15 (n : Nat) (w : BitVec 32) (s : State) : Host.Outcome State Fault Refusal :=
  if fld n 13 4 = 0 then (if formatOk (.ofNat 2 (fld n 1 0)) then execVfadd (.ofNat 4 (fld n 25 22)) (.ofNat 4 (fld n 21 18)) (.ofNat 4 (fld n 17 14)) (.ofNat 2 (fld n 3 2)) (.ofNat 2 (fld n 1 0)) s else execIllegalInstruction w s)
  else if fld n 13 4 = 1 then (if formatOk (.ofNat 2 (fld n 1 0)) then execVfsub (.ofNat 4 (fld n 25 22)) (.ofNat 4 (fld n 21 18)) (.ofNat 4 (fld n 17 14)) (.ofNat 2 (fld n 3 2)) (.ofNat 2 (fld n 1 0)) s else execIllegalInstruction w s)
  else if fld n 13 4 = 2 then (if formatOk (.ofNat 2 (fld n 1 0)) then execVfmul (.ofNat 4 (fld n 25 22)) (.ofNat 4 (fld n 21 18)) (.ofNat 4 (fld n 17 14)) (.ofNat 2 (fld n 3 2)) (.ofNat 2 (fld n 1 0)) s else execIllegalInstruction w s)
  else if fld n 13 4 = 3 then (if formatOk (.ofNat 2 (fld n 1 0)) then execVfmin (.ofNat 4 (fld n 25 22)) (.ofNat 4 (fld n 21 18)) (.ofNat 4 (fld n 17 14)) (.ofNat 2 (fld n 3 2)) (.ofNat 2 (fld n 1 0)) s else execIllegalInstruction w s)
  else if fld n 13 4 = 4 then (if formatOk (.ofNat 2 (fld n 1 0)) then execVfmax (.ofNat 4 (fld n 25 22)) (.ofNat 4 (fld n 21 18)) (.ofNat 4 (fld n 17 14)) (.ofNat 2 (fld n 3 2)) (.ofNat 2 (fld n 1 0)) s else execIllegalInstruction w s)
  else if fld n 17 4 = 5 then (if formatOk (.ofNat 2 (fld n 1 0)) then execVfabs (.ofNat 4 (fld n 25 22)) (.ofNat 4 (fld n 21 18)) (.ofNat 2 (fld n 3 2)) (.ofNat 2 (fld n 1 0)) s else execIllegalInstruction w s)
  else if fld n 17 4 = 6 then (if formatOk (.ofNat 2 (fld n 1 0)) then execVfneg (.ofNat 4 (fld n 25 22)) (.ofNat 4 (fld n 21 18)) (.ofNat 2 (fld n 3 2)) (.ofNat 2 (fld n 1 0)) s else execIllegalInstruction w s)
  else if fld n 25 24 = 0 ∧ fld n 13 4 = 7 then (if formatOk (.ofNat 2 (fld n 1 0)) then execVfcmpeq (.ofNat 2 (fld n 23 22)) (.ofNat 4 (fld n 21 18)) (.ofNat 4 (fld n 17 14)) (.ofNat 2 (fld n 3 2)) (.ofNat 2 (fld n 1 0)) s else execIllegalInstruction w s)
  else if fld n 25 24 = 0 ∧ fld n 13 4 = 8 then (if formatOk (.ofNat 2 (fld n 1 0)) then execVfcmplt (.ofNat 2 (fld n 23 22)) (.ofNat 4 (fld n 21 18)) (.ofNat 4 (fld n 17 14)) (.ofNat 2 (fld n 3 2)) (.ofNat 2 (fld n 1 0)) s else execIllegalInstruction w s)
  else if fld n 25 24 = 0 ∧ fld n 13 4 = 9 then (if formatOk (.ofNat 2 (fld n 1 0)) then execVfcmple (.ofNat 2 (fld n 23 22)) (.ofNat 4 (fld n 21 18)) (.ofNat 4 (fld n 17 14)) (.ofNat 2 (fld n 3 2)) (.ofNat 2 (fld n 1 0)) s else execIllegalInstruction w s)
  else if fld n 25 24 = 0 ∧ fld n 13 4 = 10 then (if formatOk (.ofNat 2 (fld n 1 0)) then execVfcmpun (.ofNat 2 (fld n 23 22)) (.ofNat 4 (fld n 21 18)) (.ofNat 4 (fld n 17 14)) (.ofNat 2 (fld n 3 2)) (.ofNat 2 (fld n 1 0)) s else execIllegalInstruction w s)
  else execIllegalInstruction w s

theorem runMajor15_eq (n : Nat) (w : BitVec 32) (s : State) :
    runMajor15 n w s = execOption (decodeMajor15 n) w s := by
  simp only [decodeMajor15, execOption_ite]
  rfl

/-- Major 0x16 run from its fields. -/
def runMajor16 (n : Nat) (w : BitVec 32) (s : State) : Host.Outcome State Fault Refusal :=
  if fld n 9 4 = 0 then (if formatOk (.ofNat 2 (fld n 1 0)) then execVfma (.ofNat 4 (fld n 25 22)) (.ofNat 4 (fld n 21 18)) (.ofNat 4 (fld n 17 14)) (.ofNat 4 (fld n 13 10)) (.ofNat 2 (fld n 3 2)) (.ofNat 2 (fld n 1 0)) s else execIllegalInstruction w s)
  else if fld n 9 4 = 1 then (if formatOk (.ofNat 2 (fld n 1 0)) then execVfms (.ofNat 4 (fld n 25 22)) (.ofNat 4 (fld n 21 18)) (.ofNat 4 (fld n 17 14)) (.ofNat 4 (fld n 13 10)) (.ofNat 2 (fld n 3 2)) (.ofNat 2 (fld n 1 0)) s else execIllegalInstruction w s)
  else if fld n 9 4 = 2 then (if formatOk (.ofNat 2 (fld n 1 0)) then execVfnma (.ofNat 4 (fld n 25 22)) (.ofNat 4 (fld n 21 18)) (.ofNat 4 (fld n 17 14)) (.ofNat 4 (fld n 13 10)) (.ofNat 2 (fld n 3 2)) (.ofNat 2 (fld n 1 0)) s else execIllegalInstruction w s)
  else execIllegalInstruction w s

theorem runMajor16_eq (n : Nat) (w : BitVec 32) (s : State) :
    runMajor16 n w s = execOption (decodeMajor16 n) w s := by
  simp only [decodeMajor16, execOption_ite]
  rfl

/-- Major 0x17 run from its fields. -/
def runMajor17 (n : Nat) (w : BitVec 32) (s : State) : Host.Outcome State Fault Refusal :=
  if fld n 17 14 = 0 ∧ fld n 9 4 = 0 then (if formatOk (.ofNat 2 (fld n 1 0)) then execVrcp (.ofNat 4 (fld n 25 22)) (.ofNat 4 (fld n 21 18)) (.ofNat 4 (fld n 13 10)) (.ofNat 2 (fld n 3 2)) (.ofNat 2 (fld n 1 0)) s else execIllegalInstruction w s)
  else if fld n 17 14 = 0 ∧ fld n 9 4 = 1 then (if formatOk (.ofNat 2 (fld n 1 0)) then execVrsq (.ofNat 4 (fld n 25 22)) (.ofNat 4 (fld n 21 18)) (.ofNat 4 (fld n 13 10)) (.ofNat 2 (fld n 3 2)) (.ofNat 2 (fld n 1 0)) s else execIllegalInstruction w s)
  else if fld n 17 14 = 0 ∧ fld n 9 4 = 2 then (if formatOk (.ofNat 2 (fld n 1 0)) then execVsqrt (.ofNat 4 (fld n 25 22)) (.ofNat 4 (fld n 21 18)) (.ofNat 4 (fld n 13 10)) (.ofNat 2 (fld n 3 2)) (.ofNat 2 (fld n 1 0)) s else execIllegalInstruction w s)
  else if fld n 9 4 = 3 then (if formatOk (.ofNat 2 (fld n 1 0)) then execVdiv (.ofNat 4 (fld n 25 22)) (.ofNat 4 (fld n 21 18)) (.ofNat 4 (fld n 17 14)) (.ofNat 4 (fld n 13 10)) (.ofNat 2 (fld n 3 2)) (.ofNat 2 (fld n 1 0)) s else execIllegalInstruction w s)
  else if fld n 17 14 = 0 ∧ fld n 9 4 = 4 then (if formatOk (.ofNat 2 (fld n 1 0)) then execVexp2 (.ofNat 4 (fld n 25 22)) (.ofNat 4 (fld n 21 18)) (.ofNat 4 (fld n 13 10)) (.ofNat 2 (fld n 3 2)) (.ofNat 2 (fld n 1 0)) s else execIllegalInstruction w s)
  else if fld n 17 14 = 0 ∧ fld n 9 4 = 5 then (if formatOk (.ofNat 2 (fld n 1 0)) then execVlog2 (.ofNat 4 (fld n 25 22)) (.ofNat 4 (fld n 21 18)) (.ofNat 4 (fld n 13 10)) (.ofNat 2 (fld n 3 2)) (.ofNat 2 (fld n 1 0)) s else execIllegalInstruction w s)
  else if fld n 17 14 = 0 ∧ fld n 9 4 = 6 then (if formatOk (.ofNat 2 (fld n 1 0)) then execVtanh (.ofNat 4 (fld n 25 22)) (.ofNat 4 (fld n 21 18)) (.ofNat 4 (fld n 13 10)) (.ofNat 2 (fld n 3 2)) (.ofNat 2 (fld n 1 0)) s else execIllegalInstruction w s)
  else execIllegalInstruction w s

theorem runMajor17_eq (n : Nat) (w : BitVec 32) (s : State) :
    runMajor17 n w s = execOption (decodeMajor17 n) w s := by
  simp only [decodeMajor17, execOption_ite]
  rfl

/-- Major 0x18 run from its fields. -/
def runMajor18 (n : Nat) (w : BitVec 32) (s : State) : Host.Outcome State Fault Refusal :=
  if fld n 9 4 = 0 then execVshuf (.ofNat 4 (fld n 25 22)) (.ofNat 4 (fld n 21 18)) (.ofNat 4 (fld n 17 14)) (.ofNat 4 (fld n 13 10)) (.ofNat 2 (fld n 3 2)) (.ofNat 2 (fld n 1 0)) s
  else if fld n 13 11 = 0 ∧ fld n 9 4 = 1 then execVzip (.ofNat 4 (fld n 25 22)) (.ofNat 4 (fld n 21 18)) (.ofNat 4 (fld n 17 14)) (flag n 10) (.ofNat 2 (fld n 3 2)) (.ofNat 2 (fld n 1 0)) s
  else if fld n 13 11 = 0 ∧ fld n 9 4 = 2 then execVunzip (.ofNat 4 (fld n 25 22)) (.ofNat 4 (fld n 21 18)) (.ofNat 4 (fld n 17 14)) (flag n 10) (.ofNat 2 (fld n 3 2)) (.ofNat 2 (fld n 1 0)) s
  else if fld n 13 4 = 3 then execVrotl (.ofNat 4 (fld n 25 22)) (.ofNat 4 (fld n 21 18)) (.ofNat 4 (fld n 17 14)) (.ofNat 2 (fld n 3 2)) (.ofNat 2 (fld n 1 0)) s
  else if fld n 13 4 = 4 then execVbcst (.ofNat 4 (fld n 25 22)) (.ofNat 4 (fld n 21 18)) (.ofNat 4 (fld n 17 14)) (.ofNat 2 (fld n 3 2)) (.ofNat 2 (fld n 1 0)) s
  else if fld n 17 4 = 5 then execVcompress (.ofNat 4 (fld n 25 22)) (.ofNat 4 (fld n 21 18)) (.ofNat 2 (fld n 3 2)) (.ofNat 2 (fld n 1 0)) s
  else execIllegalInstruction w s

theorem runMajor18_eq (n : Nat) (w : BitVec 32) (s : State) :
    runMajor18 n w s = execOption (decodeMajor18 n) w s := by
  simp only [decodeMajor18, execOption_ite]
  rfl

/-- Major 0x19 run from its fields. -/
def runMajor19 (n : Nat) (w : BitVec 32) (s : State) : Host.Outcome State Fault Refusal :=
  if fld n 25 24 = 0 ∧ fld n 21 20 = 0 ∧ fld n 17 16 = 0 ∧ fld n 13 0 = 0 then execMand (.ofNat 2 (fld n 23 22)) (.ofNat 2 (fld n 19 18)) (.ofNat 2 (fld n 15 14)) s
  else if fld n 25 24 = 0 ∧ fld n 21 20 = 0 ∧ fld n 17 16 = 0 ∧ fld n 13 0 = 16 then execMor (.ofNat 2 (fld n 23 22)) (.ofNat 2 (fld n 19 18)) (.ofNat 2 (fld n 15 14)) s
  else if fld n 25 24 = 0 ∧ fld n 21 20 = 0 ∧ fld n 17 16 = 0 ∧ fld n 13 0 = 32 then execMxor (.ofNat 2 (fld n 23 22)) (.ofNat 2 (fld n 19 18)) (.ofNat 2 (fld n 15 14)) s
  else if fld n 25 24 = 0 ∧ fld n 21 20 = 0 ∧ fld n 17 0 = 48 then execMnot (.ofNat 2 (fld n 23 22)) (.ofNat 2 (fld n 19 18)) s
  else if fld n 21 20 = 0 ∧ fld n 17 0 = 64 then execMcnt (.ofNat 4 (fld n 25 22)) (.ofNat 2 (fld n 19 18)) s
  else if fld n 21 20 = 0 ∧ fld n 17 0 = 80 then execMff (.ofNat 4 (fld n 25 22)) (.ofNat 2 (fld n 19 18)) s
  else if fld n 25 24 = 0 ∧ fld n 17 0 = 96 then execMfromg (.ofNat 2 (fld n 23 22)) (.ofNat 4 (fld n 21 18)) s
  else if fld n 21 20 = 0 ∧ fld n 17 0 = 112 then execMtog (.ofNat 4 (fld n 25 22)) (.ofNat 2 (fld n 19 18)) s
  else execIllegalInstruction w s

theorem runMajor19_eq (n : Nat) (w : BitVec 32) (s : State) :
    runMajor19 n w s = execOption (decodeMajor19 n) w s := by
  simp only [decodeMajor19, execOption_ite]
  rfl

/-- Major 0x1A run from its fields. -/
def runMajor1A (n : Nat) (w : BitVec 32) (s : State) : Host.Outcome State Fault Refusal :=
  if fld n 17 4 = 0 then execVsplat (.ofNat 4 (fld n 25 22)) (.ofNat 4 (fld n 21 18)) (.ofNat 2 (fld n 3 2)) (.ofNat 2 (fld n 1 0)) s
  else if fld n 13 4 = 1 then execVins (.ofNat 4 (fld n 25 22)) (.ofNat 4 (fld n 21 18)) (.ofNat 4 (fld n 17 14)) (.ofNat 2 (fld n 3 2)) (.ofNat 2 (fld n 1 0)) s
  else if fld n 13 2 = 8 then execVext (.ofNat 4 (fld n 25 22)) (.ofNat 4 (fld n 21 18)) (.ofNat 4 (fld n 17 14)) (.ofNat 2 (fld n 1 0)) s
  else if fld n 17 4 = 3 then execVmov (.ofNat 4 (fld n 25 22)) (.ofNat 4 (fld n 21 18)) (.ofNat 2 (fld n 3 2)) (.ofNat 2 (fld n 1 0)) s
  else if fld n 17 4 = 4 then execVradd (.ofNat 4 (fld n 25 22)) (.ofNat 4 (fld n 21 18)) (.ofNat 2 (fld n 3 2)) (.ofNat 2 (fld n 1 0)) s
  else if fld n 17 4 = 5 then execVrmax (.ofNat 4 (fld n 25 22)) (.ofNat 4 (fld n 21 18)) (.ofNat 2 (fld n 3 2)) (.ofNat 2 (fld n 1 0)) s
  else if fld n 17 4 = 6 then execVrmin (.ofNat 4 (fld n 25 22)) (.ofNat 4 (fld n 21 18)) (.ofNat 2 (fld n 3 2)) (.ofNat 2 (fld n 1 0)) s
  else if fld n 17 4 = 7 then (if formatOk (.ofNat 2 (fld n 1 0)) then execVfradd (.ofNat 4 (fld n 25 22)) (.ofNat 4 (fld n 21 18)) (.ofNat 2 (fld n 3 2)) (.ofNat 2 (fld n 1 0)) s else execIllegalInstruction w s)
  else execIllegalInstruction w s

theorem runMajor1A_eq (n : Nat) (w : BitVec 32) (s : State) :
    runMajor1A n w s = execOption (decodeMajor1A n) w s := by
  simp only [decodeMajor1A, execOption_ite]
  rfl

/-- Major 0x1B run from its fields. -/
def runMajor1B (n : Nat) (w : BitVec 32) (s : State) : Host.Outcome State Fault Refusal :=
  if fld n 25 22 = 0 ∧ fld n 17 1 = 0 then execNsend (.ofNat 4 (fld n 21 18)) (flag n 0) s
  else if fld n 21 1 = 8 then execNrecv (.ofNat 4 (fld n 25 22)) (flag n 0) s
  else if fld n 17 1 = 16 then execNwin (.ofNat 4 (fld n 25 22)) (.ofNat 4 (fld n 21 18)) (flag n 0) s
  else execIllegalInstruction w s

theorem runMajor1B_eq (n : Nat) (w : BitVec 32) (s : State) :
    runMajor1B n w s = execOption (decodeMajor1B n) w s := by
  simp only [decodeMajor1B, execOption_ite]
  rfl

/-- Major 0x1C run from its fields. -/
def runMajor1C (n : Nat) (w : BitVec 32) (s : State) : Host.Outcome State Fault Refusal :=
  if fld n 9 4 = 0 then execVcvtf (.ofNat 4 (fld n 25 22)) (.ofNat 4 (fld n 21 18)) (.ofNat 4 (fld n 17 14)) (.ofNat 4 (fld n 13 10)) (.ofNat 2 (fld n 3 2)) (.ofNat 2 (fld n 1 0)) s
  else if fld n 9 4 = 1 then execVcvtfi (.ofNat 4 (fld n 25 22)) (.ofNat 4 (fld n 21 18)) (.ofNat 4 (fld n 17 14)) (.ofNat 4 (fld n 13 10)) (.ofNat 2 (fld n 3 2)) (.ofNat 2 (fld n 1 0)) s
  else if fld n 9 4 = 2 then execVcvtif (.ofNat 4 (fld n 25 22)) (.ofNat 4 (fld n 21 18)) (.ofNat 4 (fld n 17 14)) (.ofNat 4 (fld n 13 10)) (.ofNat 2 (fld n 3 2)) (.ofNat 2 (fld n 1 0)) s
  else if fld n 9 4 = 3 then execVpack8 (.ofNat 4 (fld n 25 22)) (.ofNat 4 (fld n 21 18)) (.ofNat 4 (fld n 17 14)) (.ofNat 4 (fld n 13 10)) (.ofNat 2 (fld n 3 2)) (.ofNat 2 (fld n 1 0)) s
  else if fld n 9 4 = 4 then execVunpk8 (.ofNat 4 (fld n 25 22)) (.ofNat 4 (fld n 21 18)) (.ofNat 4 (fld n 17 14)) (.ofNat 4 (fld n 13 10)) (.ofNat 2 (fld n 3 2)) (.ofNat 2 (fld n 1 0)) s
  else if fld n 9 4 = 5 then execVpack4 (.ofNat 4 (fld n 25 22)) (.ofNat 4 (fld n 21 18)) (.ofNat 4 (fld n 17 14)) (.ofNat 4 (fld n 13 10)) (.ofNat 2 (fld n 3 2)) (.ofNat 2 (fld n 1 0)) s
  else if fld n 9 4 = 6 then execVunpk4 (.ofNat 4 (fld n 25 22)) (.ofNat 4 (fld n 21 18)) (.ofNat 4 (fld n 17 14)) (.ofNat 4 (fld n 13 10)) (.ofNat 2 (fld n 3 2)) (.ofNat 2 (fld n 1 0)) s
  else if fld n 9 4 = 7 ∧ fld n 1 0 = 0 then execVscale (.ofNat 4 (fld n 25 22)) (.ofNat 4 (fld n 21 18)) (.ofNat 4 (fld n 17 14)) (.ofNat 4 (fld n 13 10)) (.ofNat 2 (fld n 3 2)) s
  else execIllegalInstruction w s

theorem runMajor1C_eq (n : Nat) (w : BitVec 32) (s : State) :
    runMajor1C n w s = execOption (decodeMajor1C n) w s := by
  simp only [decodeMajor1C, execOption_ite]
  rfl

/-- Major 0x20 run from its fields. -/
def runMajor20 (n : Nat) (w : BitVec 32) (s : State) : Host.Outcome State Fault Refusal :=
  if fld n 7 5 = 0 then execLdb (.ofNat 4 (fld n 25 22)) (.ofNat 4 (fld n 21 18)) (.ofNat 10 (fld n 17 8)) (flag n 4) (.ofNat 4 (fld n 3 0)) s
  else if fld n 7 5 = 1 then execLdbs (.ofNat 4 (fld n 25 22)) (.ofNat 4 (fld n 21 18)) (.ofNat 10 (fld n 17 8)) (flag n 4) (.ofNat 4 (fld n 3 0)) s
  else if fld n 7 5 = 2 then execLdh (.ofNat 4 (fld n 25 22)) (.ofNat 4 (fld n 21 18)) (.ofNat 10 (fld n 17 8)) (flag n 4) (.ofNat 4 (fld n 3 0)) s
  else if fld n 7 5 = 3 then execLdhs (.ofNat 4 (fld n 25 22)) (.ofNat 4 (fld n 21 18)) (.ofNat 10 (fld n 17 8)) (flag n 4) (.ofNat 4 (fld n 3 0)) s
  else if fld n 7 5 = 4 then execLdw (.ofNat 4 (fld n 25 22)) (.ofNat 4 (fld n 21 18)) (.ofNat 10 (fld n 17 8)) (flag n 4) (.ofNat 4 (fld n 3 0)) s
  else if fld n 7 5 = 5 then execLdws (.ofNat 4 (fld n 25 22)) (.ofNat 4 (fld n 21 18)) (.ofNat 10 (fld n 17 8)) (flag n 4) (.ofNat 4 (fld n 3 0)) s
  else if fld n 7 5 = 6 then execLdd (.ofNat 4 (fld n 25 22)) (.ofNat 4 (fld n 21 18)) (.ofNat 10 (fld n 17 8)) (flag n 4) (.ofNat 4 (fld n 3 0)) s
  else execIllegalInstruction w s

theorem runMajor20_eq (n : Nat) (w : BitVec 32) (s : State) :
    runMajor20 n w s = execOption (decodeMajor20 n) w s := by
  simp only [decodeMajor20, execOption_ite]
  rfl

/-- Major 0x21 run from its fields. -/
def runMajor21 (n : Nat) (w : BitVec 32) (s : State) : Host.Outcome State Fault Refusal :=
  if fld n 7 5 = 0 ∧ fld n 3 0 = 0 then execStb (.ofNat 4 (fld n 25 22)) (.ofNat 4 (fld n 21 18)) (.ofNat 10 (fld n 17 8)) (flag n 4) s
  else if fld n 7 5 = 1 ∧ fld n 3 0 = 0 then execSth (.ofNat 4 (fld n 25 22)) (.ofNat 4 (fld n 21 18)) (.ofNat 10 (fld n 17 8)) (flag n 4) s
  else if fld n 7 5 = 2 ∧ fld n 3 0 = 0 then execStw (.ofNat 4 (fld n 25 22)) (.ofNat 4 (fld n 21 18)) (.ofNat 10 (fld n 17 8)) (flag n 4) s
  else if fld n 7 5 = 3 ∧ fld n 3 0 = 0 then execStd (.ofNat 4 (fld n 25 22)) (.ofNat 4 (fld n 21 18)) (.ofNat 10 (fld n 17 8)) (flag n 4) s
  else execIllegalInstruction w s

theorem runMajor21_eq (n : Nat) (w : BitVec 32) (s : State) :
    runMajor21 n w s = execOption (decodeMajor21 n) w s := by
  simp only [decodeMajor21, execOption_ite]
  rfl

/-- Major 0x22 run from its fields. -/
def runMajor22 (n : Nat) (w : BitVec 32) (s : State) : Host.Outcome State Fault Refusal :=
  if fld n 7 5 = 0 then execVld (.ofNat 4 (fld n 25 22)) (.ofNat 4 (fld n 21 18)) (.ofNat 10 (fld n 17 8)) (flag n 4) (.ofNat 4 (fld n 3 0)) s
  else execIllegalInstruction w s

theorem runMajor22_eq (n : Nat) (w : BitVec 32) (s : State) :
    runMajor22 n w s = execOption (decodeMajor22 n) w s := by
  simp only [decodeMajor22, execOption_ite]
  rfl

/-- Major 0x23 run from its fields. -/
def runMajor23 (n : Nat) (w : BitVec 32) (s : State) : Host.Outcome State Fault Refusal :=
  if fld n 7 5 = 0 ∧ fld n 3 0 = 0 then execVst (.ofNat 4 (fld n 25 22)) (.ofNat 4 (fld n 21 18)) (.ofNat 10 (fld n 17 8)) (flag n 4) s
  else execIllegalInstruction w s

theorem runMajor23_eq (n : Nat) (w : BitVec 32) (s : State) :
    runMajor23 n w s = execOption (decodeMajor23 n) w s := by
  simp only [decodeMajor23, execOption_ite]
  rfl

/-- Major 0x24 run from its fields. -/
def runMajor24 (n : Nat) (w : BitVec 32) (s : State) : Host.Outcome State Fault Refusal :=
  if fld n 9 0 = 0 then execLdxd (.ofNat 4 (fld n 25 22)) (.ofNat 4 (fld n 21 18)) (.ofNat 4 (fld n 17 14)) (.ofNat 4 (fld n 13 10)) s
  else if fld n 13 0 = 16 then execStxd (.ofNat 4 (fld n 25 22)) (.ofNat 4 (fld n 21 18)) (.ofNat 4 (fld n 17 14)) s
  else if fld n 9 0 = 32 then execVldx (.ofNat 4 (fld n 25 22)) (.ofNat 4 (fld n 21 18)) (.ofNat 4 (fld n 17 14)) (.ofNat 4 (fld n 13 10)) s
  else if fld n 13 0 = 48 then execVstx (.ofNat 4 (fld n 25 22)) (.ofNat 4 (fld n 21 18)) (.ofNat 4 (fld n 17 14)) s
  else if fld n 9 4 = 4 ∧ fld n 1 0 = 0 then execVldm (.ofNat 4 (fld n 25 22)) (.ofNat 4 (fld n 21 18)) (.ofNat 4 (fld n 17 14)) (.ofNat 4 (fld n 13 10)) (.ofNat 2 (fld n 3 2)) s
  else if fld n 13 4 = 5 ∧ fld n 1 0 = 0 then execVstm (.ofNat 4 (fld n 25 22)) (.ofNat 4 (fld n 21 18)) (.ofNat 4 (fld n 17 14)) (.ofNat 2 (fld n 3 2)) s
  else if fld n 9 4 = 6 then execVgath (.ofNat 4 (fld n 25 22)) (.ofNat 4 (fld n 21 18)) (.ofNat 4 (fld n 17 14)) (.ofNat 4 (fld n 13 10)) (.ofNat 2 (fld n 3 2)) (.ofNat 2 (fld n 1 0)) s
  else execIllegalInstruction w s

theorem runMajor24_eq (n : Nat) (w : BitVec 32) (s : State) :
    runMajor24 n w s = execOption (decodeMajor24 n) w s := by
  simp only [decodeMajor24, execOption_ite]
  rfl

/-- Major 0x25 run from its fields. -/
def runMajor25 (n : Nat) (w : BitVec 32) (s : State) : Host.Outcome State Fault Refusal :=
  if fld n 25 22 = 0 ∧ fld n 13 1 = 0 then execPref (.ofNat 4 (fld n 21 18)) (.ofNat 4 (fld n 17 14)) (flag n 0) s
  else if fld n 13 0 = 16 then execTres (.ofNat 4 (fld n 25 22)) (.ofNat 4 (fld n 21 18)) (.ofNat 4 (fld n 17 14)) s
  else if fld n 9 0 = 32 then execStmap (.ofNat 4 (fld n 25 22)) (.ofNat 4 (fld n 21 18)) (.ofNat 4 (fld n 17 14)) (.ofNat 4 (fld n 13 10)) s
  else if fld n 17 0 = 48 then execStunmap (.ofNat 4 (fld n 25 22)) (.ofNat 4 (fld n 21 18)) s
  else if fld n 25 22 = 0 ∧ fld n 13 0 = 64 then execStwb (.ofNat 4 (fld n 21 18)) (.ofNat 4 (fld n 17 14)) s
  else if fld n 17 0 = 80 then execTilereg (.ofNat 4 (fld n 25 22)) (.ofNat 4 (fld n 21 18)) s
  else execIllegalInstruction w s

theorem runMajor25_eq (n : Nat) (w : BitVec 32) (s : State) :
    runMajor25 n w s = execOption (decodeMajor25 n) w s := by
  simp only [decodeMajor25, execOption_ite]
  rfl

/-- Major 0x26 run from its fields. -/
def runMajor26 (n : Nat) (w : BitVec 32) (s : State) : Host.Outcome State Fault Refusal :=
  if fld n 7 4 = 0 then execLdf (.ofNat 4 (fld n 25 22)) (.ofNat 4 (fld n 21 18)) (.ofNat 10 (fld n 17 8)) (.ofNat 4 (fld n 3 0)) s
  else if fld n 7 4 = 2 then execLdfe (.ofNat 4 (fld n 25 22)) (.ofNat 4 (fld n 21 18)) (.ofNat 10 (fld n 17 8)) (.ofNat 4 (fld n 3 0)) s
  else if fld n 7 0 = 64 then execStf (.ofNat 4 (fld n 25 22)) (.ofNat 4 (fld n 21 18)) (.ofNat 10 (fld n 17 8)) s
  else if fld n 7 0 = 96 then execStff (.ofNat 4 (fld n 25 22)) (.ofNat 4 (fld n 21 18)) (.ofNat 10 (fld n 17 8)) s
  else if fld n 7 4 = 8 then execFeget (.ofNat 4 (fld n 25 22)) (.ofNat 4 (fld n 21 18)) (.ofNat 10 (fld n 17 8)) (.ofNat 4 (fld n 3 0)) s
  else if fld n 25 22 = 0 ∧ fld n 7 0 = 160 then execFeempty (.ofNat 4 (fld n 21 18)) (.ofNat 10 (fld n 17 8)) s
  else if fld n 7 0 = 192 then execFemark (.ofNat 4 (fld n 25 22)) (.ofNat 4 (fld n 21 18)) (.ofNat 10 (fld n 17 8)) s
  else execIllegalInstruction w s

theorem runMajor26_eq (n : Nat) (w : BitVec 32) (s : State) :
    runMajor26 n w s = execOption (decodeMajor26 n) w s := by
  simp only [decodeMajor26, execOption_ite]
  rfl

/-- Major 0x27 run from its fields. -/
def runMajor27 (n : Nat) (w : BitVec 32) (s : State) : Host.Outcome State Fault Refusal :=
  if fld n 25 22 = 0 ∧ fld n 17 0 = 0 then execMona (.ofNat 4 (fld n 21 18)) s
  else if fld n 25 0 = 16 then execMonc s
  else if fld n 17 0 = 32 then execMwait (.ofNat 4 (fld n 25 22)) (.ofNat 4 (fld n 21 18)) s
  else execIllegalInstruction w s

theorem runMajor27_eq (n : Nat) (w : BitVec 32) (s : State) :
    runMajor27 n w s = execOption (decodeMajor27 n) w s := by
  simp only [decodeMajor27, execOption_ite]
  rfl

/-- Major 0x28 run from its fields. -/
def runMajor28 (n : Nat) (w : BitVec 32) (s : State) : Host.Outcome State Fault Refusal :=
  if fld n 7 4 = 0 then execRsv (.ofNat 4 (fld n 25 22)) (.ofNat 4 (fld n 21 18)) (.ofNat 10 (fld n 17 8)) (.ofNat 4 (fld n 3 0)) s
  else if fld n 7 0 = 32 then execRel (.ofNat 4 (fld n 25 22)) (.ofNat 4 (fld n 21 18)) (.ofNat 10 (fld n 17 8)) s
  else if fld n 7 0 = 64 then execRelc (.ofNat 4 (fld n 25 22)) (.ofNat 4 (fld n 21 18)) (.ofNat 10 (fld n 17 8)) s
  else if fld n 7 4 = 6 then execRsvt (.ofNat 4 (fld n 25 22)) (.ofNat 4 (fld n 21 18)) (.ofNat 10 (fld n 17 8)) (.ofNat 4 (fld n 3 0)) s
  else execIllegalInstruction w s

theorem runMajor28_eq (n : Nat) (w : BitVec 32) (s : State) :
    runMajor28 n w s = execOption (decodeMajor28 n) w s := by
  simp only [decodeMajor28, execOption_ite]
  rfl

/-- Major 0x29 run from its fields. -/
def runMajor29 (n : Nat) (w : BitVec 32) (s : State) : Host.Outcome State Fault Refusal :=
  if fld n 9 3 = 0 then execFadd (.ofNat 4 (fld n 25 22)) (.ofNat 4 (fld n 21 18)) (.ofNat 4 (fld n 17 14)) (.ofNat 4 (fld n 13 10)) (flag n 2) (.ofNat 2 (fld n 1 0)) s
  else if fld n 9 3 = 2 then execFand (.ofNat 4 (fld n 25 22)) (.ofNat 4 (fld n 21 18)) (.ofNat 4 (fld n 17 14)) (.ofNat 4 (fld n 13 10)) (flag n 2) (.ofNat 2 (fld n 1 0)) s
  else if fld n 9 3 = 4 then execFOr (.ofNat 4 (fld n 25 22)) (.ofNat 4 (fld n 21 18)) (.ofNat 4 (fld n 17 14)) (.ofNat 4 (fld n 13 10)) (flag n 2) (.ofNat 2 (fld n 1 0)) s
  else if fld n 9 3 = 6 then execFxor (.ofNat 4 (fld n 25 22)) (.ofNat 4 (fld n 21 18)) (.ofNat 4 (fld n 17 14)) (.ofNat 4 (fld n 13 10)) (flag n 2) (.ofNat 2 (fld n 1 0)) s
  else if fld n 9 3 = 8 then execFmax (.ofNat 4 (fld n 25 22)) (.ofNat 4 (fld n 21 18)) (.ofNat 4 (fld n 17 14)) (.ofNat 4 (fld n 13 10)) (flag n 2) (.ofNat 2 (fld n 1 0)) s
  else if fld n 9 3 = 10 then execFmin (.ofNat 4 (fld n 25 22)) (.ofNat 4 (fld n 21 18)) (.ofNat 4 (fld n 17 14)) (.ofNat 4 (fld n 13 10)) (flag n 2) (.ofNat 2 (fld n 1 0)) s
  else if fld n 9 3 = 12 then execFmaxn (.ofNat 4 (fld n 25 22)) (.ofNat 4 (fld n 21 18)) (.ofNat 4 (fld n 17 14)) (.ofNat 4 (fld n 13 10)) (flag n 2) (.ofNat 2 (fld n 1 0)) s
  else if fld n 9 3 = 14 then execFminn (.ofNat 4 (fld n 25 22)) (.ofNat 4 (fld n 21 18)) (.ofNat 4 (fld n 17 14)) (.ofNat 4 (fld n 13 10)) (flag n 2) (.ofNat 2 (fld n 1 0)) s
  else if fld n 9 3 = 16 then execFswp (.ofNat 4 (fld n 25 22)) (.ofNat 4 (fld n 21 18)) (.ofNat 4 (fld n 17 14)) (.ofNat 4 (fld n 13 10)) (flag n 2) (.ofNat 2 (fld n 1 0)) s
  else if fld n 9 3 = 18 then execFcas (.ofNat 4 (fld n 25 22)) (.ofNat 4 (fld n 21 18)) (.ofNat 4 (fld n 17 14)) (.ofNat 4 (fld n 13 10)) (flag n 2) (.ofNat 2 (fld n 1 0)) s
  else if fld n 9 3 = 20 then execFincb (.ofNat 4 (fld n 25 22)) (.ofNat 4 (fld n 21 18)) (.ofNat 4 (fld n 17 14)) (.ofNat 4 (fld n 13 10)) (flag n 2) (.ofNat 2 (fld n 1 0)) s
  else if fld n 9 3 = 22 then execFincw (.ofNat 4 (fld n 25 22)) (.ofNat 4 (fld n 21 18)) (.ofNat 4 (fld n 17 14)) (.ofNat 4 (fld n 13 10)) (flag n 2) (.ofNat 2 (fld n 1 0)) s
  else if fld n 17 14 = 0 ∧ fld n 9 3 = 24 then execFdecp (.ofNat 4 (fld n 25 22)) (.ofNat 4 (fld n 21 18)) (.ofNat 4 (fld n 13 10)) (flag n 2) (.ofNat 2 (fld n 1 0)) s
  else if fld n 9 3 = 26 then execFaddl (.ofNat 4 (fld n 25 22)) (.ofNat 4 (fld n 21 18)) (.ofNat 4 (fld n 17 14)) (.ofNat 4 (fld n 13 10)) (flag n 2) (.ofNat 2 (fld n 1 0)) s
  else execIllegalInstruction w s

theorem runMajor29_eq (n : Nat) (w : BitVec 32) (s : State) :
    runMajor29 n w s = execOption (decodeMajor29 n) w s := by
  simp only [decodeMajor29, execOption_ite]
  rfl

/-- Major 0x2A run from its fields. -/
def runMajor2A (n : Nat) (w : BitVec 32) (s : State) : Host.Outcome State Fault Refusal :=
  if fld n 13 11 = 0 ∧ fld n 9 2 = 0 then execGath (.ofNat 4 (fld n 25 22)) (.ofNat 4 (fld n 21 18)) (.ofNat 4 (fld n 17 14)) (flag n 10) (.ofNat 2 (fld n 1 0)) s
  else if fld n 25 22 = 0 ∧ fld n 13 11 = 0 ∧ fld n 9 2 = 4 then execBld (.ofNat 4 (fld n 21 18)) (.ofNat 4 (fld n 17 14)) (flag n 10) (.ofNat 2 (fld n 1 0)) s
  else if fld n 25 25 = 0 ∧ fld n 21 19 = 0 ∧ fld n 17 15 = 0 ∧ fld n 9 0 = 32 then execMma (.ofNat 3 (fld n 24 22)) (flag n 18) (flag n 14) (.ofNat 4 (fld n 13 10)) s
  else if fld n 25 25 = 0 ∧ fld n 21 0 = 48 then execAcz (.ofNat 3 (fld n 24 22)) s
  else if fld n 25 25 = 0 ∧ fld n 13 0 = 64 then execAcld (.ofNat 3 (fld n 24 22)) (.ofNat 4 (fld n 21 18)) (.ofNat 4 (fld n 17 14)) s
  else if fld n 25 25 = 0 ∧ fld n 13 2 = 20 then execAcst (.ofNat 3 (fld n 24 22)) (.ofNat 4 (fld n 21 18)) (.ofNat 4 (fld n 17 14)) (.ofNat 2 (fld n 1 0)) s
  else if fld n 21 21 = 0 ∧ fld n 13 0 = 96 then execAcrd (.ofNat 4 (fld n 25 22)) (.ofNat 3 (fld n 20 18)) (.ofNat 4 (fld n 17 14)) s
  else if fld n 25 25 = 0 ∧ fld n 13 0 = 112 then execAcwr (.ofNat 3 (fld n 24 22)) (.ofNat 4 (fld n 21 18)) (.ofNat 4 (fld n 17 14)) s
  else if fld n 17 0 = 128 then execMxstat (.ofNat 4 (fld n 25 22)) (.ofNat 4 (fld n 21 18)) s
  else execIllegalInstruction w s

theorem runMajor2A_eq (n : Nat) (w : BitVec 32) (s : State) :
    runMajor2A n w s = execOption (decodeMajor2A n) w s := by
  simp only [decodeMajor2A, execOption_ite]
  rfl

/-- Major 0x2B run from its fields. -/
def runMajor2B (n : Nat) (w : BitVec 32) (s : State) : Host.Outcome State Fault Refusal :=
  if fld n 25 25 = 0 ∧ fld n 9 0 = 0 then execRept (.ofNat 3 (fld n 24 22)) (.ofNat 4 (fld n 21 18)) (.ofNat 4 (fld n 17 14)) (.ofNat 4 (fld n 13 10)) s
  else execIllegalInstruction w s

theorem runMajor2B_eq (n : Nat) (w : BitVec 32) (s : State) :
    runMajor2B n w s = execOption (decodeMajor2B n) w s := by
  simp only [decodeMajor2B, execOption_ite]
  rfl

/-- Major 0x2C run from its fields. -/
def runMajor2C (n : Nat) (w : BitVec 32) (s : State) : Host.Outcome State Fault Refusal :=
  if fld n 9 0 = 0 then execCpy (.ofNat 4 (fld n 25 22)) (.ofNat 4 (fld n 21 18)) (.ofNat 4 (fld n 17 14)) (.ofNat 4 (fld n 13 10)) s
  else if fld n 9 0 = 16 then execCpy2 (.ofNat 4 (fld n 25 22)) (.ofNat 4 (fld n 21 18)) (.ofNat 4 (fld n 17 14)) (.ofNat 4 (fld n 13 10)) s
  else if fld n 9 0 = 32 then execCpyg (.ofNat 4 (fld n 25 22)) (.ofNat 4 (fld n 21 18)) (.ofNat 4 (fld n 17 14)) (.ofNat 4 (fld n 13 10)) s
  else if fld n 9 0 = 48 then execCpys (.ofNat 4 (fld n 25 22)) (.ofNat 4 (fld n 21 18)) (.ofNat 4 (fld n 17 14)) (.ofNat 4 (fld n 13 10)) s
  else if fld n 9 0 = 64 then execCpycb (.ofNat 4 (fld n 25 22)) (.ofNat 4 (fld n 21 18)) (.ofNat 4 (fld n 17 14)) (.ofNat 4 (fld n 13 10)) s
  else execIllegalInstruction w s

theorem runMajor2C_eq (n : Nat) (w : BitVec 32) (s : State) :
    runMajor2C n w s = execOption (decodeMajor2C n) w s := by
  simp only [decodeMajor2C, execOption_ite]
  rfl

/-- Major 0x2D run from its fields. -/
def runMajor2D (n : Nat) (w : BitVec 32) (s : State) : Host.Outcome State Fault Refusal :=
  if fld n 13 0 = 0 then execCbinit (.ofNat 4 (fld n 25 22)) (.ofNat 4 (fld n 21 18)) (.ofNat 4 (fld n 17 14)) s
  else if fld n 17 0 = 16 then execCbacq (.ofNat 4 (fld n 25 22)) (.ofNat 4 (fld n 21 18)) s
  else if fld n 25 22 = 0 ∧ fld n 13 0 = 32 then execCbrel (.ofNat 4 (fld n 21 18)) (.ofNat 4 (fld n 17 14)) s
  else if fld n 17 0 = 48 then execCbstat (.ofNat 4 (fld n 25 22)) (.ofNat 4 (fld n 21 18)) s
  else if fld n 17 0 = 64 then execCbres (.ofNat 4 (fld n 25 22)) (.ofNat 4 (fld n 21 18)) s
  else if fld n 25 22 = 0 ∧ fld n 13 0 = 80 then execCbpub (.ofNat 4 (fld n 21 18)) (.ofNat 4 (fld n 17 14)) s
  else execIllegalInstruction w s

theorem runMajor2D_eq (n : Nat) (w : BitVec 32) (s : State) :
    runMajor2D n w s = execOption (decodeMajor2D n) w s := by
  simp only [decodeMajor2D, execOption_ite]
  rfl

/-- Major 0x2F run from its fields. -/
def runMajor2F (n : Nat) (w : BitVec 32) (s : State) : Host.Outcome State Fault Refusal :=
  if fld n 13 0 = 0 then execTspawn (.ofNat 4 (fld n 25 22)) (.ofNat 4 (fld n 21 18)) (.ofNat 4 (fld n 17 14)) s
  else if fld n 17 0 = 16 then execPark (.ofNat 4 (fld n 25 22)) (.ofNat 4 (fld n 21 18)) s
  else if fld n 13 0 = 32 then execQsend (.ofNat 4 (fld n 25 22)) (.ofNat 4 (fld n 21 18)) (.ofNat 4 (fld n 17 14)) s
  else if fld n 13 0 = 48 then execQrecv (.ofNat 4 (fld n 25 22)) (.ofNat 4 (fld n 21 18)) (.ofNat 4 (fld n 17 14)) s
  else if fld n 17 0 = 64 then execEos (.ofNat 4 (fld n 25 22)) (.ofNat 4 (fld n 21 18)) s
  else if fld n 17 0 = 80 then execRqpush (.ofNat 4 (fld n 25 22)) (.ofNat 4 (fld n 21 18)) s
  else if fld n 17 0 = 96 then execRqpop (.ofNat 4 (fld n 25 22)) (.ofNat 4 (fld n 21 18)) s
  else if fld n 17 0 = 112 then execTimer (.ofNat 4 (fld n 25 22)) (.ofNat 4 (fld n 21 18)) s
  else if fld n 17 0 = 128 then execLaunch (.ofNat 4 (fld n 25 22)) (.ofNat 4 (fld n 21 18)) s
  else if fld n 17 0 = 144 then execDepdec (.ofNat 4 (fld n 25 22)) (.ofNat 4 (fld n 21 18)) s
  else if fld n 25 0 = 160 then execExit s
  else if fld n 25 0 = 176 then execYield s
  else execIllegalInstruction w s

theorem runMajor2F_eq (n : Nat) (w : BitVec 32) (s : State) :
    runMajor2F n w s = execOption (decodeMajor2F n) w s := by
  simp only [decodeMajor2F, execOption_ite]
  rfl

/-- Major 0x1D run from its fields. -/
def runMajor1D (n : Nat) (w : BitVec 32) (s : State) : Host.Outcome State Fault Refusal :=
  if fld n 17 0 = 0 then execBdld (.ofNat 4 (fld n 25 22)) (.ofNat 4 (fld n 21 18)) s
  else if fld n 25 22 = 0 ∧ fld n 13 0 = 16 then execBdst (.ofNat 4 (fld n 21 18)) (.ofNat 4 (fld n 17 14)) s
  else execIllegalInstruction w s

theorem runMajor1D_eq (n : Nat) (w : BitVec 32) (s : State) :
    runMajor1D n w s = execOption (decodeMajor1D n) w s := by
  simp only [decodeMajor1D, execOption_ite]
  rfl

/-- Major 0x2E run from its fields. -/
def runMajor2E (n : Nat) (w : BitVec 32) (s : State) : Host.Outcome State Fault Refusal :=
  if fld n 25 22 = 0 ∧ fld n 9 0 = 0 then execGcall (.ofNat 4 (fld n 21 18)) (.ofNat 4 (fld n 17 14)) (.ofNat 4 (fld n 13 10)) s
  else if fld n 25 0 = 16 then execGret s
  else if fld n 25 22 = 0 ∧ fld n 17 0 = 32 then execGabt (.ofNat 4 (fld n 21 18)) s
  else if fld n 17 0 = 48 then execDinfo (.ofNat 4 (fld n 25 22)) (.ofNat 4 (fld n 21 18)) s
  else if fld n 13 0 = 64 then execGpub (.ofNat 4 (fld n 25 22)) (.ofNat 4 (fld n 21 18)) (.ofNat 4 (fld n 17 14)) s
  else if fld n 13 0 = 80 then execGrev (.ofNat 4 (fld n 25 22)) (.ofNat 4 (fld n 21 18)) (.ofNat 4 (fld n 17 14)) s
  else if fld n 9 0 = 96 then execHgive (.ofNat 4 (fld n 25 22)) (.ofNat 4 (fld n 21 18)) (.ofNat 4 (fld n 17 14)) (.ofNat 4 (fld n 13 10)) s
  else if fld n 17 0 = 112 then execHdrop (.ofNat 4 (fld n 25 22)) (.ofNat 4 (fld n 21 18)) s
  else execIllegalInstruction w s

theorem runMajor2E_eq (n : Nat) (w : BitVec 32) (s : State) :
    runMajor2E n w s = execOption (decodeMajor2E n) w s := by
  simp only [decodeMajor2E, execOption_ite]
  rfl

/-- Major 0x30 run from its fields. -/
def runMajor30 (n : Nat) (w : BitVec 32) (s : State) : Host.Outcome State Fault Refusal :=
  if fld n 13 0 = 0 then execPtload (.ofNat 4 (fld n 25 22)) (.ofNat 4 (fld n 21 18)) (.ofNat 4 (fld n 17 14)) s
  else if fld n 9 0 = 16 then execPtbind (.ofNat 4 (fld n 25 22)) (.ofNat 4 (fld n 21 18)) (.ofNat 4 (fld n 17 14)) (.ofNat 4 (fld n 13 10)) s
  else if fld n 13 0 = 32 then execPtunbind (.ofNat 4 (fld n 25 22)) (.ofNat 4 (fld n 21 18)) (.ofNat 4 (fld n 17 14)) s
  else if fld n 17 0 = 48 then execDirq (.ofNat 4 (fld n 25 22)) (.ofNat 4 (fld n 21 18)) s
  else if fld n 25 22 = 0 ∧ fld n 13 0 = 64 then execLinv (.ofNat 4 (fld n 21 18)) (.ofNat 4 (fld n 17 14)) s
  else if fld n 25 22 = 0 ∧ fld n 13 0 = 80 then execLwb (.ofNat 4 (fld n 21 18)) (.ofNat 4 (fld n 17 14)) s
  else execIllegalInstruction w s

theorem runMajor30_eq (n : Nat) (w : BitVec 32) (s : State) :
    runMajor30 n w s = execOption (decodeMajor30 n) w s := by
  simp only [decodeMajor30, execOption_ite]
  rfl

/-- Major 0x31 run from its fields. -/
def runMajor31 (n : Nat) (w : BitVec 32) (s : State) : Host.Outcome State Fault Refusal :=
  if fld n 13 0 = 0 then execLbias (.ofNat 4 (fld n 25 22)) (.ofNat 4 (fld n 21 18)) (.ofNat 4 (fld n 17 14)) s
  else if fld n 17 0 = 16 then execLstat (.ofNat 4 (fld n 25 22)) (.ofNat 4 (fld n 21 18)) s
  else execIllegalInstruction w s

theorem runMajor31_eq (n : Nat) (w : BitVec 32) (s : State) :
    runMajor31 n w s = execOption (decodeMajor31 n) w s := by
  simp only [decodeMajor31, execOption_ite]
  rfl

/-- Major 0x32 run from its fields. -/
def runMajor32 (n : Nat) (w : BitVec 32) (s : State) : Host.Outcome State Fault Refusal :=
  if fld n 17 0 = 0 then execNpost (.ofNat 4 (fld n 25 22)) (.ofNat 4 (fld n 21 18)) s
  else if fld n 9 0 = 16 then execNcwait (.ofNat 4 (fld n 25 22)) (.ofNat 4 (fld n 21 18)) (.ofNat 4 (fld n 17 14)) (.ofNat 4 (fld n 13 10)) s
  else if fld n 17 0 = 32 then execNcrd (.ofNat 4 (fld n 25 22)) (.ofNat 4 (fld n 21 18)) s
  else if fld n 9 0 = 48 then execNreg (.ofNat 4 (fld n 25 22)) (.ofNat 4 (fld n 21 18)) (.ofNat 4 (fld n 17 14)) (.ofNat 4 (fld n 13 10)) s
  else execIllegalInstruction w s

theorem runMajor32_eq (n : Nat) (w : BitVec 32) (s : State) :
    runMajor32 n w s = execOption (decodeMajor32 n) w s := by
  simp only [decodeMajor32, execOption_ite]
  rfl

/-- The word w run through the opcode map. -/
def runWord (w : BitVec 32) (s : State) : Host.Outcome State Fault Refusal :=
  if fld w.toNat 31 26 = 1 then runMajor01 w.toNat w s
  else if fld w.toNat 31 26 = 2 then runMajor02 w.toNat w s
  else if fld w.toNat 31 26 = 3 then runMajor03 w.toNat w s
  else if fld w.toNat 31 26 = 4 then runMajor04 w.toNat w s
  else if fld w.toNat 31 26 = 5 then runMajor05 w.toNat w s
  else if fld w.toNat 31 26 = 6 then runMajor06 w.toNat w s
  else if fld w.toNat 31 26 = 7 then runMajor07 w.toNat w s
  else if fld w.toNat 31 26 = 8 then runMajor08 w.toNat w s
  else if fld w.toNat 31 26 = 9 then runMajor09 w.toNat w s
  else if fld w.toNat 31 26 = 10 then runMajor0A w.toNat w s
  else if fld w.toNat 31 26 = 11 then runMajor0B w.toNat w s
  else if fld w.toNat 31 26 = 12 then runMajor0C w.toNat w s
  else if fld w.toNat 31 26 = 13 then runMajor0D w.toNat w s
  else if fld w.toNat 31 26 = 14 then runMajor0E w.toNat w s
  else if fld w.toNat 31 26 = 15 then runMajor0F w.toNat w s
  else if fld w.toNat 31 26 = 16 then runMajor10 w.toNat w s
  else if fld w.toNat 31 26 = 17 then runMajor11 w.toNat w s
  else if fld w.toNat 31 26 = 18 then runMajor12 w.toNat w s
  else if fld w.toNat 31 26 = 19 then runMajor13 w.toNat w s
  else if fld w.toNat 31 26 = 63 then runMajor3F w.toNat w s
  else if fld w.toNat 31 26 = 20 then runMajor14 w.toNat w s
  else if fld w.toNat 31 26 = 21 then runMajor15 w.toNat w s
  else if fld w.toNat 31 26 = 22 then runMajor16 w.toNat w s
  else if fld w.toNat 31 26 = 23 then runMajor17 w.toNat w s
  else if fld w.toNat 31 26 = 24 then runMajor18 w.toNat w s
  else if fld w.toNat 31 26 = 25 then runMajor19 w.toNat w s
  else if fld w.toNat 31 26 = 26 then runMajor1A w.toNat w s
  else if fld w.toNat 31 26 = 27 then runMajor1B w.toNat w s
  else if fld w.toNat 31 26 = 28 then runMajor1C w.toNat w s
  else if fld w.toNat 31 26 = 32 then runMajor20 w.toNat w s
  else if fld w.toNat 31 26 = 33 then runMajor21 w.toNat w s
  else if fld w.toNat 31 26 = 34 then runMajor22 w.toNat w s
  else if fld w.toNat 31 26 = 35 then runMajor23 w.toNat w s
  else if fld w.toNat 31 26 = 36 then runMajor24 w.toNat w s
  else if fld w.toNat 31 26 = 37 then runMajor25 w.toNat w s
  else if fld w.toNat 31 26 = 38 then runMajor26 w.toNat w s
  else if fld w.toNat 31 26 = 39 then runMajor27 w.toNat w s
  else if fld w.toNat 31 26 = 40 then runMajor28 w.toNat w s
  else if fld w.toNat 31 26 = 41 then runMajor29 w.toNat w s
  else if fld w.toNat 31 26 = 42 then runMajor2A w.toNat w s
  else if fld w.toNat 31 26 = 43 then runMajor2B w.toNat w s
  else if fld w.toNat 31 26 = 44 then runMajor2C w.toNat w s
  else if fld w.toNat 31 26 = 45 then runMajor2D w.toNat w s
  else if fld w.toNat 31 26 = 47 then runMajor2F w.toNat w s
  else if fld w.toNat 31 26 = 29 then runMajor1D w.toNat w s
  else if fld w.toNat 31 26 = 46 then runMajor2E w.toNat w s
  else if fld w.toNat 31 26 = 48 then runMajor30 w.toNat w s
  else if fld w.toNat 31 26 = 49 then runMajor31 w.toNat w s
  else if fld w.toNat 31 26 = 50 then runMajor32 w.toNat w s
  else execIllegalInstruction w s

@[csimp] theorem execWord_eq_runWord : @execWord = @runWord := by
  funext w s
  rw [execWord_eq_execOption]
  simp only [runWord, decodeNat, execOption_ite, runMajor01_eq, runMajor02_eq, runMajor03_eq, runMajor04_eq, runMajor05_eq, runMajor06_eq, runMajor07_eq, runMajor08_eq, runMajor09_eq, runMajor0A_eq, runMajor0B_eq, runMajor0C_eq, runMajor0D_eq, runMajor0E_eq, runMajor0F_eq, runMajor10_eq, runMajor11_eq, runMajor12_eq, runMajor13_eq, runMajor3F_eq, runMajor14_eq, runMajor15_eq, runMajor16_eq, runMajor17_eq, runMajor18_eq, runMajor19_eq, runMajor1A_eq, runMajor1B_eq, runMajor1C_eq, runMajor20_eq, runMajor21_eq, runMajor22_eq, runMajor23_eq, runMajor24_eq, runMajor25_eq, runMajor26_eq, runMajor27_eq, runMajor28_eq, runMajor29_eq, runMajor2A_eq, runMajor2B_eq, runMajor2C_eq, runMajor2D_eq, runMajor2F_eq, runMajor1D_eq, runMajor2E_eq, runMajor30_eq, runMajor31_eq, runMajor32_eq]
  rfl

end Sys2Proof.Machine
end

