-- ==== Sys2Proof/Machine/Turns.lean ====
section
/-! DEFINITION. A turn of a core (R52, R68, R163, R243, R300, R338), time that passes, and the device events that are
enabled in a state: what the schedule of log entry 4 is made of. -/
namespace Sys2Proof.Machine

/-! ### A slot's turn -/

/-- The word at the pc of slot k is fetched and executed; a fetch that fails ends as R52 and R337 say. -/
def issueMain (k : Nat) (s : State) : Out :=
  match fetchAt false k (s.thread k).pc s with
  | .ok (w, s) => execWord w (s.mapThread k (fun t =>
      { t with atVector := false, wait := match t.wait with | some (.yield _) => none | x => x }))
  | .error e => .next (fetchFault e s)

/-- The next word of slot k's repetition is executed with its stagger (R240). -/
def issueBody (k : Nat) (r : Rep) (s : State) : Out :=
  execWord (stagger (r.words.getD r.j 0) r.smask r.off)
    (s.mapThread k (fun t => { t with rep := some { r with issuing := true } }))

def issueStream (k : Nat) (body : Bool) (s : State) : Out :=
  match body, (s.thread k).rep with
  | true, some r => issueBody k r s
  | _, _ => issueMain k s

/-- A stream whose page request is answered with 0 starts its hint group over (R163). -/
def Thread.restart (t : Thread) (body : Bool) : Thread :=
  if body then
    { t with rep := t.rep.map (fun r => { r with wait := none, j := r.j - r.hints.count, hints := {} }) }
  else { t with wait := none, pc := t.resumePc, hints := {} }

/-- The page request of a stream is refused: XLATE at its instruction, one level up where that is a vector's first, which has
not been fetched (R163, R337). -/
def refusedPage (k : Nat) (body : Bool) (va : Nat) (s : State) : State :=
  let x : Trap := { cause := causeXlate, eaddr := BitVec.ofNat 64 va }
  if !body && (s.thread k).atVector then fetchFault (.trap x) s else trapNow k x s

/-- A stream of slot k issues: after a page request, an answer of 0 retries and any other takes XLATE (R163). -/
def resumeStream (k : Nat) (body : Bool) (s : State) : Out :=
  match (s.thread k).waitOf body with
  | some (.page n va) =>
    let p := s.partOf (clusterOf k)
    (match replyOf s p n with
      | some 0 => issueStream k body ((leaveRequest p n k s).mapThread k (fun t => t.restart body))
      | _ => .next (refusedPage k body va (withdraw k (leaveRequest p n k s))))
  | _ => issueStream k body s

/-- An event is taken; a waiting MWAIT completes before it (R205). -/
def takeNext (k : Nat) (e : Posted) (s : State) : State :=
  match (s.thread k).wait with
  | some (.monitor d _) => takeEvent k e (s.mapThread k (fun t => t.mwaitEnd d t.timedOut))
  | _ => takeEvent k e s

/-- A restored thread takes up its repetition at the point of rstate, or meets what an ERET there would (R246, R353). -/
def resumeSaved (k : Nat) (s : State) : State :=
  let resumed := fun (s : State) => s.mapThread k (fun t => { t with resumes := false })
  let retry := fun (s : State) =>
    match resumeRept s with
    | .ok s => resumed s
    | .error (.trap t) => stopAt (.trap t) (resumed s)
    | .error e => stopAt e s
  match (s.thread k).wait with
  | some (.page n va) =>
    let p := s.partOf (clusterOf k)
    let left := (leaveRequest p n k s).mapThread k (fun t => { t with wait := none })
    if replyOf s p n == some 0 then retry left else refusedPage k false va (resumed left)
  | _ => retry (s.mapThread k (fun t => { t with wait := none }))

/-- The turn of slot k: an unwinding that is due, else an event, else the instruction of a stream. Each of them counts as the
slot's issue for R68, and so does an instruction that parks or takes LAV: the rule speaks of issues alone (log entry 59). -/
def slotTurn (k : Nat) (s : State) : Out :=
  let s := noteIssue k { s with cur := k }
  if (s.thread k).unwindDue then .next (unwindStep k s)
  else match nextEvent (s.thread k) with
    | some e => .next (takeNext k e s)
    | none =>
      if (s.thread k).resumes then .next (resumeSaved k s)
      else match nextStream s k with
      | some body => resumeStream k body s
      | none => .next s

/-- An issue cycle of core n. -/
def coreTurn (n : Nat) (s : State) : Out :=
  match chooseSlot s n with
  | some k => slotTurn k s
  | none => .next s

/-! ### Time -/

/-- k fabric cycles on an island: what is left of its state and the island cycles among them (R441, R443). -/
def Island.elapse (i : Island) (k : Nat) : Island × Nat :=
  let removed := min k i.throttled
  let total := i.phase + (k - removed) * i.mhz
  ({ i with
      cap := if removed = 0 then i.cap - k else 1400 - (k - removed)
      throttled := i.throttled - removed, phase := total % 1400, cycles := i.cycles + total / 1400 }.ramped k,
    total / 1400)

/-- A wait after n island cycles. -/
def Wait.elapse (n : Nat) : Wait → Wait
  | .hold c => .hold (c - n)
  | .refused m b va => .refused m (b - n) va
  | .port m b va => .port m (b - n) va
  | .monitor d c => .monitor d (c.map (· - n))
  | .counter d c t l => .counter d c t (l.map (· - n))
  | w => w

/-- A wait whose time counts toward the wait limit of the instruction's request, from its first issue on (R194). -/
def Wait.counts : Wait → Bool
  | .fe _ | .refused _ _ _ | .page _ _ | .line _ _ _ | .way _ _ | .word _ _ | .port _ _ _ | .token _ _ => true
  | _ => false

/-- The timer after n island cycles (R327). -/
def Thread.elapseTimer (n : Nat) (t : Thread) : Thread :=
  if t.timer = 0 then t
  else if t.timer.toNat ≤ n then { t with timer := 0, timerDue := true }
  else { t with timer := t.timer - BitVec.ofNat 64 n }

/-- Charge and slice after n island cycles at level U (R344, R345). -/
def Thread.elapseCharge (n : Nat) (t : Thread) : Thread :=
  if t.level = 0 then
    { t with
      charge := t.charge + BitVec.ofNat 64 n
      slice := if t.sliceOn then setField t.slice 31 0 (t.remain - n) else t.slice }
  else t

/-- A thread after n island cycles in its slot (R194, R205, R304, R305, R327, R344, R345, R409). -/
def Thread.elapse (n : Nat) (t : Thread) : Thread :=
  if t.occupied then
    let t := (t.elapseTimer n).elapseCharge n
    { t with
      wait := t.wait.map (Wait.elapse n)
      waited := if t.wait.any Wait.counts then t.waited + n else t.waited
      rep := t.rep.map (fun r =>
        { r with wait := r.wait.map (Wait.elapse n), waited := if r.wait.any Wait.counts then r.waited + n else r.waited })
      unwind := t.unwind.map (fun u =>
        { u with budget := if u.running then u.budget - n else u.budget, grace := if u.orphan then u.grace - n else u.grace }) }
  else t

/-- A cluster after k fabric cycles, n of them island cycles (R234, R418). -/
def Cluster.elapse (k n : Nat) (i : Island) (c : Cluster) : Cluster :=
  { c with
    island := i
    deferral := c.deferral.map (· - k)
    ox := if !c.ox.leave then c.ox
      else { c.ox with leaveIdle := if c.ox.queue.all OxCmd.isFill then c.ox.leaveIdle + n else 0 } }

/-- A launch after k fabric cycles: the clock of R312 runs at the head of a priority. -/
def elapseLaunches (k : Nat) (ls : List Launch) : List Launch :=
  ls.map (fun l =>
    if l.left && ls.all (fun h => !h.left || h.prio != l.prio || decide (l.order ≤ h.order)) then
      { l with holdClock := l.holdClock + k }
    else l)

/-- k fabric cycles pass (R332, R443): clocks and counters run, nothing else happens. On a stopped device only `now`
advances. -/
def elapse (k : Nat) (s : State) : State :=
  if s.stopped then { s with now := s.now + k }
  else
    let s := s.parts.foldl (fun s e => if e.2.vacates.isEmpty then s else drained e.1 s) s
    let n := fun (c : Nat) => ((s.cluster c).island.elapse k).2
    let s := (yieldingCores s).foldl (fun s n => settleYields n none s) s
    { s with
      now := s.now + k
      threads := s.threads.mapVals (fun i t => if (s.part (s.partOf (clusterOf i))).halted then t else t.elapse (n (clusterOf i)))
      clusters := s.clusters.mapVals (fun _ c => c.elapse k (c.island.elapse k).2 (c.island.elapse k).1)
      parts := s.parts.mapVals (fun _ p => { p with launches := elapseLaunches k p.launches }) }

/-! ### The enabled events -/

/-- An event where a condition holds. -/
def enabled (c : Bool) (i : Instr) : List Instr := if c then [i] else []

/-- A stream of the slot waits for pending destinations (R44). -/
def Thread.waitsScoreboard (t : Thread) : Bool :=
  let waits := fun (w : Option Wait) => match w with | some (.scoreboard _ _ _) => true | _ => false
  waits t.wait || (match t.rep with | some r => waits r.wait | none => false)

/-- Events of a slot that are due; a long-latency result stays pending through its window and while nothing waits for it
(R44, R51, R70, R92, R194, R205, R304, R305, R327, R344, R409). -/
def slotEvents (s : State) (k : Nat) : List Instr :=
  let t := s.thread k
  let ws := t.wait.toList ++ (match t.rep with | some r => r.wait.toList | none => [])
  enabled (ws.contains (.hold 0)) (.holdExpiry k)
    ++ enabled (ws.any (fun w => match w with | .refused _ 0 _ => true | _ => false)) (.feRefusalRetry k)
    ++ enabled ((exhaustedStream s k false).isSome || (exhaustedStream s k true).isSome) (.feretry k)
    ++ enabled (ws.any (fun w => match w with | .fetch _ => true | _ => false)) (.fetchMissFill k)
    ++ enabled (ws.any (fun w => match w with | .monitor _ (some 0) => true | _ => false)) (.mwaitTimeout k)
    ++ enabled (ws.any (fun w => match w with | .counter _ _ _ (some 0) => true | _ => false)) (.ncwaitTimeout k)
    ++ enabled (ws.contains .icinv) (.icinvComplete k)
    ++ enabled ((t.pending.find? (fun p => p.register && !p.divide)).any (fun p => p.window == 0 || t.waitsScoreboard))
        (.longLatencyComplete k)
    ++ enabled t.budgetOver (.unwindBudgetExpiry k)
    ++ enabled t.graceOver (.callergone k)
    ++ enabled t.timerDue (.timerExpiry k)
    ++ enabled (t.sliceOn && t.remain == 0) (.sliceExpiry k)

/-- Events of a core (R78, R189). -/
def coreEvents (s : State) (n : Nat) : List Instr :=
  enabled (match (s.core n).divides with
      | j :: _ => (s.thread (8 * n + j)).pending.any (fun p => p.divide && p.window == 0)
          || (List.range 8).any (fun i => (s.thread (8 * n + i)).waitsScoreboard)
      | [] => false) (.divideComplete n)
    ++ enabled (!(s.core n).incoming.isEmpty) (.migrationArrival n)
    ++ enabled (!(s.core n).arrivals.isEmpty && (freeSlot s n).isSome) (.arrivalDequeue n)

/-- Events of a cluster: the Ox, the Mule, leave, the dispatcher, vacates. -/
def clusterEvents (s : State) (c : Nat) : List Instr :=
  let cl := s.cluster c
  let x := cl.ox
  let vs := (s.part (s.partOf c)).vacates
  enabled (nextCmd OxCmd.isFill [] x.queue).isSome (.latchFillComplete c)
    ++ enabled (x.nextMma.isSome && x.leave) (.mmaStart c)
    ++ enabled (x.queue.any (fun d => match d with | .mma _ _ _ _ _ _ st => st | .fill .. => false)) (.mmaComplete c)
    ++ enabled (!x.transfers.isEmpty) (.accumTransferComplete c)
    ++ enabled (oxAsksLeave x || cl.mule.any (fun m => m.leave == 1) || (postWaiting s c).isSome) (.leaveGrant c)
    ++ enabled (x.leave && x.queue.all OxCmd.isFill && decide (256 ≤ x.leaveIdle)) (.leaveHoldExpiry c)
    ++ enabled (!cl.mule.isEmpty) (.muleChunk c)
    ++ enabled (cl.mule.any (fun m => m.status.isSome)) (.muleCommandComplete c)
    ++ enabled (decide (cl.forecastAt + 1400 ≤ s.now)) (.forecastUpdate c (Config.forecast c s.now))
    ++ enabled (dispatching s c && (chooseLaunch s (s.partOf c) c).isSome) (.launchDispatch c)
    ++ enabled (vs.any (fun v => v.clusters.any (fun y => y.cluster == c && y.draining && decide (y.since + v.deadline ≤ s.now))))
        (.drainDeadlineExpiry c)
    ++ enabled (match cl.deferral with | some n => n == 0 || !critical s (s.partOf c) c | none => false) (.critDeferralExpiry c)

/-- Events of a partition: page requests and notices, launches and units, Steppe, vacate reports. -/
def partEvents (s : State) (p : Nat) : List Instr :=
  let q := s.part p
  enabled (q.requests.any (fun r => !r.posted) || !q.notices.isEmpty) (.pageRequestDeferredPost p)
    ++ enabled (q.launches.any (fun l => l.left && !l.held && decide (holdLimit s p < l.holdClock))) (.holdLimitExpiry p)
    ++ ((s.units.filter (fun e => e.2.part == p && !e.2.saved && !unitBusy s e.1)).map
        (fun e => Instr.workUnitComplete p e.2.launch e.1))
    ++ ((q.launches.filter (fun l => l.completing != 0 || (l.killed && !s.units.any (fun e => e.2.launch == l.key)))).map
        (fun l => Instr.workUnitComplete p l.key s.serial))
    ++ enabled (steppeDue s p) (.packetSend p)
    ++ (expiredTimers s p).map (fun e => Instr.retransmitTimerExpiry p e.1 e.2)
    ++ enabled (q.vacates.any (fun v => v.clusters.all (·.done v.accepted s.now) || v.clusters.any (fun x =>
        x.saving.isSome && !savePosted s x.cluster v.whole))) (.vacateReport p)

/-- Events of a host function: entries of its queue (R434). -/
def hostEvents (s : State) (fn : Nat) : List Instr :=
  let f := s.hostFn fn
  if f.bound.isSome && f.qstate == 0 && f.keyed && f.qrd != f.qwr then [.hostqLaunch fn, .hostqDepdec fn, .hostqStff fn] else []

/-- Events of a bundle (R394, R398): groups that send, flits that arrive, turns that start and end, the audit of every 4,096
link clocks. -/
def bundleEvents (s : State) (n : Nat) : List Instr :=
  let b := s.bundle n
  enabled (!b.queue.isEmpty) (.turnStart n)
    ++ (b.turning.filter (fun t => match t.2.2 with | some c => decide (c ≤ s.linkClock) | none => false)).map (fun t => Instr.turnEnd n t.1)
    ++ ((b.flight.map (fun x => (x.1, x.2.up))).eraseDups).map (fun x => Instr.flitArrival n x.1 x.2)
    ++ (if b.waiting.isEmpty && b.due.isEmpty && b.ackDue.isEmpty then []
        else List.replicate (s.linkClock + 1 - s.sendClock b) (.flitSend n))
    ++ enabled (s.auditDue b) (.creditAudit n)

/-- Slices with a bucket that is not full or has requests set aside (R422, R423). -/
def meteredSlices (s : State) : List Nat := ((s.tokens.map (·.1) ++ s.deferred.map (·.1)).map (· / 32)).eraseDups

/-- The events that a state makes due without anything from outside the device or its firmware. -/
def enabledEvents (s : State) : List Instr :=
  if s.stopped then []
  else
    (s.threads.map (fun e => slotEvents s e.1)).flatten
      ++ (s.cores.map (fun e => coreEvents s e.1)).flatten
      ++ (s.clusters.map (fun e => clusterEvents s e.1)).flatten
      ++ (s.parts.map (fun e => partEvents s e.1)).flatten
      ++ (s.hostFns.map (fun e => hostEvents s e.1)).flatten
      ++ (s.bundles.map (fun e => bundleEvents s e.1)).flatten
      ++ s.checks.map (fun e => Instr.integrityCheckComplete e.1 (Config.blockIntact e.1 s.now))
      ++ ((meteredSlices s).filter (refillDue s)).map Instr.tokenRefill
      ++ enabled (borderDue s && !(livePartitions s).isEmpty) .borderControllerRun
      ++ s.coreRequests
      ++ (s.pageClear.filter (fun e => e.2 == 1)).map (fun e => Instr.freshPageClearComplete e.1)
      ++ (s.rsvQueues.filter (fun e => match grantedTo s e.1 with
          | some k => (match (s.thread k).rsv with | some r => decide (4096 < s.now - r.since) | none => false)
          | none => false)).map (fun e => Instr.reservationTimeout e.1)

/-- The cores that have a slot to issue, ascending. -/
def issuingCores (s : State) : List Nat :=
  ((s.threads.map (fun e => coreOf e.1)).eraseDups).filter (fun n => (chooseSlot s n).isSome)

/-- One fabric cycle of the device's own schedule (log entry 4): every core that can issues, then every enabled event
comes about, then the cycle ends. -/
def cycleTurns (s : State) : List Turn :=
  (issuingCores s).map Turn.core ++ (enabledEvents s).map Turn.event ++ [.elapse 1]

/-- What still comes about on a stopped device: resets, and what function 0's registers and mailbox answer (R440, R444). -/
def whileStopped : Instr → Bool
  | .coldReset | .fundamentalReset => true
  | .qwr fn _ | .qbase fn _ | .qsize fn _ | .getVersion fn | .getCapabilities fn | .negotiateAlgorithms fn | .getDigests fn
  | .getCertificate fn | .challenge fn _ | .getMeasurements fn _ | .keyExchange fn | .finish fn | .heartbeat fn | .keyUpdate fn
  | .endSession fn => fn == 0
  | .hostBar2Access fn _ _ _ => fn == 0
  | _ => false

/-- One turn of the schedule. -/
def runTurn (t : Turn) (s : State) : Out :=
  match t with
  | .core n => coreTurn n s
  | .elapse k => .next (elapse k s)
  | .event i =>
    if !i.isEvent || !i.wellFormed then .refused .illFormedTurn
    else if s.stopped && !whileStopped i then .next s else exec i s

end Sys2Proof.Machine
end

