-- ==== Sys2Proof/Machine/Step.lean ====
section
/-! DEFINITION. One step of the machine: the next turn of the agenda, or of the device's own schedule where the agenda
is empty (log entry 4); and an instruction placed where the next step runs it (log entry 6). -/
namespace Sys2Proof.Machine

def step (s : State) : Host.Outcome State Fault Refusal :=
  match s.agenda with
  | t :: r => runTurn t { s with agenda := r }
  | [] =>
    if s.stopped then .fault .deviceStopped
    else match cycleTurns s with
      | t :: r => runTurn t { s with agenda := r }
      | [] => .next s

/-- The instruction whose bits are w placed where the next step runs it. -/
def State.withFetchWord (s : State) (nbits w : Nat) : State := s.withProgram nbits w

end Sys2Proof.Machine
end

