-- ==== Sys2Proof/Safety.lean ====
section
/-! DEFINITION. What counts as a safe run, in the terms that claims use: when an instruction of the current slot has
nothing before it, what its completion leaves of the thread, the canonical form, what stays outside a thread. -/
namespace Sys2Proof.Machine

/-- The current slot issues from its main stream with nothing before it: no repetition is active, nothing is pending
(R44), window mode is off (R331), no release-side FENCE holds it (R274), and its hint group is one that an instruction which accepts `acc` may have (R46-R51). -/
structure Clear (acc : Accept) (s : State) : Prop where
  main : s.thr.rep = none
  idle : s.thr.pending = []
  plain : s.thr.winMode = false
  group : s.thr.hints.legal acc = true
  free : fencedBy s s.cur = false

/-- The thread once an instruction of its main stream has completed and the stream goes on at pc: the hint group is
used up and nothing is left of what its access waited for. Nothing else differs. -/
def Thread.wentTo (t : Thread) (pc : Word) : Thread :=
  { t with pc := pc, hints := {}, wait := none, refusals := 0, waited := 0, paid := [], noTravel := false }

/-- The thread at its next word. -/
def Thread.wentOn (t : Thread) : Thread := t.wentTo (t.pc + 4)

/-- The thread with a result pending under a window of n instructions (R44), at its next word. -/
def Thread.owes (t : Thread) (dest : Dest) (value : Vec) (n : Nat) (divide : Bool) : Thread :=
  { t.wentOn with pending := [{ dest := dest, value := value, window := n, at_ := t.pc, divide := divide }] }

/-- The thread in the middle of a wait: its instruction has not completed. -/
def Thread.waits (t : Thread) (w : Wait) : Thread := { t with wait := some w }

/-- The instruction completes, and of the whole device only the current slot's thread differs: it is th. -/
def Gives (i : Instr) (s : State) (th : Thread) : Prop := exec i s = .next (s.setThr th)

/-- The stream of the current slot that issues keeps no place among the accesses that wait behind a grant (R211). -/
def State.Unheld (s : State) : Prop := ∀ e ∈ s.held, e.2.any (fun x => x.isStream (s.cur, s.thr.inBody)) = false

/-- The instruction takes a trap at its hint group, and does nothing else (R52, R336). -/
def Traps (i : Instr) (s : State) (x : Trap) : Prop := s.Unheld → exec i s = .next (trap s.cur x s)

/-- The instruction takes its slot out of the rotation, and does nothing else (R70). -/
def Waits (i : Instr) (s : State) (w : Wait) : Prop := s.Unheld → Gives i s (s.thr.waits w)

/-- From s to t the instruction cache of core n may have taken in blocks; nothing else differs. -/
def CachedIn (n : Nat) (s t : State) : Prop :=
  t = s ∨ t = s.setCore n { s.core n with icache := (t.core n).icache, victims := (t.core n).victims }

/-- The same bytes, descriptors and full/empty states at every address. -/
def SameMemory (s t : State) : Prop :=
  (∀ a, Memory.get t.mem a = Memory.get s.mem a) ∧ ∀ b, t.side.get 0 b = s.side.get 0 b

/-- The same thread in every slot but the current one of s. -/
def SameOthers (s t : State) : Prop := ∀ k, k ≠ s.cur → t.thread k = s.thread k

/-- Memory and host memory are in their canonical form. -/
def State.Canonical (s : State) : Prop := Memory.wf s.mem = true ∧ Memory.wf s.hostMem = true

/-- The outcome of a meaning or a step, where it is a next state, satisfies P. -/
def Keeps (P : State → Prop) (o : Out) : Prop := ∀ t, o = .next t → P t

/-- n bytes at va lie in the local window of the current slot, which is open to it: it is at depth 0 in its home
cluster, the range is inside its allocation (R152), no stash entry stands in the cluster (R178), and the memory system refuses
none of them to level F (R431). -/
structure LocalRange (s : State) (va n : Nat) : Prop where
  low : localBase ≤ va
  inside : va - localBase + n ≤ s.thr.splen
  pos : 0 < n
  device : s.cur < 16384
  room : s.thr.spbase + s.thr.splen ≤ 0x400000
  depth : s.thr.depth = 0
  home : s.thr.home = clusterOf s.cur
  slot : localSlot s.cur ≠ 7 ∨ s.thr.level = 0
  stash : (s.cluster (clusterOf s.cur)).stash = []
  conf : s.thr.level = 2 → ∀ i < n, s.confRefused (scratchBase (clusterOf s.cur) + s.thr.spbase + (va - localBase) + i) = false

/-- No word is reserved or awaited anywhere, so no access is held back (R211). -/
def State.Unreserved (s : State) : Prop := s.rsvQueues = [] ∧ s.held = []

/-- The physical address of a local-window address of the current slot (R152, R153). -/
def State.localPa (s : State) (va : Nat) : Nat := scratchBase (clusterOf s.cur) + s.thr.spbase + (va - localBase)

/-- The number that n bytes of memory at the physical addresses from pa on hold, little-endian. -/
def State.byteNat (s : State) (pa n : Nat) : Nat := ofBytes ((List.range n).map (fun i => Memory.get s.mem (pa + i)))

/-- The 64-bit words of the n bytes of memory at the physical address pa; 0 beyond them. -/
def State.wordsAt (s : State) (pa n i : Nat) : Word :=
  BitVec.ofNat 64 (ofBytes ((((List.range n).map (fun j => Memory.get s.mem (pa + j))).drop (8 * i)).take 8))

/-- A thread with the monitor flags that a write of a line may set (R204); nothing else differs. -/
def Thread.watched (t u : Thread) : Thread := { t with monitors := u.monitors, wakePending := u.wakePending }

/-- From s to t the bytes at pa became l, and of the slots' threads only monitor flags and, in the current slot, what
`th` says changed: no other byte, no descriptor and no full/empty state. -/
structure Stored (s t : State) (pa : Nat) (l : List Byte) (th : Thread) : Prop where
  bytes : ∀ i < l.length, Memory.get t.mem (pa + i) = l.getD i 0
  others : ∀ a, a < pa ∨ pa + l.length ≤ a → Memory.get t.mem a = Memory.get s.mem a
  side : ∀ b, t.side.get 0 b = s.side.get 0 b
  mine : t.thr = th.watched t.thr
  threads : ∀ k, k ≠ s.cur → t.thread k = (s.thread k).watched (t.thread k)

/-- Slot k's main stream goes on after the word at which it waited, with its registers as they were. -/
def Resumes (s t : State) (k : Nat) : Prop :=
  (t.thread k).wait = none ∧ (t.thread k).pc = (s.thread k).pc + 4 ∧ (t.thread k).g = (s.thread k).g ∧
    (t.thread k).v = (s.thread k).v ∧ (t.thread k).tstat = (s.thread k).tstat

end Sys2Proof.Machine
end

