-- ==== Sys2Proof/Certificates/Slice0/Obligations.lean ====
section
/-! DEFINITION. The statements for the provers. Each docstring names the rules it follows; where a statement rests on a
choice of the model it names the log entry. -/
section
open Sys2Proof Sys2Proof.Machine

/-! ### Scalar instructions and branches (04) -/

/-- R74-R76: every instruction of major 0x01 acts on operands of N bits, N = 32 with W and 64 otherwise, and writes its
N-bit result sign-extended to 64 bits. A write of g0 is discarded (R72). Nothing else of the device changes. -/
def Obligations.ScalarResults : Prop :=
  ∀ (s : State) (d a b c : Reg) (w : Bool), Clear {} s →
    let n := width w
    let x : BitVec n := (s.rg a).setWidth n
    let y : BitVec n := (s.rg b).setWidth n
    let z : BitVec n := (s.rg c).setWidth n
    let old : BitVec n := (s.rg d).setWidth n
    let k := y.toNat % n
    let len := min (min z.toNat n) (n - k)
    let mask : BitVec n := BitVec.ofNat n (2 ^ len - 1)
    let done (i : Instr) (r : BitVec n) : Prop := Gives i s (s.thr.wg d (r.signExtend 64)).wentOn
    done (.add d a b w) (x + y) ∧ done (.sub d a b w) (x - y) ∧ done (.and d a b w) (x &&& y) ∧
    done (.or d a b w) (x ||| y) ∧ done (.xor d a b w) (x ^^^ y) ∧ done (.andn d a b w) (x &&& ~~~y) ∧
    done (.orn d a b w) (x ||| ~~~y) ∧ done (.shl d a b w) (x <<< k) ∧ done (.shr d a b w) (x >>> k) ∧
    done (.sra d a b w) (x.sshiftRight k) ∧ done (.rol d a b w) (x.rotateLeft k) ∧ done (.ror d a b w) (x.rotateRight k) ∧
    done (.min d a b w) (if x.toInt < y.toInt then x else y) ∧ done (.max d a b w) (if y.toInt < x.toInt then x else y) ∧
    done (.minn d a b w) (if x.toNat < y.toNat then x else y) ∧ done (.maxn d a b w) (if y.toNat < x.toNat then x else y) ∧
    done (.slt d a b w) (if x.toInt < y.toInt then 1 else 0) ∧ done (.sltn d a b w) (if x.toNat < y.toNat then 1 else 0) ∧
    done (.seq d a b w) (if x = y then 1 else 0) ∧ done (.sne d a b w) (if x = y then 0 else 1) ∧
    done (.mul d a b w) (x * y) ∧ done (.mulh d a b w) (BitVec.ofInt n (x.toInt * y.toInt / 2 ^ n)) ∧
    done (.mulhn d a b w) (BitVec.ofNat n (x.toNat * y.toNat / 2 ^ n)) ∧
    done (.clz d a w) (BitVec.ofNat n ((List.range n).takeWhile (fun i => !x.getMsbD i)).length) ∧
    done (.ctz d a w) (BitVec.ofNat n ((List.range n).takeWhile (fun i => !x.getLsbD i)).length) ∧
    done (.popc d a w) (BitVec.ofNat n ((List.range n).filter (fun i => x.getLsbD i)).length) ∧
    done (.brev d a w) x.reverse ∧
    done (.bswap d a w) (BitVec.ofNat n (ofBytes (toBytes (n / 8) x.toNat).reverse)) ∧
    done (.sel d a b c w) (if z = 0 then y else x) ∧ done (.extr d a b c w) ((x >>> k) &&& mask) ∧
    done (.extrs d a b c w) (((x >>> k).setWidth len).signExtend n) ∧
    done (.insb d a b c w) ((old &&& ~~~(mask <<< k)) ||| ((x &&& mask) <<< k))

/-- R77, R78: a divide whose core's divider has room for it joins the divider's queue at its end and leaves the result
owed under its window: no input traps, the quotient rounds toward zero, the remainder takes the sign of the dividend, and a
division by zero gives all ones or the dividend. The oldest divide of a core completes by writing its destination. -/
def Obligations.DivideResults : Prop :=
  (∀ (s : State) (d a b : Reg) (l : BitVec 4) (w : Bool), Clear {} s → (s.core (coreOf s.cur)).divides.length < 8 →
    let n := width w
    let x : BitVec n := (s.rg a).setWidth n
    let y : BitVec n := (s.rg b).setWidth n
    let c := s.core (coreOf s.cur)
    let queued := s.setCore (coreOf s.cur) { c with divides := c.divides ++ [localSlot s.cur] }
    let done (i : Instr) (r : BitVec n) : Prop :=
      exec i s = .next (queued.setThr (s.thr.owes (.gen d) ((r.signExtend 64).setWidth 128) l.toNat true))
    done (.div d a b l w) (if y = 0 then BitVec.allOnes n else BitVec.ofInt n (x.toInt.tdiv y.toInt)) ∧
    done (.divn d a b l w) (if y = 0 then BitVec.allOnes n else BitVec.ofNat n (x.toNat / y.toNat)) ∧
    done (.rem d a b l w) (if y = 0 then x else BitVec.ofInt n (x.toInt.tmod y.toInt)) ∧
    done (.remn d a b l w) (if y = 0 then x else BitVec.ofNat n (x.toNat % y.toNat))) ∧
  (∀ (s : State) (n j : Nat) (rest : List Nat) (p : Pending) (d : Reg), (s.core n).divides = j :: rest →
    (s.thread (8 * n + j)).pending = [p] → p.divide = true → p.dest = .gen d →
    ∃ t, exec (.divideComplete n) s = .next t ∧ (t.core n).divides = rest ∧
      t.thread (8 * n + j) = { (s.thread (8 * n + j)).wg d (p.value.setWidth 64) with pending := [] } ∧
      SameMemory s t)

/-- R79, R80: the I-format instructions, with the immediate that the hint group widens (R47); LPC counts from its own
address. The constant shifts accept no HIMM. -/
def Obligations.ImmediateResults : Prop :=
  ∀ (s : State) (d a : Reg) (i : BitVec 18) (k : BitVec 6),
    let x := s.rg a
    let done (j : Instr) (r : Word) : Prop := Gives j s (s.thr.wg d r).wentOn
    (Clear { himm := true } s →
      let imm : Word :=
        match s.thr.hints.himms with
        | [] => i.signExtend 64
        | [p] => (p ++ i).signExtend 64
        | p :: q :: _ => p.extractLsb' 0 22 ++ q ++ i
      done (.addi d a i) (x + imm) ∧ done (.andi d a i) (x &&& imm) ∧ done (.ori d a i) (x ||| imm) ∧
      done (.xori d a i) (x ^^^ imm) ∧ done (.slti d a i) (if x.toInt < imm.toInt then 1 else 0) ∧
      done (.sltni d a i) (if x.toNat < imm.toNat then 1 else 0) ∧ done (.li d i) imm ∧
      done (.lpc d i) (s.thr.pc + imm * 4) ∧ done (.muli d a i) (x * imm)) ∧
    (Clear {} s →
      done (.shli d a k) (x <<< k.toNat) ∧ done (.shri d a k) (x >>> k.toNat) ∧
      done (.srai d a k) (x.sshiftRight k.toNat) ∧ done (.roli d a k) (x.rotateLeft k.toNat))

/-- R81, R82, R86: a branch goes by its displacement in words where its condition holds and to the next word otherwise, writes
no register and takes no hint but LIKELY, which may bring a block into the instruction cache of the core and changes nothing
else.
R83, R84: jumps. JL and JLR write the address after themselves; JLR reads its target first; a target that is not
4-aligned takes ALIGN at the instruction with eaddr = the target and writes no link. -/
def Obligations.ControlFlowResults : Prop :=
  (∀ (s : State) (a b : Reg) (i : BitVec 14) (j : BitVec 18), Clear { likely := true } s →
     let x := s.rg a
     let y := s.rg b
     let done (n : Instr) (c : Prop) (dst : Word) : Prop :=
       ∃ t, CachedIn (coreOf s.cur) s t ∧ (field s.thr.hints.hmod 8 7 = 0 → t = s) ∧
         (c → exec n s = .next (t.setThr (s.thr.wentTo dst))) ∧ (¬c → exec n s = .next (t.setThr s.thr.wentOn))
     let done14 (n : Instr) (c : Prop) : Prop := done n c (s.thr.pc + i.signExtend 64 * 4)
     let done18 (n : Instr) (c : Prop) : Prop := done n c (s.thr.pc + j.signExtend 64 * 4)
     done14 (.beq a b i) (x = y) ∧ done14 (.bne a b i) (x ≠ y) ∧ done14 (.blt a b i) (x.toInt < y.toInt) ∧
     done14 (.bge a b i) (y.toInt ≤ x.toInt) ∧ done14 (.bltn a b i) (x.toNat < y.toNat) ∧
     done14 (.bgen a b i) (y.toNat ≤ x.toNat) ∧
     done18 (.beqz a j) (x.toInt = 0) ∧ done18 (.bnez a j) (x.toInt ≠ 0) ∧ done18 (.bltz a j) (x.toInt < 0) ∧
     done18 (.bgez a j) (0 ≤ x.toInt) ∧ done18 (.bgtz a j) (0 < x.toInt) ∧ done18 (.blez a j) (x.toInt ≤ 0)) ∧
  (∀ (s : State) (d a : Reg) (i : BitVec 26), Clear {} s →
     Gives (.j i) s (s.thr.wentTo (s.thr.pc + i.signExtend 64 * 4)) ∧
     Gives (.jl i) s ((s.thr.wg 15 (s.thr.pc + 4)).wentTo (s.thr.pc + i.signExtend 64 * 4)) ∧
     ((s.rg a).toNat % 4 = 0 →
       Gives (.jr a) s (s.thr.wentTo (s.rg a)) ∧ Gives (.jlr d a) s ((s.thr.wg d (s.thr.pc + 4)).wentTo (s.rg a))) ∧
     ((s.rg a).toNat % 4 ≠ 0 →
       Traps (.jr a) s { cause := 3, eaddr := s.rg a } ∧ Traps (.jlr d a) s { cause := 3, eaddr := s.rg a }))

/-! ### Packed vectors (05, 06) -/

/-- R93-R95, R101: every elementwise instruction of major 0x14 computes each active element of w bytes from the elements
of v[a] and v[b] and keeps every inactive element of v[d]; it sets VX (R96) and no other state. SAT of the hint group
saturates VADD, VSUB, VMUL, VSHL and VABS as signed.
R102: VDOT4 and VDOT4N add the four byte products of a 32-bit element to its accumulator in v[d]; the sum is exact
before the final wrap, or clamp with SAT. -/
def Obligations.VectorIntegerResults : Prop :=
  (∀ (s : State) (d a b : Reg) (m w : BitVec 2),
     let n := 8 * 2 ^ w.toNat
     let el (x : Vec) (e : Nat) : BitVec n := x.extractLsb' (n * e) n
     let on (e : Nat) : Bool := (s.thr.rm m).getLsbD (n / 8 * e)
     let done (i : Instr) (f : BitVec n → BitVec n → BitVec n) : Prop :=
       ∃ x : Vec, Gives i s ((s.thr.withVx true).wv d x).wentOn ∧ ∀ e < 128 / n,
         el x e = if on e then f (el (s.thr.rv a) e) (el (s.thr.rv b) e) else el (s.thr.rv d) e
     let clamp (z : Int) : BitVec n := BitVec.ofInt n (max (-2 ^ (n - 1)) (min (2 ^ (n - 1) - 1) z))
     let clampN (z : Int) : BitVec n := BitVec.ofInt n (max 0 (min (2 ^ n - 1) z))
     (Clear { sat := true } s →
       let sat : Bool := s.thr.hints.hmod.getLsbD 20
       done (.vadd d a b m w) (fun x y => if sat then clamp (x.toInt + y.toInt) else x + y) ∧
       done (.vsub d a b m w) (fun x y => if sat then clamp (x.toInt - y.toInt) else x - y) ∧
       done (.vmul d a b m w) (fun x y => if sat then clamp (x.toInt * y.toInt) else x * y) ∧
       done (.vshl d a b m w) (fun x y => if sat then clamp (x.toInt * 2 ^ (y.toNat % n)) else x <<< (y.toNat % n)) ∧
       done (.vabs d a m w) (fun x _ => if sat then clamp x.toInt.natAbs else BitVec.ofInt n x.toInt.natAbs)) ∧
     (Clear {} s →
       done (.vadds d a b m w) (fun x y => clamp (x.toInt + y.toInt)) ∧
       done (.vaddsn d a b m w) (fun x y => clampN (x.toNat + y.toNat)) ∧
       done (.vsubs d a b m w) (fun x y => clamp (x.toInt - y.toInt)) ∧
       done (.vsubsn d a b m w) (fun x y => clampN (x.toNat - y.toNat : Int)) ∧
       done (.vmulh d a b m w) (fun x y => BitVec.ofInt n (x.toInt * y.toInt / 2 ^ n)) ∧
       done (.vmulhn d a b m w) (fun x y => BitVec.ofNat n (x.toNat * y.toNat / 2 ^ n)) ∧
       done (.vmin d a b m w) (fun x y => if x.toInt ≤ y.toInt then x else y) ∧
       done (.vmax d a b m w) (fun x y => if x.toInt ≤ y.toInt then y else x) ∧
       done (.vminn d a b m w) (fun x y => if x.toNat ≤ y.toNat then x else y) ∧
       done (.vmaxn d a b m w) (fun x y => if x.toNat ≤ y.toNat then y else x) ∧
       done (.vand d a b m w) (fun x y => x &&& y) ∧ done (.vor d a b m w) (fun x y => x ||| y) ∧
       done (.vxor d a b m w) (fun x y => x ^^^ y) ∧ done (.vandn d a b m w) (fun x y => x &&& ~~~y) ∧
       done (.vshr d a b m w) (fun x y => x >>> (y.toNat % n)) ∧
       done (.vsra d a b m w) (fun x y => x.sshiftRight (y.toNat % n)) ∧
       done (.vavg d a b m w) (fun x y => BitVec.ofInt n ((x.toInt + y.toInt + 1) / 2)) ∧
       done (.vavgn d a b m w) (fun x y => BitVec.ofNat n ((x.toNat + y.toNat + 1) / 2)))) ∧
  (∀ (s : State) (d a b : Reg) (m : BitVec 2), Clear { sat := true } s →
     let el (x : Vec) (e : Nat) : BitVec 32 := x.extractLsb' (32 * e) 32
     let byte (x : Vec) (k : Nat) : BitVec 8 := x.extractLsb' (8 * k) 8
     let sat : Bool := s.thr.hints.hmod.getLsbD 20
     let x := s.thr.rv a
     let y := s.thr.rv b
     let done (i : Instr) (lo hi : Int) (sum : Nat → Int) : Prop :=
       ∃ r : Vec, Gives i s ((s.thr.withVx true).wv d r).wentOn ∧ ∀ e < 4,
         el r e = if (s.thr.rm m).getLsbD (4 * e) then
             BitVec.ofInt 32 (if sat then max lo (min hi (sum e)) else sum e)
           else el (s.thr.rv d) e
     done (.vdot4 d a b m) (-2 ^ 31) (2 ^ 31 - 1) (fun e => (el (s.thr.rv d) e).toInt +
       (byte x (4 * e)).toInt * (byte y (4 * e)).toInt + (byte x (4 * e + 1)).toInt * (byte y (4 * e + 1)).toInt +
       (byte x (4 * e + 2)).toInt * (byte y (4 * e + 2)).toInt + (byte x (4 * e + 3)).toInt * (byte y (4 * e + 3)).toInt) ∧
     done (.vdot4n d a b m) 0 (2 ^ 32 - 1) (fun e => ((el (s.thr.rv d) e).toNat +
       (byte x (4 * e)).toNat * (byte y (4 * e)).toNat + (byte x (4 * e + 1)).toNat * (byte y (4 * e + 1)).toNat +
       (byte x (4 * e + 2)).toNat * (byte y (4 * e + 2)).toNat +
       (byte x (4 * e + 3)).toNat * (byte y (4 * e + 3)).toNat : Nat)))

/-- R94, R103: a compare writes all the bits of each element of the mask register m[d]: 1 where the element is active and
the comparison holds, 0 otherwise. A write of m0 is discarded. -/
def Obligations.VectorCompareResults : Prop :=
  ∀ (s : State) (d : BitVec 2) (a b : Reg) (m w : BitVec 2), Clear {} s →
    let n := 8 * 2 ^ w.toNat
    let el (x : Vec) (e : Nat) : BitVec n := x.extractLsb' (n * e) n
    let done (i : Instr) (c : BitVec n → BitVec n → Prop) : Prop :=
      ∃ x : Mask, Gives i s ((s.thr.withVx true).wm d x).wentOn ∧ ∀ j < 16,
        x.getLsbD j = true ↔ ((s.thr.rm m).getLsbD (n / 8 * (j / (n / 8))) = true ∧
          c (el (s.thr.rv a) (j / (n / 8))) (el (s.thr.rv b) (j / (n / 8))))
    done (.vcmpeq d a b m w) (fun x y => x = y) ∧ done (.vcmplt d a b m w) (fun x y => x.toInt < y.toInt) ∧
    done (.vcmpltn d a b m w) (fun x y => x.toNat < y.toNat)

/-- R101 (VSEL), R116, R118 (VSPLAT, VINS, VMOV): each active element i of v[d] becomes the element that the table names;
k = 128 / n elements. Inactive elements keep their values.
R116: VCOMPRESS moves the active elements in ascending order to the lowest elements and zeroes the rest. -/
def Obligations.VectorMoveResults : Prop :=
  (∀ (s : State) (d a b c : Reg) (h : Bool) (m w : BitVec 2), Clear {} s →
     let n := 8 * 2 ^ w.toNat
     let k := 128 / n
     let el (x : Vec) (e : Nat) : BitVec n := x.extractLsb' (n * e) n
     let x := s.thr.rv a
     let y := s.thr.rv b
     let z := s.thr.rv c
     let old := s.thr.rv d
     let g := (s.rg b).toNat % k
     let done (i : Instr) (f : Nat → BitVec n) : Prop :=
       ∃ r : Vec, Gives i s ((s.thr.withVx true).wv d r).wentOn ∧ ∀ e < k,
         el r e = if (s.thr.rm m).getLsbD (n / 8 * e) then f e else el old e
     done (.vsel d a b c m w) (fun e => if el z e = 0 then el y e else el x e) ∧
     done (.vshuf d a b c m w) (fun e =>
       let j := (el y e).toNat % (2 * k)
       if j < k then el x j else el z (j - k)) ∧
     done (.vzip d a b h m w) (fun e =>
       let j := e / 2 + if h then k / 2 else 0
       if e % 2 = 0 then el x j else el y j) ∧
     done (.vunzip d a b h m w) (fun e =>
       let j := 2 * e + if h then 1 else 0
       if j < k then el x j else el y (j - k)) ∧
     done (.vrotl d a b m w) (fun e => el x (if g ≤ e then e - g else e + k - g)) ∧
     done (.vbcst d a b m w) (fun _ => el x g) ∧
     done (.vsplat d a m w) (fun _ => (s.rg a).setWidth n) ∧
     done (.vins d a b m w) (fun e => if e = g then (s.rg a).setWidth n else el old e) ∧
     done (.vmov d a m w) (fun e => el x e)) ∧
  (∀ (s : State) (d a : Reg) (m w : BitVec 2), Clear {} s →
     let n := 8 * 2 ^ w.toNat
     let el (x : Vec) (e : Nat) : BitVec n := x.extractLsb' (n * e) n
     let kept := (List.range (128 / n)).filter (fun e => (s.thr.rm m).getLsbD (n / 8 * e))
     ∃ r : Vec, Gives (.vcompress d a m w) s ((s.thr.withVx true).wv d r).wentOn ∧ ∀ e < 128 / n,
       el r e = (kept.map (el (s.thr.rv a))).getD e 0)


/-- R117, R118: mask operations, and what goes from vectors and masks to general registers. VEXT is defined under m0
alone; reductions take the active elements as signed. -/
def Obligations.MaskResults : Prop :=
  ∀ (s : State) (d a b : BitVec 2) (r q : Reg) (m w : BitVec 2), Clear {} s →
    let t := s.thr.withVx true
    let x := s.thr.rm a
    let y := s.thr.rm b
    let n := 8 * 2 ^ w.toNat
    let el (v : Vec) (e : Nat) : BitVec n := v.extractLsb' (n * e) n
    let active := (List.range (128 / n)).filter (fun e => (s.thr.rm m).getLsbD (n / 8 * e))
    let zs : List Int := active.map (fun e => (el (s.thr.rv q) e).toInt)
    Gives (.mand d a b) s (t.wm d (x &&& y)).wentOn ∧ Gives (.mor d a b) s (t.wm d (x ||| y)).wentOn ∧
    Gives (.mxor d a b) s (t.wm d (x ^^^ y)).wentOn ∧ Gives (.mnot d a) s (t.wm d (~~~x)).wentOn ∧
    Gives (.mcnt r a) s (t.wg r (BitVec.ofNat 64 ((List.range 16).filter (fun i => x.getLsbD i)).length)).wentOn ∧
    Gives (.mff r a) s (t.wg r (BitVec.ofNat 64 ((List.range 16).takeWhile (fun i => !x.getLsbD i)).length)).wentOn ∧
    Gives (.mfromg d q) s (t.wm d ((s.rg q).setWidth 16)).wentOn ∧
    Gives (.mtog r a) s (t.wg r (x.setWidth 64)).wentOn ∧
    (∀ p : Reg, Gives (.vext r q p w) s
      (t.wg r ((el (s.thr.rv q) ((s.rg p).toNat % (128 / n))).setWidth 64)).wentOn) ∧
    Gives (.vradd r q m w) s (t.wg r (BitVec.ofInt 64 zs.sum)).wentOn ∧
    (∃ z : Int, Gives (.vrmax r q m w) s (t.wg r (BitVec.ofInt 64 z)).wentOn ∧
      (active = [] → z = -2 ^ (n - 1)) ∧ (active ≠ [] → z ∈ zs ∧ ∀ u ∈ zs, u ≤ z)) ∧
    (∃ z : Int, Gives (.vrmin r q m w) s (t.wg r (BitVec.ofInt 64 z)).wentOn ∧
      (active = [] → z = 2 ^ (n - 1) - 1) ∧ (active ≠ [] → z ∈ zs ∧ ∀ u ∈ zs, z ≤ u))

/-- R109-R111: a neighbour send below its limit counts up and delivers v[a] to the receive queue of the neighbour in its
direction; a receive takes the oldest vector and returns the credit to the sender; NWIN reads the limit and sets it when
g[a] is 1 to 4. At its limit a send waits, and so does a receive on an empty queue; neither changes anything else. -/
def Obligations.NeighbourResults : Prop :=
  ∀ (s : State) (d a : Reg) (r : Bool), Clear {} s →
    let n := coreOf s.cur
    let k := localSlot s.cur
    let down := n / 16 * 16 + (n % 16 + if r then 15 else 1) % 16
    let up := n / 16 * 16 + (n % 16 + if r then 1 else 15) % 16
    let me := s.neighbour n k r
    (me.count < me.limit → ∃ t, exec (.nsend a r) s = .next t ∧ t.thr = (s.thr.withVx true).wentOn ∧
      t.neighbour down k r = { s.neighbour down k r with queue := (s.neighbour down k r).queue ++ [s.thr.rv a] } ∧
      t.neighbour n k r = { me with count := me.count + 1 } ∧ SameMemory s t ∧ SameOthers s t) ∧
    (me.limit ≤ me.count → Waits (.nsend a r) s (.nsend r)) ∧
    (∀ x q, me.queue = x :: q → ∃ t, exec (.nrecv d r) s = .next t ∧ t.thr = ((s.thr.withVx true).wv d x).wentOn ∧
      t.neighbour n k r = { me with queue := q } ∧
      t.neighbour up k r = { s.neighbour up k r with count := (s.neighbour up k r).count - 1 } ∧
      SameMemory s t ∧ SameOthers s t) ∧
    (me.queue = [] → Waits (.nrecv d r) s (.nrecv r)) ∧
    (let x := (s.rg a).toNat
     let old := BitVec.ofNat 64 me.limit
     (x = 0 → Gives (.nwin d a r) s (s.thr.wg d old).wentOn) ∧
     (1 ≤ x → x ≤ 4 → exec (.nwin d a r) s =
        .next ((s.setNeighbour n k r { me with limit := x }).setThr (s.thr.wg d old).wentOn)) ∧
     (4 < x → Gives (.nwin d a r) s (s.thr.wg d (BitVec.allOnes 64)).wentOn))

/-! ### Floating point and conversions (05, 06) -/

/-- R132: rounding into a format of q[1:0]. A representable value rounds to itself in every mode and raises nothing. Under
RZ a finite value becomes the largest magnitude not above it, and NX is raised exactly when the two differ. -/
def Obligations.RoundingIsCorrect : Prop :=
  ∀ f ∈ [fp16, fp32, bf16],
    (∀ (rm : Nat) (sat neg : Bool) (code m : Nat) (e : Int), code < 2 ^ f.bits → f.val code = .fin neg m e →
      f.round rm sat (.fin neg m e) = (code, 0)) ∧
    (∀ (sat neg : Bool) (m : Nat) (e : Int), m ≠ 0 →
      let r := f.round 1 sat (.fin neg m e)
      let c := r.1 % f.signBit
      r.1 = f.signed neg c ∧ c ≤ f.maxCode ∧ (FVal.fin false m e).lt (f.val c) = false ∧
      (c < f.maxCode → (FVal.fin false m e).lt (f.val (c + 1)) = true) ∧
      (r.2 % 2 = 1 ↔ (f.val c).lt (.fin false m e) = true))

/-- R95, R99, R100, R112, R113: a float instruction of majors 0x15 and 0x16 writes the rounded element of each active
element, keeps the others, and raises in fstat the flags of the active elements alone. The operations act on the exact
values of the codes; a NaN result is the format's canonical NaN. -/
def Obligations.FloatResults : Prop :=
  ∀ (s : State) (d a b c : Reg) (m q : BitVec 2), q ≠ 3 →
    let f := formatOf q
    let n := f.bits
    let on (e : Nat) : Bool := (s.thr.rm m).getLsbD (n / 8 * e)
    let x (e : Nat) := lane (s.thr.rv a) n e
    let y (e : Nat) := lane (s.thr.rv b) n e
    let z (e : Nat) := lane (s.thr.rv c) n e
    let done (i : Instr) (op : Nat → Nat × Nat) : Prop :=
      ∃ (r : Vec) (fl : Word), Gives i s (({ s.thr.withVx true with fstat := s.thr.fstat ||| fl }).wv d r).wentOn ∧
        (∀ e < 128 / n, lane r n e = if on e then (op e).1 % 2 ^ n else lane (s.thr.rv d) n e) ∧
        ∀ k, fl.getLsbD k = true ↔ k < 64 ∧ ∃ e < 128 / n, on e = true ∧ (op e).2.testBit k = true
    let nan (e : Nat) : Bool := (f.val (x e)).isNan || (f.val (y e)).isNan
    let quiet (e : Nat) : Nat × Nat :=
      (f.nan, if (f.val (x e)).isSignalling || (f.val (y e)).isSignalling then flagNV else 0)
    (Clear { rm := true } s →
      let rm := if s.thr.hints.hmod.getLsbD 23 then field s.thr.hints.hmod 22 21 else 0
      done (.vfadd d a b m q) (fun e => f.add rm (f.val (x e)) (f.val (y e))) ∧
      done (.vfsub d a b m q) (fun e => f.add rm (f.val (x e)) (f.val (y e)).negate) ∧
      done (.vfmul d a b m q) (fun e => f.mul rm (f.val (x e)) (f.val (y e))) ∧
      done (.vfma d a b c m q) (fun e => f.fma rm (f.val (x e)) (f.val (y e)) (f.val (z e))) ∧
      done (.vfms d a b c m q) (fun e => f.fma rm (f.val (x e)) (f.val (y e)) (f.val (z e)).negate) ∧
      done (.vfnma d a b c m q) (fun e => f.fma rm (f.val (x e)).negate (f.val (y e)) (f.val (z e)))) ∧
    (Clear {} s →
      done (.vfmin d a b m q) (fun e =>
        if nan e then quiet e else (if (f.val (y e)).below (f.val (x e)) then y e else x e, 0)) ∧
      done (.vfmax d a b m q) (fun e =>
        if nan e then quiet e else (if (f.val (x e)).below (f.val (y e)) then y e else x e, 0)) ∧
      done (.vfabs d a m q) (fun e => (x e % 2 ^ (n - 1), 0)) ∧
      done (.vfneg d a m q) (fun e => ((x e + 2 ^ (n - 1)) % 2 ^ n, 0)))

/-- R103, R112: a float compare writes the mask m[d] as R103 says, and no comparison with a NaN holds but VFCMPUN's. NV is
raised by a signalling NaN in an active element, and by any NaN for VFCMPLT and VFCMPLE. -/
def Obligations.FloatCompareResults : Prop :=
  ∀ (s : State) (d : BitVec 2) (a b : Reg) (m q : BitVec 2), Clear {} s → q ≠ 3 →
    let f := formatOf q
    let n := f.bits
    let on (e : Nat) : Bool := (s.thr.rm m).getLsbD (n / 8 * e)
    let x (e : Nat) := f.val (lane (s.thr.rv a) n e)
    let y (e : Nat) := f.val (lane (s.thr.rv b) n e)
    let nan (e : Nat) : Bool := (x e).isNan || (y e).isNan
    let sig (e : Nat) : Bool := (x e).isSignalling || (y e).isSignalling
    let done (i : Instr) (c nv : Nat → Bool) : Prop :=
      ∃ (r : Mask) (fl : Word), Gives i s (({ s.thr.withVx true with fstat := s.thr.fstat ||| fl }).wm d r).wentOn ∧
        (∀ j < 16, r.getLsbD j = (on (j / (n / 8)) && c (j / (n / 8)))) ∧
        (fl = if (List.range (128 / n)).any (fun e => on e && nv e) then 16 else 0)
    done (.vfcmpeq d a b m q) (fun e => !nan e && !(x e).lt (y e) && !(y e).lt (x e)) sig ∧
    done (.vfcmplt d a b m q) (fun e => !nan e && (x e).lt (y e)) nan ∧
    done (.vfcmple d a b m q) (fun e => !nan e && !(y e).lt (x e)) nan ∧
    done (.vfcmpun d a b m q) nan sig

/-- R114, R115, R137: a special function leaves v[d] owed under its window, with the results of the active elements and
the old values of the others as they stood at issue. -/
def Obligations.SpecialFunctionResults : Prop :=
  ∀ (s : State) (d a b : Reg) (l : BitVec 4) (m q : BitVec 2), q ≠ 3 →
    let f := formatOf q
    let n := f.bits
    let on (e : Nat) : Bool := (s.thr.rm m).getLsbD (n / 8 * e)
    let x (e : Nat) := f.val (lane (s.thr.rv a) n e)
    let y (e : Nat) := f.val (lane (s.thr.rv b) n e)
    let done (i : Instr) (op : Nat → Nat × Nat) : Prop :=
      ∃ (r : Vec) (fl : Word),
        Gives i s (({ s.thr.withVx true with fstat := s.thr.fstat ||| fl }).owes (.vec d) r l.toNat false) ∧
        (∀ e < 128 / n, lane r n e = if on e then (op e).1 % 2 ^ n else lane (s.thr.rv d) n e) ∧
        ∀ k, fl.getLsbD k = true ↔ k < 64 ∧ ∃ e < 128 / n, on e = true ∧ (op e).2.testBit k = true
    (Clear { rm := true } s →
      let rm := if s.thr.hints.hmod.getLsbD 23 then field s.thr.hints.hmod 22 21 else 0
      done (.vrcp d a l m q) (fun e => f.div rm (.fin false 1 0) (x e)) ∧ done (.vrsq d a l m q) (fun e => f.rsqrt rm (x e)) ∧
      done (.vsqrt d a l m q) (fun e => f.sqrt rm (x e)) ∧ done (.vdiv d a b l m q) (fun e => f.div rm (x e) (y e))) ∧
    (Clear {} s →
      done (.vexp2 d a l m q) (fun e => exp2 f (x e)) ∧ done (.vlog2 d a l m q) (fun e => log2 f (x e)) ∧
      done (.vtanh d a l m q) (fun e => tanh f (x e)))


/-- R141-R147: a conversion of major 0x1C with a permitted pair of types and a part below the ratio of their widths: each
destination element that R143 maps and whose predicate is set becomes the converted source element; every other element
keeps its value, and fstat takes the flags of the converted elements. -/
def Obligations.ConversionResults : Prop :=
  ∀ (s : State) (d a src t : Reg) (m p : BitVec 2), p.toNat < widthRatio src t → typeBits src ≠ 0 → typeBits t ≠ 0 →
    let sb := typeBits src
    let db := typeBits t
    let x (k : Nat) := lane (s.thr.rv a) sb k
    let done (i : Instr) (conv : Nat → Nat × Nat) : Prop :=
      ∃ (r : Vec) (fl : Word), Gives i s (({ s.thr.withVx true with fstat := s.thr.fstat ||| fl }).wv d r).wentOn ∧
        (∀ j < 128 / db, lane r db j =
          match sourceOf sb db p.toNat j with
          | some k => if (s.thr.rm m).getLsbD (j * db / 8) then (conv k).1 % 2 ^ db else lane (s.thr.rv d) db j
          | none => lane (s.thr.rv d) db j) ∧
        ∀ b, fl.getLsbD b = true ↔ b < 64 ∧ ∃ j < 128 / db, ∃ k, sourceOf sb db p.toNat j = some k ∧
          (s.thr.rm m).getLsbD (j * db / 8) = true ∧ (conv k).2.testBit b = true
    let rm := if s.thr.hints.hmod.getLsbD 23 then field s.thr.hints.hmod 22 21 else 0
    let sat : Bool := s.thr.hints.hmod.getLsbD 20
    let ratio := widthRatio src t
    (Clear { rm := true, sat := true } s → isFloat src = true → isFloat t = true →
      done (.vcvtf d a src t m p) (fun k => (typeFmt t).round rm sat ((typeFmt src).val (x k)))) ∧
    (Clear { rm := true } s → isFloat src = true → isInt t = true → ratio ≤ 4 →
      done (.vcvtfi d a src t m p) (fun k =>
        let r := toInt rm (intLo t) (intHi t) ((typeFmt src).val (x k))
        (unsigned db r.1, r.2))) ∧
    (Clear { rm := true } s → isInt src = true → isFloat t = true → ratio ≤ 4 →
      done (.vcvtif d a src t m p) (fun k => (typeFmt t).ofInt rm (intVal src (x k)))) ∧
    (Clear { sat := true } s → src ∈ [1, 2, 5, 6] → t ∈ [0, 4] →
      done (.vpack8 d a src t m p) (fun k =>
        (unsigned 8 (if sat then max (intLo t) (min (intHi t) (intVal src (x k))) else intVal src (x k)), 0))) ∧
    (Clear {} s → (src = 0 ∧ t ∈ [1, 2]) ∨ (src = 4 ∧ t ∈ [5, 6]) →
      done (.vunpk8 d a src t m p) (fun k => (unsigned db (intVal src (x k)), 0))) ∧
    (Clear { sat := true } s → src ∈ [0, 4, 1, 5] → t = 13 →
      done (.vpack4 d a src t m p) (fun k =>
        (unsigned 4 (if sat then max (-7) (min 7 (intVal src (x k))) else intVal src (x k)), 0))) ∧
    (Clear {} s → src = 13 → t ∈ [0, 1, 8, 10] →
      done (.vunpk4 d a src t m p) (fun k =>
        let v := i4oElement (s.thr.rv a) k
        if isFloat t then (((typeFmt t).round 0 false v).1, 0)
        else (unsigned db (toInt 0 (intLo t) (intHi t) v).1, 0)))

/-- R148: VSCALE by the scale of the descriptor in g[b]: 2^(scale - 127), the canonical NaN for scale 0xFF, zero for the
zero format. A format code that holds no elements takes FORMAT with the descriptor in eaddr.
R119: VFRADD adds the active elements in the fixed tree, rounding each addition; element 0 of v[d] is the sum, +0 when
no element is active, a NaN made canonical; the other elements are zero. The flags are those of the additions, and NV for a signalling element. -/
def Obligations.ScaleAndSumResults : Prop :=
  (∀ (s : State) (d a b t : Reg) (m : BitVec 2), Clear { rm := true } s → isFloat t = true →
     let f := typeFmt t
     let n := f.bits
     let desc := (s.rg b).toNat % 65536
     let known := desc % 256 ∈ [0x01, 0x10, 0x11, 0x20, 0x21, 0x30, 0x31, 0x40]
     let rm := if s.thr.hints.hmod.getLsbD 23 then field s.thr.hints.hmod 22 21 else 0
     let op (e : Nat) : Nat × Nat :=
       if desc / 256 = 255 then (f.nan, 0)
       else if desc % 256 = 0x01 then (0, 0)
       else f.round rm false ((f.val (lane (s.thr.rv a) n e)).scale ((desc / 256 : Nat) - 127 : Int))
     let on (e : Nat) : Bool := (s.thr.rm m).getLsbD (n / 8 * e)
     (known → ∃ (r : Vec) (fl : Word),
       Gives (.vscale d a b t m) s (({ s.thr.withVx true with fstat := s.thr.fstat ||| fl }).wv d r).wentOn ∧
       (∀ e < 128 / n, lane r n e = if on e then (op e).1 % 2 ^ n else lane (s.thr.rv d) n e) ∧
       ∀ k, fl.getLsbD k = true ↔ k < 64 ∧ ∃ e < 128 / n, on e = true ∧ (op e).2.testBit k = true) ∧
     (¬known → Traps (.vscale d a b t m) s { cause := 0x0B, eaddr := BitVec.ofNat 64 desc })) ∧
  (∀ (s : State) (d a : Reg) (m q : BitVec 2), Clear { rm := true } s → q ≠ 3 →
     let f := formatOf q
     let n := f.bits
     let rm := if s.thr.hints.hmod.getLsbD 23 then field s.thr.hints.hmod 22 21 else 0
     let leaf (e : Nat) : Option (Nat × Nat) :=
       let x := lane (s.thr.rv a) n e
       if (s.thr.rm m).getLsbD (n / 8 * e) then some (x, if (f.val x).isSignalling then flagNV else 0) else none
     let add (x y : Option (Nat × Nat)) : Option (Nat × Nat) :=
       match x, y with
       | none, y => y
       | x, none => x
       | some x, some y =>
         let r := f.add rm (f.val x.1) (f.val y.1)
         some (r.1, x.2 ||| y.2 ||| r.2)
     let four (e : Nat) := add (add (leaf e) (leaf (e + 1))) (add (leaf (e + 2)) (leaf (e + 3)))
     let sum := (if q = 1 then four 0 else add (four 0) (four 4)).getD (0, 0)
     Gives (.vfradd d a m q) s
       (({ s.thr.withVx true with fstat := s.thr.fstat ||| BitVec.ofNat 64 sum.2 }).wv d
         (BitVec.ofNat 128 (if (f.val sum.1).isNan then f.nan else sum.1))).wentOn)

/-! ### Issue: pending results, windows, repetitions (03, 05, 09) -/

/-- R43-R45: an instruction that touches a pending register, as a source, a destination or a mask, inside its window takes LAV
with eaddr = the address of the long-latency instruction; beyond the window its slot leaves the rotation until the result has
arrived. Stated for arithmetic, branches, loads and stores, vector, float and mask instructions.
R44: an instruction that touches no pending register leaves the results pending and shortens their windows by one.
R44: the oldest result of a slot that is no queued divide arrives in its register, and nothing else changes; with it the last
wait for the scoreboard is over. -/
def Obligations.PendingResults : Prop :=
  (∀ (s : State) (d a b c : Reg) (w v : Bool) (l : BitVec 4) (i : BitVec 18) (j : BitVec 14) (k : BitVec 6) (o : BitVec 10)
     (m q f e g : BitVec 2) (p : Pending), s.thr.rep = none → s.thr.winMode = false → s.thr.hints = {} →
     s.thr.pending = [p] → p.body = false → p.divide = false → f ≠ 3 →
     let held (n : Instr) : Prop :=
       (0 < p.window → Traps n s { cause := 4, eaddr := p.at_ }) ∧
       (p.window = 0 → Waits n s (.scoreboard [p.dest] false false))
     (∀ r : Reg, p.dest = .gen r → r ≠ 0 →
       (r = d ∨ r = a →
         held (.addi d a i) ∧ held (.andi d a i) ∧ held (.ori d a i) ∧ held (.xori d a i) ∧ held (.slti d a i) ∧
         held (.muli d a i) ∧ held (.shli d a k) ∧ held (.srai d a k) ∧ held (.clz d a w) ∧ held (.ctz d a w) ∧
         held (.popc d a w) ∧ held (.bswap d a w) ∧ held (.jlr d a)) ∧
       (r = d ∨ r = a ∨ r = b →
         held (.add d a b w) ∧ held (.sub d a b w) ∧ held (.and d a b w) ∧ held (.or d a b w) ∧ held (.xor d a b w) ∧
         held (.shl d a b w) ∧ held (.sra d a b w) ∧ held (.min d a b w) ∧ held (.slt d a b w) ∧ held (.mul d a b w) ∧
         held (.mulh d a b w) ∧ held (.div d a b l w) ∧ held (.remn d a b l w) ∧ held (.ldxd d a b l) ∧
         held (.stxd d a b)) ∧
       (r = d ∨ r = a ∨ r = b ∨ r = c → held (.sel d a b c w) ∧ held (.extr d a b c w) ∧ held (.insb d a b c w)) ∧
       (r = a ∨ r = b →
         held (.beq a b j) ∧ held (.bne a b j) ∧ held (.blt a b j) ∧ held (.bge a b j) ∧ held (.vldx d a b l) ∧
         held (.vstx d a b)) ∧
       (r = a → held (.beqz a i) ∧ held (.bnez a i) ∧ held (.jr a) ∧ held (.vsplat d a m q) ∧ held (.mfromg e a)) ∧
       (r = d ∨ r = b →
         held (.ldb d b o v l) ∧ held (.ldw d b o v l) ∧ held (.ldd d b o v l) ∧ held (.stb d b o v) ∧
         held (.stw d b o v) ∧ held (.std d b o v)) ∧
       (r = b → held (.vld d b o v l) ∧ held (.vst d b o v)) ∧
       (r = d → held (.li d i) ∧ held (.lpc d i) ∧ held (.vradd d a m q) ∧ held (.mcnt d g) ∧ held (.mtog d g))) ∧
     (∀ r : Reg, p.dest = .vec r →
       (r = d ∨ r = a ∨ r = b →
         held (.vadd d a b m q) ∧ held (.vsub d a b m q) ∧ held (.vmul d a b m q) ∧ held (.vand d a b m q) ∧
         held (.vdot4 d a b m) ∧ held (.vfadd d a b m f) ∧ held (.vfmul d a b m f)) ∧
       (r = d ∨ r = a ∨ r = b ∨ r = c → held (.vfma d a b c m f)) ∧
       (r = d ∨ r = a → held (.vabs d a m q) ∧ held (.vmov d a m q) ∧ held (.vrcp d a l m f)) ∧
       (r = a → held (.vradd d a m q) ∧ held (.vext d a b q)) ∧
       (r = a ∨ r = b → held (.vcmpeq e a b m q) ∧ held (.vcmplt e a b m q) ∧ held (.vfcmpeq e a b m f)) ∧
       (r = d → held (.vld d b o v l) ∧ held (.vst d b o v) ∧ held (.vsplat d a m q))) ∧
     (∀ r : BitVec 2, p.dest = .mask r → r ≠ 0 →
       (r = e ∨ r = g ∨ r = m → held (.mand e g m) ∧ held (.mor e g m) ∧ held (.mxor e g m)) ∧
       (r = e ∨ r = m → held (.vcmpeq e a b m q) ∧ held (.vfcmplt e a b m f)) ∧
       (r = m → held (.vadd d a b m q) ∧ held (.vfma d a b c m f)))) ∧
  (∀ (s : State) (d a b : Reg) (w : Bool) (i : BitVec 18), s.thr.rep = none → s.thr.winMode = false → s.thr.hints = {} →
     (∀ p ∈ s.thr.pending, p.body = false ∧ p.dest ≠ .gen d ∧ p.dest ≠ .gen a ∧ p.dest ≠ .gen b) →
     let gives (n : Instr) (r : Word) : Prop := Gives n s { (s.thr.wg d r).wentOn with
       pending := s.thr.pending.map (fun p => { p with window := p.window - 1 }) }
     gives (.add d a b w) (wres w (s.rg a + s.rg b)) ∧ gives (.sub d a b w) (wres w (s.rg a - s.rg b)) ∧
     gives (.and d a b w) (wres w (s.rg a &&& s.rg b)) ∧ gives (.or d a b w) (wres w (s.rg a ||| s.rg b)) ∧
     gives (.xor d a b w) (wres w (s.rg a ^^^ s.rg b)) ∧ gives (.mul d a b w) (wres w (s.rg a * s.rg b)) ∧
     gives (.addi d a i) (s.rg a + i.signExtend 64) ∧ gives (.xori d a i) (s.rg a ^^^ i.signExtend 64) ∧
     gives (.li d i) (i.signExtend 64)) ∧
  (∀ (s : State) (k : Nat) (p : Pending), (s.thread k).pending = [p] → p.divide = false →
     let arrives (u : Thread) : Prop :=
       exec (.longLatencyComplete k) s = .next (s.setThread k { u with pending := [] }) ∧
         ∀ l drain room, waitOver (s.setThread k { u with pending := [] }) k false (.scoreboard l drain room) = true
     (∀ r, p.dest = .gen r → arrives ((s.thread k).wg r (p.value.setWidth 64))) ∧
     (∀ r, p.dest = .vec r → arrives ((s.thread k).wv r p.value)) ∧
     (∀ r, p.dest = .mask r → arrives ((s.thread k).wm r (p.value.setWidth 16))))

/-- R59, R104, R105: in window mode VADD waits until the buffers of its sources v12-v15 are full and that of its
destination is empty; then it reads and empties its neighbour's buffers and fills its own, with zero in inactive elements. -/
def Obligations.WindowModeVadd : Prop :=
  ∀ (s : State) (d a b : Reg) (m w : BitVec 2), s.thr.rep = none → s.thr.pending = [] → s.thr.winMode = true →
    s.thr.hints = {} → 12 ≤ a.toNat → 12 ≤ b.toNat → 12 ≤ d.toNat →
    let n := coreOf s.cur
    let mine := localSlot s.cur
    let left := (mine + 7) % 8
    let ready := (s.windowBuf n left a.toNat).isSome = true ∧ (s.windowBuf n left b.toNat).isSome = true ∧
      s.windowBuf n mine d.toNat = none
    (ready → ∃ t r, exec (.vadd d a b m w) s = .next t ∧ t.thr = (s.thr.withVx true).wentOn ∧
      t.windowBuf n mine d.toNat = some r ∧ t.windowBuf n left a.toNat = none ∧ t.windowBuf n left b.toNat = none ∧
      (∀ e < 128 / laneBits w, lane r (laneBits w) e =
        if (s.thr.rm m).getLsbD (laneBytes w * e) then
          (lane ((s.windowBuf n left a.toNat).getD 0) (laneBits w) e +
            lane ((s.windowBuf n left b.toNat).getD 0) (laneBits w) e) % 2 ^ laneBits w
        else 0) ∧
      SameMemory s t ∧ SameOthers s t) ∧
    (¬ready → ∃ f e, Waits (.vadd d a b m w) s (.windows f e))

/-- R240, R241: REPT captures the words of its body, passes them, and starts the repetition of g[C] iterations, or starts none
with a count of zero. A body that holds a word it may not hold, or ends in a hint, traps ILL. Here s1 is the state once the
words have been fetched.
R240, R242: the last word of a body ends its iteration: g[C] receives the number of iterations left, whatever it held, and the
stagger offset steps by the stride; the repetition ends with its last iteration. A word before the last one goes on to the
next. The main stream's pc does not move. Stated of packed integer words with their results, and of float, permute and mask
words. -/
def Obligations.Repetitions : Prop :=
  (∀ (s s1 : State) (n : BitVec 3) (c st m : BitVec 4) (ws : List (BitVec 32)), s.thr.rep = none → c ≠ 0 →
     fetchBody false s.cur (s.thr.pc + 4) (n.toNat + 1) s = .ok (ws, s1) → Clear {} s1 →
     let on := s1.thr.wentTo (s1.thr.pc + 4 * BitVec.ofNat 64 (n.toNat + 2))
     (ws.all bodyAllows = true → endsInHint ws = false →
       (s1.rg c = 0 → exec (.rept n c st m) s = .next (s1.setThr on)) ∧
       (s1.rg c ≠ 0 → exec (.rept n c st m) s = .next (s1.setThr { on with
         rep := some { addr := s1.thr.pc, words := ws, creg := c, stride := st.toNat, smask := m, off := 0, j := 0
                       left := (s1.rg c).toNat } }))) ∧
     (ws.all bodyAllows = false ∨ endsInHint ws = true → s1.Unheld → exec (.rept n c st m) s =
       .next (trap s1.cur { cause := 1, eaddr := BitVec.ofNat 64 (wordRept n c st m) } s1))) ∧
  (∀ (s : State) (d a b c : Reg) (m w f e g h : BitVec 2) (r : Rep), s.thr.rep = some r → r.issuing = true → r.hints = {} →
     s.thr.pending = [] → s.thr.winMode = false → r.creg ≠ 0 → r.j < r.words.length →
     let next := { r with issuing := false, bodyNext := false, wait := none, refusals := 0, waited := 0, paid := [] }
     let steps (t : State) : Prop := t.thr.pc = s.thr.pc ∧ SameMemory s t ∧ SameOthers s t ∧
       (if r.j + 1 < r.words.length then t.thr.rep = some { next with j := r.j + 1 } ∧ t.thr.g = s.thr.g
        else
         t.thr.rg r.creg = BitVec.ofNat 64 (r.left - 1) ∧ (∀ q, q ≠ r.creg → t.thr.rg q = s.thr.rg q) ∧
         t.thr.rep = if r.left ≤ 1 then none
           else some { next with j := 0, left := r.left - 1, off := (r.off + r.stride) % 16 })
     let n := 8 * 2 ^ w.toNat
     let el (x : Vec) (e : Nat) : BitVec n := x.extractLsb' (n * e) n
     let lanes (i : Instr) (op : BitVec n → BitVec n → BitVec n) : Prop :=
       ∃ t, exec i s = .next t ∧ steps t ∧ ∀ e < 128 / n, el (t.thr.rv d) e =
         if (s.thr.rm m).getLsbD (n / 8 * e) then op (el (s.thr.rv a) e) (el (s.thr.rv b) e) else el (s.thr.rv d) e
     let goesOn (i : Instr) : Prop := ∃ t, exec i s = .next t ∧ steps t
     lanes (.vadd d a b m w) (fun x y => x + y) ∧ lanes (.vsub d a b m w) (fun x y => x - y) ∧
     lanes (.vmul d a b m w) (fun x y => x * y) ∧ lanes (.vand d a b m w) (fun x y => x &&& y) ∧
     lanes (.vor d a b m w) (fun x y => x ||| y) ∧ lanes (.vxor d a b m w) (fun x y => x ^^^ y) ∧
     lanes (.vandn d a b m w) (fun x y => x &&& ~~~y) ∧
     lanes (.vmin d a b m w) (fun x y => if x.toInt < y.toInt then x else y) ∧
     lanes (.vmax d a b m w) (fun x y => if y.toInt < x.toInt then x else y) ∧
     lanes (.vmov d a m w) (fun x _ => x) ∧
     goesOn (.vdot4 d a b m) ∧ goesOn (.vsel d a b c m w) ∧ goesOn (.vzip d a b true m w) ∧ goesOn (.vcmpeq e a b m w) ∧
     goesOn (.mand e g h) ∧ goesOn (.mnot e g) ∧ goesOn (.mfromg e c) ∧
     (f ≠ 3 → goesOn (.vfadd d a b m f) ∧ goesOn (.vfmul d a b m f) ∧ goesOn (.vfma d a b c m f) ∧
       goesOn (.vfcmplt e a b m f)))

/-- R46, R51: a hint word takes an issue slot of its own and joins the group of its stream; HSCHED.hold with a count of
cycles takes the slot out of the rotation until they have passed. Nothing else changes. -/
def Obligations.HintsJoinTheirGroup : Prop :=
  ∀ (s : State) (p : BitVec 24) (q : BitVec 21), s.thr.rep = none →
    let t := s.thr
    let joined (h : Hints) : Thread := { t with pc := t.pc + 4, hints := h }
    let held := joined { t.hints with hscheds := t.hints.hscheds ++ [(1 : BitVec 3) ++ q] }
    Gives (.himm p) s (joined { t.hints with himms := t.hints.himms ++ [p] }) ∧
    Gives (.hmod p) s (joined { t.hints with hmods := t.hints.hmods ++ [p] }) ∧
    Gives (.hsched p) s (joined { t.hints with hscheds := t.hints.hscheds ++ [p] }) ∧
    Gives (.hschedIfetch q) s (joined { t.hints with hscheds := t.hints.hscheds ++ [(2 : BitVec 3) ++ q] }) ∧
    (field q 5 0 ≠ 0 → field q 20 6 = 0 → Gives (.hschedHold q) s (held.waits (.hold (field q 5 0)))) ∧
    (field q 5 0 = 0 ∨ field q 20 6 ≠ 0 → Gives (.hschedHold q) s held) ∧
    ∀ k, (s.thread k).wait = some (.hold 0) → (s.thread k).rep = none →
      exec (.holdExpiry k) s = .next (s.setThread k { s.thread k with wait := none })

/-! ### Traps and state registers (16) -/

/-- R45, R336: trap entry with nothing pending at an aligned vector: epc, ecause, eaddr and rstate are written, PLEV and PIE
take the old LEVEL and IE, LEVEL becomes the target, IE 0, and pc the vector of the level. The stream's hint group, wait and
repetition end, with the iterations left in g[C] (R244); a posted FEFILL is held by IE from now on (R196). Of the rest of the
device nothing changes.
R337: entry at a vector that is not 4-aligned takes ALIGN at the next higher level, with epc and eaddr = the vector and
PLEV = the level whose vector failed.
R333: the level at which a synchronous trap is taken, where every vector is aligned and nothing is pending. -/
def Obligations.TrapEntry : Prop :=
  ((∀ (s : State) (k : Nat) (resume : Word) (cause : Nat) (eaddr : Word) (l : Nat),
      let t := s.thread k
      let vector : Word :=
        if l = 0 then t.tvec else if l = 1 then s.prec (s.partOf (clusterOf k)) 0x18 else (s.cluster (clusterOf k)).fvec
      l ≤ 2 → t.pending = [] → vector.toNat % 4 = 0 →
      ∃ u : Thread, enterTrap k resume cause eaddr l s = s.setThread k u ∧ u.pc = vector ∧
        u.epc.toNat = resume.toNat / 4 * 4 ∧ u.ecause = BitVec.ofNat 64 cause ∧ u.eaddr = eaddr ∧
        (t.rep = none → u.rstate = 0) ∧ u.level = l ∧ u.ie = false ∧ u.plev = t.level ∧ u.pie = t.ie ∧
        u.depth = t.depth ∧ u.vx = t.vx ∧ u.winMode = t.winMode ∧ (t.rep = none → u.g = t.g) ∧
        (∀ r, t.rep = some r → (r.creg ≠ 0 → u.rg r.creg = BitVec.ofNat 64 r.left) ∧ ∀ q, q ≠ r.creg → u.rg q = t.rg q) ∧
        u = { t with pc := u.pc, epc := u.epc, ecause := u.ecause, eaddr := u.eaddr, rstate := u.rstate, tstat := u.tstat,
                     g := u.g, hints := {}, rep := none, wait := none, refusals := 0, waited := 0, paid := [],
                     noTravel := false, atVector := true, events := t.events.map (fun e => { e with fresh := 0 }) }) ∧
   (∀ (s : State) (k : Nat) (resume : Word) (cause : Nat) (eaddr : Word),
      let t := s.thread k
      let super := s.prec (s.partOf (clusterOf k)) 0x18
      t.pending = [] → t.tvec.toNat % 4 ≠ 0 → super.toNat % 4 = 0 →
      let u := (enterTrap k resume cause eaddr 0 s).thread k
      u.ecause = 3 ∧ u.eaddr = t.tvec ∧ u.epc.toNat = t.tvec.toNat / 4 * 4 ∧ u.pc = super ∧ u.level = 1 ∧ u.plev = 0 ∧
        u.ie = false)) ∧
  (∀ (s : State) (k : Nat) (resume : Word) (x : Trap),
     let t := s.thread k
     let p := s.partOf (clusterOf k)
     t.level ≤ 2 → t.pending = [] → t.tvec.toNat % 4 = 0 → (s.prec p 0x18).toNat % 4 = 0 →
     (s.cluster (clusterOf k)).fvec.toNat % 4 = 0 →
     let target :=
       if x.firmware = true ∨ x.cause = 0x16 ∨ x.cause = 0x17 ∨ t.level = 2 then 2
       else if x.cause ∈ [0x07, 0x10, 0x18, 0x1B] then 1
       else if x.cause ∈ [0x0D, 0x0E] then 0
       else if t.sdeleg.getLsbD x.cause then 0 else 1
     ((trapAt k resume x s).thread k).level = max target t.level ∧
       ((trapAt k resume x s).thread k).ecause = BitVec.ofNat 64 x.cause)


/-- R54, R340, R343: TRAP takes TRAPINS with its code and resumes at the word after it; BRK takes BRK at its own group; a
word that is no instruction takes ILL with the word in eaddr; HALT at F leaves the rotation with its pc at the next word. -/
def Obligations.TrapInstructions : Prop :=
  ∀ (s : State) (n : BitVec 8) (w : BitVec 32), Clear {} s →
    exec (.trap n) s =
      .next (trapAt s.cur (s.thr.pc + 4) { cause := 0x11, eaddr := n.setWidth 64 } (s.setThr s.thr.wentOn)) ∧
    Traps .brk s { cause := 0x12, eaddr := 0 } ∧ Traps (.illegalInstruction w) s { cause := 1, eaddr := w.setWidth 64 } ∧
    (s.thr.level = 2 → Gives .halt s (s.thr.wentOn.waits .halt)) ∧
    (s.thr.level ≠ 2 → Traps .halt s { cause := 2, eaddr := BitVec.ofNat 64 wordHalt })

/-- R341: ERET to a level that is not above its own, with no repetition to resume and no task switch to apply: LEVEL and IE
come back, pc = epc, and PLEV, PIE, epc, ecause, eaddr and rstate stay. To a higher level, or to level code 3, it traps PRIV. -/
def Obligations.EretReturns : Prop :=
  ∀ s : State, Clear {} s →
    (s.thr.plev ≤ s.thr.level → s.thr.plev ≠ 3 → s.thr.rstate.getLsbD 63 = false → s.thr.taskSwitch = none →
      ∃ u : Thread, Gives .eret s u ∧ u.pc = s.thr.epc ∧ u.level = s.thr.plev ∧ u.ie = s.thr.pie ∧
        u.plev = s.thr.plev ∧ u.pie = s.thr.pie ∧ u.depth = s.thr.depth ∧ u.vx = s.thr.vx ∧
        u.winMode = s.thr.winMode ∧ u = { s.thr.wentTo s.thr.epc with tstat := u.tstat }) ∧
    (s.thr.level < s.thr.plev ∨ s.thr.plev = 3 →
      Traps .eret s { cause := 2, eaddr := BitVec.ofNat 64 wordEret })

/-- R332, R342: SREAD of every register of the table writes its content to g[d], at every level that may read it; forecast,
leave and ctxbase trap PRIV at U and fvec below F; a number that the table does not list traps ILL. -/
def Obligations.StateRegisterReads : Prop :=
  ∀ (s : State) (d : Reg), Clear {} s →
    let t := s.thr
    let c := clusterOf s.cur
    let p := s.partOf c
    let gives (n : BitVec 8) (x : Word) : Prop := Gives (.sread d n) s (t.wg d x).wentOn
    let priv (n : BitVec 8) : Prop := Traps (.sread d n) s { cause := 2, eaddr := BitVec.ofNat 64 (wordSread d n) }
    gives 0x00 t.tstat ∧ gives 0x01 t.epc ∧ gives 0x02 t.ecause ∧ gives 0x03 t.eaddr ∧ gives 0x05 t.tvec ∧
    gives 0x06 t.sdeleg ∧ gives 0x08 t.rstate ∧ gives 0x09 t.fstat ∧ gives 0x10 (t.dom.setWidth 64) ∧ gives 0x11 t.dsp ∧
    gives 0x12 t.charge ∧ gives 0x13 t.slice ∧ gives 0x14 t.timer ∧ gives 0x18 (BitVec.ofNat 64 s.now) ∧
    gives 0x19 (BitVec.ofNat 64 s.cur) ∧ gives 0x1A (BitVec.ofNat 64 c) ∧ gives 0x1B (BitVec.ofNat 64 p) ∧
    gives 0x1C ((s.cluster c).world.setWidth 64) ∧
    (∀ x, ipaLoad s p (s.domIpa p t.dom 0x30) = .ok x → gives 0x15 x) ∧
    (∀ x, ipaLoad s p (s.domIpa p t.dom 0x38) = .ok x → gives 0x16 x) ∧
    (t.level ≠ 0 → gives 0x20 (s.cluster c).forecast ∧ gives 0x21 (leaveWord s c) ∧ gives 0x30 (s.cluster c).ctxbase) ∧
    (t.level = 0 → priv 0x20 ∧ priv 0x21 ∧ priv 0x30) ∧
    (t.level = 2 → gives 0x31 (s.cluster c).fvec) ∧ (t.level ≠ 2 → priv 0x31) ∧
    ∀ n : BitVec 8, n.toNat ∉ [0, 1, 2, 3, 5, 6, 8, 9, 0x10, 0x11, 0x12, 0x13, 0x14, 0x15, 0x16, 0x18, 0x19, 0x1A, 0x1B,
        0x1C, 0x20, 0x21, 0x30, 0x31] →
      Traps (.sread d n) s { cause := 1, eaddr := BitVec.ofNat 64 (wordSread d n) }

/-- R96, R331, R332, R342: SWRITE within the fields of each register; a register that is read only at the level keeps its
value and no trap is raised; forecast, leave and ctxbase trap PRIV at U and fvec below F, and a number that the table does not
list traps ILL. tstat: VX and WIN at every level, PIE, IE and PLEV (never 3) at S and F alone; WIN sets VX; a
write that leaves VX at 0 clears the vector context. -/
def Obligations.StateRegisterWrites : Prop :=
  ∀ (s : State) (a : Reg), Clear {} s →
    let t := s.thr
    let c := clusterOf s.cur
    let x := s.rg a
    let gives (n : BitVec 8) (u : Thread) : Prop := Gives (.swrite a n) s u.wentOn
    let priv (n : BitVec 8) : Prop := Traps (.swrite a n) s { cause := 2, eaddr := BitVec.ofNat 64 (wordSwrite a n) }
    gives 0x01 { t with epc := BitVec.ofNat 64 (x.toNat / 4 * 4) } ∧
    gives 0x02 { t with ecause := BitVec.ofNat 64 (x.toNat % 256) } ∧ gives 0x03 { t with eaddr := x } ∧
    gives 0x09 { t with fstat := BitVec.ofNat 64 (x.toNat % 32) } ∧
    (∃ u : Word, gives 0x08 { t with rstate := u } ∧
      ∀ i < 64, u.getLsbD i = (x.getLsbD i && decide (2 ≤ i) && (decide (i < 52) || decide (55 < i)))) ∧
    gives 0x10 t ∧ gives 0x14 t ∧ gives 0x18 t ∧ gives 0x19 t ∧ gives 0x1A t ∧ gives 0x1B t ∧ gives 0x1C t ∧
    (t.level = 0 → gives 0x05 t ∧ gives 0x06 t ∧ gives 0x11 t ∧ gives 0x12 t ∧ gives 0x13 t ∧ gives 0x15 t ∧ gives 0x16 t) ∧
    (t.level ≠ 0 → gives 0x05 { t with tvec := x } ∧ gives 0x12 { t with charge := x } ∧
      gives 0x13 { t with slice := BitVec.ofNat 64 (x.toNat % 2 ^ 33) } ∧
      (∃ u : Word, gives 0x11 { t with dsp := u } ∧ u.toNat % 1024 = t.depth * 128 ∧
        ∀ i, 10 ≤ i → u.getLsbD i = (x.getLsbD i && decide (i < 48))) ∧
      (∀ u, ipaStore s (s.partOf c) (s.domIpa (s.partOf c) t.dom 0x30) x = .ok u → exec (.swrite a 0x15) s = .next (retire u)) ∧
      (∀ u, ipaStore s (s.partOf c) (s.domIpa (s.partOf c) t.dom 0x38) x = .ok u → exec (.swrite a 0x16) s = .next (retire u)) ∧
      (∃ u : Thread, gives 0x06 u ∧ u = { t with sdeleg := u.sdeleg } ∧ ∀ i < 64,
        u.sdeleg.getLsbD i = (x.getLsbD i && decide (i < 28) &&
          !([0, 0x07, 0x0A, 0x0C, 0x0D, 0x0E, 0x10, 0x14, 0x15, 0x16, 0x17, 0x18, 0x1B].contains i))) ∧
      exec (.swrite a 0x30) s = .next ((s.setCluster c { s.cluster c with ctxbase := x }).setThr t.wentOn)) ∧
    (t.level = 2 → exec (.swrite a 0x31) s = .next ((s.setCluster c { s.cluster c with fvec := x }).setThr t.wentOn)) ∧
    (t.level ≠ 0 → gives 0x20 t ∧ gives 0x21 t) ∧ (t.level = 0 → priv 0x20 ∧ priv 0x21 ∧ priv 0x30) ∧
    (t.level ≠ 2 → priv 0x31) ∧
    (∀ n : BitVec 8, n.toNat ∉ [0, 1, 2, 3, 5, 6, 8, 9, 0x10, 0x11, 0x12, 0x13, 0x14, 0x15, 0x16, 0x18, 0x19, 0x1A, 0x1B,
        0x1C, 0x20, 0x21, 0x30, 0x31] →
      Traps (.swrite a n) s { cause := 1, eaddr := BitVec.ofNat 64 (wordSwrite a n) }) ∧
    (∃ u : Thread, gives 0x00 u ∧ u.winMode = x.getLsbD 2 ∧ u.vx = (x.getLsbD 3 || x.getLsbD 2) ∧ u.level = t.level ∧
      u.depth = t.depth ∧
      (t.level = 0 → u.ie = t.ie ∧ u.pie = t.pie ∧ u.plev = t.plev) ∧
      (t.level ≠ 0 → u.ie = x.getLsbD 4 ∧ u.pie = x.getLsbD 10 ∧
        u.plev = if field x 9 8 = 3 then t.plev else field x 9 8) ∧
      (u.vx = true → u = { t with tstat := u.tstat }) ∧
      (u.vx = false → u = { t with tstat := u.tstat, v := Vector.replicate 16 0, m := Vector.replicate 4 0 }))

/-- R90-R92, R273-R277: ICINV of an empty range completes at once; otherwise the cores lose blocks and the slot waits until every
core in the scope has acknowledged, which completes it.
FENCE: the accesses of this model are performed at their turn (log entry 3), but for the slot's STFF, FEEMPTY and FEMARK behind a
grant. A full FENCE waits for those to SO and RC pages, an all FENCE for every one, and one with ENG for the thread's own engine
commands; an acquire-side one, which waits for loads, and one of thread scope without ENG complete at issue. A release-side one
completes and lets the slot go on: what accesses no memory and ordinary loads issue, any other instruction waits. -/
def Obligations.FenceAndInvalidate : Prop :=
  (∀ (s : State) (a b : Reg) (sc : BitVec 3), Clear {} s → sc ≠ 0 → sc.toNat < 6 →
    (s.rg b = 0 → Gives (.icinv a b sc) s s.thr.wentOn) ∧
    (s.rg b ≠ 0 → ∃ t, exec (.icinv a b sc) s = .next t ∧ t.thr.wait = some .icinv ∧ t.thr.pc = s.thr.pc ∧ t.thr.g = s.thr.g ∧
      SameMemory s t ∧ ∀ n, ∀ x ∈ (t.core n).icache, x ∈ (s.core n).icache)) ∧
  (∀ (s : State) (k : Nat),
    ((s.thread k).wait = some .icinv → (s.thread k).rep = none →
      ∃ t, exec (.icinvComplete k) s = .next t ∧ Resumes s t k ∧ SameMemory s t) ∧
    ((s.thread k).wait ≠ some .icinv → exec (.icinvComplete k) s = .next s)) ∧
  (∀ (s : State) (e : Bool) (k : BitVec 2) (sc : BitVec 3), Clear {} s → sc.toNat < 6 →
    let posted (x : Held) : Prop := x.op.isSome = true ∧ x.slot = s.cur
    let held (q : Held → Prop) : Prop := ∃ l ∈ s.held, ∃ x ∈ l.2, posted x ∧ q x
    let awaits := held (fun x => k = 3 ∨ k = 0 ∧ x.uo = false)
    (sc = 0 → Gives (.fence false k sc) s s.thr.wentOn) ∧
    (sc ≠ 0 → awaits → Waits (.fence e k sc) s .posted) ∧
    (sc ≠ 0 → ¬awaits → e = true → engineWork s s.cur = true → Waits (.fence e k sc) s .engines) ∧
    (sc ≠ 0 → ¬awaits → e = false ∨ engineWork s s.cur = false →
      (k ≠ 2 ∨ ¬held (fun _ => True) → Gives (.fence e k sc) s s.thr.wentOn) ∧
      (k = 2 → held (fun _ => True) → ∃ h, exec (.fence e k sc) s = .next ({ s with held := h }.setThr s.thr.wentOn) ∧
        h.map (fun l => (l.1, l.2.map (fun x => { x with fenced := false }))) =
          s.held.map (fun l => (l.1, l.2.map (fun x => { x with fenced := false }))) ∧
        (fencedBy { s with held := h } s.cur = true ↔ fencedBy s s.cur = true ∨ held (fun x => x.uo = false))))) ∧
  ∀ (s : State) (d a b : Reg) (o : BitVec 10) (l : BitVec 4) (w : Bool), s.thr.rep = none → s.thr.pending = [] →
    s.thr.winMode = false → s.thr.hints = {} → fencedBy s s.cur = true →
    Gives (.add d a b w) s (s.thr.wg d (wres w (s.rg a + s.rg b))).wentOn ∧
    (let va := (s.rg b + o.signExtend 64 * 8).toNat
     LocalRange s va 8 → postedAt s s.cur (s.localPa va) 8 = false →
      Gives (.ldd d b o false l) s
        (s.thr.owes (.gen d) (BitVec.ofNat 128 (s.byteNat (s.localPa va) 8)) l.toNat false)) ∧
    ∀ i ∈ [Instr.std d b o false, .stf d b o, .ldf d b o l, .rsv d b o l, .fadd d a b l w 0, .fence false 0 2, .icinv a b 2,
        .gcall d a b], s.thr.rsv = none → Waits i s .posted

/-! ### Memory (07) -/

/-- R152, R170: an access of n bytes in the open local window of the thread is granted without translation, charge or
effect on any state, and its bytes are those of the cluster's scratchpad from the allocation's place on. -/
def Obligations.LocalWindowIsDirect : Prop :=
  ∀ (s : State) (va n : Nat), LocalRange s va n → n ≤ 65536 → ∀ k, k ≠ .fetch →
    ∃ ps, access s s.ctx va n k = .ok (s, ps) ∧ (ps.map (fun p => p.len)).sum = n ∧ (∀ p ∈ ps, isScratch p.pa = true) ∧
      ∀ nt, performLoads nt ps s = .ok (s, (List.range n).map (fun i => Memory.get s.mem (s.localPa va + i)))


/-- R168-R171, R173: a load whose bytes are granted leaves its destination owed under its window, zero-extended or
sign-extended; the effective address is g[b] plus the offset in units of the access, or g[a] + g[b]. In the local window
nothing else of the device changes. A load waits for the slot's own STFF, FEEMPTY and FEMARK of its word behind a grant, and one
with ORD for all of them (R265, R267).
R168-R175: vector loads: 16 bytes in order; VLDM and VGATH load each active element from its own address and keep the
inactive ones; here no operation of the slot waits behind a grant. -/
def Obligations.LoadResults : Prop :=
  (∀ (s : State) (d a b : Reg) (o : BitVec 10) (v : Bool) (l : BitVec 4),
     let behind (va n : Nat) : Prop := postedAt s s.cur (s.localPa va) n = true ∨
       (field s.thr.hints.hmod 18 17 ≠ 0 ∧ postedBy s s.cur = true)
     let done (i : Instr) (va : Word) (n : Nat) (sx : Bool) : Prop :=
       LocalRange s va.toNat n →
       let x := s.byteNat (s.localPa va.toNat) n
       (behind va.toNat n → Waits i s .posted) ∧
       (¬behind va.toNat n → Gives i s (s.thr.owes (.gen d)
         ((if sx ∧ 2 ^ (8 * n - 1) ≤ x then BitVec.ofInt 64 ((x : Int) - 2 ^ (8 * n)) else BitVec.ofNat 64 x).setWidth 128)
         l.toNat false))
     let ea (n : Nat) : Word := s.rg b + o.signExtend 64 * BitVec.ofNat 64 n
     (Clear { tv := true, acq := true, cp := !v } s →
       done (.ldb d b o v l) (ea 1) 1 false ∧ done (.ldbs d b o v l) (ea 1) 1 true ∧
       done (.ldh d b o v l) (ea 2) 2 false ∧ done (.ldhs d b o v l) (ea 2) 2 true ∧
       done (.ldw d b o v l) (ea 4) 4 false ∧ done (.ldws d b o v l) (ea 4) 4 true ∧ done (.ldd d b o v l) (ea 8) 8 false) ∧
     (Clear { tv := true, acq := true, cp := true } s → done (.ldxd d a b l) (s.rg a + s.rg b) 8 false)) ∧
  (∀ (s : State) (d a b : Reg) (o : BitVec 10) (v : Bool) (l : BitVec 4) (m w : BitVec 2), postedBy s s.cur = false →
     let owed (i : Instr) (r : Vec) : Prop := Gives i s ((s.thr.withVx true).owes (.vec d) r l.toNat false)
     (Clear { tv := true, acq := true, cp := !v } s →
       let va := (s.rg b + o.signExtend 64 * 16).toNat
       LocalRange s va 16 → owed (.vld d b o v l) (BitVec.ofNat 128 (s.byteNat (s.localPa va) 16))) ∧
     (Clear { tv := true, acq := true, cp := true } s →
       let va := (s.rg a + s.rg b).toNat
       LocalRange s va 16 → owed (.vldx d a b l) (BitVec.ofNat 128 (s.byteNat (s.localPa va) 16))) ∧
     (Clear { cp := true } s →
       let va (e : Nat) := (s.rg a + s.rg b + BitVec.ofNat 64 e).toNat
       (∀ e < 16, (s.thr.rm m).getLsbD e = true → LocalRange s (va e) 1) →
       ∃ r, owed (.vldm d a b l m) r ∧ ∀ e < 16, lane r 8 e =
         if (s.thr.rm m).getLsbD e then s.byteNat (s.localPa (va e)) 1 else lane (s.thr.rv d) 8 e) ∧
     (Clear { cp := true } s →
       let n := laneBytes w
       let va (e : Nat) := (s.rg a + BitVec.ofNat 64 (lane (s.thr.rv b) (8 * n) e * n)).toNat
       (∀ e < 16 / n, (s.thr.rm m).getLsbD (n * e) = true → LocalRange s (va e) n) →
       ∃ r, owed (.vgath d a b l m w) r ∧ ∀ e < 16 / n, lane r (8 * n) e =
         if (s.thr.rm m).getLsbD (n * e) then s.byteNat (s.localPa (va e)) n else lane (s.thr.rv d) (8 * n) e))


/-- R168-R176: a store changes exactly the bytes it stores to: the low bytes of the register, the lowest first, from the
effective address on; VSTM stores the active bytes alone. Monitors of the line may see the write (R204). -/
def Obligations.StoreResults : Prop :=
  ∀ (s : State) (d a b : Reg) (o : BitVec 10) (v : Bool) (m : BitVec 2), s.Unreserved →
    let done (i : Instr) (va : Word) (l : List Byte) (th : Thread) : Prop :=
      LocalRange s va.toNat l.length → ∃ t, exec i s = .next t ∧ Stored s t (s.localPa va.toNat) l th.wentOn
    let ea (n : Nat) : Word := s.rg b + o.signExtend 64 * BitVec.ofNat 64 n
    let low (n : Nat) : List Byte := (List.range n).map (fun i => (s.rg d).extractLsb' (8 * i) 8)
    let all : List Byte := (List.range 16).map (fun i => (s.thr.rv d).extractLsb' (8 * i) 8)
    let t := s.thr.withVx true
    (Clear { tv := true, rel := true, cp := !v } s →
      done (.stb d b o v) (ea 1) (low 1) s.thr ∧ done (.sth d b o v) (ea 2) (low 2) s.thr ∧
      done (.stw d b o v) (ea 4) (low 4) s.thr ∧ done (.std d b o v) (ea 8) (low 8) s.thr ∧
      done (.vst d b o v) (ea 16) all t) ∧
    (Clear { tv := true, rel := true, cp := true } s →
      done (.stxd d a b) (s.rg a + s.rg b) (low 8) s.thr ∧ done (.vstx d a b) (s.rg a + s.rg b) all t) ∧
    (Clear { cp := true } s →
      let va := (s.rg a + s.rg b).toNat
      LocalRange s va 16 → ∃ u, exec (.vstm d a b m) s = .next u ∧ u.thr = t.wentOn.watched u.thr ∧
        (∀ e < 16, Memory.get u.mem (s.localPa va + e) =
          if (s.thr.rm m).getLsbD e then all.getD e 0 else Memory.get s.mem (s.localPa va + e)) ∧
        (∀ x, x < s.localPa va ∨ s.localPa va + 16 ≤ x → Memory.get u.mem x = Memory.get s.mem x) ∧
        ∀ k, k ≠ s.cur → u.thread k = (s.thread k).watched (u.thread k))

/-- R170, R176: wherever the checks of an access and its home grant it, a load and a store of major 0x20 and 0x21 complete,
and change of their thread's registers the destination alone. To parts of scratchpad memory, which no cache holds (R156), whose
translation the core's TLB holds and whose pages are touched (R162), a load changes no byte, descriptor or full/empty state,
and a store no byte but those at the addresses that its parts name. -/
def Obligations.MemoryFrame : Prop :=
  ∀ (s : State) (d b : Reg) (o : BitVec 10) (v : Bool) (l : BitVec 4) (va : Nat), va = (s.rg b + o.signExtend 64 * 8).toNat →
    (Clear { tv := true, acq := true, cp := !v } s → ∀ s1 ps s2 x, threadAccess .load [(va, 8)] s = .ok (s1, ps) →
      travelTo s ps = none → performLoads v ps s1 = .ok (s2, x) →
      ∃ t, exec (.ldd d b o v l) s = .next t ∧ t.thr.pc = s.thr.pc + 4 ∧ t.thr.g = s.thr.g ∧ t.thr.v = s.thr.v ∧
        (s1 = s → (∀ p ∈ ps, isScratch p.pa = true) → SameMemory s t ∧ SameOthers s t)) ∧
    (Clear { tv := true, rel := true, cp := !v } s → s.held = [] → ∀ s1 ps s2, threadAccess .store [(va, 8)] s = .ok (s1, ps) →
      travelTo s ps = none → performStores v ps (toBytes 8 (s.rg d).toNat) s1 = .ok s2 →
      ∃ t, exec (.std d b o v) s = .next t ∧ t.thr.pc = s.thr.pc + 4 ∧ t.thr.g = s.thr.g ∧ t.thr.v = s.thr.v ∧
        (s1 = s → (∀ p ∈ ps, isScratch p.pa = true) →
          ∀ x, (∀ p ∈ ps, ∀ i < p.len, s.key (p.pa + i) ≠ x) → Memory.get t.mem x = Memory.get s.mem x))

/-- R189: a migration message that finds a free ordinary slot and no queued arrival starts its thread there and frees the
slot it left; an arrival that waited starts as soon as an ordinary slot is free. The domain's vector is loaded again. -/
def Obligations.MigrationStarts : Prop :=
  ∀ (s : State) (n k : Nat) (m : Migrant) (rest : List Migrant), freeSlot s n = some k →
    ((s.core n).incoming = m :: rest → (s.core n).arrivals = [] → (s.cluster (n / 16)).stopped = false → m.source ≠ k →
      ∃ t, exec (.migrationArrival n) s = .next t ∧ (t.core n).incoming = rest ∧ (t.thread k).occupied = true ∧
        (t.thread k).g = m.thread.g ∧ (t.thread k).pc = m.thread.pc ∧ (t.thread k).wait = none ∧
        (t.thread m.source).occupied = false ∧ SameMemory s t) ∧
    ((s.core n).arrivals = m :: rest →
      ∃ t, exec (.arrivalDequeue n) s = .next t ∧ (t.core n).arrivals = rest ∧ (t.thread k).occupied = true ∧
        (t.thread k).g = m.thread.g ∧ (t.thread k).pc = m.thread.pc ∧ (t.thread k).wait = none ∧ SameMemory s t)

/-! ### Synchronisation (08) -/

/-- R191, R192, R199, R200: full/empty operations whose condition holds, on a word of the local window for which nobody
waits. LDFE and FEEMPTY set the empty bit, STF and STFF clear it, FEMARK alone changes the marked bit, FEGET answers the code;
every other word keeps its state. A change of a marked word is followed by FEFILL: at once after LDFE and STF, reported to the
slot, which takes it at its next boundary, after STFF and FEEMPTY (R196). FEMARK at U takes PRIV. -/
def Obligations.FullEmptyResults : Prop :=
  ∀ (s : State) (d b : Reg) (o : BitVec 10) (l : BitVec 4), s.Unreserved → s.feLists = [] →
    let ea : Word := s.rg b + o.signExtend 64 * 8
    let pa := s.localPa ea.toNat
    let old := s.fe pa
    let word := BitVec.ofNat 64 (s.byteNat pa 8)
    let after (t : State) (th : Thread) (e : BitVec 2) : Prop :=
      t.fe pa = e ∧ (∀ a, a < 2 ^ 44 → a / 8 ≠ pa / 8 → t.fe a = s.fe a) ∧ t.thr = th.watched t.thr
    let same (t : State) : Prop := ∀ a, Memory.get t.mem a = Memory.get s.mem a
    let stored (t : State) : Prop :=
      (∀ i < 8, Memory.get t.mem (pa + i) = (s.rg d).extractLsb' (8 * i) 8) ∧
      ∀ a, a < pa ∨ pa + 8 ≤ a → Memory.get t.mem a = Memory.get s.mem a
    LocalRange s ea.toNat 8 → ea.toNat % 8 = 0 →
    (Clear { scope := true } s →
      (old.getLsbD 0 = false → Gives (.ldf d b o l) s (s.thr.wg d word).wentOn) ∧
      (old.getLsbD 0 = false → ∃ t, after t (s.thr.wg d word).wentOn (old ||| 1) ∧ same t ∧
        exec (.ldfe d b o l) s = .next (if old.getLsbD 1 then feFill s.cur ea t else t)) ∧
      (old.getLsbD 0 = true → ∃ t, after t s.thr.wentOn (old &&& 2) ∧ stored t ∧
        exec (.stf d b o) s = .next (if old.getLsbD 1 then feFill s.cur ea t else t)) ∧
      (∃ t, after t s.thr.wentOn (old &&& 2) ∧ stored t ∧
        exec (.stff d b o) s = .next (if old = 3 then reportFill s.cur 1 ea t else t))) ∧
    (Clear {} s →
      Gives (.feget d b o l) s (s.thr.owes (.gen d) (old.setWidth 128) l.toNat false) ∧
      (∃ t, after t s.thr.wentOn (old ||| 1) ∧ same t ∧
        exec (.feempty b o) s = .next (if old = 2 then reportFill s.cur 1 ea t else t)) ∧
      (s.thr.level ≠ 0 → ∃ t,
        after t s.thr.wentOn ((old &&& 1) ||| (if (s.rg d).getLsbD 0 then 2 else 0)) ∧ same t ∧
        exec (.femark d b o) s = .next t) ∧
      (s.thr.level = 0 →
        Traps (.femark d b o) s { cause := 2, eaddr := BitVec.ofNat 64 (wordFemark d b o) }))

/-- R193: a full/empty operation whose condition does not hold parks in the list of its word's home and changes nothing
else; the STF of another slot then serves the waiting LDFE in the same step: it receives the value, completes, and the word is
empty again. -/
def Obligations.FullEmptyWaiters : Prop :=
  ∀ (s : State) (d b : Reg) (o : BitVec 10) (l : BitVec 4), s.Unreserved →
    let ea : Word := s.rg b + o.signExtend 64 * 8
    let pa := s.localPa ea.toNat
    let list := (homeList s (s.partOf (clusterOf s.cur)) pa).1
    LocalRange s ea.toNat 8 → ea.toNat % 8 = 0 → Clear { scope := true } s →
    (s.feLists = [] →
      let parks (i : Instr) (op : Nat) : Prop :=
        let w : FeWaiter := { slot := s.cur, body := false, word := pa, op := op, d := d, value := s.rg d, va := ea }
        exec i s = .next ({ s with feLists := [(list, [w])] }.setThr (s.thr.waits (.fe pa)))
      (s.empty pa = true → parks (.ldf d b o l) 0 ∧ parks (.ldfe d b o l) 1) ∧
      (s.empty pa = false → parks (.stf d b o) 2)) ∧
    ∀ (k : Nat) (w : FeWaiter), s.feLists = [(list, [w])] → w.slot = k → w.body = false → w.word = pa → w.op = 1 →
      k ≠ s.cur → (s.thread k).rep = none → (s.thread k).pending = [] → s.fe pa = 1 →
      ∃ t, exec (.stf d b o) s = .next t ∧ (t.thread k).rg w.d = (if w.d = 0 then 0 else s.rg d) ∧
        (t.thread k).wait = none ∧ (t.thread k).pc = (s.thread k).pc + 4 ∧ t.fe pa = 1 ∧ t.feLists.get [] list = [] ∧
        t.thr.pc = s.thr.pc + 4 ∧ t.thr.wait = none

/-- R194, R195, R205, R210: what ends a wait from outside the instruction stream. The backoff of a refused request ends and
the instruction issues again; an exhausted request is withdrawn and takes FERETRY; the timeout of MWAIT gives 0x20 and
disarms every entry; a grant held for more than 4096 fabric cycles is revoked, and its record stays. -/
def Obligations.WaitsEndFromOutside : Prop :=
  ∀ (s : State) (k : Nat),
    let t := s.thread k
    (∀ n va, t.wait = some (.refused n 0 va) → t.rep = none →
      exec (.feRefusalRetry k) s = .next (s.setThread k { t with wait := none })) ∧
    (∀ n m x va, t.wait = some (.refused n m va) ∨ t.wait = some (.word x (some va)) ∨ t.wait = some (.port n m (some va)) ∨
        t.wait = some (.token x (some va)) ∨ (∃ y, t.wait = some (.line x y (some va))) ∨ t.wait = some (.way x (some va)) ∨
        (t.wait = some (.fe x) ∧ ∃ w : FeWaiter, s.feLists = [(n, [w])] ∧ w.slot = k ∧ w.body = false ∧ w.va = va) →
      exhausted s k t.refusals t.waited = true →
      exec (.feretry k) s = .next (trap k { cause := 8, eaddr := va } (withdraw k s))) ∧
    (∀ d, t.wait = some (.monitor d (some 0)) → t.rep = none → t.pending = [] →
      (∃ i : Fin 4, t.monitors[i].armed = true) → (∀ i : Fin 4, t.monitors[i].armed = true → t.monitors[i].written = false) →
      exec (.mwaitTimeout k) s = .next (s.setThread k
        ({ t with wait := none, monitors := Vector.replicate 4 {}, wakePending := false }.wg d 0x20).wentOn)) ∧
    (∀ w r, grantedTo s w = some k → s.rsvQueues.get [] w = [k] → s.held.get [] w = [] → t.rsv = some r →
      4096 < s.now - r.since →
      ∃ u, exec (.reservationTimeout w) s = .next u ∧ (u.thread k).rsv = some { r with revoked := true } ∧
        (u.thread k).pc = t.pc ∧ SameMemory s u)

/-- R203, R205: MONA arms the line that holds its address in a free entry and changes nothing for a line already armed;
MONC disarms every entry; MWAIT, which acquires, waits for the slot's posted operations (R268), answers at once when no entry is armed or wake-pending is set, by the lowest code, and waits
otherwise.
R204: a write of an armed line sets the written flag of every entry that watches it, in every slot, and
wake-pending of those slots; the flags of other lines stay. -/
def Obligations.MonitorResults : Prop :=
  (∀ (s : State) (d a : Reg),
     let t := s.thr
     let none_ : Vector Monitor 4 := Vector.replicate 4 {}
     let pa := s.localPa (s.rg a).toNat
     (Clear {} s →
       (LocalRange s (s.rg a).toNat 1 →
         (t.monitors = none_ → exec (.mona a) s = .next (s.next.setThr { t.wentOn with
           monitors := none_.set 0 { armed := true, line := pa / 128 * 128, order := s.serial } })) ∧
         ((∃ i : Fin 4, t.monitors[i].armed = true ∧ t.monitors[i].line = pa / 128 * 128) →
           exec (.mona a) s = .next (s.next.setThr t.wentOn))) ∧
       Gives .monc s { t.wentOn with monitors := none_, wakePending := false }) ∧
     (Clear { scope := true } s → postedBy s s.cur = true → Waits (.mwait d a) s .posted) ∧
     (Clear { scope := true } s → postedBy s s.cur = false →
       let done (x : Word) : Prop :=
         Gives (.mwait d a) s (({ t with monitors := none_, wakePending := false }).wg d x).wentOn
       ((∀ i : Fin 4, t.monitors[i].armed = false) → done 0) ∧
       (∀ i : Fin 4, t.wakePending = true → t.monitors[i].armed = true → t.monitors[i].written = true →
         (∀ j : Fin 4, j < i → t.monitors[j].armed = false ∨ t.monitors[j].written = false) →
         done (BitVec.ofNat 64 (0x10 + i.val))) ∧
       ((∃ i : Fin 4, t.monitors[i].armed = true) → t.wakePending = false →
         Waits (.mwait d a) s (.monitor d (if s.rg a = 0 then none else some (s.rg a).toNat))))) ∧
  (∀ (s : State) (line k : Nat) (i : Fin 4), (s.thread k).monitors[i].armed = true → (s.thread k).monitors[i].line = line →
     ((lineWritten line s).thread k).monitors[i].written = true ∧ ((lineWritten line s).thread k).wakePending = true ∧
     ∀ j : Fin 4, (s.thread k).monitors[j].line ≠ line →
       ((lineWritten line s).thread k).monitors[j].written = (s.thread k).monitors[j].written)


/-- R207-R210: RSV of a word that nobody holds is granted at once where the pool of its home has room, and refused with a
backoff where it has none (R194); RSVT answers 1 where the word is held or awaited and otherwise acts as RSV with status 0; REL
writes the word, passes it on and gives the reservation up; RELC also skips the next word; after a revocation neither writes
and RELC does not skip. A fault of the fetch of the word after a RELC comes first; where that word is a hint RELC traps ILL.
Without a reservation of the address REL and RELC trap ILL, and so do RSV and RSVT with one. -/
def Obligations.ReservationResults : Prop :=
  ∀ (s : State) (d b : Reg) (o : BitVec 10) (l : BitVec 4), Clear { scope := true } s →
    let ea : Word := s.rg b + o.signExtend 64 * 8
    let pa := s.localPa ea.toNat
    let word := BitVec.ofNat 64 (s.byteNat pa 8)
    let home := (homeList s (s.partOf (clusterOf s.cur)) pa).1
    let ill (i : Instr) (w : Nat) : Prop := Traps i s { cause := 1, eaddr := BitVec.ofNat 64 w }
    let held : Reservation := { word := pa, va := ea, granted := true, since := s.now, d := d, home := home }
    LocalRange s ea.toNat 8 → ea.toNat % 8 = 0 →
    (s.thr.rsv = none → s.Unreserved → poolUse s home < 64 →
      exec (.rsv d b o l) s = .next ({ s with rsvQueues := [(pa, [s.cur])] }.setThr
        { (s.thr.wg d word).wentOn with rsv := some held }) ∧
      (d ≠ 15 → exec (.rsvt d b o l) s = .next ({ s with rsvQueues := [(pa, [s.cur])] }.setThr
        { ((s.thr.wg (d + 1) 0).wg d word).wentOn with rsv := some { held with pair := true } }))) ∧
    (let n := s.thr.refusals + 1
     s.thr.rsv = none → s.Unreserved → 64 ≤ poolUse s home →
      (exhausted s s.cur n s.thr.waited = true → Traps (.rsv d b o l) s { cause := 8, eaddr := ea }) ∧
      (exhausted s s.cur n s.thr.waited = false →
        Gives (.rsv d b o l) s { s.thr.waits (.refused n (64 * 2 ^ min (n - 1) 5) ea) with refusals := n })) ∧
    (s.thr.rsv = none → d ≠ 15 → s.rsvQueues.get [] pa ≠ [] → postedBy s s.cur = false →
      Gives (.rsvt d b o l) s ((s.thr.wg d 0).wg (d + 1) 1).wentOn) ∧
    (s.thr.rsv.isSome = true → ill (.rsv d b o l) (wordRsv d b o l) ∧ ill (.rsvt d b o l) (wordRsvt d b o l)) ∧
    (s.thr.rsv = none ∨ (∃ r, s.thr.rsv = some r ∧ r.va ≠ ea) → ill (.rel d b o) (wordRel d b o) ∧
      ∀ w u, fetchAt false s.cur (s.thr.pc + 4) s = .ok (w, u) → ill (.relc d b o) (wordRelc d b o)) ∧
    (∀ w u, fetchAt false s.cur (s.thr.pc + 4) s = .ok (w, u) → field w 31 26 = 0x3F → field w 25 24 ≠ 3 →
      ill (.relc d b o) (wordRelc d b o)) ∧
    (∀ x, fetchAt false s.cur (s.thr.pc + 4) s = .error (.trap x) → Traps (.relc d b o) s x) ∧
    (∀ r, s.thr.rsv = some r → r.va = ea → r.word = pa → r.granted = true → r.revoked = false →
      s.rsvQueues = [(pa, [s.cur])] → s.held = [] →
      let gone (pc : Word) : Thread := { s.thr.wentTo pc with rsv := none }
      let bytes : List Byte := (List.range 8).map (fun i => (s.rg d).extractLsb' (8 * i) 8)
      (∃ t, exec (.rel d b o) s = .next t ∧ t.rsvQueues = [] ∧ Stored s t pa bytes (gone (s.thr.pc + 4))) ∧
      ∀ w u, fetchAt false s.cur (s.thr.pc + 4) s = .ok (w, u) → field w 31 26 ≠ 0x3F →
        ∃ t, exec (.relc d b o) s = .next t ∧ t.rsvQueues = [] ∧ Stored s t pa bytes (gone (s.thr.pc + 8))) ∧
    (∀ r, s.thr.rsv = some r → r.va = ea → r.revoked = true → postedBy s s.cur = false →
      Gives (.rel d b o) s { s.thr.wentOn with rsv := none } ∧
      ∀ w u, fetchAt false s.cur (s.thr.pc + 4) s = .ok (w, u) → field w 31 26 ≠ 0x3F →
        Gives (.relc d b o) s { s.thr.wentOn with rsv := none })

/-- R213-R215: a far atomic replaces the N-bit word at g[a] and leaves the old word owed to g[d], sign-extended; the
three queue operations set the fail flag, bit N - 1, of the result where they change nothing. No other byte changes. -/
def Obligations.FarAtomicResults : Prop :=
  ∀ (s : State) (d a b : Reg) (l : BitVec 4) (w : Bool) (r : BitVec 2), Clear { scope := r != 0 } s → s.Unreserved →
    let n := width w
    let va := (s.rg a).toNat
    let pa := s.localPa va
    let m : BitVec n := BitVec.ofNat n (s.byteNat pa (n / 8))
    let x : BitVec n := (s.rg b).setWidth n
    let e : BitVec n := (s.rg d).setWidth n
    let lim : BitVec n := BitVec.ofNat n (s.byteNat (pa + n / 8) (n / 8))
    let fail : BitVec n := m ||| BitVec.ofNat n (2 ^ (n - 1))
    let done (i : Instr) (new res : BitVec n) : Prop := ∃ t, exec i s = .next t ∧
      Stored s t pa (toBytes (n / 8) new.toNat) (s.thr.owes (.gen d) ((res.signExtend 64).setWidth 128) l.toNat false)
    (LocalRange s va (n / 8) → va % (n / 8) = 0 →
      done (.fadd d a b l w r) (m + x) m ∧ done (.fand d a b l w r) (m &&& x) m ∧ done (.fOr d a b l w r) (m ||| x) m ∧
      done (.fxor d a b l w r) (m ^^^ x) m ∧ done (.fmax d a b l w r) (if m.toInt < x.toInt then x else m) m ∧
      done (.fmin d a b l w r) (if x.toInt < m.toInt then x else m) m ∧
      done (.fmaxn d a b l w r) (if m.toNat < x.toNat then x else m) m ∧
      done (.fminn d a b l w r) (if x.toNat < m.toNat then x else m) m ∧ done (.fswp d a b l w r) x m ∧
      done (.fcas d a b l w r) (if m = e then x else m) m ∧
      done (.fincb d a b l w r) (if m.toNat < x.toNat then m + 1 else m) (if m.toNat < x.toNat then m else fail) ∧
      done (.fincw d a b l w r) (if x = 0 then m + 1 else BitVec.ofNat n ((m.toNat + 1) % x.toNat)) m ∧
      done (.fdecp d a l w r) (if m = 0 then m else m - 1) (if m = 0 then fail else m)) ∧
    (LocalRange s va (n / 4) → va % (n / 4) = 0 →
      done (.faddl d a b l w r) (if m.toNat + x.toNat ≤ lim.toNat then m + x else m)
        (if m.toNat + x.toNat ≤ lim.toNat then m else fail))

/-- R199, R207, R213: a full/empty operation, a reservation, its release and a far atomic at an address that is not aligned to
their word take ALIGN with the address and have no effect.
R152: a load or a store of the local window that its allocation does not hold takes PROT.
R151: loads and stores in the reserved range between the aperture and the local window, and beyond the 52-bit space, take
XLATE. -/
def Obligations.AddressTraps : Prop :=
  (∀ (s : State) (d a b : Reg) (o : BitVec 10) (l : BitVec 4) (w : Bool), Clear {} s →
     let ea : Word := s.rg b + o.signExtend 64 * 8
     let traps (i : Instr) (x : Word) : Prop := Traps i s { cause := 3, eaddr := x }
     (ea.toNat % 8 ≠ 0 →
       traps (.ldf d b o l) ea ∧ traps (.ldfe d b o l) ea ∧ traps (.stf d b o) ea ∧ traps (.stff d b o) ea ∧
       traps (.feget d b o l) ea ∧ traps (.feempty b o) ea ∧ (s.thr.level ≠ 0 → traps (.femark d b o) ea) ∧
       (s.thr.rsv = none → traps (.rsv d b o l) ea ∧ (d ≠ 15 → traps (.rsvt d b o l) ea)) ∧
       ∀ r, s.thr.rsv = some r → r.va = ea → traps (.rel d b o) ea ∧
         ∀ x u, fetchAt false s.cur (s.thr.pc + 4) s = .ok (x, u) → field x 31 26 ≠ 0x3F → traps (.relc d b o) ea) ∧
     (let va := s.rg a
      (va.toNat % (width w / 8) ≠ 0 →
        traps (.fadd d a b l w 0) va ∧ traps (.fand d a b l w 0) va ∧ traps (.fOr d a b l w 0) va ∧
        traps (.fxor d a b l w 0) va ∧ traps (.fmax d a b l w 0) va ∧ traps (.fmin d a b l w 0) va ∧
        traps (.fmaxn d a b l w 0) va ∧ traps (.fminn d a b l w 0) va ∧ traps (.fswp d a b l w 0) va ∧
        traps (.fcas d a b l w 0) va ∧ traps (.fincb d a b l w 0) va ∧ traps (.fincw d a b l w 0) va ∧
        traps (.fdecp d a l w 0) va) ∧
      (va.toNat % (width w / 4) ≠ 0 → traps (.faddl d a b l w 0) va))) ∧
  ∀ (s : State) (d a b : Reg) (o : BitVec 10) (v : Bool) (l : BitVec 4),
    let ea (n : Nat) : Word := s.rg b + o.signExtend 64 * BitVec.ofNat 64 n
    let at_ (n : Nat) (va : Word) (i : Instr) : Prop :=
      (localBase ≤ va.toNat → va.toNat < 2 ^ 52 → localSlot s.cur ≠ 7 ∨ s.thr.level = 0 →
        s.thr.splen < va.toNat - localBase + n → Traps i s { cause := 6, eaddr := va }) ∧
      ((apertureTop ≤ va.toNat ∧ va.toNat < localBase) ∨ 2 ^ 52 ≤ va.toNat → Traps i s { cause := 5, eaddr := va })
    (Clear { tv := true, acq := true, cp := !v } s →
      at_ 1 (ea 1) (.ldb d b o v l) ∧ at_ 1 (ea 1) (.ldbs d b o v l) ∧ at_ 2 (ea 2) (.ldh d b o v l) ∧
      at_ 2 (ea 2) (.ldhs d b o v l) ∧ at_ 4 (ea 4) (.ldw d b o v l) ∧ at_ 4 (ea 4) (.ldws d b o v l) ∧
      at_ 8 (ea 8) (.ldd d b o v l) ∧ at_ 16 (ea 16) (.vld d b o v l)) ∧
    (Clear { tv := true, rel := true, cp := !v } s →
      at_ 1 (ea 1) (.stb d b o v) ∧ at_ 2 (ea 2) (.sth d b o v) ∧ at_ 4 (ea 4) (.stw d b o v) ∧ at_ 8 (ea 8) (.std d b o v) ∧
      at_ 16 (ea 16) (.vst d b o v)) ∧
    (Clear { tv := true, acq := true, cp := true } s →
      at_ 8 (s.rg a + s.rg b) (.ldxd d a b l) ∧ at_ 16 (s.rg a + s.rg b) (.vldx d a b l)) ∧
    (Clear { tv := true, rel := true, cp := true } s →
      at_ 8 (s.rg a + s.rg b) (.stxd d a b) ∧ at_ 16 (s.rg a + s.rg b) (.vstx d a b))

/-! ### The Ox, the Mule, buffers and the stash (09, 10, 07) -/

/-- R221-R226, R233, R235-R239: the instructions of the Ox, where the thread may use it and no trap stands before. GATH, BLD and
MMA join the queue; a fill is waited for, and an MMA leaves its tile owed under its number, waited for with L = 0. ACZ, ACRD,
ACWR, ACLD and ACST access a tile that nothing holds; ACLD and ACST hold it until the transfer is done; with a tile held they
wait; their instruction has been performed when its stream waits for the transfer. A fill comes after every posted operation of
its thread, and an ACLD too of the slot here (R226, R265). MXSTAT answers the status and clears the flags that g[a] names.
Inside a gate call each of them takes PROT, and in a thread that may not use the Ox ILL. -/
def Obligations.MatrixInstructions : Prop :=
  ∀ (s : State) (d a b : Reg) (tl : BitVec 3) (la lb : Bool) (n : BitVec 2) (l : BitVec 4), Clear {} s →
    let c := clusterOf s.cur
    let x := s.ox c
    let queued (cmd : OxCmd) : State := s.setOx c { x with queue := x.queue ++ [cmd] }
    let old := x.tile tl.toNat
    let put (y : Tile) : State := s.setOx c { x with tiles := x.tiles.set tl.toNat y }
    let row (i : Nat) : Nat := (s.rg a + BitVec.ofNat 64 i * s.rg b).toNat
    let hold : List Transfer := x.transfers ++ [{ tile := tl.toNat, slot := s.cur, body := false }]
    let p := 64 * field (s.rg b) 5 0 + 16 * field (s.rg b) 7 6
    let closed (ok : Prop) (i : Instr) (w : Nat) : Prop :=
      (oxDenied s = true → Traps i s { cause := 1, eaddr := BitVec.ofNat 64 w }) ∧
      (oxDenied s = false → ok → s.thr.depth ≠ 0 → Traps i s { cause := 6, eaddr := 0 })
    closed True (.gath d a b la n) (wordGath d a b la n) ∧ closed True (.bld a b la n) (wordBld a b la n) ∧
    closed True (.mma tl la lb l) (wordMma tl la lb l) ∧ closed True (.acz tl) (wordAcz tl) ∧
    closed True (.acld tl a b) (wordAcld tl a b) ∧ closed (n ≠ 3) (.acst tl a b n) (wordAcst tl a b n) ∧
    closed (d.toNat ≤ 12) (.acrd d tl b) (wordAcrd d tl b) ∧ closed (a.toNat ≤ 12) (.acwr tl a b) (wordAcwr tl a b) ∧
    closed True (.mxstat d a) (wordMxstat d a) ∧
    (oxDenied s = false → s.thr.depth = 0 →
      (x.queue.length < 32 → waitsIn s c = [] → s.thr.wait = none → postedBy s s.cur = false →
        ((s.rg a).toNat % 64 = 0 → (s.rg b).toNat % 64 = 0 →
          exec (.bld a b la n) s = .next ((queued (.fill (2 + la.toNat) false s.cur false (s.rg a) (s.rg b) (s.rg 0)
            (n.toNat + 1))).setThr (s.thr.waits .fill)) ∧
          ((s.rg d).toNat % 16 = 0 → exec (.gath d a b la n) s = .next ((queued (.fill la.toNat true s.cur false (s.rg a)
            (s.rg b) (s.rg d) (n.toNat + 1))).setThr (s.thr.waits .fill)))) ∧
        (let t := s.thr.owes (.tile tl.toNat) (BitVec.ofNat 128 s.serial) l.toNat false
         exec (.mma tl la lb l) s =
          .next ((queued (.mma tl.toNat la.toNat lb.toNat s.serial s.cur s.thr.unit false)).next.setThr
            (if l = 0 then t.waits (.mmaDone tl.toNat) else t)))) ∧
      (x.held tl.toNat = true →
        let waits (i : Instr) : Prop := Waits i s (.tile tl.toNat)
        waits (.acz tl) ∧ waits (.acld tl a b) ∧ (n ≠ 3 → waits (.acst tl a b n)) ∧ (d.toNat ≤ 12 → waits (.acrd d tl b)) ∧
          (a.toNat ≤ 12 → waits (.acwr tl a b))) ∧
      (x.held tl.toNat = false →
        exec (.acz tl) s = .next ((put {}).setThr s.thr.wentOn) ∧
        (d.toNat ≤ 12 → ∃ u : Thread, Gives (.acrd d tl b) s u.wentOn ∧ u = { s.thr.withVx true with v := u.v } ∧
          (∀ m < 4, ∀ e < 4, lane (u.rv (d + BitVec.ofNat 4 m)) 32 e = (old.elems.get 0 (p + 4 * m + e)).toNat) ∧
          ∀ r : Reg, r.toNat < d.toNat ∨ d.toNat + 4 ≤ r.toNat → u.rv r = s.thr.rv r) ∧
        (a.toNat ≤ 12 → ∃ y : Tile, exec (.acwr tl a b) s = .next ((put y).setThr (s.thr.withVx true).wentOn) ∧
          y.nv = old.nv ∧ y.ovf = old.ovf ∧
          (∀ k < 16, (y.elems.get 0 (p + k)).toNat = lane (s.thr.rv (a + BitVec.ofNat 4 (k / 4))) 32 (k % 4)) ∧
          ∀ k, k < p ∨ p + 16 ≤ k → y.elems.get 0 k = old.elems.get 0 k) ∧
        ((s.rg a).toNat % 64 = 0 → (s.rg b).toNat % 64 = 0 → (∀ i < 64, LocalRange s (row i) 256) → postedBy s s.cur = false →
          ∃ y : Tile, exec (.acld tl a b) s =
              .next ((s.setOx c { x with tiles := x.tiles.set tl.toNat y, transfers := hold }).setThr (s.thr.wentOn.waits .transfer)) ∧
            y.nv = old.nv ∧ y.ovf = old.ovf ∧
            ∀ i < 64, ∀ j < 64, (y.at i j).toNat = s.byteNat (s.localPa (row i) + 4 * j) 4) ∧
        (∀ q : BitVec 2, q ≠ 3 → s.Unreserved → (s.rg a).toNat % 64 = 0 → (s.rg b).toNat % 64 = 0 →
          let f := formatOf q
          let w := f.bits / 8
          (∀ i < 64, LocalRange s (row i) (64 * w)) →
          (∀ i < 64, ∀ k < 64, i ≠ k → row i + 64 * w ≤ row k ∨ row k + 64 * w ≤ row i) →
          ∃ t, exec (.acst tl a b q) s = .next t ∧ t.thr = (s.thr.wentOn.waits .transfer).watched t.thr ∧ (t.ox c).transfers = hold ∧
            (∀ i < 64, ∀ j < 64, t.byteNat (s.localPa (row i) + w * j) w = (f.round 0 false (fp32.val (old.at i j).toNat)).1 % 2 ^ (8 * w)) ∧
            (∀ i < 64, ∀ k < w, t.desc (s.localPa (row i) + 64 * k) = if q = 0 then 0x7F31 else if q = 1 then 0x7F40 else 0x7F30) ∧
            ∀ y, (∀ i < 64, y < s.localPa (row i) ∨ s.localPa (row i) + 64 * w ≤ y) →
              Memory.get t.mem y = Memory.get s.mem y)) ∧
      ∃ t, exec (.mxstat d a) s = .next (t.setThr (s.thr.wg d x.status).wentOn) ∧ t = s.setOx c (t.ox c) ∧
        t.ox c = { x with tiles := (t.ox c).tiles } ∧
        ∀ i < 8, (t.ox c).tile i =
          if (s.rg a).getLsbD i then { x.tile i with nv := false, ovf := false } else x.tile i)

/-- R222, R226, R230-R236: the steps of the Ox. A fill whose reads are granted and charge nothing gives its latch and its
stream goes on; the next MMA starts once leave is held; the started MMA adds the products of its rows and columns to its tile
and is no longer pending in its issuer; a transfer ends, and a stream that waits for it waits no longer; leave is granted and, unused for 256 cycles, given up. -/
def Obligations.MatrixEvents : Prop :=
  ∀ (s : State) (c : Nat),
    let x := s.ox c
    (∀ latch gather k base pitch list n l, nextCmd OxCmd.isFill [] x.queue = some (.fill latch gather k false base pitch list n) →
      (s.thread k).rep = none →
      performFill (ctxOf s k) (decide (2 ≤ latch)) gather base pitch list n (asStream k false s) = .ok (asStream k false s, l) →
      ∃ t, exec (.latchFillComplete c) s = .next t ∧ Resumes s t k ∧ SameMemory s t ∧
        t.ox c = { x with queue := x.queue.erase (.fill latch gather k false base pitch list n),
                          latches := x.latches.set latch l }) ∧
    (∀ tl a b n k u, x.nextMma = some (.mma tl a b n k u false) → x.leave = true →
      exec (.mmaStart c) s = .next (s.setOx c { x with
        queue := x.queue.map (fun d => if d = .mma tl a b n k u false then .mma tl a b n k u true else d) })) ∧
    (∀ q1 q2 tl a b n k u, x.queue = q1 ++ .mma tl a b n k u true :: q2 → (∀ d ∈ q1, d.isFill = true) →
      let la := x.latch a
      let lb := x.latch (2 + b)
      let cls := mmaClasses la lb
      let len := mmaK cls.1 cls.2
      let acc (i j : Nat) := mmaElement ((x.tile tl).at i j).toNat (rowValues la cls.1 len i) (rowValues lb cls.2 len j)
      ∃ t, exec (.mmaComplete c) s = .next t ∧ (t.ox c).queue = q1 ++ q2 ∧
        (∀ i < 64, ∀ j < 64, ((t.ox c).tile tl).at i j = BitVec.ofNat 32 (acc i j).bits) ∧
        (((t.ox c).tile tl).nv = true ↔ (x.tile tl).nv = true ∨ ∃ i < 64, ∃ j < 64, (acc i j).nv = true) ∧
        (((t.ox c).tile tl).ovf = true ↔ (x.tile tl).ovf = true ∨ ∃ i < 64, ∃ j < 64, (acc i j).ovf = true) ∧
        (∀ y, y ≠ tl → (t.ox c).tile y = x.tile y) ∧
        (t.thread k).pending = (s.thread k).pending.filter (fun p => p.dest ≠ .tile tl ∨ p.value ≠ BitVec.ofNat 128 n) ∧
        SameMemory s t) ∧
    (∀ f r, x.transfers = f :: r → f.body = false → (s.thread f.slot).rep = none →
      ∃ t, exec (.accumTransferComplete c) s = .next t ∧ (t.ox c).transfers = r ∧ SameMemory s t ∧
        t.thread f.slot =
          if (s.thread f.slot).wait = some .transfer then { s.thread f.slot with wait := none } else s.thread f.slot) ∧
    (x.leave = false → x.nextMma.isSome = true → ∃ j, j = { (s.cluster c).island with mhz := j.mhz, toMhz := j.toMhz } ∧
      exec (.leaveGrant c) s =
        .next (s.setCluster c { s.cluster c with ox := { x with leave := true, leaveIdle := 0 }, island := j })) ∧
    (x.leave = true → (∀ d ∈ x.queue, d.isFill = true) → 256 ≤ x.leaveIdle →
      exec (.leaveHoldExpiry c) s = .next (s.setOx c { x with leave := false }))

/-- R249, R250: a copy instruction with a completion object that is absent or lies aligned in the thread's local window. A quad that breaks a limit
answers -1, a CPYCB of a buffer that is not live, not ENG or not of the domain -3; a command that the Mule has room for joins
its queue and answers its number, which counts the accepted commands of the cluster (the first is the model's: log entry 12);
one that it has no room for waits.
R248, R251, R253, R254: the Mule moves the bytes of a command: here one CPY within a block of the local window, whose words
are all full; the bytes arrive, no others change, and the command has ended with the count of its bytes. An ended command
writes word 1 and then word 0 of its completion object, or writes none, and leaves the queue. -/
def Obligations.CopyResults : Prop :=
  (∀ (s : State) (d a b l : Reg), Clear {} s → a ≠ 0 → a.toNat ≤ 12 →
     (s.rg b = 0 ∨ ((s.rg b).toNat % 16 = 0 ∧ LocalRange s (s.rg b).toNat 16)) →
     let c := clusterOf s.cur
     let cl := s.cluster c
     let cmd (fn : Nat) : CopyCmd :=
       { fn := fn, number := cl.muleCount % 2 ^ 48, slot := s.cur, unit := s.thr.unit, task := s.thr.task
         quad := #v[s.rg a, s.rg (a + 1), s.rg (a + 2), s.rg (a + 3)], comp := s.rg b
         ctx := { s.ctx with agent := none, slot := none, engine := some (muleNumber c) } }
     let gives (i : Instr) (t : State) (x : Word) : Prop :=
       exec i s = .next (t.setThr (s.thr.owes (.gen d) (x.setWidth 128) l.toNat false))
     let accepted (i : Instr) (fn size : Nat) : Prop :=
       let m := if (cmd fn).total size = 0 then { cmd fn with status := some (0, 0) } else cmd fn
       gives i (s.setCluster c { cl with mule := cl.mule ++ [m], muleCount := cl.muleCount + 1 })
         (BitVec.ofNat 64 (cmd fn).number)
     let plain (i : Instr) (fn : Nat) : Prop :=
       ((cmd fn).refused = true → gives i s (-1)) ∧
       ((cmd fn).refused = false → muleRoom s s.cur = true → postedBy s s.cur = false → accepted i fn 0) ∧
       ((cmd fn).refused = false → muleRoom s s.cur = false → Waits i s .muleRoom)
     plain (.cpy d a b l) 0 ∧ plain (.cpy2 d a b l) 1 ∧ plain (.cpyg d a b l) 2 ∧ plain (.cpys d a b l) 3 ∧
     (let buf := cl.bufs.get {} (field (s.rg (a + 1)) 7 0)
      ((cmd 4).refused = true → gives (.cpycb d a b l) s (-1)) ∧
      ((cmd 4).refused = false → buf.live = false ∨ buf.dom ≠ s.thr.dom ∨ buf.eng = false → gives (.cpycb d a b l) s (-3)) ∧
      ((cmd 4).refused = false → buf.live = true → buf.dom = s.thr.dom → buf.eng = true →
        (muleRoom s s.cur = true → postedBy s s.cur = false → accepted (.cpycb d a b l) 4 buf.size) ∧
        (muleRoom s s.cur = false → Waits (.cpycb d a b l) s .muleRoom)))) ∧
  ((∀ (s : State) (c : Nat) (m : CopyCmd), s.mule c = [m] → m.fn = 0 → m.pos = 0 → m.written = 0 → m.status = none →
     m.request = none → m.leave = 0 → m.taken = none → s.side = [] → s.Unreserved → (s.cluster c).stash = [] → c < 128 →
     m.ctx.cluster = c → m.ctx.localOpen = true → m.ctx.spbase + m.ctx.splen ≤ 0x400000 →
     let n := field m.quad[2] 39 0
     let src := m.quad[0].toNat
     let dst := m.quad[1].toNat
     let place (va : Nat) : Nat := scratchBase c + m.ctx.spbase + (va - localBase)
     let inside (va : Nat) : Prop := localBase ≤ va ∧ va - localBase + n ≤ m.ctx.splen ∧ va % 64 + n ≤ 64
     0 < n → inside src → inside dst → src + n ≤ dst ∨ dst + n ≤ src →
     ∃ t, exec (.muleChunk c) s = .next t ∧
       (∀ i < n, Memory.get t.mem (place dst + i) = Memory.get s.mem (place src + i)) ∧
       (∀ a, a < place dst ∨ place dst + n ≤ a → Memory.get t.mem a = Memory.get s.mem a) ∧
       ∃ m2, t.mule c = [m2] ∧ m2.number = m.number ∧ m2.status = some ((n : Int), 0) ∧ m2.comp = m.comp) ∧
   ∀ (s : State) (c : Nat) (m : CopyCmd) (rest : List CopyCmd) (x : Int) (at_ : Word), s.mule c = m :: rest →
     m.status = some (x, at_) → m.request = none → (s.cluster c).muleHeld = none → (∀ y ∈ rest, y.number ≠ m.number) →
     (m.comp = 0 → exec (.muleCommandComplete c) s = .next (leaveMule c rest s)) ∧
     (m.comp ≠ 0 → ∀ s1 s2,
       engineStore m.ctx 0 (m.comp.toNat + 8) (toBytes 8 at_.toNat) (setMuleHeld c none s) = .ok s1 →
       engineStore m.ctx 0 m.comp.toNat (toBytes 8 (BitVec.ofInt 64 x).toNat) s1 = .ok s2 → s2.mule c = m :: rest →
       exec (.muleCommandComplete c) s = .next (leaveMule c rest s2)) ∧
     ∀ u : State, (leaveMule c rest u).mule c = rest ∧ (rest ≠ [] → leaveMule c rest u = u.setMule c rest))


/-- R259-R263: the instructions of circular buffers on a buffer that nobody waits for. CBINIT creates, refuses or releases;
CBACQ and CBRES take the oldest filled or free slot and answer its address, or wait or answer 0; CBPUB and CBREL pass a slot
on; CBSTAT answers the counters. A number above 255, a buffer of another domain, or none takes CBFAULT with g[a], and so does a
slot outside the thread's allocation. CBRES with the wait variant waits on a full buffer, in order of arrival. -/
def Obligations.BufferResults : Prop :=
  (∀ (s : State) (d a b : Reg), Clear {} s → s.thr.wait = none → postedBy s s.cur = false →
    let c := clusterOf s.cur
    let i := (s.rg a).toNat
    let buf := s.buffer c i
    let x := s.rg b
    let off := field x 21 0
    let size := field x 47 32 * 64
    let n := field x 63 48
    let fault (j : Instr) : Prop := Traps j s { cause := 0x19, eaddr := s.rg a }
    let gives (j : Instr) (y : Buffer) (r : Word) : Prop :=
      exec j s = .next ((s.setBuffer c i y).setThr (s.thr.wg d r).wentOn)
    let goes (j : Instr) (y : Buffer) : Prop := exec j s = .next ((s.setBuffer c i y).setThr s.thr.wentOn)
    (256 ≤ i ∨ (buf.live = true ∧ buf.dom ≠ s.thr.dom) →
      fault (.cbinit d a b) ∧ fault (.cbacq d a) ∧ fault (.cbrel a b) ∧ fault (.cbstat d a) ∧ fault (.cbres d a) ∧
      fault (.cbpub a b)) ∧
    (buf.live = false → fault (.cbacq d a) ∧ fault (.cbrel a b) ∧ fault (.cbres d a) ∧ fault (.cbpub a b)) ∧
    (i < 256 → buf.live = false →
      Gives (.cbstat d a) s (s.thr.wg d 0).wentOn ∧ (x = 0 → Gives (.cbinit d a b) s (s.thr.wg d 0).wentOn) ∧
      (x ≠ 0 →
        let bad := off % 64 ≠ 0 ∨ size = 0 ∨ 65536 < size ∨ n = 0 ∨ 4096 < n ∨ field x 31 23 ≠ 0
        (bad → Gives (.cbinit d a b) s (s.thr.wg d (-2)).wentOn) ∧
        (¬bad → s.ctx.localOpen = false ∨ s.ctx.splen < off + size * n → Gives (.cbinit d a b) s (s.thr.wg d (-3)).wentOn) ∧
        (¬bad → s.ctx.localOpen = true → off + size * n ≤ s.ctx.splen → (s.part s.ctx.part).portNoticed = false →
         gives (.cbinit d a b)
          { live := true, dom := s.thr.dom, eng := x.getLsbD 22, base := s.ctx.spbase + off, size := size, slots := n, free := n,
            unit := s.thr.unit, task := s.thr.task.map (fun t => (coreOf s.cur, t)) } 0))) ∧
    (i < 256 → buf.live = true → buf.dom = s.thr.dom → s.threads.all (fun e => e.2.wait.isNone) = true →
      (x ≠ 0 → Gives (.cbinit d a b) s (s.thr.wg d (-1)).wentOn) ∧
      (x = 0 → ∃ t, exec (.cbinit d a b) s = .next t ∧ t.thr = (s.thr.wg d 0).wentOn ∧ (t.buffer c i).live = false ∧
        SameMemory s t ∧ SameOthers s t) ∧
      Gives (.cbstat d a) s (s.thr.wg d (BitVec.ofNat 64 (2 ^ 63 + buf.eng.toNat * 2 ^ 62 + buf.filled * 2 ^ 39 +
        buf.free * 2 ^ 26 + buf.held * 2 ^ 13 + buf.resv))).wentOn ∧
      (buf.filled = 0 → s.Unheld → exec (.cbacq d a) s =
        .next ((s.setCluster c { s.cluster c with arrivals := (s.cluster c).arrivals + 1 }).setThr
          (s.thr.waits (.cbacq i (s.cluster c).arrivals d)))) ∧
      (0 < buf.filled → slotAddress s.ctx buf buf.rd = none → fault (.cbacq d a)) ∧
      (0 < buf.filled → ∀ va, slotAddress s.ctx buf buf.rd = some va → gives (.cbacq d a)
        { buf with filled := buf.filled - 1, held := buf.held + 1, rd := (buf.rd + 1) % buf.slots } va) ∧
      (0 < buf.held → buf.released = [] → goes (.cbrel a 0)
        { buf with held := buf.held - 1, free := buf.free + 1,
                   tokens := buf.tokens.erase ((buf.rd + buf.slots - buf.held) % buf.slots) }) ∧
      (buf.eng = true → fault (.cbres d a) ∧ fault (.cbpub a b)) ∧
      (buf.eng = false → buf.free = 0 → Gives (.cbres d a) s (s.thr.wg d 0).wentOn) ∧
      (buf.eng = false → 0 < buf.free → slotAddress s.ctx buf buf.wr = none → fault (.cbres d a)) ∧
      (buf.eng = false → 0 < buf.free → ∀ va, slotAddress s.ctx buf buf.wr = some va → gives (.cbres d a)
        { buf with free := buf.free - 1, resv := buf.resv + 1, wr := (buf.wr + 1) % buf.slots } va) ∧
      (buf.eng = false → 0 < buf.resv → buf.done = [] → buf.task = none →
        slotOfAddress s.ctx buf x = some ((buf.wr + buf.slots - buf.resv) % buf.slots) → goes (.cbpub a b)
          { buf with resv := buf.resv - 1, filled := buf.filled + 1 }))) ∧
  ∀ (s : State) (d a : Reg), Clear { wait := true } s → s.waitHint = true → s.Unheld →
    let c := clusterOf s.cur
    let i := (s.rg a).toNat
    let buf := s.buffer c i
    i < 256 → buf.live = true → buf.dom = s.thr.dom → buf.eng = false → buf.free = 0 →
      exec (.cbres d a) s = .next ((s.setCluster c { s.cluster c with arrivals := (s.cluster c).arrivals + 1 }).setThr
        (s.thr.waits (.cbres i (s.cluster c).arrivals d)))

/-- R149, R150, R177-R186: BDLD and BDST read and write the descriptor of a block. STMAP takes the lowest free entry for a
range whose pages pass, STUNMAP frees an entry of the domain, here one of whose lines the stash holds none; PREF changes no
register, and nothing where no page of its range is mapped; STWB changes nothing without an entry of the domain; TILEREG
registers, refuses or releases a tensor, here one of whose lines no slice holds any (a base that is not 128-aligned answers -4:
log entry 55); TRES sets the priority of a tensor and answers the old one. -/
def Obligations.DescriptorStashTensorResults : Prop :=
  ∀ (s : State) (d a b e : Reg) (f : Bool),
    let c := clusterOf s.cur
    let cl := s.cluster c
    let p := s.partOf c
    let ts := (s.part p).tensors
    let gives (i : Instr) (x : Word) : Prop := Gives i s (s.thr.wg d x).wentOn
    (Clear { cp := true } s →
      (∃ t, exec (.pref a b f) s = .next t ∧ t.thr.pc = s.thr.pc + 4 ∧ t.thr.g = s.thr.g ∧ t.thr.v = s.thr.v) ∧
      (mappedPieces s s.ctx (s.rg a).toNat (min (s.rg b).toNat 65536) .load = [] → Gives (.pref a b f) s s.thr.wentOn)) ∧
    (Clear {} s →
      ((s.rg a).toNat % 64 = 0 → LocalRange s (s.rg a).toNat 64 → s.Unreserved →
        let pa := s.localPa (s.rg a).toNat
        gives (.bdld d a) ((s.desc pa).setWidth 64) ∧
        ∃ t, exec (.bdst a b) s = .next t ∧ t.desc pa = (s.rg b).setWidth 16 ∧ t.thr = s.thr.wentOn.watched t.thr ∧
          (∀ x, x < 2 ^ 44 → x / 64 ≠ pa / 64 → t.sideband x = s.sideband x) ∧ (∀ x, x < 2 ^ 44 → t.fe x = s.fe x) ∧
          ∀ x, Memory.get t.mem x = Memory.get s.mem x) ∧
      (cl.stash.all (fun x => !(x.2.live && x.2.dom == s.thr.dom)) = true → Gives (.stwb a b) s s.thr.wentOn) ∧
      (let i := (s.rg a).toNat
       let entry := cl.stash.get {} i
       (entry.live = false ∨ entry.dom ≠ s.thr.dom → gives (.stunmap d a) (-1)) ∧
       (entry.live = true → entry.dom = s.thr.dom →
         heldLines s (2048 + c) (fun _ _ => true) (entry.pages.map (fun q => (q.pa, q.len))) = [] →
         exec (.stunmap d a) s = .next ((s.setCluster c { cl with stash := cl.stash.erase i }).setThr (s.thr.wg d 0).wentOn))) ∧
      (let len := field (s.rg e) 22 0
       field (s.rg e) 31 23 = 0 → field (s.rg e) 63 33 = 0 → len % 4096 = 0 → (s.rg a).toNat % 4096 = 0 →
       (s.rg b).toNat % 4096 = 0 → 0 < len → len ≤ 0x400000 → LocalRange s (s.rg a).toNat len →
       let entry : StashEntry :=
         { live := true, area := s.thr.spbase + ((s.rg a).toNat - localBase), va := (s.rg b).toNat, len := len,
           writable := (s.rg e).getLsbD 32, dom := s.thr.dom, unit := s.thr.unit,
           task := s.thr.task.map (fun x => (coreOf s.cur, x)) }
       ∀ ps, entry.translate s s.ctx = .ok ps → ordCheck s ps = .ok () → charge s.ctx .load ps s = .ok s →
       exec (.stmap d a b e) s =
         .next ((s.setCluster c { cl with stash := cl.stash.set 0 { entry with pages := ps.map stashPage } }).setThr
           (s.thr.wg d 0).wentOn)) ∧
      (∀ i t, ts.find? (fun e => e.1 == (s.rg a).toNat && (e.2.dom == s.thr.dom || decide (1 ≤ s.thr.level))) = some (i, t) →
        (7 < (s.rg b).toNat → gives (.tres d a b) (-2)) ∧
        ((s.rg b).toNat ≤ 7 → exec (.tres d a b) s = .next ((s.setPart p { s.part p with
          tensors := ts.set i { t with prio := (s.rg b).toNat } }).setThr (s.thr.wg d (BitVec.ofNat 64 t.prio)).wentOn))) ∧
      ((∀ e ∈ ts, e.1 ≠ (s.rg a).toNat) → gives (.tres d a b) (-1)) ∧
      ((s.rg a).toNat % 32 = 0 → LocalRange s (s.rg a).toNat 32 → postedBy s s.cur = false →
        let w (k : Nat) : Nat := s.byteNat (s.localPa (s.rg a).toNat + 8 * k) 8
        let rows := w 2 % 2 ^ 32
        let tileRows := w 2 / 2 ^ 32 % 2 ^ 16
        let tileWidth := w 2 / 2 ^ 48
        let bad := rows = 0 ∨ tileRows = 0 ∨ w 1 = 0 ∨ w 1 % 128 ≠ 0 ∨ tileWidth = 0 ∨ tileWidth % 128 ≠ 0 ∨
          w 1 % tileWidth ≠ 0 ∨ w 0 % 128 ≠ 0
        (512 ≤ w 3 ∨ (w 3 < 256 ∧ bad) → gives (.tilereg d a) (-4)) ∧
        let holds (x : SMap Tensor) (y : Word) : Prop :=
          exec (.tilereg d a) s = .next ((s.setPart p { s.part p with tensors := x }).setThr (s.thr.wg d y).wentOn)
        (256 ≤ w 3 → w 3 < 512 → (∀ e ∈ ts, e.1 ≠ w 3 % 256) → gives (.tilereg d a) (-5)) ∧
        (∀ i t, 256 ≤ w 3 → w 3 < 512 → i = w 3 % 256 →
          ts.find? (fun e => e.1 == i && (e.2.dom == s.thr.dom || decide (1 ≤ s.thr.level))) = some (i, t) →
          linesHeld s t.pa (t.rows * t.pitch) = [] → holds (ts.erase i) (BitVec.ofNat 64 i)) ∧
        (w 3 < 256 → ¬bad → ts = [] → ∀ ps q, rangeOf s s.ctx (w 0) (rows * w 1) .load = .ok ps → ps.head? = some q →
          ordCheck s ps = .ok () → contiguous ps = true → charge s.ctx .load ps s = .ok s →
          linesHeld s q.pa (rows * w 1) = [] →
          holds [(0, { base := w 0, pa := q.pa, pitch := w 1, rows := rows, tileRows := tileRows, tileWidth := tileWidth,
                       dom := s.thr.dom })] 0)))

/-! ### Gates, tasks, launches (13, 15) -/

/-- R292-R297, R303-R305, R447: GCALL, where its handle, gate slot, callee, slice and window allow it, enters the callee at U
with the window, one level deeper and with the lower half of the registers; each condition that fails answers its status in g1.
GRET and GABT end the innermost frame: the caller's registers, status and pc come back, GABT with g1 = g[a] at most -7. A handler
whose budget has run out ends as a frame; an orphan whose grace has run out takes CALLERGONE at its gate's unwind entry. -/
def Obligations.GateCalls : Prop :=
  (∀ (s : State) (a b c : Reg) (e gen : Word), Clear {} s → s.thr.rsv = none →
    let t := s.thr
    let p := s.partOf (clusterOf s.cur)
    let fails (x : Word) : Prop := Gives (.gcall a b c) s (t.wg 1 x).wentOn
    let dom : BitVec 12 := e.extractLsb' 32 12
    handleEntry s p t.dom (s.rg a) = .ok (e, gen) →
    (field e 1 0 ≠ 1 ∨ e.getLsbD 16 = false → fails (-4)) ∧
    ∀ g slot rights state minslice winmax pool entry : Word, field e 1 0 = 1 → e.getLsbD 16 = true →
      gateIpa s p dom (field e 51 44) = .ok g.toNat → ipaLoad s p (g.toNat + 0x38) = .ok slot →
      ipaLoad s p (g.toNat + 0x08) = .ok rights → ipaLoad s p (s.domIpa p dom 0) = .ok state →
      ipaLoad s p (g.toNat + 0x10) = .ok minslice → ipaLoad s p (g.toNat + 0x30) = .ok winmax →
      ipaLoad s p (g.toNat + 0x18) = .ok pool → ipaLoad s p g.toNat = .ok entry →
      let valid := field slot 1 0 = 1 ∧ field slot 31 16 = field gen 15 0 ∧ entryRights e &&& field rights 15 0 = field rights 15 0
      let long := t.sliceOn = true ∧ t.remain < field minslice 31 0
      (¬valid → fails (-4)) ∧ (valid → field state 1 0 ≠ 1 → fails (-3)) ∧
      (valid → field state 1 0 = 1 → t.depth = 7 → fails (-5)) ∧
      (valid → field state 1 0 = 1 → t.depth ≠ 7 → long → fails (-2)) ∧
      (valid → field state 1 0 = 1 → t.depth ≠ 7 → ¬long → callWindow s winmax (s.rg b) (s.rg c) = none → fails (-6)) ∧
      ∀ win, valid → field state 1 0 = 1 → t.depth ≠ 7 → ¬long → callWindow s winmax (s.rg b) (s.rg c) = some win →
        (unlessFault (poolHeader s s.cur dom pool.toNat) = .ok none → fails (-4)) ∧
        (∀ n, unlessFault (poolHeader s s.cur dom pool.toNat) = .ok (some (0, n)) → fails (-1)) ∧
        ∀ n k stack s1 u, unlessFault (poolHeader s s.cur dom pool.toNat) = .ok (some (k + 1, n)) →
          unlessFault (poolTake s s.cur dom pool.toNat) = .ok (some (stack, s1)) →
          s.feLists = [] → enterGate s1 dom (field e 51 44) slot entry stack win g.toNat = .ok u →
          exec (.gcall a b c) s = .next u ∧ u.thr.pc = entry ∧ u.thr.dom = dom ∧ u.thr.level = 0 ∧ u.thr.depth = t.depth + 1 ∧
          u.thr.rg 14 = stack ∧ (∀ r : Reg, r.toNat < 8 → u.thr.rg r = t.rg r) ∧
          (∀ r : Reg, 8 ≤ r.toNat → r ≠ 14 → u.thr.rg r = 0) ∧
          ∀ r : Reg, u.thr.rv r = if r.toNat < 4 then t.rv r else 0) ∧
  (∀ (s : State) (a : Reg) (w ret status_ : Word), Clear {} s → s.thr.rsv = none → s.thr.depth ≠ 0 → s.thr.unwind = none →
    s.feLists = [] → frameWord s s.cur s.thr.depth 0 = .ok w → frameOrphan w = false →
    let t := s.thr
    let back (s1 u : State) : Prop :=
      frameWord s1 s.cur t.depth 0x08 = .ok ret → frameWord s1 s.cur t.depth 0x10 = .ok status_ →
        u.thr.pc = ret ∧ u.thr.dom = frameCaller w ∧ u.thr.depth = t.depth - 1 ∧ u.thr.level = field status_ 1 0 ∧
        u.thr.vx = t.vx ∧ (∀ r : Reg, 4 ≤ r.toNat → u.thr.rv r = 0) ∧
        ∀ r : Reg, 8 ≤ r.toNat → frameWord s1 s.cur t.depth (0x40 + 8 * (r.toNat - 8)) = .ok (u.thr.rg r)
    let s1 := s.setThr t.disarm.wentOn
    (∀ u, frameWord s1 s.cur t.depth 0 = .ok w → endFrame s.cur s1 = .ok u →
      exec .gret s = .next u ∧ back s1 u ∧ (∀ r : Reg, r.toNat < 8 → u.thr.rg r = t.rg r) ∧
      ∀ r : Reg, r.toNat < 4 → u.thr.rv r = t.rv r) ∧
    (∀ u, frameWord s1 s.cur t.depth 0 = .ok w → endFrame s.cur s1 = .ok u →
      ∃ v, exec (.gabt a) s = .next v ∧ back s1 v ∧ v.thr.rg 1 = (if (s.rg a).toInt ≤ -7 then s.rg a else -7) ∧
      (∀ r : Reg, 2 ≤ r.toNat → r.toNat < 8 → v.thr.rg r = 0) ∧ ∀ r, v.thr.rv r = 0)) ∧
  ∀ (s : State) (k : Nat) (u : Unwind), (s.thread k).unwind = some u →
    let s1 := { withdraw k s with cur := k }
    (s1.thread k).unwind = some u →
    (∀ m s2, (s.thread k).budgetOver = true → u.dying = false → u.target = some m → u.orphan = false →
      u.outer = [] → u.frame = (s1.thread k).depth → u.frame ≠ 0 → endFrame k (quit k s1) = .ok s2 →
      (s2.thread k).unwind = some u → s2.held = [] → (s2.thread k).depth < u.frame → (s2.thread k).depth < m →
      ∃ t, exec (.unwindBudgetExpiry k) s = .next t ∧ (t.thread k).rg 1 = -3 ∧ (t.thread k).unwind = none ∧
        (t.thread k).pc = (s2.thread k).pc ∧ ∀ r : Reg, 2 ≤ r.toNat → r.toNat < 8 → (t.thread k).rg r = 0) ∧
    ∀ entry budget, (s.thread k).graceOver = true → u.unread = false → s1.held = [] → unwindEntry k s1 = .ok (entry, budget) → entry ≠ 0 →
      ∃ t, exec (.callergone k) s = .next t ∧ (t.thread k).pc = entry ∧ (t.thread k).ecause = 0x0E ∧ (t.thread k).level = 0 ∧
        (t.thread k).unwind =
          some { u with dying := true, running := true, frame := (s1.thread k).depth, budget := budget }

/-- R284-R287, R298-R301, R447: DINFO answers the item that g[a] names; GPUB fills a gate slot of the own domain under a new
generation and places its handle; GREV withdraws, restores or revokes it; HGIVE passes a handle on with fewer rights; HDROP
empties an entry. What fails answers a negative status and changes nothing. -/
def Obligations.HandleResults : Prop :=
  ∀ (s : State) (d a b c : Reg), Clear {} s →
    let t := s.thr
    let p := s.partOf (clusterOf s.cur)
    let gives (i : Instr) (x : Word) : Prop := Gives i s (t.wg d x).wentOn
    let after (i : Instr) (u : State) (x : Word) : Prop := exec i s = .next (u.setThr (u.thr.wg d x).wentOn)
    let x := (s.rg a).toNat
    (x = 0 → gives (.dinfo d a) (t.dom.setWidth 64)) ∧ (x = 1 → gives (.dinfo d a) (t.root.setWidth 64)) ∧
    (x = 2 → gives (.dinfo d a) (BitVec.ofNat 64 t.depth)) ∧ (x = 6 → gives (.dinfo d a) (BitVec.ofNat 64 t.remain)) ∧
    (x = 3 ∨ x = 4 → t.depth = 0 → gives (.dinfo d a) (-1)) ∧ (x = 5 ∨ x = 9 → t.depth = 0 → gives (.dinfo d a) 0) ∧
    (∀ w, t.depth ≠ 0 → frameWord s s.cur t.depth 0 = .ok w →
      (x = 3 → gives (.dinfo d a) ((frameCaller w).setWidth 64)) ∧
      (x = 4 → gives (.dinfo d a) (BitVec.ofNat 64 (field w 23 16))) ∧
      (x = 9 → gives (.dinfo d a) (BitVec.ofNat 64 (w.getLsbD 26).toNat + 2 * BitVec.ofNat 64 (w.getLsbD 25).toNat))) ∧
    (∀ w, t.depth ≠ 0 → x = 5 → frameWord s s.cur t.depth 0x20 = .ok w → gives (.dinfo d a) (BitVec.ofNat 64 (field w 41 0))) ∧
    (∀ w, x = 7 → ipaLoad s p (s.domIpa p t.dom 0x40) = .ok w → gives (.dinfo d a) w) ∧
    (∀ w, x = 8 → ipaLoad s p (s.domIpa p t.dom 0x48) = .ok w → gives (.dinfo d a) w) ∧
    (9 < x → gives (.dinfo d a) (-1)) ∧
    (x % 64 = 0 → LocalRange s x 64 → postedBy s s.cur = false → ∀ g slot, gateIpa s p t.dom ((s.rg b).toNat % 256) = .ok g →
      ipaLoad s p (g + 0x38) = .ok slot →
      let w := s.wordsAt (s.localPa x) 64
      let open_ := (s.rg b).toNat < 256 ∧ field slot 1 0 = 0
      let gen := (field slot 31 16 + 1) % 65536
      let e := BitVec.ofNat 64 ((s.rg b).toNat * 2 ^ 44 + t.dom.toNat * 2 ^ 32 + 0xFF03 * 2 ^ 16 + 1)
      (¬open_ → gives (.gpub d a b) (-1)) ∧ (open_ → badDescriptor w = true → gives (.gpub d a b) (-2)) ∧
      (open_ → badDescriptor w = false →
        (placeHandle s p t.dom e (BitVec.ofNat 64 gen) = .ok none → gives (.gpub d a b) (-3)) ∧
        ∀ h s1 u, placeHandle s p t.dom e (BitVec.ofNat 64 gen) = .ok (some (h, s1)) →
          ipaStores s1 p g [w 0, w 1, w 2, w 3, w 4, w 5, w 6, BitVec.ofNat 64 (gen * 65536 + 1)] = .ok u →
          after (.gpub d a b) u (BitVec.ofNat 64 h))) ∧
    (s.rg b = 3 → t.level = 0 → Traps (.grev d a b) s { cause := 2, eaddr := BitVec.ofNat 64 (wordGrev d a b) }) ∧
    (3 < (s.rg b).toNat ∨ s.rg b = 3 ∧ t.level ≠ 0 ∧ 4096 ≤ x ∨ (s.rg b).toNat < 3 ∧ 256 ≤ x → gives (.grev d a b) (-2)) ∧
    (s.rg b = 3 → t.level ≠ 0 → x < 4096 →
      let dom := BitVec.ofNat 12 x
      ∀ state, ipaLoad s p (s.domIpa p dom 0) = .ok state →
        (field state 1 0 ≠ 1 → gives (.grev d a b) (-1)) ∧
        ∀ u, field state 1 0 = 1 → ipaStore s p (s.domIpa p dom 0) (setField state 1 0 2) = .ok u →
          exec (.grev d a b) s = .next (killDomain p dom (u.setThr (u.thr.wg d 0).wentOn))) ∧
    (x < 256 → ∀ g slot, gateIpa s p t.dom x = .ok g → ipaLoad s p (g + 0x38) = .ok slot →
      (s.rg b = 0 → (field slot 1 0 ≠ 1 → gives (.grev d a b) (-1)) ∧
        (field slot 1 0 = 1 → ∀ u, ipaStore s p (g + 0x38) (setField slot 1 0 2) = .ok u →
          after (.grev d a b) u (BitVec.ofNat 64 (field slot 47 32)))) ∧
      (s.rg b = 2 → (field slot 1 0 ≠ 2 → gives (.grev d a b) (-1)) ∧
        (field slot 1 0 = 2 → ∀ u, ipaStore s p (g + 0x38) (setField slot 1 0 1) = .ok u → after (.grev d a b) u 0)) ∧
      (s.rg b = 1 →
        let open_ := field slot 1 0 = 1 ∨ field slot 1 0 = 2
        let slot2 := setField (setField slot 31 16 (field slot 31 16 + 1)) 1 0 (if field slot 47 32 = 0 then 0 else 3)
        (¬open_ → gives (.grev d a b) (-1)) ∧
        (open_ → ∀ u, ipaStore s p (g + 0x38) slot2 = .ok u → exec (.grev d a b) s =
          .next (markGate p t.dom x (u.setThr (u.thr.wg d (BitVec.ofNat 64 (field slot 47 32))).wentOn))))) ∧
    ∀ e y, handleEntry s p t.dom (s.rg a) = .ok (e, y) →
      let ready := field e 1 0 ≠ 0 ∧ e.getLsbD 17 = true ∧ field (s.rg c) 63 16 = 0
      let dom : BitVec 12 := (s.rg b).setWidth 12
      (¬ready → gives (.hgive d a b c) (-4)) ∧
      (ready → 4096 ≤ (s.rg b).toNat → gives (.hgive d a b c) (-2)) ∧
      (ready → (s.rg b).toNat < 4096 → ∀ state, ipaLoad s p (s.domIpa p dom 0) = .ok state →
        let new := setField e 31 16 (entryRights e &&& field (s.rg c) 15 0)
        (field state 1 0 ≠ 1 → gives (.hgive d a b c) (-2)) ∧
        (field state 1 0 = 1 → (placeHandle s p dom new y = .ok none → gives (.hgive d a b c) (-1)) ∧
          ∀ h u, placeHandle s p dom new y = .ok (some (h, u)) → after (.hgive d a b c) u (BitVec.ofNat 64 h))) ∧
      (1024 ≤ x → gives (.hdrop d a) (-4)) ∧
      ∀ at_, handleIpa s p t.dom (s.rg a) = .ok (some at_) →
        (field e 1 0 = 0 → gives (.hdrop d a) (-4)) ∧
        (field e 1 0 ≠ 0 → ∀ u, ipaStores s p at_ [0, 0] = .ok u → after (.hdrop d a) u 0)

/-- R318, R320-R329, R344, R355: tasks, ports, the ready queue, timers and slices. TSPAWN makes a queued task in a free entry;
QSEND and EOS fill a slot of a port, QRECV takes the oldest; PARK answers the ports that hold something and otherwise parks the
task and takes TRAPINS; RQPUSH and RQPOP work the core's ready queue; EXIT of a grid thread frees its slot; YIELD waits until the
other slots have issued once. -/
def Obligations.TaskResults : Prop :=
  (∀ (s : State) (d a b : Reg), Clear { wait := true } s → s.waitHint = false → s.thr.depth = 0 →
    postedBy s s.cur = false → s.threads.all (fun e => e.2.wait.isNone) = true →
    let c := clusterOf s.cur
    let t := s.thr
    (∀ x, portTarget s (s.rg a) true = .ok (.error x) → Gives (.eos d a) s (t.wg d (BitVec.ofInt 64 x)).wentOn) ∧
    (∀ m k j, portTarget s (s.rg a) true = .ok (.ok (m, k, j)) →
      let buf := s.buffer k j
      (buf.free = 0 → Gives (.eos d a) s (t.wg d 1).wentOn) ∧
      (0 < buf.free → buf.resv = 0 → buf.done = [] → buf.wr < buf.slots →
        ∃ u, exec (.eos d a) s = .next u ∧ u.thr = (t.wg d 0).wentOn ∧ SameMemory s u ∧ SameOthers s u ∧
          u.buffer k j = { buf with free := buf.free - 1, filled := buf.filled + 1, wr := (buf.wr + 1) % buf.slots,
                                    tokens := buf.tokens ++ [buf.wr] })) ∧
    (b.toNat ≤ 12 → ∀ m k j, portTarget s (s.rg a) false = .ok (.ok (m, k, j)) →
      let buf := s.buffer k j
      let pa := scratchBase k + buf.base + buf.wr * buf.size
      (buf.free = 0 → Gives (.qsend d a b) s ((t.withVx true).wg d 1).wentOn) ∧
      (0 < buf.free → buf.resv = 0 → buf.done = [] → buf.wr < buf.slots → pa + 64 ≤ 2 ^ 44 →
        ∃ u, exec (.qsend d a b) s = .next u ∧ u.thr = ((t.withVx true).wg d 0).wentOn.watched u.thr ∧
          (∀ i < 64, Memory.get u.mem (pa + i) = (t.rv (b + BitVec.ofNat 4 (i / 16))).extractLsb' (8 * (i % 16)) 8) ∧
          (∀ x, x < pa ∨ pa + 64 ≤ x → Memory.get u.mem x = Memory.get s.mem x) ∧
          u.buffer k j = { buf with free := buf.free - 1, filled := buf.filled + 1, wr := (buf.wr + 1) % buf.slots })) ∧
    (d.toNat ≤ 12 → ownPort s (s.rg a) = none → Gives (.qrecv d a b) s ((t.withVx true).wg b 3).wentOn) ∧
    (d.toNat ≤ 12 → ∀ i, ownPort s (s.rg a) = some i →
      let buf := s.buffer c i
      let pa := scratchBase c + buf.base + buf.rd * buf.size
      let token := buf.tokens.contains buf.rd
      (buf.filled = 0 → Gives (.qrecv d a b) s ((t.withVx true).wg b 1).wentOn) ∧
      (0 < buf.filled → buf.held = 0 → buf.released = [] → buf.rd < buf.slots → pa + 64 ≤ 2 ^ 44 →
        ∃ u, exec (.qrecv d a b) s = .next u ∧ u.thr.rg b = (if b = 0 then 0 else if token then 2 else 0) ∧
          u.thr.pc = t.pc + 4 ∧ SameMemory s u ∧ SameOthers s u ∧
          (∀ m < 4, u.thr.rv (d + BitVec.ofNat 4 m) = if token then 0 else BitVec.ofNat 128 (s.byteNat (pa + 16 * m) 16)) ∧
          u.buffer c i = { buf with filled := buf.filled - 1, free := buf.free + 1, rd := (buf.rd + 1) % buf.slots,
                                    tokens := buf.tokens.erase buf.rd }))) ∧
  (∀ (s : State) (d a b : Reg), Clear { wait := true } s → s.waitHint = true →
    (∀ m k j, portTarget s (s.rg a) true = .ok (.ok (m, k, j)) → (s.buffer k j).free = 0 → Waits (.eos d a) s (.qsend k j)) ∧
    (b.toNat ≤ 12 → ∀ m k j, portTarget s (s.rg a) false = .ok (.ok (m, k, j)) → (s.buffer k j).free = 0 →
      Waits (.qsend d a b) s (.qsend k j)) ∧
    (d.toNat ≤ 12 → s.thr.depth = 0 → ∀ i, ownPort s (s.rg a) = some i → (s.buffer (clusterOf s.cur) i).filled = 0 →
      Waits (.qrecv d a b) s (.qrecv i))) ∧
  (∀ (s : State) (d a b : Reg), Clear {} s → s.thr.depth = 0 → postedBy s s.cur = false →
    let n := coreOf s.cur
    let c := clusterOf s.cur
    let t := s.thr
    let priv (i : Instr) (w : Nat) : Prop := Traps i s { cause := 2, eaddr := BitVec.ofNat 64 w }
    ((s.rg a).toNat % 64 ≠ 0 → Gives (.tspawn d a b) s (t.wg d (-2)).wentOn) ∧
    (let va := (s.rg a).toNat
     let w := s.wordsAt (s.localPa va) 64
     let dom : BitVec 12 := (w 2).extractLsb' 0 12
     va % 64 = 0 → LocalRange s va 64 →
     (badSpawn w = true → Gives (.tspawn d a b) s (t.wg d (-2)).wentOn) ∧
     ∀ id base u, badSpawn w = false → LocalRange s (w 6).toNat 512 → s.rg b = -1 → n < 2048 → (s.cluster c).part.isSome = true →
       domainDenied s (s.partOf c) t.level t.dom dom = .ok false → (w 2).getLsbD 14 = false →
       (List.range 32).find? (fun id => (s.task n id).state == .free) = some id → freeRange s c (field (w 3) 22 0) = some base →
       let bufs := freeBuffers s c (spawnPorts w).length
       let ref := BitVec.ofNat 64 ((s.task n id).gen.toNat * 2 ^ 32 + id * 2 ^ 11 + n)
       (spawnPorts w).length ≤ bufs.length → (∀ i < 4, spawnHandle w i = false) → spawn n id base bufs va w [] s = .ok u →
       exec (.tspawn d a b) s = .next (u.setThr (u.thr.wg d ref).wentOn) ∧ (u.task n id).state = .queued ∧
         (u.task n id).dom = dom ∧ (u.task n id).spbase = base ∧ ((∀ e ∈ (s.core n).ready, id ∉ e.2) →
         (u.core n).ready.get [] (field (w 2) 13 12) = (s.core n).ready.get [] (field (w 2) 13 12) ++ [id])) ∧
    (namedPorts s (s.rg a) = none → Traps (.park d a) s { cause := 1, eaddr := BitVec.ofNat 64 (wordPark d a) }) ∧
    (∀ l id, namedPorts s (s.rg a) = some l → t.task = some id → t.taskSwitch = none →
      let y := s.task n id
      let ports := Vector.ofFn (fun i : Fin 4 => (y.ports[i.val]).map (fun q =>
        { q with sleeper := q.sleeper || l.any (fun x => x.1 == i.val) }))
      let full := l.filter (fun x => decide (0 < (s.buffer c x.2).filled))
      (full ≠ [] → Gives (.park d a) s (t.wg d (BitVec.ofNat 64 (full.map (fun x => 2 ^ x.1)).sum)).wentOn) ∧
      (full = [] → exec (.park d a) s = .next (trap s.cur { cause := 0x11, eaddr := 0x100 + s.rg a }
        (s.setTask n id { y with state := .parked, ports := ports })))) ∧
    (t.level = 0 → (s.rg a).toNat < 32 → priv (.rqpush d a) (wordRqpush d a)) ∧
    (t.level ≠ 0 → (s.rg a).toNat < 32 →
      let id := (s.rg a).toNat
      let y := s.task n id
      (y.state = .free → Gives (.rqpush d a) s (t.wg d (-2)).wentOn) ∧
      let mine := y.state = .current ∧ y.slot = some s.cur ∧ t.task = some id
      (y.state ≠ .free → y.state ≠ .idle → ¬mine → Gives (.rqpush d a) s (t.wg d (-1)).wentOn) ∧
      ((y.state = .idle ∨ mine) → (∀ e ∈ (s.core n).ready, id ∉ e.2) → ∃ u, exec (.rqpush d a) s = .next u ∧ u.thr = (t.wg d 0).wentOn ∧
        u.task n id = { y with state := .queued } ∧
        (u.core n).ready.get [] y.prio = (s.core n).ready.get [] y.prio ++ [id] ∧ SameMemory s u ∧ SameOthers s u)) ∧
    (t.level = 0 → (s.rg a).toNat < 2 → priv (.rqpop d a) (wordRqpop d a)) ∧
    (t.level ≠ 0 → t.task = none → t.taskSwitch = none →
      (readyHead (s.core n) = none → s.rg a = 0 → Gives (.rqpop d a) s (t.wg d (-1)).wentOn) ∧
      (readyHead (s.core n) = none → s.rg a = 1 → Waits (.rqpop d a) s .rqpop) ∧
      (∀ p id, (s.rg a).toNat < 2 → readyHead (s.core n) = some (p, id) →
        let y := s.task n id
        exec (.rqpop d a) s = .next ((s.setCore n { s.core n with
            ready := (s.core n).ready.set p (((s.core n).ready.get [] p).drop 1)
            tasks := (s.core n).tasks.set id { y with state := .current, slot := some s.cur } }).setThr
          ({ t with task := some id
                    taskSwitch := some { ports := none, root := y.dom, dom := y.savedDom, dsp := y.savedDsp, depth := y.savedDepth
                                         spbase := y.spbase, splen := y.splen } }.wg d (BitVec.ofNat 64 id)).wentOn))) ∧
    (t.level = 0 → priv (.timer d a) (wordTimer d a)) ∧
    (t.level ≠ 0 → Gives (.timer d a) s ({ t with timer := s.rg a }.wg d t.timer).wentOn) ∧
    (localSlot s.cur ≠ 7 → t.task = none → t.rsv = none → ∃ u, exec .exit s = .next u ∧ (u.thread s.cur).occupied = false ∧
      (u.thread s.cur).g = t.g ∧ (u.thread s.cur).v = t.v ∧ (u.thread s.cur).pc = t.pc ∧ SameMemory s u ∧ SameOthers s u) ∧
    (localSlot s.cur ≠ 7 → t.task.isSome = true → t.rsv = none → exec .exit s =
      .next (trapAt s.cur (t.pc + 4) { cause := 0x11, eaddr := 0x200 } (endTask s.cur (completeAll s.cur s)))) ∧
    (t.task = none →
      let others := (List.range 8).filter (fun i => i != localSlot s.cur && slotReady s (coreOf s.cur * 8 + i))
      (others = [] → Gives .yield s t.wentOn) ∧ (others ≠ [] → Gives .yield s (t.wentOn.waits (.yield others)))) ∧
    (t.task.isSome = true → exec .yield s = .next (trapAt s.cur (t.pc + 4) { cause := 0x11, eaddr := 0x300 } s))) ∧
  ∀ (s : State) (k : Nat),
    let t := s.thread k
    let posted (n : Nat) : List Posted :=
      if t.events.any (fun e => e.cause == n) then t.events else t.events ++ [{ cause := n, eaddr := 0 }]
    (t.timerDue = true →
      exec (.timerExpiry k) s = .next (s.setThread k { t with timerDue := false, events := posted 0x0F })) ∧
    (t.sliceOn = true → t.remain = 0 → ∃ x : Word, x.getLsbD 32 = false ∧ (∀ i, i ≠ 32 → x.getLsbD i = t.slice.getLsbD i) ∧
      exec (.sliceExpiry k) s = .next (s.setThread k { t with slice := x, events := posted 0x10 }))

/-- R88, R310-R319, R330, R427: LAUNCH of a record in the local window registers its launch or answers why not, and queues it
where its wait count is 0; DEPDEC counts down and answers what is left. The dispatcher starts the threads of a unit of the chosen
launch; launches past the hold limit get their claim; a unit without work left ends; a deferred page request is posted; a
fetched block fills the fetch buffer. -/
def Obligations.LaunchResults : Prop :=
  (∀ (s : State) (d a : Reg), Clear {} s → (s.rg a).toNat % 128 = 0 → LocalRange s (s.rg a).toNat 128 → s.Unreserved →
    let t := s.thr
    let p := s.partOf (clusterOf s.cur)
    let pa := s.localPa (s.rg a).toNat
    let w := s.wordsAt pa 128
    let fails (x : Word) : Prop := Gives (.launch d a) s (t.wg d x).wentOn
    (parseRecord w = none → fails (-2)) ∧
    (∀ l, parseRecord w = some l →
      (domainDenied s p t.level t.dom l.dom = .ok true → fails (-4)) ∧
      (domainDenied s p t.level t.dom l.dom = .ok false →
        let known := ∃ x ∈ s.launches p, x.key = pa
        let full := tableSize s p ≤ (s.launches p).length
        let new := { l with addr := s.rg a, key := pa }
        (known → fails (-3)) ∧ (¬known → full → fails (-1)) ∧
        (¬known → ¬full →
          (w 9 ≠ 0 → exec (.launch d a) s = .next ((s.setLaunches p (s.launches p ++ [new])).setThr (t.wg d 1).wentOn)) ∧
          (w 9 = 0 → l.queued = false → exec (.launch d a) s =
            .next ((s.next.setLaunches p (s.launches p ++ [{ new with queued := true, order := s.serial }])).setThr
              (t.wg d 0).wentOn))))) ∧
    (w 9 = 0 → Gives (.depdec d a) s (t.wg d 0).wentOn) ∧
    (w 9 ≠ 0 → ∃ u, exec (.depdec d a) s = .next u ∧
      Stored s u (pa + 0x48) (toBytes 8 (w 9 - 1).toNat) (t.wg d (w 9 - 1)).wentOn ∧
      (w 9 ≠ 1 → u.launches p = s.launches p) ∧
      (w 9 = 1 → u.launches p = (s.launches p).map (fun l =>
        if l.key = pa ∧ l.queued = false then { l with queued := true, order := s.serial } else l)))) ∧
  (∀ (s : State) (c : Nat) (l : Launch), dispatching s c = true → chooseLaunch s (s.partOf c) c = some l → l.threads ≤ 7 →
    ∃ t, exec (.launchDispatch c) s = .next t ∧ (∃ w, (s.serial, w) ∈ t.units ∧ w.launch = l.key ∧ w.cluster = c) ∧
      ∀ r < l.cores, ∀ i < l.threads,
        let th := t.thread (8 * (freeCores s c l.threads).getD r 0 + i)
        th.occupied = true ∧ th.pc = l.entry ∧ th.rg 1 = l.args ∧ th.rg 3 = BitVec.ofNat 64 (i + l.threads * r) ∧
        th.rg 4 = BitVec.ofNat 64 l.units ∧ th.level = 0 ∧ th.depth = 0 ∧ th.home = c ∧ th.unit = some s.serial) ∧
  (∀ (s : State) (p : Nat), exec (.holdLimitExpiry p) s = .next (s.setLaunches p ((s.launches p).map (fun l =>
    if l.left = true ∧ holdLimit s p < l.holdClock then { l with held := true } else l)))) ∧
  (∀ (s : State) (p u : Nat) (w : WorkUnit) (l : Launch), s.units = [(u, w)] → w.part = p → w.saved = false →
    unitBusy s u = false → (s.cluster w.cluster).bufs = [] → (s.cluster w.cluster).stash = [] → s.launches p = [l] →
    l.key = w.launch → l.killed = false → l.completing = 0 → l.finished + 1 ≠ l.units →
    ∃ t, exec (.workUnitComplete p w.launch u) s = .next t ∧ t.units = [] ∧
      t.launches p = [{ l with finished := l.finished + 1 }] ∧ SameMemory s t) ∧
  (∀ (s : State) (c : Nat) (x : BitVec 64), ∃ f : Word, exec (.forecastUpdate c x) s =
    .next (s.setCluster c { s.cluster c with forecast := f, forecastAt := s.now }) ∧
    field f 31 24 = queuedUnits s c ∧ field f 23 8 = field x 23 8 ∧ field f 7 0 = min 128 (field x 7 0) ∧ field f 63 32 = 0) ∧
  (∀ (s : State) (p pa : Nat) (r : PageReq), (s.part p).notices = [] →
    (s.part p).requests.find? (fun q => !q.posted) = some r → entryFree s p = true → ringNext s p = some pa →
    ∃ t, exec (.pageRequestDeferredPost p) s = .next t ∧
      ∃ q ∈ (t.part p).requests, q = { r with posted := true, record := pa }) ∧
  ∀ (s : State) (k : Nat) (va : Word) (q : Piece), (s.thread k).wait = some (.fetch va) → va.toNat % 4 = 0 →
    access s (ctxOf s k) va.toNat 4 .fetch = .ok (s, [q]) → q.pa % 4 = 0 →
    ∃ t u ws, exec (.fetchMissFill k) s = .next t ∧ fetchAt true k va s = .ok (ws.getD (q.pa % 64 / 4) 0, u) ∧
      t = u.mapThread k (fun t => { t with wait := none }) ∧ (t.thread k).fetchBuf = some (q.pa / 64, ws) ∧ SameMemory s t

/-! ### Coherence (18) -/

/-- R380-R384: PTLOAD at F installs the table of an image that passes every check, and answers the check, table and row that
fail; an id below 5 or above 7 fails check 0. PTBIND and PTUNBIND give the pages of a range their protocol id, where no line of
them is held and no word is reserved; DIRQ answers the 96 bits of the entry of a line, those of the reset entry where its slice does not hold the line, and 0 for
the scratchpad; LINV and LWB complete once every line of the range is maintained, and change nothing where no line is held.
PTLOAD below F and PTBIND at U take PRIV. -/
def Obligations.CoherenceInstructions : Prop :=
  ∀ (s : State) (d a b e : Reg), Clear {} s →
    let t := s.thr
    let gives (i : Instr) (x : Word) : Prop := Gives i s (t.wg d x).wentOn
    let priv (i : Instr) (w : Nat) : Prop := Traps i s { cause := 2, eaddr := BitVec.ofNat 64 w }
    let va := (s.rg a).toNat
    (t.level < 2 → priv (.ptload d a b) (wordPtload d a b)) ∧
    (t.level = 2 → va % 64 = 0 → s.admits s.ctx va 10835 = true →
      let id := (s.rg b).toNat
      let i := readImage s va
      let drawn := { s with drawn := s.drawn + 1 }
      (id < 5 ∨ 7 < id → exec (.ptload d a b) s = .next (drawn.setThr (t.wg d 0x8000000000000000).wentOn)) ∧
      (∀ k g r, checkImage s va id i = some (k, g, r) → exec (.ptload d a b) s =
        .next (drawn.setThr (t.wg d (BitVec.ofNat 64 (2 ^ 63 + k * 2 ^ 16 + g * 2 ^ 12 + r))).wentOn)) ∧
      (checkImage s va id i = none → exec (.ptload d a b) s =
        .next ({ drawn with coh := { s.coh with tables := s.coh.tables.set id (some i.table) } }.setThr (t.wg d 0).wentOn))) ∧
    (t.level = 0 → priv (.ptbind d a b e) (wordPtbind d a b e)) ∧
    (let len := (s.rg b).toNat
     let bad := va % 65536 ≠ 0 ∨ len % 65536 ≠ 0 ∨ len = 0 ∨ 2 ^ 64 < va + len
     let bound (i : Instr) (id : Nat) : Prop := ∀ pages, boundPages s s.ctx (len / 65536) va = some pages → s.Unreserved →
       s.coh.dir = [] → ∃ u, exec i s = .next u ∧ u.thr = (t.wg d 0).wentOn ∧ SameMemory s u ∧ SameOthers s u ∧
         ∀ x, u.protId x = if ∃ q ∈ pages, x / 65536 = q / 65536 then id else s.protId x
     (bad → gives (.ptunbind d a b) (-2)) ∧
     (¬bad → (boundPages s s.ctx (len / 65536) va = none → gives (.ptunbind d a b) (-3)) ∧ bound (.ptunbind d a b) 1) ∧
     (t.level ≠ 0 →
       let id := (s.rg e).toNat
       (bad ∨ 7 < id → gives (.ptbind d a b e) (-2)) ∧
       (¬bad → 5 ≤ id → id ≤ 7 → s.coh.tables.get none id = none → gives (.ptbind d a b e) (-1)) ∧
       (¬bad → id ≤ 4 ∨ (id ≤ 7 ∧ (s.coh.tables.get none id).isSome = true) →
         (boundPages s s.ctx (len / 65536) va = none → gives (.ptbind d a b e) (-3)) ∧ bound (.ptbind d a b e) id))) ∧
    (d = 0 ∨ d = 15 → Traps (.dirq d a) s { cause := 1, eaddr := BitVec.ofNat 64 (wordDirq d a) }) ∧
    (d ≠ 0 → d ≠ 15 →
      (LocalRange s va 8 → Gives (.dirq d a) s ((t.wg d 0).wg (d + 1) 0).wentOn) ∧
      ∀ q, access s s.ctx va 8 .load = .ok (s, [q]) → q.va < localBase → isScratch q.pa = false →
        let line := s.key q.pa / 128 * 128
        let n : Dir := if s.coh.holds line then s.coh.entry line else { prot := s.protId q.pa }
        let x := n.state % 16 * 2 ^ 92 + n.prot % 8 * 2 ^ 89 + (if n.coarse then 2 ^ 88 else 0) + min n.pend 255 * 2 ^ 80 +
          n.ownreq % 2 ^ 16 * 2 ^ 64 + n.sharers.toNat
        Gives (.dirq d a) s ((t.wg d (BitVec.ofNat 64 x)).wg (d + 1) (BitVec.ofNat 64 (x / 2 ^ 64))).wentOn) ∧
    (s.Unreserved →
      (s.coh.dir = [] → Gives (.linv a b) s t.wentOn ∧ Gives (.lwb a b) s t.wentOn) ∧
      (∀ u, lineMaintenance mLINV va (s.rg b).toNat s = .ok u → exec (.linv a b) s = .next (u.setThr u.thr.wentOn)) ∧
      ∀ u, lineMaintenance mLWB va (s.rg b).toNat s = .ok u → exec (.lwb a b) s = .next (u.setThr u.thr.wentOn))

/-- R362-R365, R371-R379: what each message does at its receiver, the line being held in a stable state with nothing stalled: the
entry's state, owner, sharers and recorded request, the agent's state, and the answer; the count of uses, which only orders
replacements, is left out. Where the LLC holds the newest content and none is written, nothing else changes but what the
messages enter on bundles. A control core's write and atomic operation change their bytes at the home, and a store that waited
for its line is performed as DATA_M comes. A request with no message in flight starts at its sender (log entry 18). A
stopped line that firmware resets loses its copies, and the LLC's bytes stand; or its world halts. A metered request takes a token
of the partition that owns the line (R422), and without one it is set aside (R423). -/
def Obligations.MessageEvents : Prop :=
  ∀ (s : State) (a r n core line : Nat) (d : Dir) (m : Msg), s.coh.entry line = d → s.coh.holds line = true → isLine s line = true →
    (∀ e ∈ s.clusters, ∀ x ∈ e.2.stash, x.2.restsOn line = false) → a < 2176 → n < 64 → core < 32 → d.stalled = [] → d.left = [] →
    let tr := 0x8000 + n
    let tx : CoreTxn := { core := core, number := n }
    let brief (x : Msg) : Nat × Nat × Nat × Nat := (x.code, x.src, x.dst, x.line)
    let comes (code src dst : Nat) : Prop := s.coh.msgs = [m] ∧ brief m = (code, src, dst, line)
    let bare (x : AgentLine) : AgentLine := { x with used := 0, set := 0 }
    let ends (t : State) (e : Dir) (out : List (Nat × Nat × Nat)) : Prop :=
      { t.coh.entry line with used := 0 } = { e with used := 0 } ∧
        t.coh.msgs.map brief = out.map (fun x => (x.1, x.2.1, x.2.2, line))
    let after (u t : State) : Prop :=
      s.coh.llc line = none → m.data.line = none → t = { u with coh := t.coh, bundles := t.bundles }
    let calm (t : State) : Prop := after s t
    let owner := ownerOf s line
    let bucket := 32 * d.slice + owner
    let room : Prop := tokensOf s d.slice owner ≠ 0 ∧ s.deferred.get [] bucket = []
    let paid (t : State) : Prop := after { s with tokens := s.tokens.set bucket (some (tokensOf s d.slice owner - 1)) } t
    let only (i : Instr) (x y : AgentLine) (e : Dir) (out : List (Nat × Nat × Nat)) (left : State → Prop) : Prop :=
      bare (s.coh.agentLine a line) = x → ∃ t, exec i s = .next t ∧ ends t e out ∧ bare (t.coh.agentLine a line) = y ∧ left t
    let way : Prop := ∀ x ∈ s.coh.agents, x.1 % 4096 = a → x.1 / 4096 = line
    let asks (i : Instr) (x y : AgentLine) (e : Dir) (out : List (Nat × Nat × Nat)) : Prop :=
      s.coh.msgs = [] → room → way → only i x y e out paid
    let returns (i : Instr) (x y : AgentLine) (e : Dir) (out : List (Nat × Nat × Nat)) : Prop :=
      s.coh.msgs = [] → only i x y e out calm
    let gets (i : Instr) (code : Nat) (x y : AgentLine) (out : List (Nat × Nat × Nat)) : Prop :=
      comes code atHome a → only i x y d out calm
    let unused : Prop := s.coh.msgs = [] ∧ s.coh.txns.get none (64 * d.slice + n) = none ∧ s.Unreserved ∧ s.credits = [] ∧
      s.coreRequests = []
    let free : Prop := unused ∧ room
    (unused → s.spill = [] → tokensOf s d.slice owner = 0 → s.deferred.get [] bucket = [] → exec (.uread tx line) s =
      .next { s with coreRequests := [.uread tx line],
                     deferred := s.deferred.set bucket [(0x23000 + 64 * core + n, false)] }) ∧
    (d.stopped = none → d.prot = 1 → d.state = 0 →
      asks (.gets a line) {} { state := 3, held := [(0, [])] } { d.add a with state := 1, req := some (mGETS, a), reqData := {} }
        [(mDATAS, atHome, a)] ∧
      asks (.getm a line) {} { state := 4, held := [(1, [])] }
        { d.clear with ownreq := a, state := 2, req := some (mGETM, a), reqData := {} } [(mDATAM, atHome, a)] ∧
      (free → ∃ t, exec (.uread tx line) s = .next t ∧ paid t ∧
        ends t { d with req := some (mUREAD, tr), reqData := { reads := some (0, 128) } } [(mUDATA, atHome, tr)]) ∧
      (∀ w : LineWrite, free → w.line = line → w.off + w.bytes.length ≤ 128 → ∃ t, exec (.uwrite tx w) s = .next t ∧
        ends t { d with req := some (mUWRITE, tr), reqData := { bytes := [(w.off, w.bytes)] }, dirty := true }
          [(mWACK, atHome, tr)] ∧
        (s.coh.llc line = none → (∀ i < w.bytes.length, Memory.get t.mem (line + w.off + i) = w.bytes.getD i 0) ∧
          (∀ x, x < line + w.off ∨ line + w.off + w.bytes.length ≤ x → Memory.get t.mem x = Memory.get s.mem x) ∧
          t.side = s.side)) ∧
      (∀ o : LineAtom, free → o.line = line → o.off + o.size ≤ 128 → ∃ t, exec (.atom tx o) s = .next t ∧
        ends t { d with req := some (mATOM, tr), reqData := { op := some o }, dirty := true } [(mWACK, atHome, tr)] ∧
        (s.coh.llc line = none → t.coh.msgs.map (fun x => x.data.result) = [some (s.byteNat (line + o.off) o.size)] ∧
          t.byteNat (line + o.off) o.size = atomNew o (s.byteNat (line + o.off) o.size) % 2 ^ (8 * o.size) ∧
          (∀ x, x < line + o.off ∨ line + o.off + o.size ≤ x → Memory.get t.mem x = Memory.get s.mem x) ∧ t.side = s.side)) ∧
      (a < 2048 → s.coh.msgs = [] → room →
        (∃ t, exec (.linvMsg a line) s = .next t ∧ paid t ∧
          ends t { d with req := some (mLINV, a), reqData := {} } [(mWACK, atHome, a)]) ∧
        ∃ t, exec (.lwbMsg a line) s = .next t ∧ paid t ∧
          ends t { d with req := some (mLWB, a), reqData := {} } [(mWACK, atHome, a)])) ∧
    (d.stopped = none → d.prot = 2 → d.state = 0 →
      asks (.updw a line) {} { state := 9, held := [(1, [])] } { d with dirty := true, req := some (mUPDW, a), reqData := {} }
        [(mUPDACK, atHome, a)]) ∧
    (d.stopped = none → d.prot = 1 → d.state = 1 →
      returns (.puts a line) { state := 1, copy := true } { state := 6, copy := true } (d.remove a) [(mPUTACK, atHome, a)]) ∧
    (d.stopped = none → d.prot = 1 → d.state = 2 → d.ownreq = a →
      returns (.putm a line) { state := 2, copy := true } { state := 5, copy := true }
        { d.clear with ownreq := noAgent, state := 0, dirty := true } [(mPUTACK, atHome, a)]) ∧
    (d.stopped = none → d.prot = 1 → d.state = 3 → d.pend = 1 → d.ownreq = r → comes mACK a atHome →
      ∃ t, exec (.ack a line) s = .next t ∧ calm t ∧ ends t { d.clear with state := 2, pend := 0 } [(mDATAM, atHome, r)]) ∧
    (d.stopped = none → d.prot = 1 → d.state = 5 → d.ownreq = r → comes mODATA a atHome →
      ∃ t, exec (.odata a line) s = .next t ∧ calm t ∧ ends t { d.clear with state := 2, dirty := true } [(mDATAM, atHome, r)]) ∧
    (d.stopped = none → d.prot = 1 →
      gets (.inv a line) mINV { state := 1, copy := true } {} [(mACK, a, atHome)] ∧
      gets (.down a line) mDOWN { state := 2, copy := true } { state := 1, copy := true } [(mODATA, a, atHome)] ∧
      gets (.recall a line) mRECALL { state := 2, copy := true } {} [(mODATA, a, atHome)] ∧
      gets (.dataS a line) mDATAS { state := 3, held := [(0, [])] } { state := 1, copy := true, old := m.data.line } [] ∧
      (∀ o bs, o + bs.length ≤ 128 → comes mDATAM atHome a →
        bare (s.coh.agentLine a line) = { state := 4, held := [(1, [(o, bs)])] } →
        ∃ t, exec (.dataM a line) s = .next t ∧ ends t d [] ∧ bare (t.coh.agentLine a line) = { state := 2, copy := true } ∧
          (m.data.line = none → (∀ i < bs.length, Memory.get t.mem (line + o + i) = bs.getD i 0) ∧
            ∀ x, x < line + o ∨ line + o + bs.length ≤ x → Memory.get t.mem x = Memory.get s.mem x)) ∧
      gets (.putack a line) mPUTACK { state := 5, copy := true } {} []) ∧
    (d.stopped = none → d.prot = 2 →
      gets (.upd a line) mUPD { state := 1, copy := true } { state := 1, copy := true } [(mACK, a, atHome)] ∧
      gets (.updack a line) mUPDACK { state := 8, copy := true, held := [(1, [])] } { state := 1, copy := true } []) ∧
    (d.stopped = none → d.prot = 4 →
      gets (.nackw a line) mNACKW { state := 4, held := [(1, [])] } { refused := true } []) ∧
    (∀ q, q = tr ∨ (q = a ∧ a < 2048) → m.slice = d.slice →
      let taken (t : State) : Prop := t.coh.msgs = [] ∧ calm t ∧ t.coh.answers.get none (answerKey d.slice q) = none ∧
        t.coh.refusedWrites.get 0 d.slice = s.coh.refusedWrites.get 0 d.slice + (if m.refused then 1 else 0)
      (q = tr → comes mUDATA atHome q → ∃ t, exec (.udata q line) s = .next t ∧ taken t) ∧
      (comes mWACK atHome q → ∃ t, exec (.wack q line) s = .next t ∧ taken t)) ∧
    (d.stopped.isSome = true → s.coh.msgs = [] → d.req = none →
      ∃ t, exec (.lineReset { line := line, halt := false }) s = .next t ∧
      t.coh.entry line = { prot := d.prot, page := d.page, part := d.part, slice := d.slice, low := d.low, used := d.used
                           trans := d.trans, tensor := d.tensor } ∧
      (∀ x < 4096, t.coh.agentLine x line = {}) ∧ t.coh.llc line = none ∧
      (s.coh.llc line = none → t.mem = s.mem) ∧
      (∀ l, s.coh.llc line = some l → line + l.bytes.length ≤ 2 ^ 44 →
        ∀ i < l.bytes.length, Memory.get t.mem (line + i) = l.bytes.getD i 0)) ∧
    (d.stopped.isSome = true → ∃ t, exec (.lineReset { line := line, halt := true }) s = .next t ∧ (t.part owner).halted = true) ∧
    (s.coh.stopOf line = none → ∀ h, exec (.lineReset { line := line, halt := h }) s = .next s)

/-! ### Operand limits (03) -/

/-- R41, R42, R50, R54: a register field, a format, a scope or a value outside its limit, and the instructions that a gate call, a
reservation or window mode forbids, take ILL with the word in eaddr, before any other effect. -/
def Obligations.OperandLimits : Prop :=
  ∀ (s : State) (d a b c l st mk : Reg) (m q k : BitVec 2) (o : BitVec 10) (sc n tl : BitVec 3), s.thr.rep = none →
    let ill (i : Instr) (w : Nat) : Prop := Traps i s { cause := 1, eaddr := BitVec.ofNat 64 w }
    (a = 0 ∨ 12 < a.toNat → ill (.cpy d a b l) (wordCpy d a b l) ∧ ill (.cpy2 d a b l) (wordCpy2 d a b l) ∧
      ill (.cpyg d a b l) (wordCpyg d a b l) ∧ ill (.cpys d a b l) (wordCpys d a b l) ∧
      ill (.cpycb d a b l) (wordCpycb d a b l) ∧ ill (.npost d a) (wordNpost d a)) ∧
    (12 < d.toNat → ill (.acrd d tl b) (wordAcrd d tl b) ∧ ill (.qrecv d a b) (wordQrecv d a b)) ∧
    (12 < a.toNat → ill (.acwr tl a b) (wordAcwr tl a b)) ∧ (12 < b.toNat → ill (.qsend d a b) (wordQsend d a b)) ∧
    (d = 15 → ill (.rsvt d b o l) (wordRsvt d b o l)) ∧ (d = 0 ∨ d = 15 → ill (.dirq d a) (wordDirq d a)) ∧
    (∀ ws, fetchBody false s.cur (s.thr.pc + 4) (n.toNat + 1) s = .ok (ws, s) →
      ill (.rept n 0 st mk) (wordRept n 0 st mk) ∧ (badBody ws = true → ill (.rept n c st mk) (wordRept n c st mk))) ∧
    (sc = 0 ∨ 6 ≤ sc.toNat → ill (.icinv a b sc) (wordIcinv a b sc) ∧ ill (.fence true k sc) (wordFence true k sc)) ∧
    (6 ≤ sc.toNat → ill (.fence false k sc) (wordFence false k sc)) ∧
    ill (.vfadd d a b m 3) (wordVfadd d a b m 3) ∧ ill (.vfma d a b c m 3) (wordVfma d a b c m 3) ∧
    ill (.vrcp d a l m 3) (wordVrcp d a l m 3) ∧ ill (.vfradd d a m 3) (wordVfradd d a m 3) ∧
    ill (.acst tl a b 3) (wordAcst tl a b 3) ∧ (isFloat c = false → ill (.vscale d a b c m) (wordVscale d a b c m)) ∧
    (isFloat b = false ∨ isFloat c = false ∨ widthRatio b c ≤ q.toNat → ill (.vcvtf d a b c m q) (wordVcvtf d a b c m q)) ∧
    (s.thr.winMode = true ∨ s.thr.rsv.isSome = true → ill (.gcall a b c) (wordGcall a b c) ∧ ill .gret wordGret ∧
      ill (.gabt a) (wordGabt a)) ∧
    (s.thr.depth = 0 → ill .gret wordGret ∧ ill (.gabt a) (wordGabt a)) ∧
    (s.thr.depth ≠ 0 ∨ localSlot s.cur = 7 → ill .exit wordExit) ∧
    (s.thr.pending = [] → (32 ≤ (s.rg a).toNat → ill (.rqpush d a) (wordRqpush d a)) ∧
      (2 ≤ (s.rg a).toNat → ill (.rqpop d a) (wordRqpop d a)))
/-! ### Links and the network (20, 21) -/

/-- R388-R399: LBIAS sets the target of the partition and queues at most 4 turns of its highest groups that point the wrong way,
answering the turns left and queued; LSTAT reads a bundle. A turn starts after its dwell within the limit and ends with its group
pointing the new way under a full window; a grant that firmware may make gives the groups of a mask, the lower half pointing up.
An arriving flit is accepted where its CRC is good (which is free: log entry 19), it is next in sequence and a receive entry is
free, and otherwise replayed out of the retry buffer; the audit of every 4,096 link clocks sets every window to 128 less the units
out; a group sends a flit that may travel on it, once in a link clock. -/
def Obligations.LinkResults : Prop :=
  (∀ (s : State) (d a b : Reg), Clear {} s →
    let x := s.rg a
    let y := s.rg b
    let p := s.partOf (clusterOf s.cur)
    let k := bundleOf (field x 2 0) (field x 4 3)
    let out := outwardUp (field x 2 0) (field x 4 3)
    let bu := s.bundle k
    let own := bu.owned p
    let gives (i : Instr) (z : Word) : Prop := Gives i s (s.thr.wg d z).wentOn
    (field x 63 5 ≠ 0 → gives (.lbias d a b) (-2) ∧ gives (.lstat d a) (-2)) ∧
    (field x 63 5 = 0 →
      gives (.lstat d a) (BitVec.ofNat 64 (bu.stat p s.linkClock out)) ∧
      (field y 63 5 = 0 → own = [] → gives (.lbias d a b) (-3)) ∧
      (own ≠ [] → y = 0 ∨ own.length ≤ y.toNat → gives (.lbias d a b) (-2)) ∧
      (y ≠ 0 → y.toNat < own.length →
        let goal := if out then y.toNat else own.length - y.toNat
        let unstarted := bu.queue.filter (fun e => !own.contains e.1)
        let ups := (own.filter bu.upAfter).length
        let left := if ups < goal then goal - ups else ups - goal
        let wrong := (own.filter (fun g => bu.upAfter g != decide (ups < goal))).reverse
        let queued := min left (min 4 (8 - unstarted.length))
        exec (.lbias d a b) s = .next ((s.setBundle k { bu with
            targets := bu.targets.set p goal,
            queue := unstarted ++ (wrong.take queued).map (fun g => (g, decide (ups < goal))) }).setThr
          (s.thr.wg d (BitVec.ofNat 64 ((left - queued) * 256 + queued))).wentOn)))) ∧
  ∀ (s : State) (k g : Nat),
    let b := s.bundle k
    let clock := s.linkClock
    let becomes (i : Instr) (u : Bundle) : Prop := exec i s = .next (s.setBundle k u)
    (∀ h up r, b.queue = (h, up) :: r → b.turning.any (fun t => t.1 == h) = false → b.lastTurn.get 0 h + 5000 ≤ clock →
      b.recent clock < 64 → becomes (.turnStart k)
        { b with queue := r, starts := b.starts.filter (fun t => decide (clock < t + 250000)) ++ [clock],
                 turning := b.turning ++ [(h, up, if b.busy h then none else some (clock + 48))] }) ∧
    (∀ h up r, b.queue = (h, up) :: r → clock < b.lastTurn.get 0 h + 5000 ∨ 64 ≤ b.recent clock → becomes (.turnStart k) b) ∧
    (b.queue = [] → becomes (.turnStart k) b) ∧
    (g < 16 → ∀ up t, b.turning.find? (fun t => t.1 == g) = some (g, up, some t) →
      (clock < t → becomes (.turnEnd k g) b) ∧
      (t ≤ clock → ∃ u, becomes (.turnEnd k g) u ∧ u.up.getLsbD g = up ∧ (∀ h, h ≠ g → u.up.getLsbD h = b.up.getLsbD h) ∧
        u.turning = b.turning.filter (fun t => t.1 != g) ∧ u.lastTurn.get 0 g = clock ∧
        u.window.get 128 (2 * g + if up then 1 else 0) = 128)) ∧
    (∀ p mask, let gs := (List.range 16).filter (fun g => decide (2 ≤ g) && mask.testBit g)
      (b.grantable p gs = false → exec (.laneGrant k p mask) s = .next s) ∧
      (b.grantable p gs = true → ∃ u, becomes (.laneGrant k p mask) u ∧
        (∀ h, u.owner.get none h =
          if h ∈ gs then some p else if 2 ≤ h ∧ h < 16 ∧ b.owner.get none h = some p then none else b.owner.get none h) ∧
        (∀ i h, gs[i]? = some h → u.upAfter h = decide (i < gs.length / 2)) ∧
        (gs ≠ [] → u.targets.get 0 p = gs.length / 2))) ∧
    (∀ dir, b.flight.find? (fun x => x.1 == g && x.2.up == dir) = none → exec (.flitArrival k g dir) s = .next s) ∧
    (∀ dir f, b.flight.find? (fun x => x.1 == g && x.2.up == dir) = some (g, f) →
      let i := 2 * g + if dir then 1 else 0
      let good := Config.flitIntact k g s.drawn = true ∧
        (f.cls = 3 ∨ (f.seq = b.expected.get 0 i ∧ (b.entries.get [] i).length < 128))
      ∃ u, exec (.flitArrival k g dir) s = .next ({ s with drawn := s.drawn + 1 }.setBundle k u) ∧
        (good → u.flight = b.flight.erase (g, f) ∧ u.replay = b.replay ∧
          (f.cls ≠ 3 → u.expected.get 0 i = f.seq + 1) ∧
          ∀ j, u.window.get 128 j = b.window.get 128 j + (f.returns.filter (fun x => x == j)).length) ∧
        (¬good → u.replay.get 0 g = b.replay.get 0 g + 1 ∧ u.window = b.window ∧ u.expected = b.expected ∧ u.entries = b.entries ∧
          ∀ h ∈ b.retry.get [] i, f.seq ≤ h.seq →
            ∃ x ∈ u.flight, x.1 = g ∧ x.2.seq = h.seq ∧ x.2.cls = h.cls ∧ x.2.part = h.part ∧ x.2.order = h.order)) ∧
    (let due := (if s.now = 0 then 0 else (s.now - 1) * 25 / 14 + 1) ≤ clock / 4096 * 4096 ∧ b.audits < clock / 4096
     let audited (i : Nat) := 128 - (b.sent.get 0 i - b.freed.get 0 i)
     let changed (i : Nat) := if audited i = b.window.get 128 i then 0 else 1
     (¬due → exec (.creditAudit k) s = .next s) ∧
     (due → ∃ u, becomes (.creditAudit k) u ∧ u = { b with window := u.window, repair := u.repair, audits := clock / 4096 } ∧
       (∀ i < 32, u.window.get 128 i = audited i) ∧
       ∀ h < 16, u.repair.get 0 h = b.repair.get 0 h + changed (2 * h) + changed (2 * h + 1))) ∧
    (clock < s.sendClock b → exec (.flitSend k) s = .next s) ∧
    (s.sendClock b ≤ clock → b.due = [] → b.ackDue = [] →
      (b.waiting = [] → becomes (.flitSend k) { b with nextClock := s.sendClock b + 1 }) ∧
      ∀ f, b.waiting = [f] → b.turning = [] → (∀ p, f.part = some p → b.owned p = []) → b.up.getLsbD 0 = f.up →
        let i := if f.up then 1 else 0
        let units := if f.cls = 2 then 1 else if f.cls = 1 then 9 else 17
        units ≤ b.window.get 128 i → (b.retry.get [] i).length < 128 →
        ∃ (u : Bundle) (h : Flit), becomes (.flitSend k) u ∧ u.waiting = [] ∧ u.flight = b.flight ++ [(0, h)] ∧
          h = { f with seq := b.sent.get 0 i, returns := [], acks := h.acks } ∧ u.window.get 128 i = b.window.get 128 i - 1 ∧
          u.sent.get 0 i = b.sent.get 0 i + 1 ∧ u.retry.get [] i = b.retry.get [] i ++ [h] ∧ u.nextClock = s.sendClock b + 1)

/-- R401-R412: NPOST answers why it refuses, or queues its request under the next number, or waits for leave; NCWAIT, NCRD and
NREG work the counters and regions of the own domain. A packet leaves with the next number of its flow; an acknowledged WRITE
ends and is counted; a packet whose timer has run out goes again, or its request ends with error 7; an arriving packet is placed
once and counts as received. -/
def Obligations.NetworkResults : Prop :=
  (∀ (s : State) (d a b c : Reg), Clear { wait := true } s → s.waitHint = false → postedBy s s.cur = false →
    let t := s.thr
    let p := s.partOf (clusterOf s.cur)
    let x := s.steppe p
    let gives (i : Instr) (z : Word) : Prop := Gives i s (t.wg d z).wentOn
    (a ≠ 0 → a.toNat ≤ 12 →
      let quad : Vector Word 4 := #v[s.rg a, s.rg (a + 1), s.rg (a + 2), s.rg (a + 3)]
      let io := (upPorts s (field quad[3] 47 40)).headD 0 / 4
      let r : NetReq :=
        { number := x.accepted % 2 ^ 48, slot := s.cur, unit := t.unit, task := t.task, quad := quad
          dest := (peerOf s p (field quad[3] 27 16)).getD {}
          ctx := { s.ctx with agent := none, slot := none, io := some io, engine := some (0x21000 + p), win := none, localOpen := false } }
      let bad := quadBad quad = true
      let reach := (peerOf s p r.peer).isSome = true ∧ upPorts s r.mask ≠ []
      let mine := ∀ n, r.counter = some n → counterDom s p n = some t.dom
      let own := x.queue.filter (fun q => q.answers.isNone)
      let room := own.length < sendEntries s p ∧ (own.filter (fun q => q.slot == s.cur)).length < 16
      (bad → gives (.npost d a) (-2)) ∧ (¬bad → ¬reach → gives (.npost d a) (-3)) ∧
      (¬bad → reach → ¬mine → gives (.npost d a) (-4)) ∧ (¬bad → reach → mine → ¬room → gives (.npost d a) (-1)) ∧
      (¬bad → reach → mine → room → 65536 ≤ r.length → Waits (.npost d a) s (.leave d a false)) ∧
      (¬bad → reach → mine → room → r.length < 65536 → exec (.npost d a) s =
        .next (((enterBoth s.ctx.tag (clusterDie (clusterOf s.cur)) (.io io) s).setSteppe p { x with queue := x.queue ++ [r], accepted := x.accepted + 1 }).setThr
          (t.wg d (BitVec.ofNat 64 r.number)).wentOn))) ∧
    (Clear {} s →
      let n := field (s.rg a) 5 0
      let y := x.counters.get {} n
      let mine := counterDom s p n = some t.dom
      (field (s.rg a) 63 6 ≠ 0 ∨ ¬mine → gives (.ncwait d a b c) (-1)) ∧
      (field (s.rg a) 63 6 = 0 → mine →
        let th := field (s.rg b) 47 0
        (y.err ≠ 0 → Traps (.ncwait d a b c) s { cause := 0x1A, eaddr := BitVec.ofNat 64 (n + y.lasterr.toNat * 256) }) ∧
        (y.err = 0 → y.reached th = true → gives (.ncwait d a b c) (y.value.setWidth 64)) ∧
        (y.err = 0 → y.reached th = false → Waits (.ncwait d a b c) s
          (.counter d n th (if s.rg c = 0 then none else some (s.rg c).toNat)))) ∧
      (field (s.rg a) 7 6 ≠ 0 ∨ field (s.rg a) 63 10 ≠ 0 ∨ ¬mine → gives (.ncrd d a) (-1)) ∧
      (field (s.rg a) 7 6 = 0 → field (s.rg a) 63 10 = 0 → mine →
        let cleared : Counter := { y with
          value := if (s.rg a).getLsbD 9 then 0 else y.value,
          err := if (s.rg a).getLsbD 8 then 0 else y.err, lasterr := if (s.rg a).getLsbD 8 then 0 else y.lasterr }
        exec (.ncrd d a) s = .next ((s.setSteppe p { x with counters := x.counters.set n cleared }).setThr
          (t.wg d (BitVec.ofNat 64 (y.err.toNat * 2 ^ 56 + y.lasterr.toNat * 2 ^ 48 + y.value.toNat))).wentOn)) ∧
      ((s.rg c).getLsbD 63 = true → field (s.rg c) 62 0 ≠ 0 ∨ s.rg b ≠ 0 → gives (.nreg d a b c) (-2)) ∧
      (s.rg c = 0x8000000000000000 → s.rg b = 0 → (s.rg a).toNat < 65536 →
        (regionOf s p ((s.rg a).setWidth 16) = none → gives (.nreg d a b c) (-3)) ∧
        ∀ i r, regionOf s p ((s.rg a).setWidth 16) = some (i, r) →
          (r.dom ≠ t.dom → gives (.nreg d a b c) (-3)) ∧
          (r.dom = t.dom → ∃ y, exec (.nreg d a b c) s =
              .next ((s.setSteppe p { x with regions := y }).setThr (t.wg d 0).wentOn) ∧
            y.get {} i = if x.inFlight ((s.rg a).setWidth 16) then { r with closing := true }
              else { r with live := false, closing := false })) ∧
      (s.rg c = 1 → (s.rg a).toNat % 64 ≠ 0 ∨ (s.rg b).toNat % 64 ≠ 0 ∨ (s.rg b).toNat < 64 ∨ 2 ^ 40 < (s.rg b).toNat →
        gives (.nreg d a b c) (-2)) ∧
      (s.rg c = 1 → (s.rg a).toNat % 64 = 0 → (s.rg b).toNat % 64 = 0 → 64 ≤ (s.rg b).toNat → (s.rg b).toNat ≤ 2 ^ 40 →
        x.regions = [] → ∀ ps,
        regionPieces s.ctx true false ((s.rg b).toNat / 65536 + 2) (s.rg a).toNat ((s.rg a).toNat + (s.rg b).toNat) s
          = .ok (s, ps) →
        exec (.nreg d a b c) s = .next ((s.setSteppe p { x with regions := [(0,
          { live := true, gen := 1, dom := t.dom, base := (s.rg a).toNat, len := (s.rg b).toNat, rr := true,
            pages := ps.map (fun q => q.pa / 65536 * 65536),
            tables := (ps.map (fun q => q.tables)).flatten.eraseDups })] }).setThr (t.wg d 0x1000).wentOn)))) ∧
  (∀ (s : State) (k n h : Nat) (d : Reg), (s.thread k).wait = some (.counter d n h (some 0)) → (s.thread k).rep = none →
    (s.thread k).pending = [] →
    let x := (s.steppe (s.partOf (clusterOf k))).counters.get {} n
    (x.err = 0 → exec (.ncwaitTimeout k) s = .next (s.setThread k ((s.thread k).wg d (x.value.setWidth 64)).wentOn)) ∧
    (x.err ≠ 0 → exec (.ncwaitTimeout k) s =
      .next (trapNow k { cause := 0x1A, eaddr := BitVec.ofNat 64 (n + x.lasterr.toNat * 256) } s))) ∧
  (∀ (s u : State) (p : Nat) (r : NetReq) (l : List Byte), (s.steppe p).queue = [r] → (s.steppe p).waiting = [] →
    (s.steppe p).owed = [] → (∀ e ∈ (s.steppe p).regions, e.2.closing = false) →
    r.failure = none → r.succeeded = false → r.request = none → r.staged = none → maySend s p r = true → s.checks = [] →
    payloadOf p r r.next (s.setSteppe p (s.steppe p)) = .ok (u, l) → u.steppe p = s.steppe p → u.ports = s.ports →
    let x := s.steppe p
    let seq := x.flows.get 0 r.peer
    ((∀ e ∈ u.checks, e.2 ≠ p) → ∃ q : Sent, q.j = r.next ∧ q.seq = seq ∧ q.sends = 1 ∧ q.bytes = l ∧ q.acked = false ∧
      q.expires = u.now + retransmitTime u p ∧ q.port ∈ upPorts u r.mask ∧
      exec (.packetSend p) s = .next (u.setSteppe p { x with
        flows := x.flows.set r.peer (seq + 1),
        queue := [{ r with next := r.next + 1, sent := r.sent ++ [q],
                           leave := r.leave && (r.read || decide (r.next + 1 < r.total)) }] })) ∧
    ((∃ e ∈ u.checks, e.2 = p) → exec (.packetSend p) s = .next (u.setSteppe p { x with queue := [{ r with staged := some l }] }))) ∧
  (∀ (s : State) (p : Nat), (s.steppe p).queue = [] → (s.steppe p).waiting = [] → s.checks = [] →
    let x := s.steppe p
    ∃ t, exec (.packetSend p) s = .next t ∧ (t.steppe p).owed = [] ∧ SameMemory s t ∧ ∃ l : List Ack,
      (t.steppe p).acks = x.acks ++ l ∧ l.map (fun a => a.peer) = x.owed ∧ ∀ a ∈ l,
        let f : Flow := x.received.get {} a.peer
        a.low = f.low ∧ a.failed = f.failed ∧ ∀ i < 64, a.map.getLsbD i = f.above.contains (f.low + 1 + i)) ∧
  (∀ (s : State) (p n seq : Nat) (r : NetReq) (q : Sent), (s.steppe p).queue = [r] → r.sent = [q] → q.seq = seq →
    q.acked = false → q.code = 0 → r.error = none → r.answers = none → r.request = none → r.read = false →
    r.counter = some n → r.total ≤ r.next →
    let x := s.steppe p
    let c := x.counters.get {} n
    (∀ a : Ack, a.peer = r.peer → a.failed = [] → seq < a.low → exec (.ackArrival p a) s =
      .next (s.setSteppe p { x with queue := [], sentBefore := x.sentBefore + q.sends, counters := x.counters.set n { c with
        value := c.value + BitVec.ofNat 48 (if r.quad[3].getLsbD 31 then r.length else 1) } })) ∧
    (q.expires ≤ s.now →
      (resendLimit s p < q.sends → exec (.retransmitTimerExpiry p r.peer seq) s =
        .next (s.setSteppe p { x with queue := [], sentBefore := x.sentBefore + q.sends, counters := x.counters.set n { c with
          err := if c.err = 255 then c.err else c.err + 1, lasterr := 7 } })) ∧
      (q.sends ≤ resendLimit s p → upPorts s r.mask ≠ [] → ∃ y : Sent, y.seq = seq ∧ y.j = q.j ∧ y.bytes = q.bytes ∧
        y.sends = q.sends + 1 ∧ y.acked = false ∧ y.expires = s.now + retransmitTime s p ∧ y.port ∈ upPorts s r.mask ∧
        exec (.retransmitTimerExpiry p r.peer seq) s = .next (s.setSteppe p { x with queue := [{ r with sent := [y] }] })))) ∧
  (∀ (s : State) (p : Nat) (pkt : Packet), (s.steppe p).queue = [] → (s.steppe p).waiting = [] →
    (∀ e ∈ (s.steppe p).regions, e.2.closing = false) →
    let owes (t : State) : Prop := pkt.peer ∈ (t.steppe p).owed
    let flow (t : State) : Flow := (t.steppe p).received.get {} pkt.peer
    ((flow s).has pkt.seq = true → ∃ t, exec (.packetArrival p pkt) s = .next t ∧ (flow t).has pkt.seq = true ∧ owes t ∧ SameMemory s t) ∧
    ((flow s).has pkt.seq = false → pkt.kind = .write → checkRegion s p pkt = .error 4 →
      ∃ t, exec (.packetArrival p pkt) s = .next t ∧ (flow t).has pkt.seq = true ∧ (pkt.seq, 4) ∈ (flow t).failed ∧
        owes t ∧ SameMemory s t) ∧
    ∀ i r u, (flow s).has pkt.seq = false → pkt.kind = .write → checkRegion s p pkt = .ok (i, r) →
      placeInRegion p r (pkt.port / 4) (pkt.offset + 2048 * pkt.j) (pkt.payload.take (packetBytes pkt.len pkt.j))
        (s.setSteppe p (s.steppe p)) = .ok u →
      (u.steppe p).queue = [] → ∃ t, exec (.packetArrival p pkt) s = .next t ∧ (flow t).has pkt.seq = true ∧ owes t ∧ SameMemory u t) ∧
  ∀ (s : State) (n : Nat) (up : Bool),
    (n < 8 → ∃ t, exec (.portStateChange n up) s = .next t ∧ t = { s with ports := t.ports } ∧
      ∀ i < 8, t.ports.getLsbD i = if i = n then up else s.ports.getLsbD i) ∧
    (8 ≤ n → exec (.portStateChange n up) s = .next s)


/-! ### Vacates, partitions, the host, power (16, 23, 24) -/

/-- R347-R353, R417, R418: a vacate of a cluster drains where every unit can end in time, saves where the time suffices for the
bytes, discards where every vacated thread may start again. A saved cluster's threads leave their slots for the save area; a slot
record keeps pc and registers. A cluster that still drains at its deadline saves, late. A finished vacate reports. A restore goes
onto a cluster that can take it. A forced move whose cluster set CRIT waits for 4,096 cycles or for CRIT. A marked cluster that
holds nothing more moves, with its urgent slots fresh at the new supervisor's vector. How long a save takes is free (log entry 5). -/
def Obligations.VacateResults : Prop :=
  (∀ (s : State) (p rec c d : Nat) (whole : Bool) (report : Word) (notify : Option Nat),
    (readVacate s p rec = none → exec (.vacateRequest p rec) s = .next s) ∧
    (readVacate s p rec = some ([c], d, whole, report, notify) →
      let halted := s.setCluster c { s.cluster c with stopped := true }
      let new (v : VacateCluster) : Vacate :=
        { clusters := [v], deadline := d, whole := whole, report := some report, notify := notify, accepted := s.now }
      let ends (outcome : Nat) (t : State) : Prop := exec (.vacateRequest p rec) s = .next t ∧
        ∃ w v, (t.part p).vacates.getLast? = some w ∧ w.clusters = [v] ∧ w.whole = whole ∧ w.report = some report ∧
          v.cluster = c ∧ v.finished = true ∧ v.outcome = outcome ∧ v.fail = false
      let drains := (whole = true → holdsWhole s c = false) ∧ drainsWithin s c d = true
      let inTime := (saveBytes s c whole + 255) / 256 + 2048 ≤ d
      (drains → exec (.vacateRequest p rec) s = .next (halted.setPart p
        { s.part p with vacates := (s.part p).vacates ++ [new { cluster := c, draining := true, since := s.now }] })) ∧
      (¬drains → ¬inTime → mayDiscard s c whole = true →
        ∃ t, ends 2 t ∧ ∀ u ∈ involvedUnits s c whole, t.workUnit u = none) ∧
      (¬drains → inTime ∨ mayDiscard s c whole = false → savePosted halted c whole = false → (saveCluster c whole halted).2 = true →
        ∃ t x, ends (if inTime then 1 else 3) t ∧
          (t.part p).saved.find? (fun e => e.1 == s.serial) = some (s.serial, x) ∧
          x.area = (s.cluster c).ctxbase.toNat ∧ x.cluster = c ∧ ∀ e ∈ x.threads, (t.thread (128 * c + e.1)).occupied = false))) ∧
  (∀ (s : State) (core : Nat) (urgent : Bool) (t : Thread),
    let u := readRecord t (fun i => (slotRecord s core urgent t).getD i 0)
    u.pc.toNat = t.pc.toNat / 4 * 4 ∧ (∀ r, u.rg r = t.countLeft.rg r) ∧ (∀ r, u.rv r = t.rv r) ∧ ∀ r, u.rm r = t.rm r) ∧
  (∀ (s : State) (p c : Nat) (v : Vacate) (x : VacateCluster), s.partOf c = p → (s.part p).vacates = [v] → v.clusters = [x] →
    x.cluster = c → x.saving = none →
    let left (i : Instr) (P : VacateCluster → Prop) : Prop :=
      ∃ t y, exec i s = .next t ∧ (t.part p).vacates = [{ v with clusters := [y] }] ∧ P y
    (x.draining = true → involvedUnits s c v.whole = [] → (v.whole = true → holdsWhole s c = false) →
      left (.drainDeadlineExpiry c) (· = { x with draining := false, finished := true, took := s.now - v.accepted })) ∧
    (x.draining = true → involvedUnits s c v.whole ≠ [] →
      (s.now < x.since + v.deadline → left (.drainDeadlineExpiry c) (· = x)) ∧
      (x.since + v.deadline ≤ s.now → left (.drainDeadlineExpiry c)
        (fun y => y.draining = false ∧ (y.finished = true ∨ savePosted s c v.whole = true ∧ y.saving = some 3) ∧
          (y.finished = true → y.fail = false → y.outcome = 3)))) ∧
    (x.finished = true → x.draining = false → v.accepted + x.took ≤ s.now →
      let gone := s.setPart p { s.part p with vacates := [] }
      let told := match v.report with | some r => writeReport p r.toNat v gone | none => gone
      (v.notify = none → exec (.vacateReport p) s = .next told) ∧
      (∀ k, v.notify = some k → (told.cluster (clusterOf k)).part = some p →
        exec (.vacateReport p) s = .next (post k 0x1B (v.report.getD 0) told))) ∧
    (x.finished = false ∨ s.now < v.accepted + x.took → x.draining = false →
      ∃ t, exec (.vacateReport p) s = .next t ∧ (t.part p).vacates = [v]) ∧
    ((s.cluster c).deferral = none → exec (.critDeferralExpiry c) s = .next s) ∧
    (∀ n, (s.cluster c).deferral = some n → x.deferred = true →
      (n ≠ 0 → critical s p c = true → exec (.critDeferralExpiry c) s = .next s) ∧
      (n = 0 ∨ critical s p c = false → left (.critDeferralExpiry c)
        (fun y => y.cluster = c ∧ y.deferred = false ∧ y.since = s.now)))) ∧
  (∀ x : VacateCluster, x.cluster < 128 → x.outcome < 4 →
    let w := reportEntry x
    field w 6 0 = x.cluster ∧ field w 9 8 = x.outcome ∧ w.getLsbD 10 = x.fail ∧ field w 63 32 = x.took % 2 ^ 32 ∧
      field w 7 7 = 0 ∧ field w 31 11 = 0) ∧
  (∀ (s : State) (c area : Nat),
    let saved := (s.part (s.partOf c)).saved
    let intact := saved.find? (fun e => partsPass s (s.partOf c) area e.1 e.2)
    let last := (saved.filter (fun e => e.2.area == area)).getLast?
    ((s.cluster c).part = none → exec (.restore c area) s = .next s) ∧
    ∀ p, (s.cluster c).part = some p →
      (∀ n x, intact = some (n, x) → (canRestore s c x = false → exec (.restore c area) s = .next s) ∧
        (canRestore s c x = true → ∃ t, exec (.restore c area) s = .next t ∧ (t.cluster c).stopped = false ∧
          (t.part p).saved.find? (fun e => e.1 == n) = none ∧ ∀ e ∈ x.threads, (t.thread (128 * c + e.1)).occupied = true)) ∧
      (intact = none → last = none → exec (.restore c area) s = .next s) ∧
      (∀ n x, intact = none → last = some (n, x) → ∃ t, exec (.restore c area) s = .next t ∧
        (t.part p).saved.find? (fun e => e.1 == n) = none ∧ ∀ u ∈ x.units, t.workUnit u = none)) ∧
  ∀ (s : State) (c p q : Nat) (force : ForcedVacate), (s.cluster c).part = some p → (s.cluster c).leaving = some q →
    let early := s.now < (s.cluster c).leavingAt + 1400000
    (early → exec (.forcedMove c force) s = .next s) ∧
    (¬early → settled s p c = true →
      let new (v : VacateCluster) : Vacate :=
        { clusters := [v], deadline := force.deadline, whole := true
          report := if force.report = 0 then none else some force.report, notify := none, accepted := s.now }
      (critical s p c = true → ∃ t, exec (.forcedMove c force) s = .next t ∧ (t.cluster c).deferral = some 4096 ∧
        (t.cluster c).moveReport = force.report ∧ (t.part p).vacates = (s.part p).vacates ++ [new { cluster := c, since := s.now, deferred := true }]) ∧
      (critical s p c = false → ∃ t w v, exec (.forcedMove c force) s = .next t ∧
        (t.part p).vacates.getLast? = some w ∧ w.clusters = [v] ∧ w.whole = true ∧ w.deadline = force.deadline ∧ v.cluster = c ∧
        v.deferred = false ∧ (v.draining = true ∨ v.finished = true ∨ v.saving.isSome = true))) ∧
    (cleared s c = false ∨ settled s p c = false ∨ s.live q = false → exec (.clusterMove c) s = .next s) ∧
    (c < 128 → s.feLists = [] → cleared s c = true → settled s p c = true → s.live q = true → ∃ t, exec (.clusterMove c) s = .next t ∧
      (t.cluster c).part = some q ∧ (t.cluster c).leaving = none ∧ (t.cluster c).stopped = false ∧
      (t.cluster c).ox = {} ∧ (t.cluster c).bufs = [] ∧ (t.cluster c).stash = [] ∧
      ∀ n < 16, let u := t.thread (8 * (16 * c + n) + 7)
        u.occupied = true ∧ u.tstat = 1 ∧ u.rg 1 = BitVec.ofNat 64 c ∧ (∀ r, r ≠ 1 → u.rg r = 0) ∧ ∀ r, u.rv r = 0)

/-- R414-R417, R420, R422-R426, R429, R432: once in a period of 140,000 cycles the border controller marks clusters of partitions
above their target and floor, those given back first, until no live partition below its target is left to take one; a channel is given over empty and fresh; the buckets of a slice refill, serve and lend; clears leave every byte as it
reads; a failed integrity check halts its world; the service ring answers each code; a partition is created over the clusters
that its record names and nobody owns (the last with log entry 21). -/
def Obligations.PartitionResults : Prop :=
  (∀ s : State,
    let demand (q : Nat) := min (field (s.prec q 0x58) 15 8) ((clustersOf s q).length +
      ((clustersOf s q).map (fun c => field (s.cluster c).forecast 31 24)).sum)
    let claim (q : Nat) := field (s.prec q 0x58) 23 16 * (demand q - floorOf s q)
    let claims := ((livePartitions s).map claim).sum
    let target (q : Nat) := floorOf s q +
      if claims = 0 then 0 else (128 - ((livePartitions s).map (floorOf s)).sum) * claim q / claims
    (s.now / 140000 ≤ s.borderRuns → exec .borderControllerRun s = .next s) ∧
    (s.borderRuns < s.now / 140000 → ∃ t, exec .borderControllerRun s = .next t ∧
      t = { s with clusters := t.clusters, borderRuns := s.now / 140000 } ∧
      (∀ p, floorOf s p ≤ heldAfter s p → floorOf s p ≤ heldAfter t p) ∧
      (∀ c, ((s.cluster c).leaving ≠ none → t.cluster c = s.cluster c) ∧
        ((t.cluster c).leaving ≠ (s.cluster c).leaving → ∃ p q, (s.cluster c).part = some p ∧ q ≠ p ∧ s.live q = true ∧
          t.cluster c = { s.cluster c with leaving := some q, leavingAt := s.now })) ∧
      (∀ c < 128, ∀ p, (s.cluster c).part = some p → (t.cluster c).leaving = none → target p < heldAfter t p →
        ∀ q < 32, s.live q = true → q ≠ p → target q ≤ heldAfter t q) ∧
      ∀ c < 128, ∀ b < 128, (s.cluster c).part = (s.cluster b).part → (s.cluster c).givenBack = false →
        (s.cluster b).givenBack = true → (s.cluster c).leaving = none → (t.cluster c).leaving ≠ none →
        (t.cluster b).leaving ≠ none)) ∧
  (∀ (s : State) (ch p : Nat),
    (160 ≤ ch ∨ s.live p = false ∨ (∃ q ∈ heldPartitions s, mapsChannel s ch q = true) → exec (.channelMove ch p) s = .next s) ∧
    ∀ r, mapsChannel s ch p = false → ch < 160 → s.live p = true → (s.part p).record = some r →
      let lo := if ch < 128 then ch * 0xC0000000 else 0x10000000000 + (ch - 128) * 0x4000000000
      let n := if ch < 128 then 0xC0000000 else 0x4000000000
      r + 256 ≤ 0xA0000000000 → r + 256 ≤ lo ∨ lo + n ≤ r → heldPartitions s = [p] → s.feLists = [] →
      ∃ t, exec (.channelMove ch p) s = .next t ∧
        (∀ a, lo ≤ a → a < lo + n → Memory.get t.mem a = 0 ∧ t.coh.dir.get {} a = {} ∧ t.coh.ids.get 1 (a / 65536) = 1) ∧
        (t.prec p (if ch < 64 then 0x90 else if ch < 128 then 0x98 else 0xA0)).getLsbD (if ch < 128 then ch % 64 else ch - 128) = true) ∧
  (∀ (s : State) (slice p q : Nat), livePartitions s = [p, q] →
    let i (x : Nat) := 32 * slice + x
    let gained (x : Nat) := tokensOf s slice x + tokenRate s x
    let full (x : Nat) := min (gained x) (tokenDepth s x)
    let waiting (x : Nat) := s.deferred.get [] (i x)
    let served (x : Nat) := min (waiting x).length (full x)
    let kept (x : Nat) := full x - served x
    let still (x : Nat) := (waiting x).drop (served x)
    let spare (x : Nat) := gained x - full x
    let lent (x y : Nat) :=
      if kept x ≠ 0 ∨ (s.prec x 0x48).getLsbD 1 = true ∨ (s.prec y 0x48).getLsbD 0 = true ∨ kept y ≠ tokenDepth s y then 0
      else min (min (still x).length (tokenRate s x)) (spare y)
    (s.now / 256 ≤ s.refills.get 0 slice → exec (.tokenRefill slice) s = .next s) ∧
    (s.refills.get 0 slice < s.now / 256 → (waiting p).length ≤ 32 → (waiting q).length ≤ 32 →
      ∃ t, exec (.tokenRefill slice) s = .next t ∧
        t = { s with tokens := t.tokens, deferred := t.deferred, threads := t.threads, credits := t.credits
                     refills := s.refills.set slice (s.now / 256), spill := t.spill, borrowed := t.borrowed } ∧
        t.tokens.get none (i p) = some (kept p) ∧ t.tokens.get none (i q) = some (kept q) ∧
        t.deferred.get [] (i p) = (still p).drop (lent p q) ∧ t.deferred.get [] (i q) = (still q).drop (lent q p) ∧
        t.spill.get 0 (i p) = spare p - lent q p ∧ t.spill.get 0 (i q) = spare q - lent p q ∧
        t.borrowed.get 0 (i p) = lent p q ∧ t.borrowed.get 0 (i q) = lent q p ∧
        ∀ x k va, x = p ∨ x = q → k < 16384 → (k, false) ∈ (waiting x).take (served x) →
          (s.thread k).wait = some (.token (i x) va) → (t.thread k).wait = none)) ∧
  (∀ (s : State) (i : Instr) (page : Nat), i = .freshPageClearComplete page ∨ i = .backgroundClear page →
    ∃ t, exec i s = .next t ∧ t = { s with pageClear := t.pageClear } ∧
      (0xA0000000000 ≤ 65536 * page → 65536 * page < 0xA0020000000 → t = s) ∧
      (65536 * page < 0xA0000000000 → t.pageClear.get 0 page = 2) ∧
      ∀ k, k ≠ page → t.pageClear.get 0 k = s.pageClear.get 0 k) ∧
  (∀ (s : State) (c u : Nat),
    (128 ≤ c ∨ 1024 ≤ u → exec (.scratchpadUnitClear c u) s = .next s) ∧
    (c < 128 → u < 1024 → exec (.scratchpadUnitClear c u) s =
      .next (s.setCluster c { s.cluster c with clear := (s.cluster c).clear.set u true }))) ∧
  (∀ (s : State) (block : Nat) (good : Bool),
    (s.checks.find? (fun e => e.1 == block) = none → exec (.integrityCheckComplete block good) s = .next s) ∧
    ∀ p, s.checks.find? (fun e => e.1 == block) = some (block, p) →
      (let u := { s with checks := s.checks.filter (fun e => e.1 != block) }
       let good (t : State) : Prop := exec (.integrityCheckComplete block true) s = .next t
       ((∃ x ∈ u.checks, x.2 = p) ∨ (∀ x ∈ s.hostFns, x.2.bound = some p → x.2.outward = []) → good u) ∧
       ∀ n f a, (∀ x ∈ u.checks, x.2 ≠ p) → s.hostFns = [(n, f)] → f.bound = some p → f.outward = [.answer a] →
         good { u with hostFns := [(n, { f with outward := [], completion := some a })] }) ∧
      ∃ t, exec (.integrityCheckComplete block false) s = .next t ∧ (t.part p).halted = true ∧ (t.part p).launches = [] ∧
        (t.steppe p).queue = [] ∧ (∀ x ∈ t.hostFns, x.2.bound = some p → x.2.outward = []) ∧ t.reports.getLast? = some { cause := 0x16, detail := p } ∧
        ∀ k, (s.cluster (clusterOf k)).part = some p → clusterOf k < 128 → (t.thread k).occupied = false) ∧
  (∀ (s : State) (p : Nat) (granted : Bool),
    let serves (i : Instr) (code : Nat) (formed allowed : Word → Prop) (made : Word → State) : Prop :=
      (serviceEntry s p = none → exec i s = .next s) ∧
      ∀ e x y, serviceEntry s p = some e → ipaRead s p e = .ok x → ipaRead s p (e + 8) = .ok y →
        let c := field x 7 0
        (c = 0 ∨ 5 < c → exec i s = .next (serviceDone p e (-2) s)) ∧
        (1 ≤ c → c ≤ 5 → c ≠ code → exec i s = .next s) ∧
        (c = code → ¬formed y → exec i s = .next (serviceDone p e (-2) s)) ∧
        (c = code → formed y → granted = true → allowed y → exec i s = .next (serviceDone p e 0 (made y))) ∧
        (c = code → formed y → granted = false ∨ ¬allowed y → exec i s = .next (serviceDone p e (-1) s))
    let any (_ : Word) : Prop := True
    serves (.serviceVacate p granted) 1
      (fun y => ∃ cs d r n, readVacate s p y.toNat = some (cs, d, false, r, n)) any
      (fun y => match readVacate s p y.toNat with
        | some (cs, d, _, r, n) => acceptVacate p cs d false false (some r) n s
        | none => s) ∧
    serves (.serviceFeLimits p granted) 2 (fun y => field y 7 0 ≠ 0 ∧ field y 31 8 = 0 ∧ 1024 ≤ field y 56 32 ∧
        field y 56 32 ≤ 16777216 ∧ field y 63 57 = 0) any (fun y => setRecord p 0x30 y s) ∧
    serves (.serviceTarget p granted) 3
      (fun y => field y 7 0 ≤ 128 ∧ field y 15 8 ≤ 128 ∧ field y 23 16 ≠ 0 ∧ field y 63 24 = 0)
      (fun y => (((livePartitions s).filter (· != p)).map (floorOf s)).sum + field y 7 0 ≤ 128) (fun y => setRecord p 0x58 y s) ∧
    serves (.serviceBars p granted) 4 (fun y => field y 63 4 = 0) any (fun y => setRecord p 0x48 y s) ∧
    serves (.serviceGiveBack p granted) 5
      (fun y => field y 63 7 = 0 ∧ (s.cluster (field y 6 0)).part = some p) any
      (fun y => s.setCluster (field y 6 0) { s.cluster (field y 6 0) with givenBack := true })) ∧
  ∀ (s : State) (p r world : Nat),
    (32 ≤ p ∨ world = 0 ∨ 65536 ≤ world ∨ world ∈ s.usedWorlds ∨ s.live p = true ∨ overlapsOwners s r = true ∨
        s.stopped = true ∨ boundsKept s r = false → exec (.partitionCreation p r world) s = .next s) ∧
    (p < 32 → 0 < world → world < 65536 → world ∉ s.usedWorlds → s.live p = false → overlapsOwners s r = false →
      s.stopped = false → boundsKept s r = true → r + 256 ≤ 0xA0000000000 → ∃ t, exec (.partitionCreation p r world) s = .next t ∧ t.usedWorlds = s.usedWorlds ++ [world] ∧
        (t.part p).record = some r ∧ (t.part p).key = s.serial ∧ (t.hostFn p).bound = some p ∧
        ∀ c < 128, (s.cluster c).part = none → (s.raw64 (r + 0x80 + c / 64 * 8)).getLsbD (c % 64) = true →
          (t.cluster c).part = some p)

/-- R432-R440: a write of a queue register stores it and, where the programming fails a check, puts the queue in state 3 with the
cause and an interrupt, as a refused read of the ring does (which ones are refused is free: log entry 22). Keying discards what is
not consumed and sets the queue running, but leaves it in state 3 while its programming is not valid. The head entry is dropped when its number is old or its tag fails, stalls the queue when its number is ahead, and
otherwise has its effect, its result and its place consumed; which tags pass is free (log entry 9). The BARs of a bound function
answer accesses, with Completer Abort where stage 2 refuses; others complete as Unsupported Request. Results, answers and
interrupts wait while a check of the world is in flight. The responder answers requests in their order (codes and order: log entry
23). After a bring-up error function 0 alone answers. -/
def Obligations.HostResults : Prop :=
  (∀ (s : State) (n : Nat) (x : BitVec 64),
    let f := s.hostFn n
    let writes (i : Instr) (g : HostFn) (moved : Bool) : Prop :=
      (f.bound = none → exec i s = .next s) ∧
      (f.bound ≠ none → programmingFault g moved = none → exec i s = .next (s.setHostFn n g)) ∧
      ∀ p, f.bound = some p → ∀ c, programmingFault g moved = some c → exec i s = .next (failQueue n p c g s)
    writes (.qwr n x) { f with qwr := x.setWidth 32 } false ∧ writes (.qbase n x) { f with qbase := x } true ∧
      writes (.qsize n x) { f with qsize := (x.setWidth 13).setWidth 64 } true) ∧
  (∀ (f : HostFn) (moved : Bool),
    let inside := f.dmaBase ≤ f.qbase.toNat ∧ f.qbase.toNat + 64 * f.qsize.toNat ≤ f.dmaBase + f.dmaLen
    let sized := ∃ i < 9, f.qsize.toNat = 16 * 2 ^ i
    let room := (f.qwr - f.qrd).toNat ≤ f.qsize.toNat
    programmingFault f moved =
      if f.qbase.toNat % 64 ≠ 0 ∨ ¬inside then some 1
      else if ¬sized then some 2
      else if ¬room then some 3
      else if moved = true ∧ f.qwr ≠ f.qrd then some 4
      else none) ∧
  (∀ (s : State) (n p c : Nat) (g : HostFn), g.bound = some p →
    let t := failQueue n p c g s
    let failed := { g with qstate := 3, cause := c }
    t = { recordQueue p 3 s with hostFns := t.hostFns } ∧ (∀ m, m ≠ n → t.hostFn m = s.hostFn m) ∧
    (mayLeave (s.setHostFn n g) n = true → t.hostFn n = { failed with msix := true }) ∧
    (mayLeave (s.setHostFn n g) n = false → t.hostFn n = { failed with outward := g.outward ++ [.interrupt] })) ∧
  (∀ (s : State) (n p : Nat), (s.hostFn n).bound = some p →
    (mayLeave s n = true ↔ (s.hostFn n).outward = [] ∧ ∀ x ∈ s.checks, x.2 ≠ p)) ∧
  (∀ (s : State) (n p : Nat), (s.hostFn n).bound = some p →
    let f := s.hostFn n
    let g := { f with qrd := f.qwr, keyed := true, expected := 1 }
    (f.request = none → f.spdm.established = false → exec (.queueKeying n) s = .next s) ∧
    (f.request = none → f.spdm.established = true → f.qstate = 3 → programmingFault g false ≠ none →
      exec (.queueKeying n) s = .next (s.setHostFn n g)) ∧
    (f.request = none → f.spdm.established = true → f.qstate ≠ 3 ∨ programmingFault g false = none →
      exec (.queueKeying n) s = .next (recordQueue p 0 (s.setHostFn n { g with qstate := 0, cause := 0 })))) ∧
  (∀ (s : State) (n : Nat), (s.hostFn n).bound = none → exec (.queueKeying n) s = .next s) ∧
  (∀ (s : State) (n p code : Nat) (i : Instr), (s.hostFn n).bound = some p →
    (code = 1 ∧ i = .hostqLaunch n) ∨ (code = 2 ∧ i = .hostqDepdec n) ∨ (code = 3 ∧ i = .hostqStff n) →
    let f := s.hostFn n
    let e := f.qbase.toNat + 64 * (f.qrd.toNat % f.qsize.toNat)
    let seq := (hostWord s e).toNat
    let c := field (hostWord s (e + 8)) 7 0
    let ready := f.qstate = 0 ∧ f.keyed = true ∧ f.qrd ≠ f.qwr ∧ (s.part p).halted = false ∧ programmingFault f false = none
    let takes := c = code ∨ c = 0 ∨ 3 < c
    let skipped (u : State) : State :=
      let g := u.hostFn n
      u.setHostFn n { g with qrd := f.qrd + 1 }
    let refused := Config.ringRefused n s.drawn
    let reads := ready ∧ refused = false
    (¬ready → exec i s = .next s) ∧
    (ready → refused = true → exec i s = .next (failQueue n p 5 f { s with drawn := s.drawn + 1 })) ∧
    (reads → 1 ≤ c → c ≤ 3 → c ≠ code → exec i s = .next s) ∧
    (reads → takes → seq < f.expected →
      exec i s = .next (skipped (bumpCount p 0 s))) ∧
    (reads → takes → f.expected < seq → seq < 2 ^ 63 →
      exec i s = .next (recordQueue p 1 (s.setHostFn n { f with qstate := 1 }))) ∧
    (reads → takes → seq = f.expected → seq < 2 ^ 63 →
      (Config.tagPasses n seq s.drawn = false →
        exec i s = .next (skipped (bumpCount p 16 { s with drawn := s.drawn + 1 }))) ∧
      (Config.tagPasses n seq s.drawn = true → f.request = none → ∀ u x, performEntry n p e s = .done u x → ∃ t, exec i s = .next t ∧
        (t.hostFn n).qrd = f.qrd + 1 ∧ (t.hostFn n).expected = seq + 1 ∧
        (mayLeave u n = true → hostWord t (e + 0x20) = x) ∧
        (mayLeave u n = false → (t.hostFn n).outward = (u.hostFn n).outward ++ [.result (e + 0x20) x]) ∧
        (t.hostFn n).qstate = if seq + 1 = 2 ^ 63 then 2 else 0)) ∧
    (field (hostWord s (e + 8)) 63 20 ≠ 0 ∨ hostWord s (e + 0x28) ≠ 0 ∨ c = 0 ∨ 3 < c ∨ (c ≤ 2 ∧ hostWord s (e + 0x18) ≠ 0) →
      performEntry n p e s = .done s (-2))) ∧
  (∀ (s : State) (n addr size : Nat) (data : Option (List Byte)),
    let f := s.hostFn n
    let opens (bar : Nat) : Prop := if s.ready then f.bound ≠ none else n = 0 ∧ bar = 0
    let at_ (bar : Nat) : Instr := .hostBar2Access n { bar := bar, addr := addr } size data
    let answers (i : Instr) (u : State) (x : Completion) : Prop :=
      let g := u.hostFn n
      (mayLeave u n = true → exec i s = .next (u.setHostFn n { g with completion := some x })) ∧
      (mayLeave u n = false → exec i s = .next (u.setHostFn n { g with outward := g.outward ++ [.answer x] }))
    let performs (i : Instr) (r : Except Stop (State × Completion)) : Prop :=
      (∀ u x, r = .ok (u, x) → answers i { u with coreRequests := u.coreRequests.erase i } x) ∧
      (∀ w, r = .error (.wait w) → ∃ t, exec i s = .next t ∧ i ∈ t.coreRequests ∧ t.hostFns = s.hostFns) ∧
      ∀ e, r = .error e → (∀ w, e ≠ .wait w) → answers i s .abort
    answers (at_ 7) s (.data (if data = none then (List.range size).map (fun i => Config.pcieConfig n (addr + i)) else [])) ∧
    (∀ bar, bar ≠ 7 → ¬opens bar ∨ bar ∉ [0, 2, 4] → answers (at_ bar) s .unsupported) ∧
    (opens 2 → f.bar2 < addr + size → answers (at_ 2) s .unsupported) ∧
    (opens 0 → addr + size ≤ 65536 → data ≠ none →
      ∀ l, data = some l → let x := BitVec.ofNat 64 (ofBytes l)
      (addr = 0x100 → exec (at_ 0) s = exec (.qbase n x) s) ∧ (addr = 0x108 → exec (at_ 0) s = exec (.qsize n x) s) ∧
      (addr = 0x110 → exec (at_ 0) s = exec (.qwr n x) s) ∧ (addr ∉ [0x100, 0x108, 0x110] → exec (at_ 0) s = .next s)) ∧
    (opens 0 →
      let reads (off x : Nat) : Prop := answers (.hostBar2Access n { bar := 0, addr := off } 8 none) s (.data (toBytes 8 x))
      reads 0 (s.ready.toNat + f.bound.isSome.toNat * 2 + s.bringUpError % 256 * 2 ^ 8 + f.bound.getD 0 % 32 * 2 ^ 16) ∧
      reads 0x100 f.qbase.toNat ∧ reads 0x108 f.qsize.toNat ∧ reads 0x110 f.qwr.toNat ∧ reads 0x118 f.qrd.toNat ∧
      reads 0x120 (f.qstate % 4 + f.keyed.toNat * 4 + f.cause % 256 * 2 ^ 8)) ∧
    (opens 4 → addr + size ≤ f.bar2 / 16 → data ≠ none → exec (at_ 4) s = .next s) ∧
    (¬opens 4 ∨ f.bar2 ≤ 16 * addr ∨ addr % 4 ≠ 0 → answers (.hostSidebandRead n addr) s .unsupported) ∧
    ∀ p, f.bound = some p → s.ready = true →
      (addr + size ≤ f.bar2 →
        (∀ k, k = (if data = none then Access.load else .store) → hostBytes s p addr size k = none → answers (at_ 2) s .abort) ∧
        (∀ pas, data = none → hostBytes s p addr size .load = some pas →
          performs (at_ 2) ((hostLoad n p addr pas s).map (fun r => (r.1, .data r.2)))) ∧
        ∀ pas l, data = some l → hostBytes s p addr size .store = some pas →
          performs (at_ 2) ((hostWrite n p addr (pas.zip (l.take size)) s).map (fun u => (u, .data [])))) ∧
      (16 * addr < f.bar2 → addr % 4 = 0 →
        (hostBytes s p (16 * addr) 1 .load = none → answers (.hostSidebandRead n addr) s .abort) ∧
        ∀ pa, hostBytes s p (16 * addr) 1 .load = some [pa] → performs (.hostSidebandRead n addr) (do
          let w ← hostWalk n p (16 * addr) 1 s
          let r ← lineAccess (hostCtx n p) 0 (pa / 128 * 128) (16 * addr) mUREAD { reads := some (pa % 128 / 64 * 64, 64) } w
          .ok (r.1, .data (toBytes 4 (r.2.sideband r.1 pa).toNat))))) ∧
  (∀ (s : State) (n nonce index : Nat), s.ready = false → n ≠ 0 →
    ∀ i ∈ [Instr.getVersion n, .getCapabilities n, .negotiateAlgorithms n, .getDigests n, .getCertificate n, .challenge n nonce,
      .getMeasurements n index, .finish n, .heartbeat n, .keyUpdate n, .endSession n], exec i s = .next s) ∧
  ∀ (s : State) (n nonce index : Nat), n < 32 → s.ready = true ∨ n = 0 →
    let f := s.hostFn n
    let x := f.spdm
    let answers (i : Instr) (inOrder : Prop) (y : Spdm) : Prop :=
      (inOrder → exec i s = .next (s.setHostFn n { f with spdm := y })) ∧
      (¬inOrder → exec i s = .next (s.setHostFn n { f with spdm := { x with answer := [0x7F, 0x04] } }))
    let all := (List.range 6).map (fun i => measurement s n (i + 1))
    let made : Spdm :=
      { x with session := some s.serial, established := false, answer := [0x64, s.serial, Config.signature [n, s.serial]] }
    let live := x.session ≠ none ∧ x.established = true
    answers (.getVersion n) True { version := true, answer := [0x04, 0x14] } ∧
    answers (.getCapabilities n) (x.version = true) { x with capabilities := true, answer := [0x61, 0x22F6] } ∧
    answers (.negotiateAlgorithms n) (x.capabilities = true) { x with algorithms := true, answer := [0x63, 1, 2, 3, 4] } ∧
    answers (.getDigests n) (x.algorithms = true) { x with answer := [0x01, Config.digest [0]] } ∧
    answers (.getCertificate n) (x.algorithms = true) { x with answer := [0x02, Config.signature [0]] } ∧
    answers (.challenge n nonce) (x.algorithms = true) { x with answer := [0x03, Config.signature ([n, nonce] ++ all)] } ∧
    (1 ≤ index → index ≤ 6 → answers (.getMeasurements n index) (x.algorithms = true)
      { x with answer := [0x60, measurement s n index] }) ∧
    answers (.getMeasurements n 0) (x.algorithms = true) { x with answer := [0x60, 6] } ∧
    answers (.getMeasurements n 0xFF) (x.algorithms = true) { x with answer := 0x60 :: all } ∧
    (x.algorithms = true → exec (.keyExchange n) s = .next (s.next.setHostFn n { f with spdm := made })) ∧
    (x.algorithms = false → exec (.keyExchange n) s =
      .next (s.next.setHostFn n { f with spdm := { x with answer := [0x7F, 0x04] } })) ∧
    answers (.finish n) (x.session ≠ none ∧ x.established = false) { x with established := true, answer := [0x65] } ∧
    answers (.heartbeat n) live { x with answer := [0x68] } ∧
    answers (.keyUpdate n) live { x with keyUpdates := x.keyUpdates + 1, answer := [0x69] } ∧
    answers (.endSession n) live { x with session := none, established := false, keyUpdates := 0, answer := [0x6C] }

/-- R435, R440-R444, R255, R403: a cold or a fundamental reset leaves the state of reset, with the verdict of the bring-up (free:
log entry 24); after THERMTRIP# only a cold reset does. A function-level reset keeps what firmware set of the function. An
island takes a point within its limits, its frequency falling at once and rising when its supply has ramped; from 100 degrees on
nothing rises. A draw above its cap removes cycles and shows for a microsecond; THERMTRIP# stops all. Leave goes to the
Ox, then to the Mule and then to the lowest slot whose NPOST asks for it, at the highest frequency, from the present one down to 600
MHz, at which the operation fits the cap (what it draws is free: log entry 63). -/
def Obligations.ResetAndPower : Prop :=
  (∀ (s : State) (i : Instr), i = .coldReset ∨ (i = .fundamentalReset ∧ s.tripped = false) → ∃ t, exec i s = .next t ∧
    t = { State.reset with coh := { State.reset.coh with tables := t.coh.tables }, agenda := s.agenda, drawn := s.drawn + 1, hostMem := s.hostMem, ready := t.ready,
                           bringUpError := t.bringUpError, stopped := !t.ready } ∧
    (t.ready = true ↔ t.bringUpError = 0) ∧ t.bringUpError ≤ 5 ∧ (∀ e ∈ t.coh.tables, 5 ≤ e.1 ∧ e.1 ≤ 7) ∧
    (t.ready = false → t.coh.tables = [])) ∧
  (∀ s : State, s.tripped = true → exec .fundamentalReset s = .next s) ∧
  (∀ (s : State) (n : Nat),
    (n = 0 ∨ 32 ≤ n → exec (.functionLevelReset n) s = .next s) ∧
    (0 < n → n < 32 → (s.hostFn n).request = none → ∃ g, exec (.functionLevelReset n) s =
        .next ((match (s.hostFn n).bound with | some p => recordQueue p 0 s | none => s).setHostFn n g) ∧ g.outward = [] ∧
      g.qbase = 0 ∧ g.qsize = 0 ∧ g.qwr = 0 ∧ g.qrd = 0 ∧ g.keyed = false ∧ g.spdm = {} ∧ g.bound = (s.hostFn n).bound ∧
      g.bar2 = (s.hostFn n).bar2 ∧ g.dmaBase = (s.hostFn n).dmaBase ∧ g.dmaLen = (s.hostFn n).dmaLen)) ∧
  (∀ (s : State) (c x : Nat) (y : IslandPower) (z : Throttle),
    let cl := s.cluster c
    let i := cl.island
    let shown : Island := { i with temp := y.temp, process := y.process }
    let puts (j : Island) : State := s.setCluster c { cl with island := j }
    let others := (((List.range 128).filter (· != c)).map (fun n => (s.cluster n).island.amps)).sum
    let within := 600 ≤ x ∧ x ≤ 1800 ∧ 350 ≤ y.mv ∧ y.mv ≤ 550 ∧ others + y.cap ≤ 5000
    let hot := 100 ≤ y.temp ∧ (i.toMhz < x ∨ i.toMv < y.mv)
    (¬within → exec (.islandPointChange c x y) s = .next s) ∧
    (c < 128 → within → hot → exec (.islandPointChange c x y) s = .next (puts shown)) ∧
    (c < 128 → within → ¬hot → exec (.islandPointChange c x y) s = .next (puts { shown with
      toMhz := x, toMv := y.mv, amps := y.cap, mhz := if x < i.mhz ∨ i.mv = y.mv then x else i.mhz })) ∧
    (z.draw ≤ i.amps → exec (.currentCapThrottle c z) s = .next s) ∧
    (c < 128 → i.amps < z.draw →
      exec (.currentCapThrottle c z) s = .next (puts { i with throttled := i.throttled + z.cycles, cap := 1400 }))) ∧
  (∀ (i : Island) (k : Nat), i.mv ≠ i.toMv →
    let n := (i.ramp + 10 * k) / 1400
    let left := if i.mv < i.toMv then i.toMv - i.mv else i.mv - i.toMv
    (n < left → (i.ramped k).mhz = i.mhz ∧ (i.ramped k).mv = if i.mv < i.toMv then i.mv + n else i.mv - n) ∧
    (left ≤ n → (i.ramped k).mv = i.toMv ∧ (i.ramped k).mhz = i.toMhz)) ∧
  (∀ (s : State) (c : Nat),
    let cl := s.cluster c
    let fits (kind mhz : Nat) : Prop := Config.operationAmps kind mhz cl.island.mv ≤ cl.island.amps
    let lowered (kind : Nat) (j : Island) : Prop :=
      (fits kind cl.island.mhz → j = cl.island) ∧
      (¬fits kind cl.island.mhz → j = { cl.island with mhz := j.mhz, toMhz := min cl.island.toMhz j.mhz } ∧
        j.mhz ≤ cl.island.mhz ∧ (∀ x, j.mhz < x → x ≤ cl.island.mhz → ¬fits kind x) ∧
        (fits kind j.mhz ∨ j.mhz = min 600 cl.island.mhz))
    let grants (kind : Nat) (u : Cluster) : Prop := ∃ j, lowered kind j ∧
      exec (.leaveGrant c) s = .next (s.setCluster c { u with island := j })
    (oxAsksLeave cl.ox = true → grants 0 { cl with ox := { cl.ox with leave := true, leaveIdle := 0 } }) ∧
    (oxAsksLeave cl.ox = false → ∀ m r, cl.mule = m :: r → m.leave = 1 →
      grants 1 { cl with mule := { m with leave := 2 } :: r }) ∧
    (oxAsksLeave cl.ox = false → cl.mule.any (fun m => m.leave == 1) = false →
      (∀ k d a w, c = k / 128 → (s.thread k).wait = some (.leave d a w) →
        (∀ j, 128 * c ≤ j → j < k → ∀ d a w, (s.thread j).wait ≠ some (.leave d a w)) →
        ∃ j, lowered 2 j ∧ exec (.leaveGrant c) s = .next (grantPost k (s.setCluster c { cl with island := j }))) ∧
      ((∀ j, c = j / 128 → ∀ d a w, (s.thread j).wait ≠ some (.leave d a w)) → exec (.leaveGrant c) s = .next s))) ∧
  ∀ s : State, exec .thermtrip s = .next { s with stopped := true, tripped := true }

/-! ### Steps, encodings, the canonical form, reset -/

/-- R39, R52, R68, R88, R240: at the turn of a core, with no event to take and no wait to end, the slot it chooses runs the
instruction that its next word decodes to: the word fetched at its pc, or the staggered next word of its repetition. A fetched word
comes from the slot's fetch buffer or its core's cache; where neither holds the block, the fetch waits for it, and the fill takes
the four bytes at the address as the LLC holds the line, else as memory does. An event turn runs its event, but not on a device
that has stopped, unless the event may come then (R440, R444); a term that is no well-formed event is refused by name. The
turns themselves are the model's schedule (log entry 4). -/
def Obligations.StepRunsDecoded : Prop :=
  (∀ (s : State) (n k : Nat) (r : List Turn), s.agenda = .core n :: r → chooseSlot { s with agenda := r } n = some k →
    let b := noteIssue k { s with agenda := r, cur := k }
    (b.thread k).unwindDue = false → nextEvent (b.thread k) = none → (b.thread k).resumes = false →
    (∀ w u, nextStream b k = some false → (∀ n va, (b.thread k).wait ≠ some (.page n va)) →
      fetchAt false k (b.thread k).pc b = .ok (w, u) →
      step s = exec (decode w) (u.mapThread k (fun t =>
        { t with atVector := false, wait := match t.wait with | some (.yield _) => none | x => x }))) ∧
    (∀ x, nextStream b k = some true → (b.thread k).rep = some x → (∀ n va, x.wait ≠ some (.page n va)) →
      step s = exec (decode (stagger (x.words.getD x.j 0) x.smask x.off))
        (b.setThread k { b.thread k with rep := some { x with issuing := true } }))) ∧
  (∀ (s u : State) (k : Nat) (pc : Word) (q : Piece), pc.toNat % 4 = 0 → access s (ctxOf s k) pc.toNat 4 .fetch = .ok (u, [q]) →
    q.pa % 4 = 0 →
    (∀ ws, (u.thread k).fetchBuf = some (q.pa / 64, ws) → fetchAt false k pc s = .ok (ws.getD (q.pa % 64 / 4) 0, u)) ∧
    ((∀ ws, (u.thread k).fetchBuf ≠ some (q.pa / 64, ws)) →
      (∀ ws, cachedBlock u (coreOf k) (q.pa / 64) = some ws → ∃ t, fetchAt false k pc s = .ok (ws.getD (q.pa % 64 / 4) 0, t)) ∧
      ((∀ x ∈ (u.core (coreOf k)).icache, x.block = q.pa / 64 → x.part ≠ u.partOf (coreOf k / 16)) →
        fetchAt false k pc s = .error (.wait (.fetch pc)) ∧
        ∃ t, fetchAt true k pc s = .ok ((blockWords u (q.pa / 64)).getD (q.pa % 64 / 4) 0, t) ∧
          (u.coh.llc (u.key q.pa / 128 * 128) = none →
            (blockWords u (q.pa / 64)).getD (q.pa % 64 / 4) 0 = BitVec.ofNat 32 (u.readNat q.pa 4)) ∧
          (∀ l, u.coh.llc (u.key q.pa / 128 * 128) = some l → (blockWords u (q.pa / 64)).getD (q.pa % 64 / 4) 0 =
            BitVec.ofNat 32 (ofBytes ((l.bytes.drop (u.key q.pa % 128)).take 4))) ∧ SameMemory u t ∧
          (t.thread k).g = (u.thread k).g ∧ (t.thread k).v = (u.thread k).v ∧ (t.thread k).tstat = (u.thread k).tstat ∧
          (t.thread k).pc = (u.thread k).pc))) ∧
  (∀ (s : State) (i : Instr) (r : List Turn), s.agenda = .event i :: r →
    step s = if i.isEvent = true ∧ i.wellFormed = true then
        if s.stopped = true ∧ whileStopped i = false then .next { s with agenda := r } else exec i { s with agenda := r }
      else .refused .illFormedTurn) ∧
  (∀ (s : State) (n : Nat) (r : List Turn), s.agenda = .core n :: r → chooseSlot { s with agenda := r } n = none →
    step s = .next { s with agenda := r }) ∧
  ∀ s : State, s.agenda = [] → s.stopped = true → step s = .fault .deviceStopped

/-- R39-R42, R47-R54: every well-formed instruction that stands for a word has one, and that word decodes to it with every operand
as it is; and every word is the word of what it decodes to, an illegal one of the term that names it. -/
def Obligations.EncodeDecode : Prop :=
  (∀ i : Instr, i.wellFormed = true → i.isEvent = false → ∃ w, encode i = some w ∧ decode w = i) ∧
  (∀ i : Instr, i.isEvent = true → encode i = none) ∧
  ∀ w : BitVec 32, encode (decode w) = some w

/-- R39-R54: words that the spec's chapters write out bit by bit, from every family, decode to the instructions that they
stand for; the words of R54 are illegal. -/
def Obligations.DecodeWords : Prop :=
  ∀ e ∈ ([(0x04C48000, .add 3 1 2 false), (0x0959CC00, .div 5 6 7 3 false), (0x0D980001, .addi 6 6 1),
      (0x1D520003, .srai 5 4 3), (0x2AC10000, .li 11 0x10000), (0x3404BFF0, .beq 1 2 0x3FF0), (0x38140004, .beqz 5 4),
      (0x40000380, .jl 0x380), (0x47D80010, .jlr 15 6), (0x48010800, .trap 0x42), (0x48000010, .eret),
      (0x48C0C020, .sread 3 0x30), (0x48200430, .swrite 8 1), (0x48114044, .icinv 4 5 4), (0x4C001802, .fence true 2 2),
      (0xFC0003FF, .himm 0x3FF), (0xFD034000, .hmod 0x34000), (0x5048C004, .vadd 1 2 3 1 0), (0x508481AE, .vcmplt 2 1 2 3 2),
      (0x5730C001, .vfadd 12 12 3 0 1), (0x59159C02, .vfma 4 5 6 7 0 2), (0x5E241401, .vrcp 8 9 5 0 1),
      (0x6048C411, .vzip 1 2 3 true 0 1), (0x64C80040, .mcnt 3 2), (0x6C100000, .nsend 4 false),
      (0x704A6C01, .vcvtf 1 2 9 11 0 1), (0x75500000, .bdld 5 4), (0x815001C2, .ldd 5 4 1 false 2),
      (0x84FBFF40, .stw 3 14 0x3FF false), (0x89900201, .vld 6 4 2 false 1), (0x8DA00100, .vst 6 8 1 false),
      (0x90A4D064, .vgath 2 9 3 4 1 0), (0x99900020, .ldfe 6 4 0 0), (0x9D9C0020, .mwait 6 7), (0xA18C0000, .rsv 6 3 0 0),
      (0xA59144A5, .fincb 6 4 5 1 true 1), (0xAA114003, .gath 8 4 5 false 3), (0xA8000820, .mma 0 false false 2),
      (0xAC5C6000, .rept 1 7 1 8), (0xB0A30440, .cpycb 2 8 12 1), (0xB5640010, .cbacq 5 9), (0xB8115800, .gcall 4 5 6),
      (0xB848D060, .hgive 1 2 3 4), (0xBD01C030, .qrecv 4 0 7), (0xC448C000, .lbias 1 2 3), (0xC959E010, .ncwait 5 6 7 8),
      (0x00000000, .illegalInstruction 0), (0xFFFFFFFF, .illegalInstruction 0xFFFFFFFF),
      (0x04C48002, .illegalInstruction 0x04C48002)] : List (BitVec 32 × Instr)), decode e.1 = e.2

/-- R22, R169: memory and host memory keep their canonical form (addresses rising, no byte listed that reads as zero: the form is the
model's own, since the spec lists no bytes) through every step of the machine. -/
def Obligations.StepKeepsCanonical : Prop := ∀ s : State, s.Canonical → Keeps State.Canonical (step s)

/-- R425, R358, R397, R426, R440: after reset memory lists nothing, so it is in its canonical form and every byte and every
full/empty state reads 0; no slot holds a thread, no partition is live, every page follows protocol 1, the even groups of each
bundle point up, and the device is ready. Values that the spec does not give are zero (log entry 1). -/
def Obligations.ResetState : Prop :=
  State.reset.Canonical ∧ (∀ a, Memory.get State.reset.mem a = 0) ∧ (∀ b, State.reset.side.get 0 b = 0) ∧
  State.reset.now = 0 ∧ State.reset.ready = true ∧ State.reset.stopped = false ∧
  (∀ k, (State.reset.thread k).occupied = false) ∧ (∀ p, State.reset.live p = false) ∧
  (∀ c, (State.reset.cluster c).part = none) ∧ (∀ n, State.reset.coh.ids.get 1 n = 1) ∧
  ∀ k g, g < 16 → (State.reset.bundle k).up.getLsbD g = decide (g % 2 = 0)
end
end

