-- ==== Sys2Proof/Laws/Memory.lean ====
section
/-! SUPPORT. Laws of memory: reading after a write, and the canonical form, which every operation on the list keeps. -/
namespace Sys2Proof.Machine

@[simp] theorem Memory.get_nil (a : Nat) : Memory.get [] a = 0#8 := rfl

/-- Every entry of a list stands above the address a. -/
def Memory.above (a : Nat) (m : List Host.Cell) : Prop := ∀ c ∈ m, a < c.1

theorem Memory.wf_cons {c : Host.Cell} {m : List Host.Cell} :
    Memory.wf (c :: m) = true ↔ c.2 ≠ 0 ∧ Memory.above c.1 m ∧ Memory.wf m = true := by
  induction m generalizing c with
  | nil => simp [Memory.wf, Memory.above]
  | cons d r ih =>
    rw [Memory.wf, Bool.and_eq_true, Bool.and_eq_true]
    constructor
    · rintro ⟨⟨h0, h1⟩, h2⟩
      refine ⟨by simpa using h0, ?_, h2⟩
      intro e he
      rcases List.mem_cons.1 he with rfl | he
      · simpa using h1
      · exact Nat.lt_trans (by simpa using h1) ((ih.1 h2).2.1 e he)
    · rintro ⟨h0, h1, h2⟩
      exact ⟨⟨by simpa using h0, by simpa using h1 d (by simp)⟩, h2⟩

theorem Memory.get_above {a : Nat} {m : List Host.Cell} (h : Memory.above a m) : Memory.get m a = 0#8 := by
  induction m with
  | nil => rfl
  | cons c r ih =>
    have hc := h c (by simp)
    rw [Memory.get, if_neg (by omega)]
    exact ih (fun d hd => h d (List.mem_cons_of_mem _ hd))

theorem Memory.above_put {a k : Nat} {b : Byte} {m : List Host.Cell} (h : Memory.above a m) (hk : a < k) :
    Memory.above a (Memory.put m k b) := by
  induction m with
  | nil => intro c hc; simp [Memory.put] at hc; subst hc; exact hk
  | cons c r ih =>
    have hr : Memory.above a r := fun d hd => h d (List.mem_cons_of_mem _ hd)
    rw [Memory.put]
    split
    · intro d hd; rcases List.mem_cons.1 hd with rfl | hd
      · exact hk
      · exact h d hd
    · split
      · intro d hd; rcases List.mem_cons.1 hd with rfl | hd
        · exact hk
        · exact hr d hd
      · intro d hd; rcases List.mem_cons.1 hd with rfl | hd
        · exact h _ (by simp)
        · exact ih hr d hd

/-- Storing a byte that is not the unlisted one keeps the form. -/
theorem Memory.wf_put {m : List Host.Cell} {a : Nat} {b : Byte} (h : Memory.wf m = true) (hb : b ≠ 0) :
    Memory.wf (Memory.put m a b) = true := by
  induction m with
  | nil => simpa [Memory.put, Memory.wf] using hb
  | cons c r ih =>
    obtain ⟨h0, h1, h2⟩ := Memory.wf_cons.1 h
    rw [Memory.put]
    split
    · refine Memory.wf_cons.2 ⟨hb, ?_, h⟩
      intro d hd; rcases List.mem_cons.1 hd with rfl | hd
      · assumption
      · have := h1 d hd; simp only; omega
    · split
      · rename_i e; subst e; exact Memory.wf_cons.2 ⟨hb, h1, h2⟩
      · exact Memory.wf_cons.2 ⟨h0, Memory.above_put h1 (by simp only; omega), ih h2⟩

/-- Removing entries keeps the form. -/
theorem Memory.wf_filter {m : List Host.Cell} (p : Host.Cell → Bool) (h : Memory.wf m = true) :
    Memory.wf (m.filter p) = true := by
  induction m with
  | nil => rfl
  | cons c r ih =>
    obtain ⟨h0, h1, h2⟩ := Memory.wf_cons.1 h
    rw [List.filter_cons]
    split
    · exact Memory.wf_cons.2 ⟨h0, fun d hd => h1 d (List.mem_filter.1 hd).1, ih h2⟩
    · exact ih h2

/-- A store keeps the form. -/
theorem Memory.wf_set {m : List Host.Cell} {a : Nat} {b : Byte} (h : Memory.wf m = true) :
    Memory.wf (Memory.set m a b) = true := by
  unfold Memory.set
  split
  · exact Memory.wf_filter _ h
  · exact Memory.wf_put h (by assumption)

/-- Stores keep the form. -/
theorem Memory.wf_setAll {m : List Host.Cell} (l : List (Nat × Byte)) (h : Memory.wf m = true) :
    Memory.wf (Memory.setAll m l) = true := by
  unfold Memory.setAll
  induction l generalizing m with
  | nil => exact h
  | cons c r ih => exact ih (Memory.wf_set h)

theorem Memory.get_put (m : List Host.Cell) (a k : Nat) (b : Byte) :
    Memory.get (Memory.put m a b) k = if k = a then b else Memory.get m k := by
  induction m with
  | nil => simp only [Memory.put, Memory.get, eq_comm]
  | cons c r ih =>
    rw [Memory.put]
    split
    · simp only [Memory.get, eq_comm]
    · split
      · rename_i e; subst e; simp only [Memory.get, eq_comm]; split <;> rfl
      · simp only [Memory.get, ih]; split
        · rw [if_neg (by omega)]
        · rfl

theorem Memory.get_filter_ne (m : List Host.Cell) (a k : Nat) (h : k ≠ a) :
    Memory.get (m.filter (fun c => c.1 != a)) k = Memory.get m k := by
  induction m with
  | nil => rfl
  | cons c r ih =>
    rw [List.filter_cons]
    split
    · simp only [Memory.get, ih]
    · rename_i e
      have : c.1 = a := by simpa using e
      rw [ih, Memory.get, if_neg (by omega)]

theorem Memory.get_filter_self (m : List Host.Cell) (a : Nat) : Memory.get (m.filter (fun c => c.1 != a)) a = 0#8 := by
  induction m with
  | nil => rfl
  | cons c r ih =>
    rw [List.filter_cons]
    split
    · rename_i e
      have : c.1 ≠ a := by simpa using e
      rw [Memory.get, if_neg this, ih]
    · exact ih

/-- What a byte reads after a store: the byte stored at its address, every other byte as before. -/
theorem Memory.get_set (m : List Host.Cell) (a k : Nat) (b : Byte) :
    Memory.get (Memory.set m a b) k = if k = a then b else Memory.get m k := by
  unfold Memory.set
  split
  · subst_vars
    split
    · subst_vars; exact Memory.get_filter_self m _
    · exact Memory.get_filter_ne m _ _ (by assumption)
  · exact Memory.get_put m a k b

/-- Bytes that no store of a list names read as before. -/
theorem Memory.get_setAll_of_notMem (m : List Host.Cell) (l : List (Nat × Byte)) (k : Nat) (h : ∀ c ∈ l, c.1 ≠ k) :
    Memory.get (Memory.setAll m l) k = Memory.get m k := by
  unfold Memory.setAll
  induction l generalizing m with
  | nil => rfl
  | cons c r ih =>
    rw [List.foldl_cons, ih _ (fun d hd => h d (List.mem_cons_of_mem _ hd)), Memory.get_set,
      if_neg (Ne.symm (h c (by simp)))]

/-- A canonical list is determined by what it reads as: equal memories are equal data. -/
theorem Memory.ext {m n : List Host.Cell} (hm : Memory.wf m = true) (hn : Memory.wf n = true)
    (h : ∀ a, Memory.get m a = Memory.get n a) : m = n := by
  induction m generalizing n with
  | nil =>
    cases n with
    | nil => rfl
    | cons d s =>
      have := h d.1
      rw [Memory.get_nil, Memory.get, if_pos rfl] at this
      exact absurd this.symm (Memory.wf_cons.1 hn).1
  | cons c r ih =>
    obtain ⟨c0, c1, c2⟩ := Memory.wf_cons.1 hm
    cases n with
    | nil =>
      have := h c.1
      rw [Memory.get_nil, Memory.get, if_pos rfl] at this
      exact absurd this c0
    | cons d s =>
      obtain ⟨d0, d1, d2⟩ := Memory.wf_cons.1 hn
      have key : c.1 = d.1 := by
        rcases Nat.lt_trichotomy c.1 d.1 with hlt | heq | hlt
        · have := h c.1
          rw [Memory.get, if_pos rfl, Memory.get, if_neg (by omega),
            Memory.get_above (fun e he => Nat.lt_trans hlt (d1 e he))] at this
          exact absurd this c0
        · exact heq
        · have := h d.1
          rw [Memory.get, if_neg (by omega), Memory.get_above (fun e he => Nat.lt_trans hlt (c1 e he)),
            Memory.get, if_pos rfl] at this
          exact absurd this.symm d0
      have val : c.2 = d.2 := by
        have := h c.1
        rwa [Memory.get, if_pos rfl, Memory.get, if_pos key.symm] at this
      have e : c = d := Prod.ext key val
      subst e
      rw [ih c2 d2]
      intro a
      have := h a
      rw [Memory.get, Memory.get] at this
      by_cases ha : c.1 = a
      · subst ha; rw [Memory.get_above c1, Memory.get_above d1]
      · rwa [if_neg ha, if_neg ha] at this

end Sys2Proof.Machine
end

