-- ==== Sys2Proof/Laws/Sparse.lean ====
section
/-! SUPPORT. Laws of sparse maps: reading after a write, whatever the order of the keys. -/
namespace Sys2Proof.Machine

@[simp] theorem SMap.get_nil {α : Type} (d : α) (k : Nat) : SMap.get d ([] : SMap α) k = d := rfl

@[simp] theorem SMap.get_set_self {α : Type} (d : α) (m : SMap α) (k : Nat) (v : α) : (SMap.set m k v).get d k = v := by
  induction m with
  | nil => simp [SMap.set, SMap.get]
  | cons e r ih =>
    obtain ⟨k', v'⟩ := e
    simp only [SMap.set]
    split
    · simp [SMap.get]
    · split
      · simp [SMap.get]
      · rename_i h; simp [SMap.get, h, ih]

theorem SMap.get_set_ne {α : Type} (d : α) (m : SMap α) (k j : Nat) (v : α) (h : j ≠ k) :
    (SMap.set m k v).get d j = m.get d j := by
  induction m with
  | nil => simp [SMap.set, SMap.get, Ne.symm h]
  | cons e r ih =>
    obtain ⟨k', v'⟩ := e
    simp only [SMap.set]
    split
    · simp [SMap.get, Ne.symm h]
    · split
      · rename_i h1 h2; subst h2; simp [SMap.get, Ne.symm h]
      · simp [SMap.get, ih]

/-- What a map answers after a write. -/
theorem SMap.get_set {α : Type} (d : α) (m : SMap α) (k j : Nat) (v : α) :
    (SMap.set m k v).get d j = if j = k then v else m.get d j := by
  split
  · subst_vars; simp
  · rename_i h; exact SMap.get_set_ne d m k j v h

theorem SMap.set_set {α : Type} (m : SMap α) (k : Nat) (v w : α) : SMap.set (SMap.set m k v) k w = SMap.set m k w := by
  induction m with
  | nil => simp [SMap.set]
  | cons e r ih =>
    obtain ⟨k', v'⟩ := e
    simp only [SMap.set]
    split
    · simp [SMap.set]
    · split
      · simp [SMap.set]
      · rename_i h1 h2; simp [SMap.set, h1, h2, ih]

end Sys2Proof.Machine
end

