-- ==== Sys2Proof/Laws/State.lean ====
section
/-! SUPPORT. What each update of the state leaves: one lemma a field and update, so that no proof unfolds a record. -/
namespace Sys2Proof.Machine

/-! ### State.setThread -/

@[simp] theorem State.setThread_now (s : State) (k : Nat) (t : Thread) : (s.setThread k t).now = s.now := rfl
@[simp] theorem State.setThread_agenda (s : State) (k : Nat) (t : Thread) : (s.setThread k t).agenda = s.agenda := rfl
@[simp] theorem State.setThread_cur (s : State) (k : Nat) (t : Thread) : (s.setThread k t).cur = s.cur := rfl
@[simp] theorem State.setThread_drawn (s : State) (k : Nat) (t : Thread) : (s.setThread k t).drawn = s.drawn := rfl
@[simp] theorem State.setThread_stopped (s : State) (k : Nat) (t : Thread) : (s.setThread k t).stopped = s.stopped := rfl
@[simp] theorem State.setThread_tripped (s : State) (k : Nat) (t : Thread) : (s.setThread k t).tripped = s.tripped := rfl
@[simp] theorem State.setThread_ready (s : State) (k : Nat) (t : Thread) : (s.setThread k t).ready = s.ready := rfl
@[simp] theorem State.setThread_bringUpError (s : State) (k : Nat) (t : Thread) : (s.setThread k t).bringUpError = s.bringUpError := rfl
@[simp] theorem State.setThread_mem (s : State) (k : Nat) (t : Thread) : (s.setThread k t).mem = s.mem := rfl
@[simp] theorem State.setThread_side (s : State) (k : Nat) (t : Thread) : (s.setThread k t).side = s.side := rfl
@[simp] theorem State.setThread_pageClear (s : State) (k : Nat) (t : Thread) : (s.setThread k t).pageClear = s.pageClear := rfl
@[simp] theorem State.setThread_cores (s : State) (k : Nat) (t : Thread) : (s.setThread k t).cores = s.cores := rfl
@[simp] theorem State.setThread_clusters (s : State) (k : Nat) (t : Thread) : (s.setThread k t).clusters = s.clusters := rfl
@[simp] theorem State.setThread_parts (s : State) (k : Nat) (t : Thread) : (s.setThread k t).parts = s.parts := rfl
@[simp] theorem State.setThread_units (s : State) (k : Nat) (t : Thread) : (s.setThread k t).units = s.units := rfl
@[simp] theorem State.setThread_serial (s : State) (k : Nat) (t : Thread) : (s.setThread k t).serial = s.serial := rfl
@[simp] theorem State.setThread_feLists (s : State) (k : Nat) (t : Thread) : (s.setThread k t).feLists = s.feLists := rfl
@[simp] theorem State.setThread_rsvQueues (s : State) (k : Nat) (t : Thread) : (s.setThread k t).rsvQueues = s.rsvQueues := rfl
@[simp] theorem State.setThread_held (s : State) (k : Nat) (t : Thread) : (s.setThread k t).held = s.held := rfl
@[simp] theorem State.setThread_coh (s : State) (k : Nat) (t : Thread) : (s.setThread k t).coh = s.coh := rfl
@[simp] theorem State.setThread_tokens (s : State) (k : Nat) (t : Thread) : (s.setThread k t).tokens = s.tokens := rfl
@[simp] theorem State.setThread_deferred (s : State) (k : Nat) (t : Thread) : (s.setThread k t).deferred = s.deferred := rfl
@[simp] theorem State.setThread_credits (s : State) (k : Nat) (t : Thread) : (s.setThread k t).credits = s.credits := rfl
@[simp] theorem State.setThread_refills (s : State) (k : Nat) (t : Thread) : (s.setThread k t).refills = s.refills := rfl
@[simp] theorem State.setThread_spill (s : State) (k : Nat) (t : Thread) : (s.setThread k t).spill = s.spill := rfl
@[simp] theorem State.setThread_borrowed (s : State) (k : Nat) (t : Thread) : (s.setThread k t).borrowed = s.borrowed := rfl
@[simp] theorem State.setThread_borderRuns (s : State) (k : Nat) (t : Thread) : (s.setThread k t).borderRuns = s.borderRuns := rfl
@[simp] theorem State.setThread_coreRequests (s : State) (k : Nat) (t : Thread) : (s.setThread k t).coreRequests = s.coreRequests := rfl
@[simp] theorem State.setThread_checks (s : State) (k : Nat) (t : Thread) : (s.setThread k t).checks = s.checks := rfl
@[simp] theorem State.setThread_bundles (s : State) (k : Nat) (t : Thread) : (s.setThread k t).bundles = s.bundles := rfl
@[simp] theorem State.setThread_ports (s : State) (k : Nat) (t : Thread) : (s.setThread k t).ports = s.ports := rfl
@[simp] theorem State.setThread_hostFns (s : State) (k : Nat) (t : Thread) : (s.setThread k t).hostFns = s.hostFns := rfl
@[simp] theorem State.setThread_hostMem (s : State) (k : Nat) (t : Thread) : (s.setThread k t).hostMem = s.hostMem := rfl
@[simp] theorem State.setThread_reports (s : State) (k : Nat) (t : Thread) : (s.setThread k t).reports = s.reports := rfl
@[simp] theorem State.setThread_usedWorlds (s : State) (k : Nat) (t : Thread) : (s.setThread k t).usedWorlds = s.usedWorlds := rfl

/-! ### State.setThr -/

@[simp] theorem State.setThr_now (s : State) (t : Thread) : (s.setThr t).now = s.now := rfl
@[simp] theorem State.setThr_agenda (s : State) (t : Thread) : (s.setThr t).agenda = s.agenda := rfl
@[simp] theorem State.setThr_cur (s : State) (t : Thread) : (s.setThr t).cur = s.cur := rfl
@[simp] theorem State.setThr_drawn (s : State) (t : Thread) : (s.setThr t).drawn = s.drawn := rfl
@[simp] theorem State.setThr_stopped (s : State) (t : Thread) : (s.setThr t).stopped = s.stopped := rfl
@[simp] theorem State.setThr_tripped (s : State) (t : Thread) : (s.setThr t).tripped = s.tripped := rfl
@[simp] theorem State.setThr_ready (s : State) (t : Thread) : (s.setThr t).ready = s.ready := rfl
@[simp] theorem State.setThr_bringUpError (s : State) (t : Thread) : (s.setThr t).bringUpError = s.bringUpError := rfl
@[simp] theorem State.setThr_mem (s : State) (t : Thread) : (s.setThr t).mem = s.mem := rfl
@[simp] theorem State.setThr_side (s : State) (t : Thread) : (s.setThr t).side = s.side := rfl
@[simp] theorem State.setThr_pageClear (s : State) (t : Thread) : (s.setThr t).pageClear = s.pageClear := rfl
@[simp] theorem State.setThr_cores (s : State) (t : Thread) : (s.setThr t).cores = s.cores := rfl
@[simp] theorem State.setThr_clusters (s : State) (t : Thread) : (s.setThr t).clusters = s.clusters := rfl
@[simp] theorem State.setThr_parts (s : State) (t : Thread) : (s.setThr t).parts = s.parts := rfl
@[simp] theorem State.setThr_units (s : State) (t : Thread) : (s.setThr t).units = s.units := rfl
@[simp] theorem State.setThr_serial (s : State) (t : Thread) : (s.setThr t).serial = s.serial := rfl
@[simp] theorem State.setThr_feLists (s : State) (t : Thread) : (s.setThr t).feLists = s.feLists := rfl
@[simp] theorem State.setThr_rsvQueues (s : State) (t : Thread) : (s.setThr t).rsvQueues = s.rsvQueues := rfl
@[simp] theorem State.setThr_held (s : State) (t : Thread) : (s.setThr t).held = s.held := rfl
@[simp] theorem State.setThr_coh (s : State) (t : Thread) : (s.setThr t).coh = s.coh := rfl
@[simp] theorem State.setThr_tokens (s : State) (t : Thread) : (s.setThr t).tokens = s.tokens := rfl
@[simp] theorem State.setThr_deferred (s : State) (t : Thread) : (s.setThr t).deferred = s.deferred := rfl
@[simp] theorem State.setThr_credits (s : State) (t : Thread) : (s.setThr t).credits = s.credits := rfl
@[simp] theorem State.setThr_refills (s : State) (t : Thread) : (s.setThr t).refills = s.refills := rfl
@[simp] theorem State.setThr_spill (s : State) (t : Thread) : (s.setThr t).spill = s.spill := rfl
@[simp] theorem State.setThr_borrowed (s : State) (t : Thread) : (s.setThr t).borrowed = s.borrowed := rfl
@[simp] theorem State.setThr_borderRuns (s : State) (t : Thread) : (s.setThr t).borderRuns = s.borderRuns := rfl
@[simp] theorem State.setThr_coreRequests (s : State) (t : Thread) : (s.setThr t).coreRequests = s.coreRequests := rfl
@[simp] theorem State.setThr_checks (s : State) (t : Thread) : (s.setThr t).checks = s.checks := rfl
@[simp] theorem State.setThr_bundles (s : State) (t : Thread) : (s.setThr t).bundles = s.bundles := rfl
@[simp] theorem State.setThr_ports (s : State) (t : Thread) : (s.setThr t).ports = s.ports := rfl
@[simp] theorem State.setThr_hostFns (s : State) (t : Thread) : (s.setThr t).hostFns = s.hostFns := rfl
@[simp] theorem State.setThr_hostMem (s : State) (t : Thread) : (s.setThr t).hostMem = s.hostMem := rfl
@[simp] theorem State.setThr_reports (s : State) (t : Thread) : (s.setThr t).reports = s.reports := rfl
@[simp] theorem State.setThr_usedWorlds (s : State) (t : Thread) : (s.setThr t).usedWorlds = s.usedWorlds := rfl

/-! ### State.mapThread -/

@[simp] theorem State.mapThread_now (s : State) (k : Nat) (f : Thread → Thread) : (s.mapThread k f).now = s.now := rfl
@[simp] theorem State.mapThread_agenda (s : State) (k : Nat) (f : Thread → Thread) : (s.mapThread k f).agenda = s.agenda := rfl
@[simp] theorem State.mapThread_cur (s : State) (k : Nat) (f : Thread → Thread) : (s.mapThread k f).cur = s.cur := rfl
@[simp] theorem State.mapThread_drawn (s : State) (k : Nat) (f : Thread → Thread) : (s.mapThread k f).drawn = s.drawn := rfl
@[simp] theorem State.mapThread_stopped (s : State) (k : Nat) (f : Thread → Thread) : (s.mapThread k f).stopped = s.stopped := rfl
@[simp] theorem State.mapThread_tripped (s : State) (k : Nat) (f : Thread → Thread) : (s.mapThread k f).tripped = s.tripped := rfl
@[simp] theorem State.mapThread_ready (s : State) (k : Nat) (f : Thread → Thread) : (s.mapThread k f).ready = s.ready := rfl
@[simp] theorem State.mapThread_bringUpError (s : State) (k : Nat) (f : Thread → Thread) : (s.mapThread k f).bringUpError = s.bringUpError := rfl
@[simp] theorem State.mapThread_mem (s : State) (k : Nat) (f : Thread → Thread) : (s.mapThread k f).mem = s.mem := rfl
@[simp] theorem State.mapThread_side (s : State) (k : Nat) (f : Thread → Thread) : (s.mapThread k f).side = s.side := rfl
@[simp] theorem State.mapThread_pageClear (s : State) (k : Nat) (f : Thread → Thread) : (s.mapThread k f).pageClear = s.pageClear := rfl
@[simp] theorem State.mapThread_cores (s : State) (k : Nat) (f : Thread → Thread) : (s.mapThread k f).cores = s.cores := rfl
@[simp] theorem State.mapThread_clusters (s : State) (k : Nat) (f : Thread → Thread) : (s.mapThread k f).clusters = s.clusters := rfl
@[simp] theorem State.mapThread_parts (s : State) (k : Nat) (f : Thread → Thread) : (s.mapThread k f).parts = s.parts := rfl
@[simp] theorem State.mapThread_units (s : State) (k : Nat) (f : Thread → Thread) : (s.mapThread k f).units = s.units := rfl
@[simp] theorem State.mapThread_serial (s : State) (k : Nat) (f : Thread → Thread) : (s.mapThread k f).serial = s.serial := rfl
@[simp] theorem State.mapThread_feLists (s : State) (k : Nat) (f : Thread → Thread) : (s.mapThread k f).feLists = s.feLists := rfl
@[simp] theorem State.mapThread_rsvQueues (s : State) (k : Nat) (f : Thread → Thread) : (s.mapThread k f).rsvQueues = s.rsvQueues := rfl
@[simp] theorem State.mapThread_held (s : State) (k : Nat) (f : Thread → Thread) : (s.mapThread k f).held = s.held := rfl
@[simp] theorem State.mapThread_coh (s : State) (k : Nat) (f : Thread → Thread) : (s.mapThread k f).coh = s.coh := rfl
@[simp] theorem State.mapThread_tokens (s : State) (k : Nat) (f : Thread → Thread) : (s.mapThread k f).tokens = s.tokens := rfl
@[simp] theorem State.mapThread_deferred (s : State) (k : Nat) (f : Thread → Thread) : (s.mapThread k f).deferred = s.deferred := rfl
@[simp] theorem State.mapThread_credits (s : State) (k : Nat) (f : Thread → Thread) : (s.mapThread k f).credits = s.credits := rfl
@[simp] theorem State.mapThread_refills (s : State) (k : Nat) (f : Thread → Thread) : (s.mapThread k f).refills = s.refills := rfl
@[simp] theorem State.mapThread_spill (s : State) (k : Nat) (f : Thread → Thread) : (s.mapThread k f).spill = s.spill := rfl
@[simp] theorem State.mapThread_borrowed (s : State) (k : Nat) (f : Thread → Thread) : (s.mapThread k f).borrowed = s.borrowed := rfl
@[simp] theorem State.mapThread_borderRuns (s : State) (k : Nat) (f : Thread → Thread) : (s.mapThread k f).borderRuns = s.borderRuns := rfl
@[simp] theorem State.mapThread_coreRequests (s : State) (k : Nat) (f : Thread → Thread) : (s.mapThread k f).coreRequests = s.coreRequests := rfl
@[simp] theorem State.mapThread_checks (s : State) (k : Nat) (f : Thread → Thread) : (s.mapThread k f).checks = s.checks := rfl
@[simp] theorem State.mapThread_bundles (s : State) (k : Nat) (f : Thread → Thread) : (s.mapThread k f).bundles = s.bundles := rfl
@[simp] theorem State.mapThread_ports (s : State) (k : Nat) (f : Thread → Thread) : (s.mapThread k f).ports = s.ports := rfl
@[simp] theorem State.mapThread_hostFns (s : State) (k : Nat) (f : Thread → Thread) : (s.mapThread k f).hostFns = s.hostFns := rfl
@[simp] theorem State.mapThread_hostMem (s : State) (k : Nat) (f : Thread → Thread) : (s.mapThread k f).hostMem = s.hostMem := rfl
@[simp] theorem State.mapThread_reports (s : State) (k : Nat) (f : Thread → Thread) : (s.mapThread k f).reports = s.reports := rfl
@[simp] theorem State.mapThread_usedWorlds (s : State) (k : Nat) (f : Thread → Thread) : (s.mapThread k f).usedWorlds = s.usedWorlds := rfl

/-! ### State.mapThr -/

@[simp] theorem State.mapThr_now (s : State) (f : Thread → Thread) : (s.mapThr f).now = s.now := rfl
@[simp] theorem State.mapThr_agenda (s : State) (f : Thread → Thread) : (s.mapThr f).agenda = s.agenda := rfl
@[simp] theorem State.mapThr_cur (s : State) (f : Thread → Thread) : (s.mapThr f).cur = s.cur := rfl
@[simp] theorem State.mapThr_drawn (s : State) (f : Thread → Thread) : (s.mapThr f).drawn = s.drawn := rfl
@[simp] theorem State.mapThr_stopped (s : State) (f : Thread → Thread) : (s.mapThr f).stopped = s.stopped := rfl
@[simp] theorem State.mapThr_tripped (s : State) (f : Thread → Thread) : (s.mapThr f).tripped = s.tripped := rfl
@[simp] theorem State.mapThr_ready (s : State) (f : Thread → Thread) : (s.mapThr f).ready = s.ready := rfl
@[simp] theorem State.mapThr_bringUpError (s : State) (f : Thread → Thread) : (s.mapThr f).bringUpError = s.bringUpError := rfl
@[simp] theorem State.mapThr_mem (s : State) (f : Thread → Thread) : (s.mapThr f).mem = s.mem := rfl
@[simp] theorem State.mapThr_side (s : State) (f : Thread → Thread) : (s.mapThr f).side = s.side := rfl
@[simp] theorem State.mapThr_pageClear (s : State) (f : Thread → Thread) : (s.mapThr f).pageClear = s.pageClear := rfl
@[simp] theorem State.mapThr_cores (s : State) (f : Thread → Thread) : (s.mapThr f).cores = s.cores := rfl
@[simp] theorem State.mapThr_clusters (s : State) (f : Thread → Thread) : (s.mapThr f).clusters = s.clusters := rfl
@[simp] theorem State.mapThr_parts (s : State) (f : Thread → Thread) : (s.mapThr f).parts = s.parts := rfl
@[simp] theorem State.mapThr_units (s : State) (f : Thread → Thread) : (s.mapThr f).units = s.units := rfl
@[simp] theorem State.mapThr_serial (s : State) (f : Thread → Thread) : (s.mapThr f).serial = s.serial := rfl
@[simp] theorem State.mapThr_feLists (s : State) (f : Thread → Thread) : (s.mapThr f).feLists = s.feLists := rfl
@[simp] theorem State.mapThr_rsvQueues (s : State) (f : Thread → Thread) : (s.mapThr f).rsvQueues = s.rsvQueues := rfl
@[simp] theorem State.mapThr_held (s : State) (f : Thread → Thread) : (s.mapThr f).held = s.held := rfl
@[simp] theorem State.mapThr_coh (s : State) (f : Thread → Thread) : (s.mapThr f).coh = s.coh := rfl
@[simp] theorem State.mapThr_tokens (s : State) (f : Thread → Thread) : (s.mapThr f).tokens = s.tokens := rfl
@[simp] theorem State.mapThr_deferred (s : State) (f : Thread → Thread) : (s.mapThr f).deferred = s.deferred := rfl
@[simp] theorem State.mapThr_credits (s : State) (f : Thread → Thread) : (s.mapThr f).credits = s.credits := rfl
@[simp] theorem State.mapThr_refills (s : State) (f : Thread → Thread) : (s.mapThr f).refills = s.refills := rfl
@[simp] theorem State.mapThr_spill (s : State) (f : Thread → Thread) : (s.mapThr f).spill = s.spill := rfl
@[simp] theorem State.mapThr_borrowed (s : State) (f : Thread → Thread) : (s.mapThr f).borrowed = s.borrowed := rfl
@[simp] theorem State.mapThr_borderRuns (s : State) (f : Thread → Thread) : (s.mapThr f).borderRuns = s.borderRuns := rfl
@[simp] theorem State.mapThr_coreRequests (s : State) (f : Thread → Thread) : (s.mapThr f).coreRequests = s.coreRequests := rfl
@[simp] theorem State.mapThr_checks (s : State) (f : Thread → Thread) : (s.mapThr f).checks = s.checks := rfl
@[simp] theorem State.mapThr_bundles (s : State) (f : Thread → Thread) : (s.mapThr f).bundles = s.bundles := rfl
@[simp] theorem State.mapThr_ports (s : State) (f : Thread → Thread) : (s.mapThr f).ports = s.ports := rfl
@[simp] theorem State.mapThr_hostFns (s : State) (f : Thread → Thread) : (s.mapThr f).hostFns = s.hostFns := rfl
@[simp] theorem State.mapThr_hostMem (s : State) (f : Thread → Thread) : (s.mapThr f).hostMem = s.hostMem := rfl
@[simp] theorem State.mapThr_reports (s : State) (f : Thread → Thread) : (s.mapThr f).reports = s.reports := rfl
@[simp] theorem State.mapThr_usedWorlds (s : State) (f : Thread → Thread) : (s.mapThr f).usedWorlds = s.usedWorlds := rfl

/-! ### State.setCore -/

@[simp] theorem State.setCore_now (s : State) (n : Nat) (c : CoreState) : (s.setCore n c).now = s.now := rfl
@[simp] theorem State.setCore_agenda (s : State) (n : Nat) (c : CoreState) : (s.setCore n c).agenda = s.agenda := rfl
@[simp] theorem State.setCore_cur (s : State) (n : Nat) (c : CoreState) : (s.setCore n c).cur = s.cur := rfl
@[simp] theorem State.setCore_drawn (s : State) (n : Nat) (c : CoreState) : (s.setCore n c).drawn = s.drawn := rfl
@[simp] theorem State.setCore_stopped (s : State) (n : Nat) (c : CoreState) : (s.setCore n c).stopped = s.stopped := rfl
@[simp] theorem State.setCore_tripped (s : State) (n : Nat) (c : CoreState) : (s.setCore n c).tripped = s.tripped := rfl
@[simp] theorem State.setCore_ready (s : State) (n : Nat) (c : CoreState) : (s.setCore n c).ready = s.ready := rfl
@[simp] theorem State.setCore_bringUpError (s : State) (n : Nat) (c : CoreState) : (s.setCore n c).bringUpError = s.bringUpError := rfl
@[simp] theorem State.setCore_mem (s : State) (n : Nat) (c : CoreState) : (s.setCore n c).mem = s.mem := rfl
@[simp] theorem State.setCore_side (s : State) (n : Nat) (c : CoreState) : (s.setCore n c).side = s.side := rfl
@[simp] theorem State.setCore_pageClear (s : State) (n : Nat) (c : CoreState) : (s.setCore n c).pageClear = s.pageClear := rfl
@[simp] theorem State.setCore_threads (s : State) (n : Nat) (c : CoreState) : (s.setCore n c).threads = s.threads := rfl
@[simp] theorem State.setCore_clusters (s : State) (n : Nat) (c : CoreState) : (s.setCore n c).clusters = s.clusters := rfl
@[simp] theorem State.setCore_parts (s : State) (n : Nat) (c : CoreState) : (s.setCore n c).parts = s.parts := rfl
@[simp] theorem State.setCore_units (s : State) (n : Nat) (c : CoreState) : (s.setCore n c).units = s.units := rfl
@[simp] theorem State.setCore_serial (s : State) (n : Nat) (c : CoreState) : (s.setCore n c).serial = s.serial := rfl
@[simp] theorem State.setCore_feLists (s : State) (n : Nat) (c : CoreState) : (s.setCore n c).feLists = s.feLists := rfl
@[simp] theorem State.setCore_rsvQueues (s : State) (n : Nat) (c : CoreState) : (s.setCore n c).rsvQueues = s.rsvQueues := rfl
@[simp] theorem State.setCore_held (s : State) (n : Nat) (c : CoreState) : (s.setCore n c).held = s.held := rfl
@[simp] theorem State.setCore_coh (s : State) (n : Nat) (c : CoreState) : (s.setCore n c).coh = s.coh := rfl
@[simp] theorem State.setCore_tokens (s : State) (n : Nat) (c : CoreState) : (s.setCore n c).tokens = s.tokens := rfl
@[simp] theorem State.setCore_deferred (s : State) (n : Nat) (c : CoreState) : (s.setCore n c).deferred = s.deferred := rfl
@[simp] theorem State.setCore_credits (s : State) (n : Nat) (c : CoreState) : (s.setCore n c).credits = s.credits := rfl
@[simp] theorem State.setCore_refills (s : State) (n : Nat) (c : CoreState) : (s.setCore n c).refills = s.refills := rfl
@[simp] theorem State.setCore_spill (s : State) (n : Nat) (c : CoreState) : (s.setCore n c).spill = s.spill := rfl
@[simp] theorem State.setCore_borrowed (s : State) (n : Nat) (c : CoreState) : (s.setCore n c).borrowed = s.borrowed := rfl
@[simp] theorem State.setCore_borderRuns (s : State) (n : Nat) (c : CoreState) : (s.setCore n c).borderRuns = s.borderRuns := rfl
@[simp] theorem State.setCore_coreRequests (s : State) (n : Nat) (c : CoreState) : (s.setCore n c).coreRequests = s.coreRequests := rfl
@[simp] theorem State.setCore_checks (s : State) (n : Nat) (c : CoreState) : (s.setCore n c).checks = s.checks := rfl
@[simp] theorem State.setCore_bundles (s : State) (n : Nat) (c : CoreState) : (s.setCore n c).bundles = s.bundles := rfl
@[simp] theorem State.setCore_ports (s : State) (n : Nat) (c : CoreState) : (s.setCore n c).ports = s.ports := rfl
@[simp] theorem State.setCore_hostFns (s : State) (n : Nat) (c : CoreState) : (s.setCore n c).hostFns = s.hostFns := rfl
@[simp] theorem State.setCore_hostMem (s : State) (n : Nat) (c : CoreState) : (s.setCore n c).hostMem = s.hostMem := rfl
@[simp] theorem State.setCore_reports (s : State) (n : Nat) (c : CoreState) : (s.setCore n c).reports = s.reports := rfl
@[simp] theorem State.setCore_usedWorlds (s : State) (n : Nat) (c : CoreState) : (s.setCore n c).usedWorlds = s.usedWorlds := rfl

/-! ### State.setCluster -/

@[simp] theorem State.setCluster_now (s : State) (c : Nat) (x : Cluster) : (s.setCluster c x).now = s.now := rfl
@[simp] theorem State.setCluster_agenda (s : State) (c : Nat) (x : Cluster) : (s.setCluster c x).agenda = s.agenda := rfl
@[simp] theorem State.setCluster_cur (s : State) (c : Nat) (x : Cluster) : (s.setCluster c x).cur = s.cur := rfl
@[simp] theorem State.setCluster_drawn (s : State) (c : Nat) (x : Cluster) : (s.setCluster c x).drawn = s.drawn := rfl
@[simp] theorem State.setCluster_stopped (s : State) (c : Nat) (x : Cluster) : (s.setCluster c x).stopped = s.stopped := rfl
@[simp] theorem State.setCluster_tripped (s : State) (c : Nat) (x : Cluster) : (s.setCluster c x).tripped = s.tripped := rfl
@[simp] theorem State.setCluster_ready (s : State) (c : Nat) (x : Cluster) : (s.setCluster c x).ready = s.ready := rfl
@[simp] theorem State.setCluster_bringUpError (s : State) (c : Nat) (x : Cluster) : (s.setCluster c x).bringUpError = s.bringUpError := rfl
@[simp] theorem State.setCluster_mem (s : State) (c : Nat) (x : Cluster) : (s.setCluster c x).mem = s.mem := rfl
@[simp] theorem State.setCluster_side (s : State) (c : Nat) (x : Cluster) : (s.setCluster c x).side = s.side := rfl
@[simp] theorem State.setCluster_pageClear (s : State) (c : Nat) (x : Cluster) : (s.setCluster c x).pageClear = s.pageClear := rfl
@[simp] theorem State.setCluster_threads (s : State) (c : Nat) (x : Cluster) : (s.setCluster c x).threads = s.threads := rfl
@[simp] theorem State.setCluster_cores (s : State) (c : Nat) (x : Cluster) : (s.setCluster c x).cores = s.cores := rfl
@[simp] theorem State.setCluster_parts (s : State) (c : Nat) (x : Cluster) : (s.setCluster c x).parts = s.parts := rfl
@[simp] theorem State.setCluster_units (s : State) (c : Nat) (x : Cluster) : (s.setCluster c x).units = s.units := rfl
@[simp] theorem State.setCluster_serial (s : State) (c : Nat) (x : Cluster) : (s.setCluster c x).serial = s.serial := rfl
@[simp] theorem State.setCluster_feLists (s : State) (c : Nat) (x : Cluster) : (s.setCluster c x).feLists = s.feLists := rfl
@[simp] theorem State.setCluster_rsvQueues (s : State) (c : Nat) (x : Cluster) : (s.setCluster c x).rsvQueues = s.rsvQueues := rfl
@[simp] theorem State.setCluster_held (s : State) (c : Nat) (x : Cluster) : (s.setCluster c x).held = s.held := rfl
@[simp] theorem State.setCluster_coh (s : State) (c : Nat) (x : Cluster) : (s.setCluster c x).coh = s.coh := rfl
@[simp] theorem State.setCluster_tokens (s : State) (c : Nat) (x : Cluster) : (s.setCluster c x).tokens = s.tokens := rfl
@[simp] theorem State.setCluster_deferred (s : State) (c : Nat) (x : Cluster) : (s.setCluster c x).deferred = s.deferred := rfl
@[simp] theorem State.setCluster_credits (s : State) (c : Nat) (x : Cluster) : (s.setCluster c x).credits = s.credits := rfl
@[simp] theorem State.setCluster_refills (s : State) (c : Nat) (x : Cluster) : (s.setCluster c x).refills = s.refills := rfl
@[simp] theorem State.setCluster_spill (s : State) (c : Nat) (x : Cluster) : (s.setCluster c x).spill = s.spill := rfl
@[simp] theorem State.setCluster_borrowed (s : State) (c : Nat) (x : Cluster) : (s.setCluster c x).borrowed = s.borrowed := rfl
@[simp] theorem State.setCluster_borderRuns (s : State) (c : Nat) (x : Cluster) : (s.setCluster c x).borderRuns = s.borderRuns := rfl
@[simp] theorem State.setCluster_coreRequests (s : State) (c : Nat) (x : Cluster) : (s.setCluster c x).coreRequests = s.coreRequests := rfl
@[simp] theorem State.setCluster_checks (s : State) (c : Nat) (x : Cluster) : (s.setCluster c x).checks = s.checks := rfl
@[simp] theorem State.setCluster_bundles (s : State) (c : Nat) (x : Cluster) : (s.setCluster c x).bundles = s.bundles := rfl
@[simp] theorem State.setCluster_ports (s : State) (c : Nat) (x : Cluster) : (s.setCluster c x).ports = s.ports := rfl
@[simp] theorem State.setCluster_hostFns (s : State) (c : Nat) (x : Cluster) : (s.setCluster c x).hostFns = s.hostFns := rfl
@[simp] theorem State.setCluster_hostMem (s : State) (c : Nat) (x : Cluster) : (s.setCluster c x).hostMem = s.hostMem := rfl
@[simp] theorem State.setCluster_reports (s : State) (c : Nat) (x : Cluster) : (s.setCluster c x).reports = s.reports := rfl
@[simp] theorem State.setCluster_usedWorlds (s : State) (c : Nat) (x : Cluster) : (s.setCluster c x).usedWorlds = s.usedWorlds := rfl

/-! ### State.setPart -/

@[simp] theorem State.setPart_now (s : State) (p : Nat) (x : Partition) : (s.setPart p x).now = s.now := rfl
@[simp] theorem State.setPart_agenda (s : State) (p : Nat) (x : Partition) : (s.setPart p x).agenda = s.agenda := rfl
@[simp] theorem State.setPart_cur (s : State) (p : Nat) (x : Partition) : (s.setPart p x).cur = s.cur := rfl
@[simp] theorem State.setPart_drawn (s : State) (p : Nat) (x : Partition) : (s.setPart p x).drawn = s.drawn := rfl
@[simp] theorem State.setPart_stopped (s : State) (p : Nat) (x : Partition) : (s.setPart p x).stopped = s.stopped := rfl
@[simp] theorem State.setPart_tripped (s : State) (p : Nat) (x : Partition) : (s.setPart p x).tripped = s.tripped := rfl
@[simp] theorem State.setPart_ready (s : State) (p : Nat) (x : Partition) : (s.setPart p x).ready = s.ready := rfl
@[simp] theorem State.setPart_bringUpError (s : State) (p : Nat) (x : Partition) : (s.setPart p x).bringUpError = s.bringUpError := rfl
@[simp] theorem State.setPart_mem (s : State) (p : Nat) (x : Partition) : (s.setPart p x).mem = s.mem := rfl
@[simp] theorem State.setPart_side (s : State) (p : Nat) (x : Partition) : (s.setPart p x).side = s.side := rfl
@[simp] theorem State.setPart_pageClear (s : State) (p : Nat) (x : Partition) : (s.setPart p x).pageClear = s.pageClear := rfl
@[simp] theorem State.setPart_threads (s : State) (p : Nat) (x : Partition) : (s.setPart p x).threads = s.threads := rfl
@[simp] theorem State.setPart_cores (s : State) (p : Nat) (x : Partition) : (s.setPart p x).cores = s.cores := rfl
@[simp] theorem State.setPart_clusters (s : State) (p : Nat) (x : Partition) : (s.setPart p x).clusters = s.clusters := rfl
@[simp] theorem State.setPart_units (s : State) (p : Nat) (x : Partition) : (s.setPart p x).units = s.units := rfl
@[simp] theorem State.setPart_serial (s : State) (p : Nat) (x : Partition) : (s.setPart p x).serial = s.serial := rfl
@[simp] theorem State.setPart_feLists (s : State) (p : Nat) (x : Partition) : (s.setPart p x).feLists = s.feLists := rfl
@[simp] theorem State.setPart_rsvQueues (s : State) (p : Nat) (x : Partition) : (s.setPart p x).rsvQueues = s.rsvQueues := rfl
@[simp] theorem State.setPart_held (s : State) (p : Nat) (x : Partition) : (s.setPart p x).held = s.held := rfl
@[simp] theorem State.setPart_coh (s : State) (p : Nat) (x : Partition) : (s.setPart p x).coh = s.coh := rfl
@[simp] theorem State.setPart_tokens (s : State) (p : Nat) (x : Partition) : (s.setPart p x).tokens = s.tokens := rfl
@[simp] theorem State.setPart_deferred (s : State) (p : Nat) (x : Partition) : (s.setPart p x).deferred = s.deferred := rfl
@[simp] theorem State.setPart_credits (s : State) (p : Nat) (x : Partition) : (s.setPart p x).credits = s.credits := rfl
@[simp] theorem State.setPart_refills (s : State) (p : Nat) (x : Partition) : (s.setPart p x).refills = s.refills := rfl
@[simp] theorem State.setPart_spill (s : State) (p : Nat) (x : Partition) : (s.setPart p x).spill = s.spill := rfl
@[simp] theorem State.setPart_borrowed (s : State) (p : Nat) (x : Partition) : (s.setPart p x).borrowed = s.borrowed := rfl
@[simp] theorem State.setPart_borderRuns (s : State) (p : Nat) (x : Partition) : (s.setPart p x).borderRuns = s.borderRuns := rfl
@[simp] theorem State.setPart_coreRequests (s : State) (p : Nat) (x : Partition) : (s.setPart p x).coreRequests = s.coreRequests := rfl
@[simp] theorem State.setPart_checks (s : State) (p : Nat) (x : Partition) : (s.setPart p x).checks = s.checks := rfl
@[simp] theorem State.setPart_bundles (s : State) (p : Nat) (x : Partition) : (s.setPart p x).bundles = s.bundles := rfl
@[simp] theorem State.setPart_ports (s : State) (p : Nat) (x : Partition) : (s.setPart p x).ports = s.ports := rfl
@[simp] theorem State.setPart_hostFns (s : State) (p : Nat) (x : Partition) : (s.setPart p x).hostFns = s.hostFns := rfl
@[simp] theorem State.setPart_hostMem (s : State) (p : Nat) (x : Partition) : (s.setPart p x).hostMem = s.hostMem := rfl
@[simp] theorem State.setPart_reports (s : State) (p : Nat) (x : Partition) : (s.setPart p x).reports = s.reports := rfl
@[simp] theorem State.setPart_usedWorlds (s : State) (p : Nat) (x : Partition) : (s.setPart p x).usedWorlds = s.usedWorlds := rfl

/-! ### State.setBundle -/

@[simp] theorem State.setBundle_now (s : State) (b : Nat) (x : Bundle) : (s.setBundle b x).now = s.now := rfl
@[simp] theorem State.setBundle_agenda (s : State) (b : Nat) (x : Bundle) : (s.setBundle b x).agenda = s.agenda := rfl
@[simp] theorem State.setBundle_cur (s : State) (b : Nat) (x : Bundle) : (s.setBundle b x).cur = s.cur := rfl
@[simp] theorem State.setBundle_drawn (s : State) (b : Nat) (x : Bundle) : (s.setBundle b x).drawn = s.drawn := rfl
@[simp] theorem State.setBundle_stopped (s : State) (b : Nat) (x : Bundle) : (s.setBundle b x).stopped = s.stopped := rfl
@[simp] theorem State.setBundle_tripped (s : State) (b : Nat) (x : Bundle) : (s.setBundle b x).tripped = s.tripped := rfl
@[simp] theorem State.setBundle_ready (s : State) (b : Nat) (x : Bundle) : (s.setBundle b x).ready = s.ready := rfl
@[simp] theorem State.setBundle_bringUpError (s : State) (b : Nat) (x : Bundle) : (s.setBundle b x).bringUpError = s.bringUpError := rfl
@[simp] theorem State.setBundle_mem (s : State) (b : Nat) (x : Bundle) : (s.setBundle b x).mem = s.mem := rfl
@[simp] theorem State.setBundle_side (s : State) (b : Nat) (x : Bundle) : (s.setBundle b x).side = s.side := rfl
@[simp] theorem State.setBundle_pageClear (s : State) (b : Nat) (x : Bundle) : (s.setBundle b x).pageClear = s.pageClear := rfl
@[simp] theorem State.setBundle_threads (s : State) (b : Nat) (x : Bundle) : (s.setBundle b x).threads = s.threads := rfl
@[simp] theorem State.setBundle_cores (s : State) (b : Nat) (x : Bundle) : (s.setBundle b x).cores = s.cores := rfl
@[simp] theorem State.setBundle_clusters (s : State) (b : Nat) (x : Bundle) : (s.setBundle b x).clusters = s.clusters := rfl
@[simp] theorem State.setBundle_parts (s : State) (b : Nat) (x : Bundle) : (s.setBundle b x).parts = s.parts := rfl
@[simp] theorem State.setBundle_units (s : State) (b : Nat) (x : Bundle) : (s.setBundle b x).units = s.units := rfl
@[simp] theorem State.setBundle_serial (s : State) (b : Nat) (x : Bundle) : (s.setBundle b x).serial = s.serial := rfl
@[simp] theorem State.setBundle_feLists (s : State) (b : Nat) (x : Bundle) : (s.setBundle b x).feLists = s.feLists := rfl
@[simp] theorem State.setBundle_rsvQueues (s : State) (b : Nat) (x : Bundle) : (s.setBundle b x).rsvQueues = s.rsvQueues := rfl
@[simp] theorem State.setBundle_held (s : State) (b : Nat) (x : Bundle) : (s.setBundle b x).held = s.held := rfl
@[simp] theorem State.setBundle_coh (s : State) (b : Nat) (x : Bundle) : (s.setBundle b x).coh = s.coh := rfl
@[simp] theorem State.setBundle_tokens (s : State) (b : Nat) (x : Bundle) : (s.setBundle b x).tokens = s.tokens := rfl
@[simp] theorem State.setBundle_deferred (s : State) (b : Nat) (x : Bundle) : (s.setBundle b x).deferred = s.deferred := rfl
@[simp] theorem State.setBundle_credits (s : State) (b : Nat) (x : Bundle) : (s.setBundle b x).credits = s.credits := rfl
@[simp] theorem State.setBundle_refills (s : State) (b : Nat) (x : Bundle) : (s.setBundle b x).refills = s.refills := rfl
@[simp] theorem State.setBundle_spill (s : State) (b : Nat) (x : Bundle) : (s.setBundle b x).spill = s.spill := rfl
@[simp] theorem State.setBundle_borrowed (s : State) (b : Nat) (x : Bundle) : (s.setBundle b x).borrowed = s.borrowed := rfl
@[simp] theorem State.setBundle_borderRuns (s : State) (b : Nat) (x : Bundle) : (s.setBundle b x).borderRuns = s.borderRuns := rfl
@[simp] theorem State.setBundle_coreRequests (s : State) (b : Nat) (x : Bundle) : (s.setBundle b x).coreRequests = s.coreRequests := rfl
@[simp] theorem State.setBundle_checks (s : State) (b : Nat) (x : Bundle) : (s.setBundle b x).checks = s.checks := rfl
@[simp] theorem State.setBundle_ports (s : State) (b : Nat) (x : Bundle) : (s.setBundle b x).ports = s.ports := rfl
@[simp] theorem State.setBundle_hostFns (s : State) (b : Nat) (x : Bundle) : (s.setBundle b x).hostFns = s.hostFns := rfl
@[simp] theorem State.setBundle_hostMem (s : State) (b : Nat) (x : Bundle) : (s.setBundle b x).hostMem = s.hostMem := rfl
@[simp] theorem State.setBundle_reports (s : State) (b : Nat) (x : Bundle) : (s.setBundle b x).reports = s.reports := rfl
@[simp] theorem State.setBundle_usedWorlds (s : State) (b : Nat) (x : Bundle) : (s.setBundle b x).usedWorlds = s.usedWorlds := rfl

/-! ### State.wg -/

@[simp] theorem State.wg_now (s : State) (r : Reg) (x : Word) : (s.wg r x).now = s.now := rfl
@[simp] theorem State.wg_agenda (s : State) (r : Reg) (x : Word) : (s.wg r x).agenda = s.agenda := rfl
@[simp] theorem State.wg_cur (s : State) (r : Reg) (x : Word) : (s.wg r x).cur = s.cur := rfl
@[simp] theorem State.wg_drawn (s : State) (r : Reg) (x : Word) : (s.wg r x).drawn = s.drawn := rfl
@[simp] theorem State.wg_stopped (s : State) (r : Reg) (x : Word) : (s.wg r x).stopped = s.stopped := rfl
@[simp] theorem State.wg_tripped (s : State) (r : Reg) (x : Word) : (s.wg r x).tripped = s.tripped := rfl
@[simp] theorem State.wg_ready (s : State) (r : Reg) (x : Word) : (s.wg r x).ready = s.ready := rfl
@[simp] theorem State.wg_bringUpError (s : State) (r : Reg) (x : Word) : (s.wg r x).bringUpError = s.bringUpError := rfl
@[simp] theorem State.wg_mem (s : State) (r : Reg) (x : Word) : (s.wg r x).mem = s.mem := rfl
@[simp] theorem State.wg_side (s : State) (r : Reg) (x : Word) : (s.wg r x).side = s.side := rfl
@[simp] theorem State.wg_pageClear (s : State) (r : Reg) (x : Word) : (s.wg r x).pageClear = s.pageClear := rfl
@[simp] theorem State.wg_cores (s : State) (r : Reg) (x : Word) : (s.wg r x).cores = s.cores := rfl
@[simp] theorem State.wg_clusters (s : State) (r : Reg) (x : Word) : (s.wg r x).clusters = s.clusters := rfl
@[simp] theorem State.wg_parts (s : State) (r : Reg) (x : Word) : (s.wg r x).parts = s.parts := rfl
@[simp] theorem State.wg_units (s : State) (r : Reg) (x : Word) : (s.wg r x).units = s.units := rfl
@[simp] theorem State.wg_serial (s : State) (r : Reg) (x : Word) : (s.wg r x).serial = s.serial := rfl
@[simp] theorem State.wg_feLists (s : State) (r : Reg) (x : Word) : (s.wg r x).feLists = s.feLists := rfl
@[simp] theorem State.wg_rsvQueues (s : State) (r : Reg) (x : Word) : (s.wg r x).rsvQueues = s.rsvQueues := rfl
@[simp] theorem State.wg_held (s : State) (r : Reg) (x : Word) : (s.wg r x).held = s.held := rfl
@[simp] theorem State.wg_coh (s : State) (r : Reg) (x : Word) : (s.wg r x).coh = s.coh := rfl
@[simp] theorem State.wg_tokens (s : State) (r : Reg) (x : Word) : (s.wg r x).tokens = s.tokens := rfl
@[simp] theorem State.wg_deferred (s : State) (r : Reg) (x : Word) : (s.wg r x).deferred = s.deferred := rfl
@[simp] theorem State.wg_credits (s : State) (r : Reg) (x : Word) : (s.wg r x).credits = s.credits := rfl
@[simp] theorem State.wg_refills (s : State) (r : Reg) (x : Word) : (s.wg r x).refills = s.refills := rfl
@[simp] theorem State.wg_spill (s : State) (r : Reg) (x : Word) : (s.wg r x).spill = s.spill := rfl
@[simp] theorem State.wg_borrowed (s : State) (r : Reg) (x : Word) : (s.wg r x).borrowed = s.borrowed := rfl
@[simp] theorem State.wg_borderRuns (s : State) (r : Reg) (x : Word) : (s.wg r x).borderRuns = s.borderRuns := rfl
@[simp] theorem State.wg_coreRequests (s : State) (r : Reg) (x : Word) : (s.wg r x).coreRequests = s.coreRequests := rfl
@[simp] theorem State.wg_checks (s : State) (r : Reg) (x : Word) : (s.wg r x).checks = s.checks := rfl
@[simp] theorem State.wg_bundles (s : State) (r : Reg) (x : Word) : (s.wg r x).bundles = s.bundles := rfl
@[simp] theorem State.wg_ports (s : State) (r : Reg) (x : Word) : (s.wg r x).ports = s.ports := rfl
@[simp] theorem State.wg_hostFns (s : State) (r : Reg) (x : Word) : (s.wg r x).hostFns = s.hostFns := rfl
@[simp] theorem State.wg_hostMem (s : State) (r : Reg) (x : Word) : (s.wg r x).hostMem = s.hostMem := rfl
@[simp] theorem State.wg_reports (s : State) (r : Reg) (x : Word) : (s.wg r x).reports = s.reports := rfl
@[simp] theorem State.wg_usedWorlds (s : State) (r : Reg) (x : Word) : (s.wg r x).usedWorlds = s.usedWorlds := rfl

/-! ### State.wm -/

@[simp] theorem State.wm_now (s : State) (r : BitVec 2) (x : Mask) : (s.wm r x).now = s.now := rfl
@[simp] theorem State.wm_agenda (s : State) (r : BitVec 2) (x : Mask) : (s.wm r x).agenda = s.agenda := rfl
@[simp] theorem State.wm_cur (s : State) (r : BitVec 2) (x : Mask) : (s.wm r x).cur = s.cur := rfl
@[simp] theorem State.wm_drawn (s : State) (r : BitVec 2) (x : Mask) : (s.wm r x).drawn = s.drawn := rfl
@[simp] theorem State.wm_stopped (s : State) (r : BitVec 2) (x : Mask) : (s.wm r x).stopped = s.stopped := rfl
@[simp] theorem State.wm_tripped (s : State) (r : BitVec 2) (x : Mask) : (s.wm r x).tripped = s.tripped := rfl
@[simp] theorem State.wm_ready (s : State) (r : BitVec 2) (x : Mask) : (s.wm r x).ready = s.ready := rfl
@[simp] theorem State.wm_bringUpError (s : State) (r : BitVec 2) (x : Mask) : (s.wm r x).bringUpError = s.bringUpError := rfl
@[simp] theorem State.wm_mem (s : State) (r : BitVec 2) (x : Mask) : (s.wm r x).mem = s.mem := rfl
@[simp] theorem State.wm_side (s : State) (r : BitVec 2) (x : Mask) : (s.wm r x).side = s.side := rfl
@[simp] theorem State.wm_pageClear (s : State) (r : BitVec 2) (x : Mask) : (s.wm r x).pageClear = s.pageClear := rfl
@[simp] theorem State.wm_cores (s : State) (r : BitVec 2) (x : Mask) : (s.wm r x).cores = s.cores := rfl
@[simp] theorem State.wm_clusters (s : State) (r : BitVec 2) (x : Mask) : (s.wm r x).clusters = s.clusters := rfl
@[simp] theorem State.wm_parts (s : State) (r : BitVec 2) (x : Mask) : (s.wm r x).parts = s.parts := rfl
@[simp] theorem State.wm_units (s : State) (r : BitVec 2) (x : Mask) : (s.wm r x).units = s.units := rfl
@[simp] theorem State.wm_serial (s : State) (r : BitVec 2) (x : Mask) : (s.wm r x).serial = s.serial := rfl
@[simp] theorem State.wm_feLists (s : State) (r : BitVec 2) (x : Mask) : (s.wm r x).feLists = s.feLists := rfl
@[simp] theorem State.wm_rsvQueues (s : State) (r : BitVec 2) (x : Mask) : (s.wm r x).rsvQueues = s.rsvQueues := rfl
@[simp] theorem State.wm_held (s : State) (r : BitVec 2) (x : Mask) : (s.wm r x).held = s.held := rfl
@[simp] theorem State.wm_coh (s : State) (r : BitVec 2) (x : Mask) : (s.wm r x).coh = s.coh := rfl
@[simp] theorem State.wm_tokens (s : State) (r : BitVec 2) (x : Mask) : (s.wm r x).tokens = s.tokens := rfl
@[simp] theorem State.wm_deferred (s : State) (r : BitVec 2) (x : Mask) : (s.wm r x).deferred = s.deferred := rfl
@[simp] theorem State.wm_credits (s : State) (r : BitVec 2) (x : Mask) : (s.wm r x).credits = s.credits := rfl
@[simp] theorem State.wm_refills (s : State) (r : BitVec 2) (x : Mask) : (s.wm r x).refills = s.refills := rfl
@[simp] theorem State.wm_spill (s : State) (r : BitVec 2) (x : Mask) : (s.wm r x).spill = s.spill := rfl
@[simp] theorem State.wm_borrowed (s : State) (r : BitVec 2) (x : Mask) : (s.wm r x).borrowed = s.borrowed := rfl
@[simp] theorem State.wm_borderRuns (s : State) (r : BitVec 2) (x : Mask) : (s.wm r x).borderRuns = s.borderRuns := rfl
@[simp] theorem State.wm_coreRequests (s : State) (r : BitVec 2) (x : Mask) : (s.wm r x).coreRequests = s.coreRequests := rfl
@[simp] theorem State.wm_checks (s : State) (r : BitVec 2) (x : Mask) : (s.wm r x).checks = s.checks := rfl
@[simp] theorem State.wm_bundles (s : State) (r : BitVec 2) (x : Mask) : (s.wm r x).bundles = s.bundles := rfl
@[simp] theorem State.wm_ports (s : State) (r : BitVec 2) (x : Mask) : (s.wm r x).ports = s.ports := rfl
@[simp] theorem State.wm_hostFns (s : State) (r : BitVec 2) (x : Mask) : (s.wm r x).hostFns = s.hostFns := rfl
@[simp] theorem State.wm_hostMem (s : State) (r : BitVec 2) (x : Mask) : (s.wm r x).hostMem = s.hostMem := rfl
@[simp] theorem State.wm_reports (s : State) (r : BitVec 2) (x : Mask) : (s.wm r x).reports = s.reports := rfl
@[simp] theorem State.wm_usedWorlds (s : State) (r : BitVec 2) (x : Mask) : (s.wm r x).usedWorlds = s.usedWorlds := rfl

/-! ### Reading what was written -/

@[simp] theorem State.thread_setThread (s : State) (k : Nat) (t : Thread) : (s.setThread k t).thread k = t := by
  simp [State.thread, State.setThread]
theorem State.thread_setThread_ne (s : State) (k j : Nat) (t : Thread) (h : j ≠ k) : (s.setThread k t).thread j = s.thread j := by
  simp [State.thread, State.setThread, SMap.get_set_ne, h]
@[simp] theorem State.thr_setThr (s : State) (t : Thread) : (s.setThr t).thr = t := State.thread_setThread s s.cur t
theorem State.thread_setThr_ne (s : State) (k : Nat) (t : Thread) (h : k ≠ s.cur) : (s.setThr t).thread k = s.thread k :=
  State.thread_setThread_ne s s.cur k t h
@[simp] theorem State.thr_mapThr (s : State) (f : Thread → Thread) : (s.mapThr f).thr = f s.thr := State.thr_setThr s _
@[simp] theorem State.setThread_setThread (s : State) (k : Nat) (t u : Thread) : (s.setThread k t).setThread k u = s.setThread k u := by
  simp [State.setThread, SMap.set_set]
@[simp] theorem State.setThr_setThr (s : State) (t u : Thread) : (s.setThr t).setThr u = s.setThr u := State.setThread_setThread s s.cur t u
@[simp] theorem State.mapThr_setThr (s : State) (t : Thread) (f : Thread → Thread) : (s.setThr t).mapThr f = s.setThr (f t) := by
  simp [State.mapThr]
@[simp] theorem State.core_setThread (s : State) (k : Nat) (t : Thread) (n : Nat) : (s.setThread k t).core n = s.core n := rfl
@[simp] theorem State.cluster_setThread (s : State) (k : Nat) (t : Thread) (n : Nat) : (s.setThread k t).cluster n = s.cluster n := rfl
@[simp] theorem State.part_setThread (s : State) (k : Nat) (t : Thread) (n : Nat) : (s.setThread k t).part n = s.part n := rfl
@[simp] theorem State.core_setThr (s : State) (t : Thread) (n : Nat) : (s.setThr t).core n = s.core n := rfl
@[simp] theorem State.cluster_setThr (s : State) (t : Thread) (n : Nat) : (s.setThr t).cluster n = s.cluster n := rfl
@[simp] theorem State.part_setThr (s : State) (t : Thread) (n : Nat) : (s.setThr t).part n = s.part n := rfl
@[simp] theorem State.core_setCore (s : State) (n : Nat) (c : CoreState) : (s.setCore n c).core n = c := by
  simp [State.core, State.setCore]
@[simp] theorem State.thread_setCore (s : State) (n : Nat) (c : CoreState) (k : Nat) : (s.setCore n c).thread k = s.thread k := rfl
@[simp] theorem State.thr_setCore (s : State) (n : Nat) (c : CoreState) : (s.setCore n c).thr = s.thr := rfl
@[simp] theorem State.cluster_setCore (s : State) (n : Nat) (c : CoreState) (k : Nat) : (s.setCore n c).cluster k = s.cluster k := rfl
@[simp] theorem State.part_setCore (s : State) (n : Nat) (c : CoreState) (k : Nat) : (s.setCore n c).part k = s.part k := rfl
@[simp] theorem State.cluster_setCluster (s : State) (c : Nat) (x : Cluster) : (s.setCluster c x).cluster c = x := by
  simp [State.cluster, State.setCluster]
@[simp] theorem State.thread_setCluster (s : State) (c : Nat) (x : Cluster) (k : Nat) : (s.setCluster c x).thread k = s.thread k := rfl
@[simp] theorem State.thr_setCluster (s : State) (c : Nat) (x : Cluster) : (s.setCluster c x).thr = s.thr := rfl
@[simp] theorem State.core_setCluster (s : State) (c : Nat) (x : Cluster) (k : Nat) : (s.setCluster c x).core k = s.core k := rfl
@[simp] theorem State.part_setCluster (s : State) (c : Nat) (x : Cluster) (k : Nat) : (s.setCluster c x).part k = s.part k := rfl
@[simp] theorem State.part_setPart (s : State) (p : Nat) (x : Partition) : (s.setPart p x).part p = x := by
  simp [State.part, State.setPart]
@[simp] theorem State.thread_setPart (s : State) (p : Nat) (x : Partition) (k : Nat) : (s.setPart p x).thread k = s.thread k := rfl
@[simp] theorem State.thr_setPart (s : State) (p : Nat) (x : Partition) : (s.setPart p x).thr = s.thr := rfl
@[simp] theorem State.core_setPart (s : State) (p : Nat) (x : Partition) (k : Nat) : (s.setPart p x).core k = s.core k := rfl
@[simp] theorem State.cluster_setPart (s : State) (p : Nat) (x : Partition) (k : Nat) : (s.setPart p x).cluster k = s.cluster k := rfl

/-! ### Registers of a thread -/

@[simp] theorem Thread.rg_zero (t : Thread) : t.rg 0#4 = 0#64 := rfl
@[simp] theorem Thread.wg_zero (t : Thread) (x : Word) : t.wg 0#4 x = t := rfl
@[simp] theorem Thread.rm_zero (t : Thread) : t.rm 0#2 = 0xFFFF#16 := rfl
@[simp] theorem Thread.wm_zero (t : Thread) (x : Mask) : t.wm 0#2 x = t := rfl
/-- What g[r] reads after a write (R72, R94): register 0 keeps its constant. -/
theorem Thread.rg_wg (t : Thread) (r q : Reg) (x : Word) : (t.wg r x).rg q = if q = r ∧ r ≠ 0#4 then x else t.rg q := by
  by_cases hr : r = 0#4
  · subst hr; simp
  · have e : (t.wg r x).g = t.g.set r.toNat x := by unfold Thread.wg; exact congrArg _ (if_neg hr)
    by_cases hq : q = 0#4
    · subst hq; rw [if_neg (by simp [hr, Ne.symm hr])]; simp
    · have rd : ∀ u : Thread, u.rg q = u.g[q.toNat] := fun u => if_neg hq
      rw [rd, rd]
      by_cases h : q = r
      · subst h; simp [e, hr]
      · have h' : r.toNat ≠ q.toNat := fun e => h (BitVec.eq_of_toNat_eq e.symm)
        simp [e, h, h']
/-- What m[r] reads after a write (R72, R94): register 0 keeps its constant. -/
theorem Thread.rm_wm (t : Thread) (r q : BitVec 2) (x : Mask) : (t.wm r x).rm q = if q = r ∧ r ≠ 0#2 then x else t.rm q := by
  by_cases hr : r = 0#2
  · subst hr; simp
  · have e : (t.wm r x).m = t.m.set r.toNat x := by unfold Thread.wm; exact congrArg _ (if_neg hr)
    by_cases hq : q = 0#2
    · subst hq; rw [if_neg (by simp [hr, Ne.symm hr])]; simp
    · have rd : ∀ u : Thread, u.rm q = u.m[q.toNat] := fun u => if_neg hq
      rw [rd, rd]
      by_cases h : q = r
      · subst h; simp [e, hr]
      · have h' : r.toNat ≠ q.toNat := fun e => h (BitVec.eq_of_toNat_eq e.symm)
        simp [e, h, h']
/-- What a vector register reads after a write of v[r]. -/
theorem Thread.rv_wv (t : Thread) (r q : Reg) (x : Vec) : (t.wv r x).rv q = if q = r then x else t.rv q := by
  by_cases h : q = r
  · subst h; simp [Thread.rv, Thread.wv]
  · have h' : r.toNat ≠ q.toNat := fun e => h (BitVec.eq_of_toNat_eq e.symm)
    simp [Thread.rv, Thread.wv, h, h']

@[simp] theorem Thread.wg_occupied (t : Thread) (r : Reg) (x : Word) : (t.wg r x).occupied = t.occupied := by unfold Thread.wg; split <;> rfl
@[simp] theorem Thread.wg_pc (t : Thread) (r : Reg) (x : Word) : (t.wg r x).pc = t.pc := by unfold Thread.wg; split <;> rfl
@[simp] theorem Thread.wg_v (t : Thread) (r : Reg) (x : Word) : (t.wg r x).v = t.v := by unfold Thread.wg; split <;> rfl
@[simp] theorem Thread.wg_m (t : Thread) (r : Reg) (x : Word) : (t.wg r x).m = t.m := by unfold Thread.wg; split <;> rfl
@[simp] theorem Thread.wg_tstat (t : Thread) (r : Reg) (x : Word) : (t.wg r x).tstat = t.tstat := by unfold Thread.wg; split <;> rfl
@[simp] theorem Thread.wg_epc (t : Thread) (r : Reg) (x : Word) : (t.wg r x).epc = t.epc := by unfold Thread.wg; split <;> rfl
@[simp] theorem Thread.wg_ecause (t : Thread) (r : Reg) (x : Word) : (t.wg r x).ecause = t.ecause := by unfold Thread.wg; split <;> rfl
@[simp] theorem Thread.wg_eaddr (t : Thread) (r : Reg) (x : Word) : (t.wg r x).eaddr = t.eaddr := by unfold Thread.wg; split <;> rfl
@[simp] theorem Thread.wg_tvec (t : Thread) (r : Reg) (x : Word) : (t.wg r x).tvec = t.tvec := by unfold Thread.wg; split <;> rfl
@[simp] theorem Thread.wg_sdeleg (t : Thread) (r : Reg) (x : Word) : (t.wg r x).sdeleg = t.sdeleg := by unfold Thread.wg; split <;> rfl
@[simp] theorem Thread.wg_rstate (t : Thread) (r : Reg) (x : Word) : (t.wg r x).rstate = t.rstate := by unfold Thread.wg; split <;> rfl
@[simp] theorem Thread.wg_fstat (t : Thread) (r : Reg) (x : Word) : (t.wg r x).fstat = t.fstat := by unfold Thread.wg; split <;> rfl
@[simp] theorem Thread.wg_dom (t : Thread) (r : Reg) (x : Word) : (t.wg r x).dom = t.dom := by unfold Thread.wg; split <;> rfl
@[simp] theorem Thread.wg_root (t : Thread) (r : Reg) (x : Word) : (t.wg r x).root = t.root := by unfold Thread.wg; split <;> rfl
@[simp] theorem Thread.wg_dsp (t : Thread) (r : Reg) (x : Word) : (t.wg r x).dsp = t.dsp := by unfold Thread.wg; split <;> rfl
@[simp] theorem Thread.wg_charge (t : Thread) (r : Reg) (x : Word) : (t.wg r x).charge = t.charge := by unfold Thread.wg; split <;> rfl
@[simp] theorem Thread.wg_slice (t : Thread) (r : Reg) (x : Word) : (t.wg r x).slice = t.slice := by unfold Thread.wg; split <;> rfl
@[simp] theorem Thread.wg_timer (t : Thread) (r : Reg) (x : Word) : (t.wg r x).timer = t.timer := by unfold Thread.wg; split <;> rfl
@[simp] theorem Thread.wg_timerDue (t : Thread) (r : Reg) (x : Word) : (t.wg r x).timerDue = t.timerDue := by unfold Thread.wg; split <;> rfl
@[simp] theorem Thread.wg_spbase (t : Thread) (r : Reg) (x : Word) : (t.wg r x).spbase = t.spbase := by unfold Thread.wg; split <;> rfl
@[simp] theorem Thread.wg_splen (t : Thread) (r : Reg) (x : Word) : (t.wg r x).splen = t.splen := by unfold Thread.wg; split <;> rfl
@[simp] theorem Thread.wg_home (t : Thread) (r : Reg) (x : Word) : (t.wg r x).home = t.home := by unfold Thread.wg; split <;> rfl
@[simp] theorem Thread.wg_unit (t : Thread) (r : Reg) (x : Word) : (t.wg r x).unit = t.unit := by unfold Thread.wg; split <;> rfl
@[simp] theorem Thread.wg_task (t : Thread) (r : Reg) (x : Word) : (t.wg r x).task = t.task := by unfold Thread.wg; split <;> rfl
@[simp] theorem Thread.wg_taskSwitch (t : Thread) (r : Reg) (x : Word) : (t.wg r x).taskSwitch = t.taskSwitch := by unfold Thread.wg; split <;> rfl
@[simp] theorem Thread.wg_hints (t : Thread) (r : Reg) (x : Word) : (t.wg r x).hints = t.hints := by unfold Thread.wg; split <;> rfl
@[simp] theorem Thread.wg_pending (t : Thread) (r : Reg) (x : Word) : (t.wg r x).pending = t.pending := by unfold Thread.wg; split <;> rfl
@[simp] theorem Thread.wg_rep (t : Thread) (r : Reg) (x : Word) : (t.wg r x).rep = t.rep := by unfold Thread.wg; split <;> rfl
@[simp] theorem Thread.wg_wait (t : Thread) (r : Reg) (x : Word) : (t.wg r x).wait = t.wait := by unfold Thread.wg; split <;> rfl
@[simp] theorem Thread.wg_noTravel (t : Thread) (r : Reg) (x : Word) : (t.wg r x).noTravel = t.noTravel := by unfold Thread.wg; split <;> rfl
@[simp] theorem Thread.wg_refusals (t : Thread) (r : Reg) (x : Word) : (t.wg r x).refusals = t.refusals := by unfold Thread.wg; split <;> rfl
@[simp] theorem Thread.wg_waited (t : Thread) (r : Reg) (x : Word) : (t.wg r x).waited = t.waited := by unfold Thread.wg; split <;> rfl
@[simp] theorem Thread.wg_paid (t : Thread) (r : Reg) (x : Word) : (t.wg r x).paid = t.paid := by unfold Thread.wg; split <;> rfl
@[simp] theorem Thread.wg_events (t : Thread) (r : Reg) (x : Word) : (t.wg r x).events = t.events := by unfold Thread.wg; split <;> rfl
@[simp] theorem Thread.wg_rsv (t : Thread) (r : Reg) (x : Word) : (t.wg r x).rsv = t.rsv := by unfold Thread.wg; split <;> rfl
@[simp] theorem Thread.wg_monitors (t : Thread) (r : Reg) (x : Word) : (t.wg r x).monitors = t.monitors := by unfold Thread.wg; split <;> rfl
@[simp] theorem Thread.wg_wakePending (t : Thread) (r : Reg) (x : Word) : (t.wg r x).wakePending = t.wakePending := by unfold Thread.wg; split <;> rfl
@[simp] theorem Thread.wg_unwind (t : Thread) (r : Reg) (x : Word) : (t.wg r x).unwind = t.unwind := by unfold Thread.wg; split <;> rfl
@[simp] theorem Thread.wg_lastIssue (t : Thread) (r : Reg) (x : Word) : (t.wg r x).lastIssue = t.lastIssue := by unfold Thread.wg; split <;> rfl
@[simp] theorem Thread.wg_atVector (t : Thread) (r : Reg) (x : Word) : (t.wg r x).atVector = t.atVector := by unfold Thread.wg; split <;> rfl
@[simp] theorem Thread.wg_fetchBuf (t : Thread) (r : Reg) (x : Word) : (t.wg r x).fetchBuf = t.fetchBuf := by unfold Thread.wg; split <;> rfl
@[simp] theorem Thread.wm_occupied (t : Thread) (r : BitVec 2) (x : Mask) : (t.wm r x).occupied = t.occupied := by unfold Thread.wm; split <;> rfl
@[simp] theorem Thread.wm_pc (t : Thread) (r : BitVec 2) (x : Mask) : (t.wm r x).pc = t.pc := by unfold Thread.wm; split <;> rfl
@[simp] theorem Thread.wm_g (t : Thread) (r : BitVec 2) (x : Mask) : (t.wm r x).g = t.g := by unfold Thread.wm; split <;> rfl
@[simp] theorem Thread.wm_v (t : Thread) (r : BitVec 2) (x : Mask) : (t.wm r x).v = t.v := by unfold Thread.wm; split <;> rfl
@[simp] theorem Thread.wm_tstat (t : Thread) (r : BitVec 2) (x : Mask) : (t.wm r x).tstat = t.tstat := by unfold Thread.wm; split <;> rfl
@[simp] theorem Thread.wm_epc (t : Thread) (r : BitVec 2) (x : Mask) : (t.wm r x).epc = t.epc := by unfold Thread.wm; split <;> rfl
@[simp] theorem Thread.wm_ecause (t : Thread) (r : BitVec 2) (x : Mask) : (t.wm r x).ecause = t.ecause := by unfold Thread.wm; split <;> rfl
@[simp] theorem Thread.wm_eaddr (t : Thread) (r : BitVec 2) (x : Mask) : (t.wm r x).eaddr = t.eaddr := by unfold Thread.wm; split <;> rfl
@[simp] theorem Thread.wm_tvec (t : Thread) (r : BitVec 2) (x : Mask) : (t.wm r x).tvec = t.tvec := by unfold Thread.wm; split <;> rfl
@[simp] theorem Thread.wm_sdeleg (t : Thread) (r : BitVec 2) (x : Mask) : (t.wm r x).sdeleg = t.sdeleg := by unfold Thread.wm; split <;> rfl
@[simp] theorem Thread.wm_rstate (t : Thread) (r : BitVec 2) (x : Mask) : (t.wm r x).rstate = t.rstate := by unfold Thread.wm; split <;> rfl
@[simp] theorem Thread.wm_fstat (t : Thread) (r : BitVec 2) (x : Mask) : (t.wm r x).fstat = t.fstat := by unfold Thread.wm; split <;> rfl
@[simp] theorem Thread.wm_dom (t : Thread) (r : BitVec 2) (x : Mask) : (t.wm r x).dom = t.dom := by unfold Thread.wm; split <;> rfl
@[simp] theorem Thread.wm_root (t : Thread) (r : BitVec 2) (x : Mask) : (t.wm r x).root = t.root := by unfold Thread.wm; split <;> rfl
@[simp] theorem Thread.wm_dsp (t : Thread) (r : BitVec 2) (x : Mask) : (t.wm r x).dsp = t.dsp := by unfold Thread.wm; split <;> rfl
@[simp] theorem Thread.wm_charge (t : Thread) (r : BitVec 2) (x : Mask) : (t.wm r x).charge = t.charge := by unfold Thread.wm; split <;> rfl
@[simp] theorem Thread.wm_slice (t : Thread) (r : BitVec 2) (x : Mask) : (t.wm r x).slice = t.slice := by unfold Thread.wm; split <;> rfl
@[simp] theorem Thread.wm_timer (t : Thread) (r : BitVec 2) (x : Mask) : (t.wm r x).timer = t.timer := by unfold Thread.wm; split <;> rfl
@[simp] theorem Thread.wm_timerDue (t : Thread) (r : BitVec 2) (x : Mask) : (t.wm r x).timerDue = t.timerDue := by unfold Thread.wm; split <;> rfl
@[simp] theorem Thread.wm_spbase (t : Thread) (r : BitVec 2) (x : Mask) : (t.wm r x).spbase = t.spbase := by unfold Thread.wm; split <;> rfl
@[simp] theorem Thread.wm_splen (t : Thread) (r : BitVec 2) (x : Mask) : (t.wm r x).splen = t.splen := by unfold Thread.wm; split <;> rfl
@[simp] theorem Thread.wm_home (t : Thread) (r : BitVec 2) (x : Mask) : (t.wm r x).home = t.home := by unfold Thread.wm; split <;> rfl
@[simp] theorem Thread.wm_unit (t : Thread) (r : BitVec 2) (x : Mask) : (t.wm r x).unit = t.unit := by unfold Thread.wm; split <;> rfl
@[simp] theorem Thread.wm_task (t : Thread) (r : BitVec 2) (x : Mask) : (t.wm r x).task = t.task := by unfold Thread.wm; split <;> rfl
@[simp] theorem Thread.wm_taskSwitch (t : Thread) (r : BitVec 2) (x : Mask) : (t.wm r x).taskSwitch = t.taskSwitch := by unfold Thread.wm; split <;> rfl
@[simp] theorem Thread.wm_hints (t : Thread) (r : BitVec 2) (x : Mask) : (t.wm r x).hints = t.hints := by unfold Thread.wm; split <;> rfl
@[simp] theorem Thread.wm_pending (t : Thread) (r : BitVec 2) (x : Mask) : (t.wm r x).pending = t.pending := by unfold Thread.wm; split <;> rfl
@[simp] theorem Thread.wm_rep (t : Thread) (r : BitVec 2) (x : Mask) : (t.wm r x).rep = t.rep := by unfold Thread.wm; split <;> rfl
@[simp] theorem Thread.wm_wait (t : Thread) (r : BitVec 2) (x : Mask) : (t.wm r x).wait = t.wait := by unfold Thread.wm; split <;> rfl
@[simp] theorem Thread.wm_noTravel (t : Thread) (r : BitVec 2) (x : Mask) : (t.wm r x).noTravel = t.noTravel := by unfold Thread.wm; split <;> rfl
@[simp] theorem Thread.wm_refusals (t : Thread) (r : BitVec 2) (x : Mask) : (t.wm r x).refusals = t.refusals := by unfold Thread.wm; split <;> rfl
@[simp] theorem Thread.wm_waited (t : Thread) (r : BitVec 2) (x : Mask) : (t.wm r x).waited = t.waited := by unfold Thread.wm; split <;> rfl
@[simp] theorem Thread.wm_paid (t : Thread) (r : BitVec 2) (x : Mask) : (t.wm r x).paid = t.paid := by unfold Thread.wm; split <;> rfl
@[simp] theorem Thread.wm_events (t : Thread) (r : BitVec 2) (x : Mask) : (t.wm r x).events = t.events := by unfold Thread.wm; split <;> rfl
@[simp] theorem Thread.wm_rsv (t : Thread) (r : BitVec 2) (x : Mask) : (t.wm r x).rsv = t.rsv := by unfold Thread.wm; split <;> rfl
@[simp] theorem Thread.wm_monitors (t : Thread) (r : BitVec 2) (x : Mask) : (t.wm r x).monitors = t.monitors := by unfold Thread.wm; split <;> rfl
@[simp] theorem Thread.wm_wakePending (t : Thread) (r : BitVec 2) (x : Mask) : (t.wm r x).wakePending = t.wakePending := by unfold Thread.wm; split <;> rfl
@[simp] theorem Thread.wm_unwind (t : Thread) (r : BitVec 2) (x : Mask) : (t.wm r x).unwind = t.unwind := by unfold Thread.wm; split <;> rfl
@[simp] theorem Thread.wm_lastIssue (t : Thread) (r : BitVec 2) (x : Mask) : (t.wm r x).lastIssue = t.lastIssue := by unfold Thread.wm; split <;> rfl
@[simp] theorem Thread.wm_atVector (t : Thread) (r : BitVec 2) (x : Mask) : (t.wm r x).atVector = t.atVector := by unfold Thread.wm; split <;> rfl
@[simp] theorem Thread.wm_fetchBuf (t : Thread) (r : BitVec 2) (x : Mask) : (t.wm r x).fetchBuf = t.fetchBuf := by unfold Thread.wm; split <;> rfl
@[simp] theorem Thread.wv_occupied (t : Thread) (r : Reg) (x : Vec) : (t.wv r x).occupied = t.occupied := rfl
@[simp] theorem Thread.wv_pc (t : Thread) (r : Reg) (x : Vec) : (t.wv r x).pc = t.pc := rfl
@[simp] theorem Thread.wv_g (t : Thread) (r : Reg) (x : Vec) : (t.wv r x).g = t.g := rfl
@[simp] theorem Thread.wv_m (t : Thread) (r : Reg) (x : Vec) : (t.wv r x).m = t.m := rfl
@[simp] theorem Thread.wv_tstat (t : Thread) (r : Reg) (x : Vec) : (t.wv r x).tstat = t.tstat := rfl
@[simp] theorem Thread.wv_epc (t : Thread) (r : Reg) (x : Vec) : (t.wv r x).epc = t.epc := rfl
@[simp] theorem Thread.wv_ecause (t : Thread) (r : Reg) (x : Vec) : (t.wv r x).ecause = t.ecause := rfl
@[simp] theorem Thread.wv_eaddr (t : Thread) (r : Reg) (x : Vec) : (t.wv r x).eaddr = t.eaddr := rfl
@[simp] theorem Thread.wv_tvec (t : Thread) (r : Reg) (x : Vec) : (t.wv r x).tvec = t.tvec := rfl
@[simp] theorem Thread.wv_sdeleg (t : Thread) (r : Reg) (x : Vec) : (t.wv r x).sdeleg = t.sdeleg := rfl
@[simp] theorem Thread.wv_rstate (t : Thread) (r : Reg) (x : Vec) : (t.wv r x).rstate = t.rstate := rfl
@[simp] theorem Thread.wv_fstat (t : Thread) (r : Reg) (x : Vec) : (t.wv r x).fstat = t.fstat := rfl
@[simp] theorem Thread.wv_dom (t : Thread) (r : Reg) (x : Vec) : (t.wv r x).dom = t.dom := rfl
@[simp] theorem Thread.wv_root (t : Thread) (r : Reg) (x : Vec) : (t.wv r x).root = t.root := rfl
@[simp] theorem Thread.wv_dsp (t : Thread) (r : Reg) (x : Vec) : (t.wv r x).dsp = t.dsp := rfl
@[simp] theorem Thread.wv_charge (t : Thread) (r : Reg) (x : Vec) : (t.wv r x).charge = t.charge := rfl
@[simp] theorem Thread.wv_slice (t : Thread) (r : Reg) (x : Vec) : (t.wv r x).slice = t.slice := rfl
@[simp] theorem Thread.wv_timer (t : Thread) (r : Reg) (x : Vec) : (t.wv r x).timer = t.timer := rfl
@[simp] theorem Thread.wv_timerDue (t : Thread) (r : Reg) (x : Vec) : (t.wv r x).timerDue = t.timerDue := rfl
@[simp] theorem Thread.wv_spbase (t : Thread) (r : Reg) (x : Vec) : (t.wv r x).spbase = t.spbase := rfl
@[simp] theorem Thread.wv_splen (t : Thread) (r : Reg) (x : Vec) : (t.wv r x).splen = t.splen := rfl
@[simp] theorem Thread.wv_home (t : Thread) (r : Reg) (x : Vec) : (t.wv r x).home = t.home := rfl
@[simp] theorem Thread.wv_unit (t : Thread) (r : Reg) (x : Vec) : (t.wv r x).unit = t.unit := rfl
@[simp] theorem Thread.wv_task (t : Thread) (r : Reg) (x : Vec) : (t.wv r x).task = t.task := rfl
@[simp] theorem Thread.wv_taskSwitch (t : Thread) (r : Reg) (x : Vec) : (t.wv r x).taskSwitch = t.taskSwitch := rfl
@[simp] theorem Thread.wv_hints (t : Thread) (r : Reg) (x : Vec) : (t.wv r x).hints = t.hints := rfl
@[simp] theorem Thread.wv_pending (t : Thread) (r : Reg) (x : Vec) : (t.wv r x).pending = t.pending := rfl
@[simp] theorem Thread.wv_rep (t : Thread) (r : Reg) (x : Vec) : (t.wv r x).rep = t.rep := rfl
@[simp] theorem Thread.wv_wait (t : Thread) (r : Reg) (x : Vec) : (t.wv r x).wait = t.wait := rfl
@[simp] theorem Thread.wv_noTravel (t : Thread) (r : Reg) (x : Vec) : (t.wv r x).noTravel = t.noTravel := rfl
@[simp] theorem Thread.wv_refusals (t : Thread) (r : Reg) (x : Vec) : (t.wv r x).refusals = t.refusals := rfl
@[simp] theorem Thread.wv_waited (t : Thread) (r : Reg) (x : Vec) : (t.wv r x).waited = t.waited := rfl
@[simp] theorem Thread.wv_paid (t : Thread) (r : Reg) (x : Vec) : (t.wv r x).paid = t.paid := rfl
@[simp] theorem Thread.wv_events (t : Thread) (r : Reg) (x : Vec) : (t.wv r x).events = t.events := rfl
@[simp] theorem Thread.wv_rsv (t : Thread) (r : Reg) (x : Vec) : (t.wv r x).rsv = t.rsv := rfl
@[simp] theorem Thread.wv_monitors (t : Thread) (r : Reg) (x : Vec) : (t.wv r x).monitors = t.monitors := rfl
@[simp] theorem Thread.wv_wakePending (t : Thread) (r : Reg) (x : Vec) : (t.wv r x).wakePending = t.wakePending := rfl
@[simp] theorem Thread.wv_unwind (t : Thread) (r : Reg) (x : Vec) : (t.wv r x).unwind = t.unwind := rfl
@[simp] theorem Thread.wv_lastIssue (t : Thread) (r : Reg) (x : Vec) : (t.wv r x).lastIssue = t.lastIssue := rfl
@[simp] theorem Thread.wv_atVector (t : Thread) (r : Reg) (x : Vec) : (t.wv r x).atVector = t.atVector := rfl
@[simp] theorem Thread.wv_fetchBuf (t : Thread) (r : Reg) (x : Vec) : (t.wv r x).fetchBuf = t.fetchBuf := rfl
@[simp] theorem Thread.withVx_occupied (t : Thread) (b : Bool) : (t.withVx b).occupied = t.occupied := rfl
@[simp] theorem Thread.withVx_pc (t : Thread) (b : Bool) : (t.withVx b).pc = t.pc := rfl
@[simp] theorem Thread.withVx_g (t : Thread) (b : Bool) : (t.withVx b).g = t.g := rfl
@[simp] theorem Thread.withVx_v (t : Thread) (b : Bool) : (t.withVx b).v = t.v := rfl
@[simp] theorem Thread.withVx_m (t : Thread) (b : Bool) : (t.withVx b).m = t.m := rfl
@[simp] theorem Thread.withVx_epc (t : Thread) (b : Bool) : (t.withVx b).epc = t.epc := rfl
@[simp] theorem Thread.withVx_ecause (t : Thread) (b : Bool) : (t.withVx b).ecause = t.ecause := rfl
@[simp] theorem Thread.withVx_eaddr (t : Thread) (b : Bool) : (t.withVx b).eaddr = t.eaddr := rfl
@[simp] theorem Thread.withVx_tvec (t : Thread) (b : Bool) : (t.withVx b).tvec = t.tvec := rfl
@[simp] theorem Thread.withVx_sdeleg (t : Thread) (b : Bool) : (t.withVx b).sdeleg = t.sdeleg := rfl
@[simp] theorem Thread.withVx_rstate (t : Thread) (b : Bool) : (t.withVx b).rstate = t.rstate := rfl
@[simp] theorem Thread.withVx_fstat (t : Thread) (b : Bool) : (t.withVx b).fstat = t.fstat := rfl
@[simp] theorem Thread.withVx_dom (t : Thread) (b : Bool) : (t.withVx b).dom = t.dom := rfl
@[simp] theorem Thread.withVx_root (t : Thread) (b : Bool) : (t.withVx b).root = t.root := rfl
@[simp] theorem Thread.withVx_dsp (t : Thread) (b : Bool) : (t.withVx b).dsp = t.dsp := rfl
@[simp] theorem Thread.withVx_charge (t : Thread) (b : Bool) : (t.withVx b).charge = t.charge := rfl
@[simp] theorem Thread.withVx_slice (t : Thread) (b : Bool) : (t.withVx b).slice = t.slice := rfl
@[simp] theorem Thread.withVx_timer (t : Thread) (b : Bool) : (t.withVx b).timer = t.timer := rfl
@[simp] theorem Thread.withVx_timerDue (t : Thread) (b : Bool) : (t.withVx b).timerDue = t.timerDue := rfl
@[simp] theorem Thread.withVx_spbase (t : Thread) (b : Bool) : (t.withVx b).spbase = t.spbase := rfl
@[simp] theorem Thread.withVx_splen (t : Thread) (b : Bool) : (t.withVx b).splen = t.splen := rfl
@[simp] theorem Thread.withVx_home (t : Thread) (b : Bool) : (t.withVx b).home = t.home := rfl
@[simp] theorem Thread.withVx_unit (t : Thread) (b : Bool) : (t.withVx b).unit = t.unit := rfl
@[simp] theorem Thread.withVx_task (t : Thread) (b : Bool) : (t.withVx b).task = t.task := rfl
@[simp] theorem Thread.withVx_taskSwitch (t : Thread) (b : Bool) : (t.withVx b).taskSwitch = t.taskSwitch := rfl
@[simp] theorem Thread.withVx_hints (t : Thread) (b : Bool) : (t.withVx b).hints = t.hints := rfl
@[simp] theorem Thread.withVx_pending (t : Thread) (b : Bool) : (t.withVx b).pending = t.pending := rfl
@[simp] theorem Thread.withVx_rep (t : Thread) (b : Bool) : (t.withVx b).rep = t.rep := rfl
@[simp] theorem Thread.withVx_wait (t : Thread) (b : Bool) : (t.withVx b).wait = t.wait := rfl
@[simp] theorem Thread.withVx_noTravel (t : Thread) (b : Bool) : (t.withVx b).noTravel = t.noTravel := rfl
@[simp] theorem Thread.withVx_refusals (t : Thread) (b : Bool) : (t.withVx b).refusals = t.refusals := rfl
@[simp] theorem Thread.withVx_waited (t : Thread) (b : Bool) : (t.withVx b).waited = t.waited := rfl
@[simp] theorem Thread.withVx_paid (t : Thread) (b : Bool) : (t.withVx b).paid = t.paid := rfl
@[simp] theorem Thread.withVx_events (t : Thread) (b : Bool) : (t.withVx b).events = t.events := rfl
@[simp] theorem Thread.withVx_rsv (t : Thread) (b : Bool) : (t.withVx b).rsv = t.rsv := rfl
@[simp] theorem Thread.withVx_monitors (t : Thread) (b : Bool) : (t.withVx b).monitors = t.monitors := rfl
@[simp] theorem Thread.withVx_wakePending (t : Thread) (b : Bool) : (t.withVx b).wakePending = t.wakePending := rfl
@[simp] theorem Thread.withVx_unwind (t : Thread) (b : Bool) : (t.withVx b).unwind = t.unwind := rfl
@[simp] theorem Thread.withVx_lastIssue (t : Thread) (b : Bool) : (t.withVx b).lastIssue = t.lastIssue := rfl
@[simp] theorem Thread.withVx_atVector (t : Thread) (b : Bool) : (t.withVx b).atVector = t.atVector := rfl
@[simp] theorem Thread.withVx_fetchBuf (t : Thread) (b : Bool) : (t.withVx b).fetchBuf = t.fetchBuf := rfl
@[simp] theorem Thread.withIe_occupied (t : Thread) (b : Bool) : (t.withIe b).occupied = t.occupied := rfl
@[simp] theorem Thread.withIe_pc (t : Thread) (b : Bool) : (t.withIe b).pc = t.pc := rfl
@[simp] theorem Thread.withIe_g (t : Thread) (b : Bool) : (t.withIe b).g = t.g := rfl
@[simp] theorem Thread.withIe_v (t : Thread) (b : Bool) : (t.withIe b).v = t.v := rfl
@[simp] theorem Thread.withIe_m (t : Thread) (b : Bool) : (t.withIe b).m = t.m := rfl
@[simp] theorem Thread.withIe_epc (t : Thread) (b : Bool) : (t.withIe b).epc = t.epc := rfl
@[simp] theorem Thread.withIe_ecause (t : Thread) (b : Bool) : (t.withIe b).ecause = t.ecause := rfl
@[simp] theorem Thread.withIe_eaddr (t : Thread) (b : Bool) : (t.withIe b).eaddr = t.eaddr := rfl
@[simp] theorem Thread.withIe_tvec (t : Thread) (b : Bool) : (t.withIe b).tvec = t.tvec := rfl
@[simp] theorem Thread.withIe_sdeleg (t : Thread) (b : Bool) : (t.withIe b).sdeleg = t.sdeleg := rfl
@[simp] theorem Thread.withIe_rstate (t : Thread) (b : Bool) : (t.withIe b).rstate = t.rstate := rfl
@[simp] theorem Thread.withIe_fstat (t : Thread) (b : Bool) : (t.withIe b).fstat = t.fstat := rfl
@[simp] theorem Thread.withIe_dom (t : Thread) (b : Bool) : (t.withIe b).dom = t.dom := rfl
@[simp] theorem Thread.withIe_root (t : Thread) (b : Bool) : (t.withIe b).root = t.root := rfl
@[simp] theorem Thread.withIe_dsp (t : Thread) (b : Bool) : (t.withIe b).dsp = t.dsp := rfl
@[simp] theorem Thread.withIe_charge (t : Thread) (b : Bool) : (t.withIe b).charge = t.charge := rfl
@[simp] theorem Thread.withIe_slice (t : Thread) (b : Bool) : (t.withIe b).slice = t.slice := rfl
@[simp] theorem Thread.withIe_timer (t : Thread) (b : Bool) : (t.withIe b).timer = t.timer := rfl
@[simp] theorem Thread.withIe_timerDue (t : Thread) (b : Bool) : (t.withIe b).timerDue = t.timerDue := rfl
@[simp] theorem Thread.withIe_spbase (t : Thread) (b : Bool) : (t.withIe b).spbase = t.spbase := rfl
@[simp] theorem Thread.withIe_splen (t : Thread) (b : Bool) : (t.withIe b).splen = t.splen := rfl
@[simp] theorem Thread.withIe_home (t : Thread) (b : Bool) : (t.withIe b).home = t.home := rfl
@[simp] theorem Thread.withIe_unit (t : Thread) (b : Bool) : (t.withIe b).unit = t.unit := rfl
@[simp] theorem Thread.withIe_task (t : Thread) (b : Bool) : (t.withIe b).task = t.task := rfl
@[simp] theorem Thread.withIe_taskSwitch (t : Thread) (b : Bool) : (t.withIe b).taskSwitch = t.taskSwitch := rfl
@[simp] theorem Thread.withIe_hints (t : Thread) (b : Bool) : (t.withIe b).hints = t.hints := rfl
@[simp] theorem Thread.withIe_pending (t : Thread) (b : Bool) : (t.withIe b).pending = t.pending := rfl
@[simp] theorem Thread.withIe_rep (t : Thread) (b : Bool) : (t.withIe b).rep = t.rep := rfl
@[simp] theorem Thread.withIe_wait (t : Thread) (b : Bool) : (t.withIe b).wait = t.wait := rfl
@[simp] theorem Thread.withIe_noTravel (t : Thread) (b : Bool) : (t.withIe b).noTravel = t.noTravel := rfl
@[simp] theorem Thread.withIe_refusals (t : Thread) (b : Bool) : (t.withIe b).refusals = t.refusals := rfl
@[simp] theorem Thread.withIe_waited (t : Thread) (b : Bool) : (t.withIe b).waited = t.waited := rfl
@[simp] theorem Thread.withIe_paid (t : Thread) (b : Bool) : (t.withIe b).paid = t.paid := rfl
@[simp] theorem Thread.withIe_events (t : Thread) (b : Bool) : (t.withIe b).events = t.events := rfl
@[simp] theorem Thread.withIe_rsv (t : Thread) (b : Bool) : (t.withIe b).rsv = t.rsv := rfl
@[simp] theorem Thread.withIe_monitors (t : Thread) (b : Bool) : (t.withIe b).monitors = t.monitors := rfl
@[simp] theorem Thread.withIe_wakePending (t : Thread) (b : Bool) : (t.withIe b).wakePending = t.wakePending := rfl
@[simp] theorem Thread.withIe_unwind (t : Thread) (b : Bool) : (t.withIe b).unwind = t.unwind := rfl
@[simp] theorem Thread.withIe_lastIssue (t : Thread) (b : Bool) : (t.withIe b).lastIssue = t.lastIssue := rfl
@[simp] theorem Thread.withIe_atVector (t : Thread) (b : Bool) : (t.withIe b).atVector = t.atVector := rfl
@[simp] theorem Thread.withIe_fetchBuf (t : Thread) (b : Bool) : (t.withIe b).fetchBuf = t.fetchBuf := rfl
@[simp] theorem Thread.withLevel_occupied (t : Thread) (b : Nat) : (t.withLevel b).occupied = t.occupied := rfl
@[simp] theorem Thread.withLevel_pc (t : Thread) (b : Nat) : (t.withLevel b).pc = t.pc := rfl
@[simp] theorem Thread.withLevel_g (t : Thread) (b : Nat) : (t.withLevel b).g = t.g := rfl
@[simp] theorem Thread.withLevel_v (t : Thread) (b : Nat) : (t.withLevel b).v = t.v := rfl
@[simp] theorem Thread.withLevel_m (t : Thread) (b : Nat) : (t.withLevel b).m = t.m := rfl
@[simp] theorem Thread.withLevel_epc (t : Thread) (b : Nat) : (t.withLevel b).epc = t.epc := rfl
@[simp] theorem Thread.withLevel_ecause (t : Thread) (b : Nat) : (t.withLevel b).ecause = t.ecause := rfl
@[simp] theorem Thread.withLevel_eaddr (t : Thread) (b : Nat) : (t.withLevel b).eaddr = t.eaddr := rfl
@[simp] theorem Thread.withLevel_tvec (t : Thread) (b : Nat) : (t.withLevel b).tvec = t.tvec := rfl
@[simp] theorem Thread.withLevel_sdeleg (t : Thread) (b : Nat) : (t.withLevel b).sdeleg = t.sdeleg := rfl
@[simp] theorem Thread.withLevel_rstate (t : Thread) (b : Nat) : (t.withLevel b).rstate = t.rstate := rfl
@[simp] theorem Thread.withLevel_fstat (t : Thread) (b : Nat) : (t.withLevel b).fstat = t.fstat := rfl
@[simp] theorem Thread.withLevel_dom (t : Thread) (b : Nat) : (t.withLevel b).dom = t.dom := rfl
@[simp] theorem Thread.withLevel_root (t : Thread) (b : Nat) : (t.withLevel b).root = t.root := rfl
@[simp] theorem Thread.withLevel_dsp (t : Thread) (b : Nat) : (t.withLevel b).dsp = t.dsp := rfl
@[simp] theorem Thread.withLevel_charge (t : Thread) (b : Nat) : (t.withLevel b).charge = t.charge := rfl
@[simp] theorem Thread.withLevel_slice (t : Thread) (b : Nat) : (t.withLevel b).slice = t.slice := rfl
@[simp] theorem Thread.withLevel_timer (t : Thread) (b : Nat) : (t.withLevel b).timer = t.timer := rfl
@[simp] theorem Thread.withLevel_timerDue (t : Thread) (b : Nat) : (t.withLevel b).timerDue = t.timerDue := rfl
@[simp] theorem Thread.withLevel_spbase (t : Thread) (b : Nat) : (t.withLevel b).spbase = t.spbase := rfl
@[simp] theorem Thread.withLevel_splen (t : Thread) (b : Nat) : (t.withLevel b).splen = t.splen := rfl
@[simp] theorem Thread.withLevel_home (t : Thread) (b : Nat) : (t.withLevel b).home = t.home := rfl
@[simp] theorem Thread.withLevel_unit (t : Thread) (b : Nat) : (t.withLevel b).unit = t.unit := rfl
@[simp] theorem Thread.withLevel_task (t : Thread) (b : Nat) : (t.withLevel b).task = t.task := rfl
@[simp] theorem Thread.withLevel_taskSwitch (t : Thread) (b : Nat) : (t.withLevel b).taskSwitch = t.taskSwitch := rfl
@[simp] theorem Thread.withLevel_hints (t : Thread) (b : Nat) : (t.withLevel b).hints = t.hints := rfl
@[simp] theorem Thread.withLevel_pending (t : Thread) (b : Nat) : (t.withLevel b).pending = t.pending := rfl
@[simp] theorem Thread.withLevel_rep (t : Thread) (b : Nat) : (t.withLevel b).rep = t.rep := rfl
@[simp] theorem Thread.withLevel_wait (t : Thread) (b : Nat) : (t.withLevel b).wait = t.wait := rfl
@[simp] theorem Thread.withLevel_noTravel (t : Thread) (b : Nat) : (t.withLevel b).noTravel = t.noTravel := rfl
@[simp] theorem Thread.withLevel_refusals (t : Thread) (b : Nat) : (t.withLevel b).refusals = t.refusals := rfl
@[simp] theorem Thread.withLevel_waited (t : Thread) (b : Nat) : (t.withLevel b).waited = t.waited := rfl
@[simp] theorem Thread.withLevel_paid (t : Thread) (b : Nat) : (t.withLevel b).paid = t.paid := rfl
@[simp] theorem Thread.withLevel_events (t : Thread) (b : Nat) : (t.withLevel b).events = t.events := rfl
@[simp] theorem Thread.withLevel_rsv (t : Thread) (b : Nat) : (t.withLevel b).rsv = t.rsv := rfl
@[simp] theorem Thread.withLevel_monitors (t : Thread) (b : Nat) : (t.withLevel b).monitors = t.monitors := rfl
@[simp] theorem Thread.withLevel_wakePending (t : Thread) (b : Nat) : (t.withLevel b).wakePending = t.wakePending := rfl
@[simp] theorem Thread.withLevel_unwind (t : Thread) (b : Nat) : (t.withLevel b).unwind = t.unwind := rfl
@[simp] theorem Thread.withLevel_lastIssue (t : Thread) (b : Nat) : (t.withLevel b).lastIssue = t.lastIssue := rfl
@[simp] theorem Thread.withLevel_atVector (t : Thread) (b : Nat) : (t.withLevel b).atVector = t.atVector := rfl
@[simp] theorem Thread.withLevel_fetchBuf (t : Thread) (b : Nat) : (t.withLevel b).fetchBuf = t.fetchBuf := rfl

end Sys2Proof.Machine
end

