-- ==== Sys2Proof/Laws/Canonical.lean ====
section
/-! SUPPORT. What the operations of the machine that change memory do to it, that each keeps its canonical form, and that
the others leave it alone. -/
namespace Sys2Proof.Machine

@[simp] theorem lineWritten_mem (l : Nat) (s : State) : (lineWritten l s).mem = s.mem := rfl
@[simp] theorem lineWritten_side (l : Nat) (s : State) : (lineWritten l s).side = s.side := rfl
@[simp] theorem lineWritten_hostMem (l : Nat) (s : State) : (lineWritten l s).hostMem = s.hostMem := rfl

@[simp] theorem touchPage_mem (a : Nat) (s : State) : (touchPage a s).mem = s.mem := by
  unfold touchPage; split <;> rfl
@[simp] theorem touchPage_side (a : Nat) (s : State) : (touchPage a s).side = s.side := by
  unfold touchPage; split <;> rfl
@[simp] theorem touchPage_hostMem (a : Nat) (s : State) : (touchPage a s).hostMem = s.hostMem := by
  unfold touchPage; split <;> rfl

/-- What every step of a fold leaves alone, the fold leaves alone. -/
theorem foldl_keeps {α β : Type} (p : State → β) (f : State → α → State) (h : ∀ s a, p (f s a) = p s) (l : List α)
    (s : State) : p (l.foldl f s) = p s := by
  induction l generalizing s with
  | nil => rfl
  | cons a l ih => rw [List.foldl_cons, ih, h]

/-- The bytes of a store land at its canonical addresses, and nothing else of memory changes. -/
@[simp] theorem State.writeBytes_mem (s : State) (a : Nat) (l : List Byte) :
    (s.writeBytes a l).mem = Memory.setAll s.mem (((List.range l.length).map (fun i => s.key (a + i))).zip l) := by
  unfold State.writeBytes; exact foldl_keeps State.mem _ (by simp) _ _
@[simp] theorem State.writeBytes_side (s : State) (a : Nat) (l : List Byte) : (s.writeBytes a l).side = s.side := by
  unfold State.writeBytes; exact foldl_keeps State.side _ (by simp) _ _
@[simp] theorem State.writeBytes_hostMem (s : State) (a : Nat) (l : List Byte) : (s.writeBytes a l).hostMem = s.hostMem := by
  unfold State.writeBytes; exact foldl_keeps State.hostMem _ (by simp) _ _

@[simp] theorem State.setSideband_mem (s : State) (a : Nat) (x : BitVec 32) : (s.setSideband a x).mem = s.mem := by
  simp [State.setSideband]
@[simp] theorem State.setSideband_side (s : State) (a : Nat) (x : BitVec 32) :
    (s.setSideband a x).side = s.side.set (s.key a / 64) x := by
  simp [State.setSideband]
@[simp] theorem State.setSideband_hostMem (s : State) (a : Nat) (x : BitVec 32) : (s.setSideband a x).hostMem = s.hostMem := by
  simp [State.setSideband]
@[simp] theorem State.setDesc_mem (s : State) (a : Nat) (d : BitVec 16) : (s.setDesc a d).mem = s.mem := by
  simp [State.setDesc]
@[simp] theorem State.setFe_mem (s : State) (a : Nat) (x : BitVec 2) : (s.setFe a x).mem = s.mem := by
  simp [State.setFe]
@[simp] theorem State.setDesc_hostMem (s : State) (a : Nat) (d : BitVec 16) : (s.setDesc a d).hostMem = s.hostMem := by
  simp [State.setDesc]
@[simp] theorem State.setFe_hostMem (s : State) (a : Nat) (x : BitVec 2) : (s.setFe a x).hostMem = s.hostMem := by
  simp [State.setFe]

/-- A fresh range reads as zero: its entries go. -/
@[simp] theorem freshRange_mem (lo n : Nat) (s : State) :
    (freshRange lo n s).mem = s.mem.filter (fun c => !(decide (lo ≤ c.1) && decide (c.1 < lo + n))) := by
  unfold freshRange; exact foldl_keeps State.mem _ (by simp) _ _
@[simp] theorem freshRange_hostMem (lo n : Nat) (s : State) : (freshRange lo n s).hostMem = s.hostMem := by
  unfold freshRange; exact foldl_keeps State.hostMem _ (by simp) _ _

@[simp] theorem post_mem (k c : Nat) (e : Word) (s : State) : (post k c e s).mem = s.mem := rfl
@[simp] theorem post_hostMem (k c : Nat) (e : Word) (s : State) : (post k c e s).hostMem = s.hostMem := rfl
@[simp] theorem stopSlot_mem (k : Nat) (s : State) : (stopSlot k s).mem = s.mem := rfl
@[simp] theorem stopSlot_hostMem (k : Nat) (s : State) : (stopSlot k s).hostMem = s.hostMem := rfl

theorem enterLevel_keeps {β : Type} (p : State → β) (hm : ∀ s k f, p (State.mapThread s k f) = p s)
    (hs : ∀ k s, p (stopSlot k s) = p s) (n k : Nat) (r : Word) (c : Nat) (e : Word) (l : Nat) (s : State) :
    p (enterLevel n k r c e l s) = p s := by
  induction n generalizing r c e l s with
  | zero => exact hs k s
  | succ n ih =>
    simp only [enterLevel]
    split
    · exact hm _ _ _
    · split
      · rw [hs, hm]
      · rw [ih, hm]

/-- Taking an exception leaves memory alone (R336). -/
@[simp] theorem enterLevel_mem (n k : Nat) (r : Word) (c : Nat) (e : Word) (l : Nat) (s : State) :
    (enterLevel n k r c e l s).mem = s.mem := enterLevel_keeps State.mem (fun _ _ _ => rfl) (fun _ _ => rfl) ..
@[simp] theorem enterLevel_side (n k : Nat) (r : Word) (c : Nat) (e : Word) (l : Nat) (s : State) :
    (enterLevel n k r c e l s).side = s.side := enterLevel_keeps State.side (fun _ _ _ => rfl) (fun _ _ => rfl) ..
@[simp] theorem enterLevel_hostMem (n k : Nat) (r : Word) (c : Nat) (e : Word) (l : Nat) (s : State) :
    (enterLevel n k r c e l s).hostMem = s.hostMem := enterLevel_keeps State.hostMem (fun _ _ _ => rfl) (fun _ _ => rfl) ..

/-! ### The canonical form -/

theorem State.Canonical.of_eq {s t : State} (h : s.Canonical) (hm : t.mem = s.mem) (hh : t.hostMem = s.hostMem) :
    t.Canonical := by
  unfold State.Canonical; rw [hm, hh]; exact h

theorem State.Canonical.writeBytes {s : State} (h : s.Canonical) (a : Nat) (l : List Byte) : (s.writeBytes a l).Canonical := by
  refine ⟨?_, ?_⟩
  · rw [State.writeBytes_mem]; exact Memory.wf_setAll _ h.1
  · rw [State.writeBytes_hostMem]; exact h.2

theorem State.Canonical.write64 {s : State} (h : s.Canonical) (a : Nat) (x : Word) : (s.write64 a x).Canonical :=
  h.writeBytes a _

theorem State.Canonical.setSideband {s : State} (h : s.Canonical) (a : Nat) (x : BitVec 32) : (s.setSideband a x).Canonical :=
  h.of_eq (by simp) (by simp)

theorem State.Canonical.lineWritten {s : State} (h : s.Canonical) (l : Nat) : (lineWritten l s).Canonical := h

theorem State.Canonical.freshRange {s : State} (h : s.Canonical) (lo n : Nat) : (freshRange lo n s).Canonical := by
  refine ⟨?_, ?_⟩
  · rw [freshRange_mem]; exact Memory.wf_filter _ h.1
  · rw [freshRange_hostMem]; exact h.2


theorem State.Canonical.putHostWord {s : State} (h : s.Canonical) (a : Nat) (x : Word) : (putHostWord a x s).Canonical :=
  ⟨h.1, Memory.wf_setAll _ h.2⟩

theorem Memory.wf_placeBytes {m : List Host.Cell} (h : Memory.wf m = true) (a n x : Nat) :
    Memory.wf (placeBytes m a n x) = true := Memory.wf_setAll _ h

theorem Memory.wf_placeAll {m : List Host.Cell} (l : List (Nat × Nat)) (h : Memory.wf m = true) :
    Memory.wf (l.foldl (fun m e => placeBytes m e.1 8 e.2) m) = true := by
  induction l generalizing m with
  | nil => exact h
  | cons e l ih => exact ih (Memory.wf_placeBytes h _ _ _)

theorem State.Canonical.loaded {s : State} (h : s.Canonical) : s.loaded.Canonical := by
  have hm : s.loaded.mem = loadWords.foldl (fun m e => placeBytes m e.1 8 e.2) s.mem := by
    simp only [State.loaded]
  have hw := Memory.wf_placeAll loadWords h.1
  refine ⟨?_, h.2⟩
  rw [hm]
  exact hw

theorem State.Canonical.withProgram {s : State} (h : s.Canonical) (nbits w : Nat) : (s.withProgram nbits w).Canonical := by
  exact ⟨Memory.wf_placeBytes h.loaded.1 _ _ _, h.2⟩

theorem reset_mem_wf : Memory.wf State.reset.mem = true := rfl

end Sys2Proof.Machine
end

