-- ==== Sys2Proof/Laws/Issue.lean ====
section
/-! SUPPORT. The issue of an instruction that nothing stands before: what `issue` answers then, and what the operations
that end an instruction leave. Proofs cite these and never unfold `issue`. -/
namespace Sys2Proof.Machine

theorem Clear.grp {acc : Accept} {s : State} (h : Clear acc s) : s.thr.grp = s.thr.hints := by
  simp [Thread.grp, h.main]

theorem Clear.inBody {acc : Accept} {s : State} (h : Clear acc s) : s.thr.inBody = false := by
  simp [Thread.inBody, h.main]

theorem Clear.ipc {acc : Accept} {s : State} (h : Clear acc s) : s.thr.ipc = s.thr.pc := by
  simp [Thread.ipc, h.main]

/-- With nothing pending the scoreboard holds nothing back (R44). -/
@[simp] theorem Use.scoreboard_idle (u : Use) (t : Thread) (h : t.pending = []) : u.scoreboard t = none := by
  simp [Use.scoreboard, Use.awaited, h]

/-- No check of the issue stage stops it. -/
theorem Clear.precheck {u : Use} {s : State} (h : Clear u.accept s) (hi : u.ill = false) (hp : u.priv = false) :
    precheck u s = none := by
  have hg := h.group
  simp [Machine.precheck, h.main, h.idle, h.plain, h.grp, h.inBody, hi, hp, hg, h.free]

/-- An instruction with nothing before it does what its body does. -/
theorem issue_clear {u : Use} {s : State} (body : State → Except Stop State) (h : Clear u.accept s) (hi : u.ill = false)
    (hp : u.priv = false) :
    issue u body s = .next (match body s with | .ok t => setVx u t | .error e => stopAt e s) := by
  rw [issue, h.precheck hi hp]
  cases body s with
  | ok t => simp [consume, h.plain]
  | error e => rfl

/-- A broken operand limit, an illegal hint group (R47, R49, R51, R54, R57): ILL, whatever else holds of the instruction. -/
theorem issue_ill {u : Use} {s : State} (body : State → Except Stop State) (hr : s.thr.rep = none)
    (hi : u.ill = true ∨ s.thr.hints.legal u.accept = false) :
    issue u body s = .next (stopAt (illegal u.word) s) := by
  have hp : precheck u s = some (illegal u.word) := by
    rcases hi with hi | hi <;> simp [precheck, hr, hi, Thread.grp]
  rw [issue, hp]

/-- A level that may not run the instruction (R55): PRIV. -/
theorem issue_priv {u : Use} {s : State} (body : State → Except Stop State) (h : Clear u.accept s) (hi : u.ill = false)
    (hp : u.priv = true) :
    issue u body s = .next (stopAt (.trap { cause := 2, eaddr := BitVec.ofNat 64 u.word }) s) := by
  have hg := h.group
  have : precheck u s = some (.trap { cause := 2, eaddr := BitVec.ofNat 64 u.word }) := by
    simp [precheck, h.main, h.plain, h.grp, h.inBody, hi, hp, hg]
  rw [issue, this]

/-- A stream without a place behind a grant leaves none (R211). -/
theorem leaveAllHeld_unheld {s : State} (h : s.Unheld) : leaveAllHeld (s.cur, s.thr.inBody) s = s := by
  have : s.held.filter (fun e => e.2.any (fun x => x.isStream (s.cur, s.thr.inBody))) = [] :=
    List.filter_eq_nil_iff.2 (fun e he => by simp [h e he])
  rw [leaveAllHeld, this]
  simp

/-- A trap of an instruction of the main stream: the entry of R336. -/
theorem stopAt_trap {s : State} (x : Trap) (hr : s.thr.rep = none) (hh : s.Unheld) : stopAt (.trap x) s = trap s.cur x s := by
  have : (s.thread s.cur).rep = none := hr
  simp [stopAt, leaveAllHeld_unheld hh, trapNow, this]

/-- A wait of an instruction of the main stream, of a kind that the home keeps no account of. -/
theorem stopAt_wait {s : State} (w : Wait) (hr : s.thr.rep = none) (hh : s.Unheld) (hw : enterWait w s = (w, s))
    (hm : waitMarks w s = s) (hn : w.isWord = false) : stopAt (.wait w) s = s.setThr (s.thr.waits w) := by
  simp [stopAt, hn, leaveAllHeld_unheld hh, hw, hm, State.mapThr, Thread.park, hr, Thread.waits]

theorem setVx_false {u : Use} (s : State) (h : u.vx = false) : setVx u s = s := by simp [setVx, h]

/-- The same of an instruction that names no vector or mask register. -/
theorem issue_scalar {u : Use} {s : State} (body : State → Except Stop State) (h : Clear u.accept s) (hi : u.ill = false)
    (hp : u.priv = false) (hv : u.vx = false) :
    issue u body s = .next (match body s with | .ok t => t | .error e => stopAt e s) := by
  rw [issue_clear body h hi hp]
  cases body s <;> simp [setVx_false, hv]

/-- An instruction that names a vector or mask register leaves VX set, unless its thread leaves (R96). -/
theorem setVx_setThr {u : Use} (s : State) (t : Thread) (h : u.vx = true) (hw : t.wait = none) :
    setVx u (s.setThr t) = s.setThr (t.withVx true) := by
  simp [setVx, h, State.mapThr_setThr, hw]

/-- The end of an instruction of the main stream with nothing pending. -/
theorem Thread.retireTo_main (t : Thread) (pc : Word) (hr : t.rep = none) (hp : t.pending = []) :
    t.retireTo pc = t.wentTo pc := by
  simp [Thread.retireTo, hr, Thread.slideWindows, hp, Thread.wentTo]

theorem Thread.retire_main (t : Thread) (hr : t.rep = none) (hp : t.pending = []) : t.retire = t.wentOn :=
  t.retireTo_main _ hr hp

theorem retire_setThr (s : State) (t : Thread) : retire (s.setThr t) = s.setThr t.retire := State.mapThr_setThr s t _

theorem retireTo_setThr (s : State) (t : Thread) (pc : Word) : retireTo pc (s.setThr t) = s.setThr (t.retireTo pc) :=
  State.mapThr_setThr s t _

theorem State.wg_eq (s : State) (r : Reg) (x : Word) : s.wg r x = s.setThr (s.thr.wg r x) := rfl
theorem State.wm_eq (s : State) (r : BitVec 2) (x : Mask) : s.wm r x = s.setThr (s.thr.wm r x) := rfl

theorem State.wv_eq (s : State) (r : Reg) (x : Vec) (h : s.thr.winMode = false) : s.wv r x = s.setThr (s.thr.wv r x) := by
  simp [State.wv, h, State.mapThr]

theorem State.rv_eq (s : State) (r : Reg) (h : s.thr.winMode = false) : s.rv r = s.thr.rv r := by
  simp [State.rv, h]

theorem State.oldv_eq (s : State) (r : Reg) (h : s.thr.winMode = false) : s.oldv r = s.thr.rv r := by
  simp [State.oldv, h]

/-- A long-latency instruction of the main stream with nothing pending leaves its result owed (R44). -/
theorem retireLong_main (dest : Dest) (value : Vec) (n : Nat) (divide : Bool) (s : State) (hr : s.thr.rep = none)
    (hp : s.thr.pending = []) :
    retireLong dest value n divide s = s.setThr (s.thr.owes dest value n divide) := by
  simp [retireLong, retire, State.mapThr, Thread.retire, Thread.retireTo, hr, hp, Thread.slideWindows, Thread.ipc,
    Thread.inBody, Thread.owes, Thread.wentOn, Thread.wentTo]

/-- VX on does not touch window mode (R331). -/
@[simp] theorem Thread.withVx_winMode (t : Thread) (b : Bool) : (t.withVx b).winMode = t.winMode := by
  simp only [Thread.withVx, Thread.winMode, bit, setField]
  cases b <;> simp

end Sys2Proof.Machine
end

