-- ==== Sys2Proof/Laws/Scalar.lean ====
section
/-! SUPPORT. What each shared operation of the scalar and branch instructions answers with nothing before it. -/
namespace Sys2Proof.Machine

/-- The completion of an instruction that writes one general register. -/
theorem retire_wg {acc : Accept} {s : State} (h : Clear acc s) (d : Reg) (x : Word) :
    retire (s.wg d x) = s.setThr (s.thr.wg d x).wentOn := by
  rw [State.wg_eq, retire_setThr, Thread.retire_main] <;> simp [h.main, h.idle]

theorem binary_clear {s : State} (word : Nat) (d a b : Reg) (w : Bool) (f : Word → Word → Word) (h : Clear {} s) :
    binary word d a b w f s = .next (s.setThr (s.thr.wg d (wres w (f (s.rg a) (s.rg b)))).wentOn) := by
  rw [binary, issue_scalar _ h rfl rfl rfl]
  simp only [retire_wg h]

theorem unary_clear {s : State} (word : Nat) (d a : Reg) (w : Bool) (f : Word → Word) (h : Clear {} s) :
    unary word d a w f s = .next (s.setThr (s.thr.wg d (wres w (f (s.rg a)))).wentOn) := by
  rw [unary, issue_scalar _ h rfl rfl rfl]
  simp only [retire_wg h]

theorem immediate_clear {s : State} (word : Nat) (d a : Reg) (i : BitVec 18) (f : Word → Word → Word)
    (h : Clear { himm := true } s) :
    immediate word d a i f s = .next (s.setThr (s.thr.wg d (f (s.rg a) (s.thr.hints.imm i))).wentOn) := by
  rw [immediate, issue_scalar _ h rfl rfl rfl]
  simp only [retire_wg h, State.grp, h.grp]

theorem shiftImm_clear {s : State} (word : Nat) (d a : Reg) (f : Word → Word) (h : Clear {} s) :
    shiftImm word d a f s = .next (s.setThr (s.thr.wg d (f (s.rg a))).wentOn) := by
  rw [shiftImm, issue_scalar _ h rfl rfl rfl]
  simp only [retire_wg h]

theorem retire_main {acc : Accept} {s : State} (h : Clear acc s) : retire s = s.setThr s.thr.wentOn := by
  show s.setThr s.thr.retire = _
  rw [Thread.retire_main _ h.main h.idle]

theorem retireTo_main {acc : Accept} {s : State} (h : Clear acc s) (pc : Word) : retireTo pc s = s.setThr (s.thr.wentTo pc) := by
  show s.setThr (s.thr.retireTo pc) = _
  rw [Thread.retireTo_main _ _ h.main h.idle]

/-- A block that joins a core's cache changes nothing else (R89). -/
theorem cacheBlock_frame (n block : Nat) (s : State) :
    (cacheBlock n block s).2 = s ∨ ∃ c : CoreState, (cacheBlock n block s).2 = s.setCore n c ∧
      c = { s.core n with icache := c.icache, victims := c.victims } := by
  unfold cacheBlock
  split
  · exact .inl rfl
  · refine .inr ⟨_, rfl, ?_⟩
    unfold CoreState.insertBlock
    dsimp only
    split
    · rfl
    · split <;> rfl

/-- The fetch that LIKELY starts changes nothing but the cache of its core (R86). -/
theorem likelyFetch_frame (i : Word) (s : State) :
    likelyFetch i s = s ∨ ∃ c : CoreState, likelyFetch i s = s.setCore (coreOf s.cur) c ∧
      c = { s.core (coreOf s.cur) with icache := c.icache, victims := c.victims } := by
  have h (pc : Word) : prefetchBlock s.cur pc s = s ∨ ∃ c : CoreState, prefetchBlock s.cur pc s = s.setCore (coreOf s.cur) c ∧
      c = { s.core (coreOf s.cur) with icache := c.icache, victims := c.victims } := by
    unfold prefetchBlock
    split
    · split <;> split <;> first | exact cacheBlock_frame _ _ _ | exact .inl rfl
    · exact .inl rfl
  unfold likelyFetch
  split
  · exact h _
  · exact h _
  · exact .inl rfl

theorem likelyFetch_thr (i : Word) (s : State) : (likelyFetch i s).thr = s.thr := by
  rcases likelyFetch_frame i s with h | ⟨c, h, -⟩ <;> rw [h]
  rfl

theorem likelyFetch_clear {acc : Accept} {s : State} (h : Clear acc s) (i : Word) : Clear acc (likelyFetch i s) := by
  have ht := likelyFetch_thr i s
  have hf : fencedBy (likelyFetch i s) (likelyFetch i s).cur = fencedBy s s.cur := by
    rcases likelyFetch_frame i s with h | ⟨c, h, -⟩ <;> rw [h]
    rfl
  exact ⟨ht ▸ h.main, ht ▸ h.idle, ht ▸ h.plain, ht ▸ h.group, hf.trans h.free⟩

/-- A branch, taken or not, after the fetch that LIKELY starts (R81, R82, R86). -/
theorem branchTo_clear {acc : Accept} {s : State} (h : Clear acc s) (i : Word) (taken : Bool) :
    branchTo i taken s = (likelyFetch i s).setThr (s.thr.wentTo (if taken then i else s.thr.pc + 4)) := by
  have hc := likelyFetch_clear h i
  have ht := likelyFetch_thr i s
  cases taken
  · simp only [branchTo, retire_main hc, ht]; rfl
  · simp only [branchTo, retireTo_main hc, ht]; rfl

theorem compareBranch_clear {s : State} (word : Nat) (a b : Reg) (i : BitVec 14) (c : Word → Word → Bool)
    (h : Clear { likely := true } s) :
    compareBranch word a b i c s =
      .next ((likelyFetch (target s.thr.pc i) s).setThr
        (s.thr.wentTo (if c (s.rg a) (s.rg b) then target s.thr.pc i else s.thr.pc + 4))) := by
  rw [compareBranch, issue_scalar _ h rfl rfl rfl]
  simp only [branchTo_clear h]

theorem zeroBranch_clear {s : State} (word : Nat) (a : Reg) (i : BitVec 18) (c : Int → Bool) (h : Clear { likely := true } s) :
    zeroBranch word a i c s =
      .next ((likelyFetch (target s.thr.pc i) s).setThr
        (s.thr.wentTo (if c (s.rg a).toInt then target s.thr.pc i else s.thr.pc + 4))) := by
  rw [zeroBranch, issue_scalar _ h rfl rfl rfl]
  simp only [branchTo_clear h]

/-- A divide joins the divider and leaves its result owed (R77, R78). -/
theorem divide_clear {s : State} (word : Nat) (d a b : Reg) (l : BitVec 4) (w : Bool) (f : Word → Word → Word)
    (h : Clear {} s) (hd : (s.core (coreOf s.cur)).divides.length < 8) :
    divide word d a b l w f s =
      .next ((addDivide s).setThr
        (s.thr.owes (.gen d) ((wres w (f (s.rg a) (s.rg b))).setWidth 128) l.toNat true)) := by
  have ht : (addDivide s).thr = s.thr := by simp [addDivide]
  have hj : joinDivider s = .ok (addDivide s) := by simp [joinDivider, Nat.not_le.2 hd]
  rw [divide, issue_scalar _ h rfl rfl rfl, hj]
  simp only [bind, Except.bind, State.rg]
  rw [retireLong_main] <;> simp [ht, h.main, h.idle]

end Sys2Proof.Machine
end

