-- ==== Sys2Proof/Laws/Vector.lean ====
section
/-! SUPPORT. Laws of vectors: their elements, active and inactive elements of a result, and what the elementwise
instructions do where nothing stands in their way. -/
namespace Sys2Proof.Machine

@[simp] theorem lanes_length (x : Vec) (n : Nat) : (lanes x n).length = 128 / n := by simp [lanes]

@[simp] theorem lanes_getElem (x : Vec) (n e : Nat) (h : e < (lanes x n).length) : (lanes x n)[e] = lane x n e := by
  simp [lanes]

theorem lane_lt (x : Vec) (n e : Nat) : lane x n e < 2 ^ n := Nat.mod_lt _ (Nat.two_pow_pos n)

theorem ofLanes_lt (n : Nat) (l : List Nat) : ofLanes n l < 2 ^ (n * l.length) := by
  induction l with
  | nil => simp [ofLanes]
  | cons x r ih =>
    have hx : x % 2 ^ n < 2 ^ n := Nat.mod_lt _ (Nat.two_pow_pos n)
    have : 2 ^ (n * (x :: r).length) = 2 ^ n * 2 ^ (n * r.length) := by
      rw [← pow_add]; congr 1; simp; ring
    rw [this, ofLanes]
    have h2 : 2 ^ n * (ofLanes n r + 1) ≤ 2 ^ n * 2 ^ (n * r.length) := Nat.mul_le_mul_left _ ih
    rw [Nat.mul_add] at h2
    omega

theorem ofLanes_lane (n : Nat) (l : List Nat) (e : Nat) (h : e < l.length) :
    ofLanes n l / 2 ^ (n * e) % 2 ^ n = l[e] % 2 ^ n := by
  induction l generalizing e with
  | nil => simp at h
  | cons x r ih =>
    have hx : x % 2 ^ n < 2 ^ n := Nat.mod_lt _ (Nat.two_pow_pos n)
    cases e with
    | zero => simp [ofLanes, Nat.add_mod]
    | succ e =>
      have hd : (x % 2 ^ n + 2 ^ n * ofLanes n r) / 2 ^ n = ofLanes n r := by
        rw [Nat.add_mul_div_left _ _ (Nat.two_pow_pos n), Nat.div_eq_of_lt hx, Nat.zero_add]
      rw [ofLanes, Nat.mul_add, Nat.mul_one, Nat.add_comm (n * e), pow_add, ← Nat.div_div_eq_div_mul, hd]
      exact ih e (by simpa using h)

/-- Element e of a vector made of elements. -/
theorem lane_vecOf (n : Nat) (l : List Nat) (e : Nat) (h : e < l.length) (hn : n * l.length ≤ 128) :
    lane (vecOf n l) n e = l[e] % 2 ^ n := by
  have hl : ofLanes n l < 2 ^ 128 := lt_of_lt_of_le (ofLanes_lt n l) (Nat.pow_le_pow_right (by norm_num) hn)
  rw [lane, vecOf, BitVec.toNat_ofNat, Nat.mod_eq_of_lt hl]
  exact ofLanes_lane n l e h

/-- R95: active elements are new, inactive elements old. -/
theorem lane_merge (m : Mask) (w : Nat) (old : Vec) (new : List Nat) (e : Nat)
    (hn : new.length = 16 / w) (he : e < 16 / w) :
    lane (merge m w old new) (8 * w) e =
      if active m w e = true then new.getD e 0 % 2 ^ (8 * w) else lane old (8 * w) e := by
  have h128 : 128 / (8 * w) = 16 / w := by
    rw [show (128 : Nat) = 8 * 16 from rfl, Nat.mul_div_mul_left _ _ (by norm_num)]
  have hle : 8 * w * (16 / w) ≤ 128 := by
    have := Nat.mul_div_le 16 w
    nlinarith
  have hlen : (((List.range (16 / w)).zip (new.zip (lanes old (8 * w)))).map
      (fun p => if active m w p.1 then p.2.1 else p.2.2)).length = 16 / w := by simp [hn, h128]
  rw [merge, lane_vecOf _ _ _ (by rw [hlen]; exact he) (by rw [hlen]; exact hle)]
  have hnew : e < new.length := by rw [hn]; exact he
  simp only [List.getElem_map, List.getElem_zip, List.getElem_range, lanes_getElem]
  split
  · simp [List.getD_eq_getElem?_getD, List.getElem?_eq_getElem hnew]
  · exact Nat.mod_eq_of_lt (lane_lt _ _ _)

/-- A write of active elements outside window mode. -/
theorem writeLanes_eq (d : Reg) (m : BitVec 2) (w : Nat) (new : List Nat) (s : State) (h : s.thr.winMode = false) :
    writeLanes d m w new s = s.setThr (s.thr.wv d (merge (s.thr.rm m) w (s.thr.rv d) new)) := by
  rw [writeLanes, State.wv_eq _ _ _ h, State.oldv_eq _ _ h]; rfl

/-- R93-R96, R101: an elementwise instruction of the main stream with nothing pending, outside window mode. -/
theorem elementwise_clear {s : State} (word : Nat) (d a b : Reg) (m q : BitVec 2) (takesSat : Bool)
    (f : Bool → Nat → Nat → Nat → Nat) (h : Clear { sat := takesSat } s) :
    elementwise word d a b m q takesSat f s =
      .next (s.setThr ((s.thr.withVx true).wv d (merge (s.thr.rm m) (laneBytes q) (s.thr.rv d)
        (List.zipWith (f (bit s.thr.hints.hmod 20) (laneBits q)) (lanes (s.thr.rv a) (laneBits q))
          (lanes (s.thr.rv b) (laneBits q))))).wentOn) := by
  rw [elementwise, issue_clear _ h rfl rfl]
  dsimp only
  rw [writeLanes_eq _ _ _ _ _ h.plain, retire_setThr, Thread.retire_main]
  · rw [setVx_setThr _ _ rfl rfl]
    simp [State.rv_eq, State.satHint, State.hmod, State.grp, Thread.grp, h.main, h.plain]
    rfl
  · simp [h.main]
  · simp [h.idle]

end Sys2Proof.Machine
end

