-- ==== Sys2Proof/Tests/Slice0.lean ====
section
/-! SUPPORT. Tests: ill-formed terms refused, words of the spec's tables decoded, worked values of the spec, and for every
statement's hypotheses a state and operands that meet them. -/
namespace Sys2Proof.Tests
open Sys2Proof Sys2Proof.Machine

/- One theorem at a time: each waits for the kernel, and a thread for each would not fit. -/
set_option Elab.async false

/-! ### Small states -/

/-- A device whose slot 0 holds this thread. -/
def slot (t : Thread) : State := { threads := [(0, t)] }

/-- A thread with these general registers, at level U with 64 KiB of scratchpad. -/
def user (rs : List (Nat × Word)) : Thread :=
  rs.foldl (fun t e => t.wg (BitVec.ofNat 4 e.1) e.2) { occupied := true, splen := 0x10000 }

/-- The state of a next outcome. -/
def after (o : Out) : State :=
  match o with
  | .next s => s
  | _ => {}

/-- Register r of slot 0 after an outcome. -/
def reg (r : Nat) (o : Out) : Word := (after o).thr.rg (BitVec.ofNat 4 r)

/-- The pc of slot 0 after an outcome. -/
def pcOf (o : Out) : Word := (after o).thr.pc

/-- The load of log entry 6 with these words at its address. -/
def prog (ws : List Nat) : State :=
  let s := State.reset.loaded
  let s := { s with mem := (List.range ws.length).foldl (fun m i => placeBytes m (loadAddress + 4 * i) 4 (ws.getD i 0)) s.mem }
  s.setThread 0 { loadThread with fetchBuf := some (loadAddress / 64, blockWords s (loadAddress / 64)) }

/-- A thread with three registers of 128 bits. -/
def vecs (a b d : Vec) : Thread := (((user []).wv 2 a).wv 3 b).wv 1 d

theorem clear_of {acc : Accept} {s : State}
    (h : s.thr.rep = none ∧ s.thr.pending = [] ∧ s.thr.winMode = false ∧ s.thr.hints.legal acc = true ∧
      fencedBy s s.cur = false) : Clear acc s :=
  ⟨h.1, h.2.1, h.2.2.1, h.2.2.2.1, h.2.2.2.2⟩

/-- No access of slot 0 waits behind a grant, and none of its operations has been left with a home. -/
theorem unheld_of {s : State} (h : s.held = []) : s.Unheld := fun e he => by rw [h] at he; cases he

/-- An answer, not an error, and what holds of it. -/
def okWith {ε α : Type} (r : Except ε α) (P : α → Bool) : Bool :=
  match r with
  | .ok a => P a
  | .error _ => false

/-- A trap of this cause. -/
def trapsWith {α : Type} (r : Except Stop α) (cause : Nat) : Bool :=
  match r with
  | .error (.trap t) => t.cause == cause
  | _ => false

/-- No partition is confidential. -/
theorem open_of {s : State} (h : (List.range 32).all (fun q => !(s.part q).record.isSome || !bit (s.prec q 0) 5) = true) (a : Nat) :
    s.confRefused a = false := by
  rw [State.confRefused, Bool.eq_false_iff]
  intro hc
  obtain ⟨q, hq, hp⟩ := List.any_eq_true.mp hc
  have := List.all_eq_true.mp h q hq
  simp_all

theorem local_of {s : State} {va n : Nat}
    (h : localBase ≤ va ∧ va - localBase + n ≤ s.thr.splen ∧ 0 < n ∧ s.cur < 16384 ∧ s.thr.spbase + s.thr.splen ≤ 0x400000 ∧
      s.thr.depth = 0 ∧ s.thr.home = clusterOf s.cur ∧ localSlot s.cur ≠ 7 ∧ (s.cluster (clusterOf s.cur)).stash = [] ∧
      (List.range 32).all (fun q => !(s.part q).record.isSome || !bit (s.prec q 0) 5) = true) :
    LocalRange s va n :=
  ⟨h.1, h.2.1, h.2.2.1, h.2.2.2.1, h.2.2.2.2.1, h.2.2.2.2.2.1, h.2.2.2.2.2.2.1, .inl h.2.2.2.2.2.2.2.1,
    h.2.2.2.2.2.2.2.2.1, fun _ _ _ => open_of h.2.2.2.2.2.2.2.2.2 _⟩

/-! ### What meets the hypotheses of the statements: 04 to 06 -/

theorem test_witness_plain : Clear {} (slot (user [(1, 5), (2, 3)])) ∧ (slot (user [(1, 5), (2, 3)])).Unheld ∧
    postedBy (slot (user [(1, 5), (2, 3)])) 0 = false :=
  ⟨clear_of (by decide +kernel), unheld_of rfl, by decide +kernel⟩

/-- Slot 0 has left an FEEMPTY with a home, where its word is granted to a reservation. -/
def leftBehind : State := { slot (user []) with held := [(8, [{ slot := 0, body := false, op := some (4, 0, 8) }])] }

theorem test_witness_postedBy : Clear {} leftBehind ∧ postedBy leftBehind leftBehind.cur = true ∧ leftBehind.Unheld :=
  ⟨clear_of (by decide +kernel), by decide +kernel, by unfold State.Unheld; decide +kernel⟩

def divided : State :=
  { slot { user [] with pending := [{ dest := .gen 3, value := 7, window := 0, at_ := 0, divide := true }] } with
    cores := [(0, { divides := [0] })] }

theorem test_witness_DivideResults : ((slot (user [])).core 0).divides.length < 8 ∧ (divided.core 0).divides = [0] ∧
    ∃ p, (divided.thread (8 * 0 + 0)).pending = [p] ∧ p.divide = true ∧ p.dest = .gen 3 :=
  ⟨by decide +kernel, by decide +kernel, _, rfl, rfl, rfl⟩

def hinted (l : List Nat) : State := slot { user [] with hints := { himms := l.map (BitVec.ofNat 24) } }
def modified (p : Nat) : State := slot { user [] with hints := { hmods := [BitVec.ofNat 24 p] } }

theorem test_witness_ImmediateResults : Clear { himm := true } (hinted []) ∧ Clear { himm := true } (hinted [0xFFFFFF]) ∧
    Clear { himm := true } (hinted [0x3FFFFF, 0xFFFFFF]) :=
  ⟨clear_of (by decide +kernel), clear_of (by decide +kernel), clear_of (by decide +kernel)⟩

theorem test_witness_ControlFlowResults : Clear { likely := true } (modified 0x100) ∧ Clear { likely := true } (slot (user [])) ∧
    ((slot (user [(1, 0x1004)])).rg 1).toNat % 4 = 0 ∧ ((slot (user [(1, 0x1003)])).rg 1).toNat % 4 ≠ 0 :=
  ⟨clear_of (by decide +kernel), clear_of (by decide +kernel), by decide +kernel⟩

theorem test_witness_saturation : Clear { sat := true } (modified 0x100000) ∧ Clear { sat := true } (slot (user [])) :=
  ⟨clear_of (by decide +kernel), clear_of (by decide +kernel)⟩

theorem test_witness_NeighbourResults : ({} : Neighbour).count < ({} : Neighbour).limit ∧
    (let full : State := { slot (user [(1, 4), (2, 5)]) with cores := [(0, { neighbours := [(0, { queue := [9], count := 4 })] })] }
     (full.neighbour 0 0 false).limit ≤ (full.neighbour 0 0 false).count ∧ (full.neighbour 0 0 false).queue = [9] ∧
       (full.neighbour 0 0 true).queue = [] ∧ (full.rg 0).toNat = 0 ∧ (full.rg 1).toNat = 4 ∧ 4 < (full.rg 2).toNat) := by
  decide +kernel

theorem test_witness_RoundingIsCorrect :
    (0x7BFF < 2 ^ fp16.bits ∧ ∃ m e, fp16.val 0x7BFF = .fin false m e) ∧ (0x3F800001 < 2 ^ fp32.bits ∧
      ∃ m e, fp32.val 0x3F800001 = .fin false m e) ∧ ∃ m e, bf16.val 0x8001 = .fin true m e ∧ m ≠ 0 :=
  ⟨⟨by decide, _, _, rfl⟩, ⟨by decide, _, _, rfl⟩, _, _, rfl, by decide⟩

theorem test_witness_rounding : Clear { rm := true } (modified 0xA00000) ∧ (0 : BitVec 2) ≠ 3 ∧ (2 : BitVec 2) ≠ 3 :=
  ⟨clear_of (by decide +kernel), by decide, by decide⟩

theorem test_witness_ConversionResults : Clear { rm := true, sat := true } (modified 0xB00000) ∧
    (((3 : BitVec 2).toNat < widthRatio 9 11 ∧ typeBits 9 ≠ 0 ∧ typeBits 11 ≠ 0 ∧ isFloat 9 = true ∧ isFloat 11 = true) ∧
     ((3 : BitVec 2).toNat < widthRatio 9 0 ∧ isFloat 9 = true ∧ isInt 0 = true ∧ widthRatio 9 0 ≤ 4) ∧
     ((0 : BitVec 2).toNat < widthRatio 2 9 ∧ isInt 2 = true ∧ isFloat 9 = true ∧ widthRatio 2 9 ≤ 4) ∧
     ((3 : BitVec 2).toNat < widthRatio 2 4 ∧ typeBits 2 ≠ 0 ∧ typeBits 4 ≠ 0) ∧
     ((1 : BitVec 2).toNat < widthRatio 0 1 ∧ (3 : BitVec 2).toNat < widthRatio 4 6) ∧
     ((1 : BitVec 2).toNat < widthRatio 0 13 ∧ (3 : BitVec 2).toNat < widthRatio 1 13 ∧ typeBits 13 ≠ 0) ∧
     (3 : BitVec 2).toNat < widthRatio 13 10) :=
  ⟨clear_of (by decide +kernel), by decide +kernel⟩

theorem test_witness_ScaleAndSumResults : isFloat 8 = true ∧ isFloat 10 = true ∧ isFloat 9 = true ∧
    ((slot (user [(2, 0x7F40)])).rg 2).toNat % 65536 % 256 ∈ [0x01, 0x10, 0x11, 0x20, 0x21, 0x30, 0x31, 0x40] ∧
    ((slot (user [(2, 0xFF41)])).rg 2).toNat % 65536 % 256 ∉ [0x01, 0x10, 0x11, 0x20, 0x21, 0x30, 0x31, 0x40] := by
  decide +kernel

/-! ### Issue and traps: 03, 05, 09, 16 -/

def owing (d : Dest) (n : Nat) : State :=
  slot { user [] with pending := [{ dest := d, value := 9, window := n, at_ := 0x40 }] }

theorem test_witness_PendingResults : (owing (.gen 3) 1).thr.rep = none ∧ (owing (.gen 3) 1).thr.winMode = false ∧
    (owing (.gen 3) 1).thr.hints = {} ∧ (∃ p, (owing (.gen 3) 1).thr.pending = [p] ∧ p.dest = .gen 3 ∧ p.body = false ∧
      p.divide = false ∧ 0 < p.window) ∧ (∃ p, (owing (.gen 3) 0).thr.pending = [p] ∧ p.dest = .gen 3 ∧ p.window = 0) ∧
    (∀ p ∈ (owing (.gen 3) 1).thr.pending, p.body = false ∧ p.dest ≠ .gen 4 ∧ p.dest ≠ .gen 5 ∧ p.dest ≠ .gen 6) ∧
    (∃ p, ((owing (.vec 3) 1).thread 0).pending = [p] ∧ p.dest = .vec 3) ∧
    ∃ p, ((owing (.mask 2) 0).thread 0).pending = [p] ∧ p.dest = .mask 2 ∧ p.window = 0 ∧ p.divide = false :=
  ⟨by decide +kernel, by decide +kernel, by decide +kernel, ⟨_, rfl, by decide, rfl, rfl, by decide⟩, ⟨_, rfl, rfl, rfl⟩,
    by decide +kernel, ⟨_, rfl, rfl⟩, _, rfl, rfl, rfl, rfl⟩

def windowed (full : Bool) : State :=
  { slot { user [] with tstat := 0x1C } with
    cores := [(0, { windows := if full then [(28, some 5), (29, some 6)] else [] })] }

theorem test_witness_WindowModeVadd : (windowed true).thr.winMode = true ∧ (windowed true).thr.hints = {} ∧
    ((windowed true).windowBuf 0 7 12).isSome = true ∧ ((windowed true).windowBuf 0 7 13).isSome = true ∧
    (windowed true).windowBuf 0 0 14 = none ∧ ((windowed false).windowBuf 0 7 12).isSome = false := by decide +kernel

/-- REPT of two vector words, then the words. -/
def repeated (c : Word) : State :=
  let s := prog [0xAC5C6000, 0x5048C004, 0x5048C004]
  s.setThr (s.thr.wg 7 c)

def inBody (j : Nat) (c : Word) : State :=
  slot { user [(7, c)] with
    rep := some { addr := 0, words := [0x5048C004, 0x5048C004], creg := 7, stride := 1, smask := 8, off := 15, j := j, issuing := true } }

theorem test_witness_Repetitions : Clear {} (repeated 0) ∧ (repeated 3).held = [] ∧
    ((inBody 0 2).thr.pending = [] ∧ (inBody 0 2).thr.winMode = false) ∧
    (∃ r, (inBody 0 2).thr.rep = some r ∧ r.issuing = true ∧ r.hints = {} ∧ r.creg ≠ 0 ∧ r.j + 1 < r.words.length) ∧
    (∃ r, (inBody 1 1).thr.rep = some r ∧ r.issuing = true ∧ r.hints = {} ∧ r.creg ≠ 0 ∧ r.j < r.words.length) ∧
    okWith (fetchBody false 0 ((repeated 0).thr.pc + 4) 2 (repeated 0)) (fun a =>
      a.1 == [0x5048C004, 0x5048C004] && a.2.rg 7 == 0 && decide (a.2.thr = (repeated 0).thr ∧ a.2.held = [])) = true ∧
    okWith (fetchBody false 0 ((repeated 3).thr.pc + 4) 2 (repeated 3)) (fun a => a.2.rg 7 != 0 && decide (a.2.thr = (repeated 3).thr)) = true ∧
    ([0x5048C004, 0x5048C004] : List (BitVec 32)).all bodyAllows = true ∧ endsInHint [0x5048C004, 0x5048C004] = false ∧
    ([0x5048C004, 0x48000050] : List (BitVec 32)).all bodyAllows = false ∧ endsInHint [0x5048C004, 0xFD034000] = true :=
  ⟨clear_of (by decide +kernel), rfl, by decide +kernel, ⟨_, rfl, by decide⟩, ⟨_, rfl, by decide⟩, by decide +kernel⟩

theorem test_witness_HintsJoinTheirGroup : (slot (user [])).thr.rep = none ∧ field (5 : BitVec 21) 5 0 ≠ 0 ∧
    field (5 : BitVec 21) 20 6 = 0 ∧ field (0x40 : BitVec 21) 5 0 = 0 ∧
    (let s := slot { user [] with wait := some (.hold 0) }
     (s.thread 0).wait = some (.hold 0) ∧ (s.thread 0).rep = none) := by decide +kernel

def vectored (l : Nat) (tvec : Word) : State := slot { user [] with tstat := BitVec.ofNat 64 (0x10 + l), tvec := tvec }

theorem test_witness_TrapEntry : ((vectored 1 0x100).thread 0).pending = [] ∧ ((vectored 1 0x100).thread 0).tvec.toNat % 4 = 0 ∧
    ((vectored 1 0x101).thread 0).tvec.toNat % 4 ≠ 0 ∧ ((vectored 1 0x101).prec 0 0x18).toNat % 4 = 0 ∧
    ((vectored 2 0x100).cluster 0).fvec.toNat % 4 = 0 ∧ ((vectored 2 0x100).thread 0).level ≤ 2 := by decide +kernel

theorem test_witness_TrapInstructions : Clear {} (vectored 2 0) ∧ (vectored 2 0).thr.level = 2 ∧ (vectored 0 0).thr.level ≠ 2 :=
  ⟨clear_of (by decide +kernel), by decide +kernel⟩

theorem test_witness_EretReturns :
    (let t := (slot { user [] with tstat := 0x101 }).thr
     t.plev ≤ t.level ∧ t.plev ≠ 3 ∧ t.rstate.getLsbD 63 = false ∧ t.taskSwitch = none) ∧
    (let t := (slot { user [] with tstat := 0x200 }).thr
     t.level < t.plev) ∧ (slot { user [] with tstat := 0x302 }).thr.plev = 3 := by decide +kernel

theorem test_witness_StateRegisterReads :
    okWith (ipaRead (prog []) 0 ((prog []).domIpa 0 0 0x30)) (fun _ => true) = true ∧
    okWith (ipaRead (prog []) 0 ((prog []).domIpa 0 0 0x38)) (fun _ => true) = true ∧
    okWith (ipaStore (prog []) 0 ((prog []).domIpa 0 0 0x30) 5) (fun _ => true) = true ∧
    okWith (ipaStore (prog []) 0 ((prog []).domIpa 0 0 0x38) 5) (fun _ => true) = true ∧ Clear {} (vectored 0 0) ∧
    Clear {} (vectored 1 0) ∧ Clear {} (vectored 2 0) ∧ (vectored 2 0).thr.level = 2 ∧
    (vectored 0 0).thr.level = 0 ∧ (vectored 1 0).thr.level ≠ 0 ∧ (4 : BitVec 8).toNat ∉ [0, 1, 2, 3, 5, 6, 8, 9] :=
  ⟨by decide +kernel, by decide +kernel, by decide +kernel, by decide +kernel, clear_of (by decide +kernel),
    clear_of (by decide +kernel), clear_of (by decide +kernel), by decide +kernel⟩

def working : State :=
  { slot (user [(1, 64)]) with
    clusters := [(0, { mule := [{ fn := 0, number := 0, slot := 0, unit := none, task := none, quad := #v[0, 0, 0, 0], comp := 0, ctx := {} }] })] }

/-- Slot 0 has left an FEEMPTY of one memory order or the other with a home, behind a release-side FENCE or not. -/
def fencing (uo fenced : Bool) : State :=
  { slot (user [(1, 64), (4, BitVec.ofNat 64 localBase)]) with
    held := [(8, [{ slot := 0, body := false, op := some (4, 0, 8), uo := uo, fenced := fenced }])] }

theorem test_witness_FenceAndInvalidate : (slot (user [(1, 64)])).rg 0 = 0 ∧ (slot (user [(1, 64)])).rg 1 ≠ 0 ∧ (5 : BitVec 3).toNat < 6 ∧
    engineWork (slot (user [])) 0 = false ∧ engineWork working 0 = true ∧ Clear {} (slot (user [(1, 64)])) ∧ Clear {} working ∧
    Clear {} (fencing false false) ∧ Clear {} (fencing true false) ∧
    (∃ l ∈ (fencing false false).held, ∃ x ∈ l.2, x.op.isSome = true ∧ x.slot = (fencing false false).cur ∧ x.uo = false) ∧
    (∃ l ∈ (fencing true false).held, ∃ x ∈ l.2, x.op.isSome = true ∧ x.slot = (fencing true false).cur ∧ x.uo = true) ∧
    (let s := slot { user [] with wait := some .icinv }
     (s.thread 0).wait = some .icinv ∧ (s.thread 0).rep = none ∧ (slot (user [])).thr.wait ≠ some .icinv) :=
  ⟨by decide +kernel, by decide +kernel, by decide +kernel, by decide +kernel, by decide +kernel, clear_of (by decide +kernel),
    clear_of (by decide +kernel), clear_of (by decide +kernel), clear_of (by decide +kernel), by decide +kernel, by decide +kernel,
    by decide +kernel⟩

/-! ### Memory and synchronisation: 07, 08 -/

/-- g4 is the first byte of the local window, g5 the last word of the allocation, g6 a misaligned address, g8 beyond it. -/
def atLocal : State :=
  slot (user [(4, BitVec.ofNat 64 localBase), (5, BitVec.ofNat 64 (localBase + 0xFFF8)), (6, BitVec.ofNat 64 (localBase + 3)),
    (8, BitVec.ofNat 64 (localBase + 0xFFFC)), (9, BitVec.ofNat 64 apertureTop), (10, BitVec.ofNat 64 (2 ^ 52))])

theorem test_witness_LocalRange : LocalRange atLocal (atLocal.rg 4).toNat 1 ∧ LocalRange atLocal (atLocal.rg 4).toNat 16 ∧
    LocalRange atLocal (atLocal.rg 5).toNat 8 ∧ LocalRange atLocal (localBase + 0xFFFF) 1 ∧ atLocal.Unreserved ∧
    Clear { tv := true, acq := true, cp := true } atLocal ∧ Clear { cp := true } atLocal ∧ Clear { scope := true } atLocal :=
  ⟨local_of (by decide +kernel), local_of (by decide +kernel), local_of (by decide +kernel), local_of (by decide +kernel),
    ⟨rfl, rfl⟩, clear_of (by decide +kernel), clear_of (by decide +kernel), clear_of (by decide +kernel)⟩

theorem test_witness_fenced : fencedBy (fencing false true) (fencing false true).cur = true ∧ (fencing false true).thr.rep = none ∧
    (fencing false true).thr.pending = [] ∧ (fencing false true).thr.winMode = false ∧ (fencing false true).thr.hints = {} ∧
    (fencing false true).thr.rsv = none ∧ LocalRange (fencing false true) ((fencing false true).rg 4).toNat 8 ∧
    postedAt (fencing false true) 0 ((fencing false true).localPa localBase) 8 = false ∧
    (let s : State := { atLocal with held := [(atLocal.localPa localBase, [{ slot := 0, body := false, op := some (4, 0, 8) }])] }
     postedAt s 0 (s.localPa localBase) 8 = true) :=
  ⟨by decide +kernel, by decide +kernel, by decide +kernel, by decide +kernel, by decide +kernel, by decide +kernel,
    local_of (by decide +kernel), by decide +kernel, by decide +kernel⟩

/-- The load's thread at level F, whose page at the program is mapped and already touched. -/
def mapped : State :=
  let s := prog []
  let t := s.setThr (s.thr.wg 4 (BitVec.ofNat 64 (loadAddress + 64)))
  match loadRanges t false [(loadAddress + 64, 8)] with
  | .ok (t, _) => t
  | .error _ => t

/-- An access of 8 bytes at va is granted, stays where it is and is performed. -/
def granted (s : State) (va : Nat) (k : Access) (P : State × List Piece → Bool) : Bool :=
  okWith (threadAccess k [(va, 8)] s) (fun a => decide (travelTo s a.2 = none) && P a &&
    (if k = .store then okWith (performStores false a.2 (toBytes 8 (s.rg 0).toNat) a.1) (fun _ => true)
      else okWith (performLoads false a.2 a.1) (fun _ => true)))

theorem test_witness_MemoryFrame : Clear { tv := true, acq := true, cp := true } mapped ∧
    Clear { tv := true, rel := true, cp := true } mapped ∧
    loadAddress + 64 = (mapped.rg 4 + (0 : BitVec 10).signExtend 64 * 8).toNat ∧ mapped.held = [] ∧
    (∀ k ∈ [Access.load, .store], granted mapped (loadAddress + 64) k (fun _ => true) = true ∧
      granted atLocal localBase k (fun a => decide (a.1 = atLocal) && a.2.all (fun p => isScratch p.pa)) = true) :=
  ⟨clear_of (by decide +kernel), clear_of (by decide +kernel), by decide +kernel⟩

def arriving (queued : Bool) : State :=
  let m : Migrant := { thread := { user [] with pc := 0x40 }, source := 200 }
  { cores := [(3, if queued then { arrivals := [m] } else { incoming := [m] })] }

theorem test_witness_MigrationStarts : freeSlot (arriving false) 3 = some 24 ∧ (((arriving false).core 3).incoming.map (·.source)) = [200] ∧
    ((arriving false).core 3).arrivals = [] ∧ ((arriving false).cluster 0).stopped = false ∧
    freeSlot (arriving true) 3 = some 24 ∧ ((arriving true).core 3).arrivals.length = 1 := by decide +kernel

/-- The word at the start of the local window with this full/empty state. -/
def feWord (e : BitVec 2) : State := atLocal.setFe (atLocal.localPa localBase) e

theorem test_witness_FullEmptyResults :
    (∀ e : BitVec 2, LocalRange (feWord e) ((feWord e).rg 4).toNat 8 ∧ Clear { scope := true } (feWord e)) ∧
    (∀ e : BitVec 2, (feWord e).fe ((feWord e).localPa localBase) = e) ∧
    (feWord 3).rsvQueues = [] ∧ (feWord 3).held = [] ∧ (feWord 3).feLists = [] ∧ (feWord 3).thr.level = 0 ∧ (vectored 1 0).thr.level ≠ 0 :=
  ⟨fun e => ⟨local_of (by revert e; decide +kernel), clear_of (by revert e; decide +kernel)⟩, by decide +kernel⟩

/-- Slot 0 has the empty word before it, on which slot 1 waits with LDFE. -/
def awaited : State :=
  let s := feWord 1
  let pa := s.localPa localBase
  let w : FeWaiter := { slot := 1, body := false, word := pa, op := 1, d := 6, value := 0, va := BitVec.ofNat 64 localBase }
  { s.setThread 1 { user [] with wait := some (.fe pa) } with feLists := [((homeList s 0 pa).1, [w])] }

theorem test_witness_FullEmptyWaiters : LocalRange awaited (awaited.rg 4).toNat 8 ∧ Clear { scope := true } awaited ∧
    awaited.fe (awaited.localPa localBase) = 1 ∧ (awaited.thread 1).rep = none ∧ (awaited.thread 1).pending = [] ∧
    (awaited.feLists.map (fun e => (e.1, e.2.map (fun w => (w.slot, w.word, w.op))))) =
      [((homeList awaited (awaited.partOf 0) (awaited.localPa localBase)).1, [(1, awaited.localPa localBase, 1)])] ∧
    (feWord 1).empty ((feWord 1).localPa localBase) = true ∧ (feWord 0).empty ((feWord 0).localPa localBase) = false :=
  ⟨local_of (by decide +kernel), clear_of (by decide +kernel), by decide +kernel⟩

def monitored (pending written : Bool) : Thread :=
  { user [(4, BitVec.ofNat 64 localBase)] with
    monitors := (Vector.replicate 4 {}).set 0 { armed := true, line := 0xA0000000000, written := written }, wakePending := pending }

def reserved (rev : Bool) : State :=
  let s := slot { user [(4, BitVec.ofNat 64 localBase)] with
    rsv := some { word := 0xA0000000000, va := BitVec.ofNat 64 localBase, granted := true, revoked := rev } }
  { s with rsvQueues := if rev then [] else [(0xA0000000000, [0])], now := 5000 }

theorem test_witness_WaitsEndFromOutside :
    (∃ r, ((reserved false).thread 0).rsv = some r ∧ 4096 < (reserved false).now - r.since) ∧
    (∀ w ∈ [Wait.refused 1 0 8, .word 8 (some 8), .port 1 0 (some 8), .token 0 (some 8), .line 3 none (some 8), .way 3 (some 8), .fe 8],
      let s := { slot { user [] with wait := some w, waited := 2 ^ 40 } with
        feLists := [(3, [{ slot := 0, body := false, word := 8, op := 0, d := 1, value := 0, va := 8 }])] }
      s.thr.rep = none ∧ (s.thread 0).wait = some w ∧ exhausted s 0 s.thr.refusals s.thr.waited = true) ∧
    (let t := { monitored false false with wait := some (.monitor 5 (some 0)) }
     t.rep = none ∧ t.pending = [] ∧ (∃ i : Fin 4, t.monitors[i].armed = true) ∧
       ∀ i : Fin 4, t.monitors[i].armed = true → t.monitors[i].written = false) ∧
    grantedTo (reserved false) 0xA0000000000 = some 0 ∧ (reserved false).rsvQueues.get [] 0xA0000000000 = [0] ∧
    (reserved false).held.get [] 0xA0000000000 = [] :=
  ⟨⟨_, rfl, by decide⟩, by decide +kernel⟩

theorem test_witness_MonitorResults : atLocal.thr.monitors = Vector.replicate 4 {} ∧
    (∀ i : Fin 4, atLocal.thr.monitors[i].armed = false) ∧
    (let s := slot (monitored true true)
     s.thr.wakePending = true ∧ s.thr.monitors[(0 : Fin 4)].armed = true ∧ s.thr.monitors[(0 : Fin 4)].written = true ∧
       s.thr.monitors[(0 : Fin 4)].line = s.localPa (s.rg 4).toNat / 128 * 128 ∧
       ∀ j : Fin 4, j < 0 → s.thr.monitors[j].armed = false ∨ s.thr.monitors[j].written = false) ∧
    (let s := slot (monitored false false)
     (∃ i : Fin 4, s.thr.monitors[i].armed = true) ∧ s.thr.wakePending = false ∧
       ∀ j : Fin 4, j ≠ 0 → s.thr.monitors[j].line ≠ 0xA0000000000) := by decide +kernel

theorem test_witness_ReservationResults : LocalRange (reserved false) ((reserved false).rg 4).toNat 8 ∧
    Clear { scope := true } (reserved false) ∧ ((reserved false).rg 4).toNat % 8 = 0 ∧ atLocal.thr.rsv = none ∧
    ((reserved false).thr.rsv.map (fun r => (r.va, r.word, r.granted, r.revoked)) = some ((reserved false).rg 4,
      (reserved false).localPa ((reserved false).rg 4).toNat, true, false)) ∧ ((reserved true).thr.rsv.map (·.revoked)) = some true ∧
    (reserved false).held = [] ∧ (reserved true).thr.rsv.isSome = true ∧
    (let s := { atLocal with rsvQueues := [(0xA0000000000, [9])] }
     s.thr.rsv = none ∧ s.rsvQueues.get [] (s.localPa (s.rg 4).toNat) ≠ []) ∧
    poolUse atLocal (homeList atLocal 0 (atLocal.localPa localBase)).1 < 64 :=
  ⟨local_of (by decide +kernel), clear_of (by decide +kernel), by decide +kernel⟩

/-- RELC with this word after it, in the load's thread with a local window. -/
def beforeWord (w : Nat) : State :=
  let s := prog [0xA18C0040, w]
  s.setThr ({ s.thr with splen := 0x10000 }.wg 4 (BitVec.ofNat 64 localBase))

theorem test_witness_next_word : LocalRange (beforeWord 0x48000050) ((beforeWord 0x48000050).rg 4).toNat 8 ∧
    okWith (fetchAt false 0 ((beforeWord 0x48000050).thr.pc + 4) (beforeWord 0x48000050)) (fun a => field a.1 31 26 != 0x3F) = true ∧
    okWith (fetchAt false 0 ((beforeWord 0xFC000000).thr.pc + 4) (beforeWord 0xFC000000)) (fun a =>
      field a.1 31 26 == 0x3F && field a.1 25 24 != 3) = true ∧
    trapsWith (fetchAt false 0 (atLocal.thr.pc + 4) atLocal) 0x06 = true :=
  ⟨local_of (by decide +kernel), by decide +kernel⟩

/-- Sixty-four other slots hold a reservation whose home is that of the local window's first word. -/
def crowded (waited : Nat) : State :=
  let h := (homeList atLocal 0 (atLocal.localPa localBase)).1
  let r : Reservation := { word := 0xA0000000008, va := BitVec.ofNat 64 (localBase + 8), granted := true, home := h }
  { atLocal with
    threads := (0, { atLocal.thr with waited := waited }) :: (List.range 64).map (fun i => (128 + i, { user [] with rsv := some r })) }

theorem test_witness_full_pool : LocalRange (crowded 0) ((crowded 0).rg 4).toNat 8 ∧ Clear { scope := true } (crowded 0) ∧
    (crowded 0).rsvQueues = [] ∧ (crowded 0).held = [] ∧ (crowded 0).thr.rsv = none ∧
    64 ≤ poolUse (crowded 0) (homeList (crowded 0) ((crowded 0).partOf 0) ((crowded 0).localPa localBase)).1 ∧
    exhausted (crowded 0) 0 1 (crowded 0).thr.waited = false ∧ exhausted (crowded (2 ^ 40)) 0 1 (crowded (2 ^ 40)).thr.waited = true :=
  ⟨local_of (by decide +kernel), clear_of (by decide +kernel), by decide +kernel⟩

/-- A load with a memory order, behind an FEEMPTY of another word that the slot has left with its home. -/
def orderedLoad : State :=
  let s := modified 0x20000
  { s.setThr ({ s.thr with splen := 0x10000 }.wg 4 (BitVec.ofNat 64 localBase)) with
    held := [(8, [{ slot := 0, body := false, op := some (4, 0, 8) }])] }

theorem test_witness_LoadResults : Clear { tv := true, acq := true, cp := true } orderedLoad ∧
    field orderedLoad.thr.hints.hmod 18 17 ≠ 0 ∧ postedBy orderedLoad orderedLoad.cur = true ∧
    LocalRange orderedLoad (orderedLoad.rg 4).toNat 8 ∧ Clear { scope := true } leftBehind :=
  ⟨clear_of (by decide +kernel), by decide +kernel, by decide +kernel, local_of (by decide +kernel), clear_of (by decide +kernel)⟩

theorem test_witness_FarAtomicResults : LocalRange atLocal (atLocal.rg 4).toNat (width true / 8) ∧
    LocalRange atLocal (atLocal.rg 4).toNat (width false / 4) ∧ (atLocal.rg 4).toNat % (width false / 4) = 0 ∧
    Clear { scope := (0 : BitVec 2) != 0 } atLocal :=
  ⟨local_of (by decide +kernel), local_of (by decide +kernel), by decide +kernel, clear_of (by decide +kernel)⟩

/-- g6 is a misaligned address, of which the thread says that it holds a reservation. -/
def misheld : State :=
  let s := beforeWord 0x48000050
  s.setThr ({ s.thr with rsv := some { word := 0, va := BitVec.ofNat 64 (localBase + 3), granted := true } }.wg 6
    (BitVec.ofNat 64 (localBase + 3)))

theorem test_witness_AddressTraps : Clear {} atLocal ∧ (atLocal.rg 6).toNat % 8 ≠ 0 ∧ (atLocal.rg 6).toNat % (width true / 8) ≠ 0 ∧
    (atLocal.rg 6).toNat % (width false / 4) ≠ 0 ∧ atLocal.thr.rsv = none ∧ (Clear {} (vectored 1 0) ∧ (vectored 1 0).thr.level ≠ 0) ∧
    (Clear {} misheld ∧ (misheld.rg 6).toNat % 8 ≠ 0 ∧ (misheld.thr.rsv.map (·.va)) = some (misheld.rg 6) ∧
      okWith (fetchAt false misheld.cur (misheld.thr.pc + 4) misheld) (fun a => field a.1 31 26 != 0x3F) = true) ∧
    (let va := (atLocal.rg 5 + (1 : BitVec 10).signExtend 64 * 8).toNat
     localBase ≤ va ∧ va < 2 ^ 52 ∧ atLocal.thr.splen < va - localBase + 1) ∧
    Clear { tv := true, rel := true, cp := true } atLocal ∧ localSlot atLocal.cur ≠ 7 ∧ atLocal.thr.level = 0 ∧
    apertureTop ≤ (atLocal.rg 9).toNat ∧ (atLocal.rg 9).toNat < localBase ∧ 2 ^ 52 ≤ (atLocal.rg 10).toNat :=
  ⟨clear_of (by decide +kernel), by decide +kernel, by decide +kernel, by decide +kernel, by decide +kernel,
    ⟨clear_of (by decide +kernel), by decide +kernel⟩, ⟨clear_of (by decide +kernel), by decide +kernel⟩, by decide +kernel,
    clear_of (by decide +kernel), by decide +kernel⟩

theorem test_witness_OperandLimits : (12 : Nat) < (13 : Reg).toNat ∧ 6 ≤ (6 : BitVec 3).toNat ∧ isFloat 0 = false ∧
    widthRatio 9 10 ≤ (2 : BitVec 2).toNat ∧ (windowed true).thr.winMode = true ∧ (reserved true).thr.rsv.isSome = true ∧
    atLocal.thr.rep = none ∧ atLocal.thr.depth = 0 ∧ (slot { user [] with tstat := 0x30 }).thr.depth ≠ 0 ∧
    32 ≤ ((slot (user [(1, 32)])).rg 1).toNat ∧ (slot (user [(1, 32)])).thr.pending = [] ∧
    okWith (fetchBody false 0 ((repeated 0).thr.pc + 4) 2 (repeated 0)) (fun a =>
      okWith (fetchBody false 0 (a.2.thr.pc + 4) 2 a.2) (fun b => decide (b.2 = a.2) && !badBody b.1)) = true ∧
    badBody [0x48000050] = true := by decide +kernel

/-! ### Engines: 09, 10, 07 -/

/-- A thread of the supervisor, which may use the Ox, with the local window at g4 and a pitch of 256 in g5. -/
def matrix : State :=
  slot { user [(4, BitVec.ofNat 64 localBase), (5, 256), (6, BitVec.ofNat 64 (localBase + 0x8000))] with tstat := 0x11 }

def rowsAt (s : State) (i : Nat) : Nat := (s.rg 4 + BitVec.ofNat 64 i * s.rg 5).toNat

/-- A fill of one block a row, an MMA behind it, or an MMA that runs; leave held as said. -/
def filling : OxCmd := .fill 0 false 0 false (BitVec.ofNat 64 localBase) 64 0 1
def product (started : Bool) : OxCmd := .mma 2 0 1 5 0 none started
def oxWith (q : List OxCmd) (leave : Bool) (idle : Nat) : State :=
  { matrix with clusters := [(0, { ox := { queue := q, leave := leave, leaveIdle := idle,
                                           transfers := [{ tile := 3, slot := 0, body := false }] } })] }

theorem test_witness_MatrixInstructions : Clear {} matrix ∧ (∀ i < 64, LocalRange matrix (rowsAt matrix i) 256) ∧ oxDenied matrix = false ∧ oxDenied atLocal = true ∧
    (let s := slot { user [] with tstat := 0x31 }
     oxDenied s = false ∧ s.thr.depth ≠ 0) ∧ matrix.thr.depth = 0 ∧ (matrix.ox 0).queue.length < 32 ∧ waitsIn matrix 0 = [] ∧
    matrix.thr.wait = none ∧ (matrix.rg 4).toNat % 64 = 0 ∧ (matrix.rg 5).toNat % 64 = 0 ∧ (matrix.rg 6).toNat % 16 = 0 ∧
    (matrix.ox 0).held 3 = false ∧ ({ transfers := [{ tile := 3, slot := 0, body := false }] : Ox }).held 3 = true ∧
    matrix.rsvQueues = [] ∧ matrix.held = [] ∧ postedBy matrix matrix.cur = false ∧
    ((oxWith [] false 0).ox 0).held 3 = true ∧ oxDenied (oxWith [] false 0) = false ∧ (oxWith [] false 0).thr.depth = 0 ∧
    (∀ i < 64, ∀ k < 64, i ≠ k → rowsAt matrix i + 256 ≤ rowsAt matrix k ∨ rowsAt matrix k + 256 ≤ rowsAt matrix i) :=
  ⟨clear_of (by decide +kernel), fun i h => local_of (by revert i; decide +kernel), by decide +kernel⟩

/-- The local window's blocks hold descriptors of int8, so the fill takes them. -/
theorem test_witness_MatrixEvents :
    nextCmd OxCmd.isFill [] ((oxWith [filling] false 0).ox 0).queue = some filling ∧
    ((oxWith [filling] false 0).thread 0).rep = none ∧
    ((oxWith [product false] true 0).ox 0).nextMma = some (product false) ∧ ((oxWith [product false] true 0).ox 0).leave = true ∧
    ((oxWith [filling, product true] true 0).ox 0).queue = [filling] ++ product true :: [] ∧ filling.isFill = true ∧
    ((oxWith [product false] false 0).ox 0).leave = false ∧ ((oxWith [product false] false 0).ox 0).nextMma.isSome = true ∧
    (∀ d ∈ ((oxWith [filling] true 256).ox 0).queue, d.isFill = true) ∧ 256 ≤ ((oxWith [filling] true 256).ox 0).leaveIdle ∧
    ((oxWith [] true 0).ox 0).transfers = [{ tile := 3, slot := 0, body := false }] := by decide +kernel

def described : State :=
  let s := oxWith [filling] false 0
  { s with side := (List.range 64).map (fun i => (0xA0000000000 / 64 + i, 0x7F10)) }

theorem test_witness_performFill :
    okWith (performFill (ctxOf described 0) false false (BitVec.ofNat 64 localBase) 64 0 1 (asStream 0 false described))
      (fun a => a.1 == asStream 0 false described) = true := by decide +kernel

/-- A quad in g8 to g11: 32 bytes from the start of the local window to 0x100 on; g3 a completion object. -/
def copying (n : Word) : State :=
  slot (user [(8, BitVec.ofNat 64 localBase), (9, BitVec.ofNat 64 (localBase + 0x100)), (10, n),
    (3, BitVec.ofNat 64 (localBase + 0x200)), (12, 0)])

def moving (status : Option (Int × Word)) (comp : Word) : CopyCmd :=
  { fn := 0, number := 0, slot := 0, unit := none, task := none, comp := comp, status := status
    quad := #v[BitVec.ofNat 64 localBase, BitVec.ofNat 64 (localBase + 0x100), 32, 0]
    ctx := { (copying 32).ctx with agent := none } }

def muled (m : CopyCmd) : State := { copying 32 with clusters := [(0, { mule := [m] })] }

theorem test_witness_CopyResults : Clear {} (copying 32) ∧ (copying 32).rg 0 = 0 ∧ ((copying 32).rg 3).toNat % 16 = 0 ∧
    LocalRange (copying 32) ((copying 32).rg 3).toNat 16 ∧ (moving none 0).refused = false ∧
    ({ moving none 0 with quad := #v[0, 0, 0x10000000000, 0] } : CopyCmd).refused = true ∧ muleRoom (copying 32) 0 = true ∧
    muleRoom { copying 32 with clusters := [(0, { mule := List.replicate 8 (moving none 0) })] } 0 = false ∧
    ({ moving none 0 with fn := 4, quad := #v[0, 5, 1, 0] } : CopyCmd).refused = false ∧ postedBy (copying 32) 0 = false :=
  ⟨clear_of (by decide +kernel), by decide +kernel, by decide +kernel, local_of (by decide +kernel), by decide +kernel⟩

theorem test_witness_muleEvents :
    (let m := moving none 0
     m.ctx.cluster = 0 ∧ m.ctx.localOpen = true ∧ m.ctx.spbase + m.ctx.splen ≤ 0x400000 ∧ 0 < field m.quad[2] 39 0 ∧
       localBase ≤ m.quad[0].toNat ∧ m.quad[0].toNat - localBase + 32 ≤ m.ctx.splen ∧ m.quad[0].toNat % 64 + 32 ≤ 64 ∧
       m.quad[1].toNat - localBase + 32 ≤ m.ctx.splen ∧ m.quad[0].toNat + 32 ≤ m.quad[1].toNat ∧ (muled m).side = []) ∧
    (let m := moving (some (32, 0)) (BitVec.ofNat 64 (localBase + 0x200))
     m.comp ≠ 0 ∧ ((muled m).cluster 0).muleHeld = none ∧
       okWith (engineStore m.ctx 0 (m.comp.toNat + 8) (toBytes 8 0) (setMuleHeld 0 none (muled m))) (fun s1 =>
       okWith (engineStore m.ctx 0 m.comp.toNat (toBytes 8 32) s1) (fun s2 => decide (s2.mule 0 = [m]))) = true) := by
  decide +kernel

/-- Buffer 5 of cluster 0, of four slots of 64 bytes, of the thread's domain. -/
def buffer (filled free held resv : Nat) (eng : Bool) : State :=
  { slot (user [(1, 5), (2, 256), (3, 0x0004000100000000), (4, 0x0004000100000020), (6, 0xFFFF000100000000),
      (7, BitVec.ofNat 64 (localBase + 64 * ((4 - resv) % 4)))]) with
    clusters := [(0, { bufs := [(5, { live := true, eng := eng, size := 64, slots := 4, filled := filled, free := free,
                                      held := held, resv := resv })] })] }

theorem test_witness_BufferResults : 256 ≤ ((buffer 0 4 0 0 false).rg 2).toNat ∧
    (let s := buffer 2 1 1 0 false
     let b := s.buffer 0 5
     (s.rg 1).toNat = 5 ∧ s.thr.wait = none ∧ b.live = true ∧ b.dom = s.thr.dom ∧ s.threads.all (fun e => e.2.wait.isNone) = true ∧
       0 < b.filled ∧ (slotAddress s.ctx b b.rd).isSome = true ∧
       (slotAddress s.ctx b b.wr).isSome = true ∧ 0 < b.held ∧ b.released = []) ∧
    (let s := buffer 0 0 3 1 false
     let b := s.buffer 0 5
     b.filled = 0 ∧ b.free = 0 ∧ 0 < b.resv ∧ b.done = [] ∧ b.task = none ∧
       slotOfAddress s.ctx b (s.rg 7) = some ((b.wr + b.slots - b.resv) % b.slots)) ∧
    ((buffer 0 4 0 0 true).buffer 0 5).eng = true ∧
    (let s := slot (user [(1, 255)])
     (s.buffer 0 255).live = false ∧ (s.rg 1).toNat < 256 ∧ s.ctx.localOpen = true ∧ (s.part s.ctx.part).portNoticed = false ∧
       postedBy s s.cur = false ∧ (slot { s.thr with tstat := 0x30 }).ctx.localOpen = false) ∧
    (let s := buffer 0 4 0 0 false
     let bad (x : Word) := field x 21 0 % 64 ≠ 0 ∨ field x 47 32 * 64 = 0 ∨ 65536 < field x 47 32 * 64 ∨ field x 63 48 = 0 ∨
       4096 < field x 63 48 ∨ field x 31 23 ≠ 0
     ¬bad (s.rg 3) ∧ bad (s.rg 4) ∧ bad (s.rg 6) ∧ field (s.rg 3) 47 32 * 64 * field (s.rg 3) 63 48 ≤ s.ctx.splen) ∧
    (let s := slot { user [(1, 5)] with dom := 3 }
     (s.buffer 0 5).live = false) ∧
    (let s := { buffer 0 4 0 0 false with threads := [(0, { user [(1, 5)] with dom := 3 })] }
     (s.buffer 0 5).live = true ∧ (s.buffer 0 5).dom ≠ s.thr.dom) := by decide +kernel

theorem test_witness_waiting_CBRES :
    (let s := { buffer 0 0 4 0 false with threads := [(0, { user [(1, 5)] with hints := { hmods := [0x200] } })] }
     Clear { wait := true } s ∧ s.waitHint = true ∧ s.held = [] ∧ (s.buffer 0 5).live = true ∧ (s.buffer 0 5).free = 0) :=
  ⟨clear_of (by decide +kernel), by decide +kernel⟩

/-- The load's thread with a local window, and a stash entry and a tensor of its domain; g1 and g2 name them. -/
def stashed : State :=
  let s := prog []
  let s := s.setThr (({ s.thr with splen := 0x10000 }.wg 4 (BitVec.ofNat 64 localBase)).wg 1 3)
  let s := s.setThr (((s.thr.wg 5 0x60000).wg 6 0x1000).wg 7 9)
  let s := s.setPart 0 { s.part 0 with tensors := [(3, { base := 0, pa := 0, pitch := 128, rows := 1, tileRows := 1, tileWidth := 128, dom := 0 })] }
  s.setCluster 0 { s.cluster 0 with stash := [(3, { live := true, dom := 0, va := 0x40000, len := 4096 })] }

/-- The same without the entry and the tensor, its page touched. -/
def bare : State :=
  let s := stashed.setCluster 0 { stashed.cluster 0 with stash := [] }
  let s := s.setPart 0 { s.part 0 with tensors := [] }
  match access s s.ctx 0x60000 8 .load with
  | .ok (t, _) => t
  | .error _ => s

theorem test_witness_DescriptorStashTensorResults : Clear {} stashed ∧ LocalRange bare (bare.rg 4).toNat 4096 ∧
    (stashed.rg 4).toNat % 4096 = 0 ∧
    (let e := (stashed.cluster 0).stash.get {} (stashed.rg 1).toNat
     e.live = true ∧ e.dom = stashed.thr.dom) ∧
    ((stashed.cluster 0).stash.get {} (stashed.rg 7).toNat).live = false ∧
    okWith (rangeOf bare bare.ctx 0x60000 4096 .load) (fun ps => okWith (ordCheck bare ps) (fun _ => true) &&
      okWith (charge bare.ctx .load ps bare) (fun t => t == bare) && contiguous ps &&
        (match ps with | q :: _ => linesHeld bare q.pa 4096 == [] | [] => false)) = true ∧
    okWith (({ va := 0x60000, len := 4096, dom := bare.thr.dom } : StashEntry).translate bare bare.ctx) (fun ps =>
      okWith (charge bare.ctx .load ps bare) (fun t => t == bare)) = true ∧
    mappedPieces bare bare.ctx 0x20000000 4096 .load = [] ∧
    heldLines stashed 2048 (fun _ _ => true) (((stashed.cluster 0).stash.get {} 3).pages.map (fun q => (q.pa, q.len))) = [] ∧
    (bare.rg 5).toNat = 0x60000 ∧ (bare.rg 6).toNat = 4096 ∧
    ((stashed.part 0).tensors.find? (fun e => e.1 == (stashed.rg 1).toNat && (e.2.dom == stashed.thr.dom || decide (1 ≤ stashed.thr.level)))).isSome
      = true ∧ 7 < (stashed.rg 7).toNat ∧ (stashed.rg 1).toNat ≤ 7 ∧ (∀ e ∈ (stashed.part 0).tensors, e.1 ≠ (stashed.rg 7).toNat) :=
  ⟨clear_of (by decide +kernel), local_of (by decide +kernel), by decide +kernel⟩

/-- A record of a tensor with these four words, at the start of the local window. -/
def tensorAt (w0 w1 w2 w3 : Word) : State :=
  let a := 0xA0000000000
  (((bare.write64 a w0).write64 (a + 8) w1).write64 (a + 16) w2).write64 (a + 24) w3

theorem test_witness_tensors :
    (let s := tensorAt 0x60000 128 0x0080000100000008 255
     s.byteNat (s.localPa localBase) 8 = 0x60000 ∧ s.byteNat (s.localPa (localBase + 24)) 8 < 256 ∧ (s.part 0).tensors = [] ∧
       okWith (rangeOf s s.ctx 0x60000 1024 .load) (fun ps => okWith (ordCheck s ps) (fun _ => true) &&
         okWith (charge s.ctx .load ps s) (fun t => t == s) && contiguous ps && ps.head?.isSome) = true) ∧
    (let s := tensorAt 0 100 0 511
     256 ≤ s.byteNat (s.localPa (localBase + 24)) 8 ∧ s.byteNat (s.localPa (localBase + 24)) 8 < 512 ∧
       s.byteNat (s.localPa (localBase + 8)) 8 % 128 ≠ 0) ∧
    (let s := tensorAt 0 0 0 512
     512 ≤ s.byteNat (s.localPa (localBase + 24)) 8) := by decide +kernel

/-! ### What meets the hypotheses of the statements: gates, tasks, launches (13, 15) -/

/-- A word put in its place among words by rising address. -/
def putWord (e : Nat × Nat) : List (Nat × Nat) → List (Nat × Nat)
  | [] => [e]
  | f :: r => if e.1 < f.1 then e :: f :: r else if e.1 = f.1 then e :: r else f :: putWord e r

/-- The memory that holds these words, by rising address. -/
def cells (l : List (Nat × Nat)) : List Host.Cell :=
  l.flatMap (fun e => (List.range 8).filterMap (fun i =>
    if e.2 / 2 ^ (8 * i) % 256 = 0 then none else some (e.1 + i, BitVec.ofNat 8 (e.2 / 2 ^ (8 * i)))))

/-- The load of log entry 6 with the words of l over these: a handle table, a gate table, domain 1 live with gate 2 and a pool. -/
def gateWords (l : List (Nat × Nat)) : List (Nat × Nat) :=
  l.foldl (fun m e => putWord e m) [(0x0, 0x10040), (0x8, 0x10000), (0x10, 0x1000), (0x80, 1), (0x90, 1), (0x1000, 1),
    (0x1008, 0x30000), (0x1010, 0x62000), (0x1018, 0x66000), (0x1030, 0x10000000000), (0x1100, 1), (0x1108, 0x30000),
    (0x1110, 0x67000), (0x1118, 0x64000), (0x10000, 0x20001), (0x20000, 0x20F), (0x30000, 0x40001), (0x40000, 0x39F),
    (0x62010, 0x2001FFFF0001), (0x62018, 5), (0x64080, 0x51000), (0x64088, 1), (0x64090, 100), (0x64098, 0x68000),
    (0x640A0, 0x52000), (0x640A8, 0x700000009), (0x640B0, 0x30000001000), (0x640B8, 0x50001), (0x68000, 1), (0x68018, 1),
    (0x68040, 0x70000)]

/-- The load's thread at level U with a handle 1 on gate 2 of domain 1, whose pool holds one stack, and words over that. -/
def gated (l : List (Nat × Nat)) (f : Thread → Thread) : State :=
  let t : Thread := { loadThread with tstat := 0x10, dsp := 0x80000, splen := 0x10000 }
  { threads := [(0, f (((t.wg 1 1).wg 2 0x60000).wg 3 0x10000000100))], mem := cells (gateWords l), clusters := [(0, { part := some 0 })]
    parts := [(0, { record := some 0 })] }

/-- What GCALL reads: of the handle, of the gate, of its domain. -/
def gateReads (s : State) (P : Word → Word → Word → Word → Word → Word → Word → Word → Bool) : Bool :=
  okWith (handleEntry s 0 s.thr.dom (s.rg 1)) (fun h =>
    let dom : BitVec 12 := h.1.extractLsb' 32 12
    okWith (gateIpa s 0 dom (field h.1 51 44)) (fun g => decide (g = 0x64080) && okWith (ipaLoad s 0 (g + 0x38)) (fun slot =>
      okWith (ipaLoad s 0 (g + 8)) (fun rights => okWith (ipaLoad s 0 (s.domIpa 0 dom 0)) (fun state =>
        okWith (ipaLoad s 0 (g + 0x10)) (fun minslice => okWith (ipaLoad s 0 (g + 0x30)) (fun winmax =>
          okWith (ipaLoad s 0 (g + 0x18)) (fun pool => okWith (ipaLoad s 0 g) (fun _ =>
            P h.1 h.2 slot rights state minslice winmax pool)))))))))

/-- A valid handle, and the checks after it. -/
def gateChecks (s : State) (live depth long win : Bool) : Bool :=
  gateReads s (fun e gen slot rights state minslice winmax _ =>
    decide (field e 1 0 = 1 ∧ e.getLsbD 16 = true ∧ field slot 1 0 = 1 ∧ field slot 31 16 = field gen 15 0 ∧
      entryRights e &&& field rights 15 0 = field rights 15 0) &&
    (decide (field state 1 0 = 1) == live) && (decide (s.thr.depth ≠ 7) == depth) &&
    (decide (s.thr.sliceOn = true ∧ s.thr.remain < field minslice 31 0) == long) &&
    ((callWindow s winmax (s.rg 2) (s.rg 3)).isSome == win))

theorem test_witness_gate_checks :
    okWith (handleEntry (gated [] (·.wg 1 7)) 0 0 7) (fun e => decide (field e.1 1 0 ≠ 1)) = true ∧
    gateReads (gated [(0x640B8, 0x60001)] id) (fun _ gen slot _ _ _ _ _ => decide (field slot 31 16 ≠ field gen 15 0)) = true ∧
    gateChecks (gated [(0x1100, 2)] id) false true false true = true ∧
    gateChecks (gated [] (fun t => { t with tstat := 0xF0 })) true false false true = true ∧
    gateChecks (gated [] (fun t => { t with slice := 0x100000063 })) true true true true = true ∧
    gateChecks (gated [] (·.wg 3 0x10000001001)) true true false false = true ∧
    gateChecks (gated [] (fun t => { t with slice := 0x100000064 })) true true false true = true := by decide +kernel

theorem test_witness_gate_entered : Clear {} (gated [] id) ∧ (gated [] id).thr.rsv = none ∧ (gated [] id).feLists = [] ∧
    okWith (unlessFault (poolHeader (gated [(0x68020, 1)] id) 0 1 0x68000)) (· == none) = true ∧
    okWith (unlessFault (poolHeader (gated [(0x68000, 0)] id) 0 1 0x68000)) (· == some (0, 1)) = true ∧
    okWith (unlessFault (poolHeader (gated [] id) 0 1 0x68000)) (· == some (0 + 1, 1)) = true ∧
    (okWith (unlessFault (poolTake (gated [] id) 0 1 0x68000)) (fun r => r.any fun x => x.1 == 0x70000 &&
      okWith (enterGate x.2 1 2 0x50001 0x51000 x.1 (0x60000, 0x10000000100) 0x64080) (fun u => u.thr.depth == 1))) = true :=
  ⟨clear_of (by decide +kernel), by decide +kernel⟩

/-- The thread inside gate 2 of domain 1, called at depth 0, with the frame of R289. -/
def inGate (l : List (Nat × Nat)) (f : Thread → Thread) : State :=
  gated ([(0x80000, 0x5000100021000), (0x80008, 0x50004), (0x80010, 0x10), (0x80018, 0x60000), (0x80020, 0x10000000100),
    (0x80028, 0x70000), (0x68000, 0), (0x1148, 1), (0x1150, 1), (0x640B8, 0x100050001)] ++ l)
    (fun t => f { t with tstat := 0x30, dsp := 0x80080, dom := 1, pc := 0x51000 })

theorem test_witness_gate_return : Clear {} (inGate [] id) ∧ (inGate [] id).thr.rsv = none ∧ (inGate [] id).thr.depth = 1 ∧
    (inGate [] id).thr.unwind = none ∧ (inGate [] id).feLists = [] ∧
    (let s := inGate [] id
     okWith (frameWord s s.cur 1 0) (fun w => !frameOrphan w &&
       (let s1 := s.setThr s.thr.disarm.wentOn
        let s2 := s.setThr s.thr.wentOn
        decide (s2 = s1) && okWith (frameWord s1 s.cur 1 0) (· == w) && okWith (endFrame s.cur s1) (fun u => u.thr.depth == 0) &&
          okWith (frameWord s1 s.cur 1 8) (· == 0x50004) && okWith (frameWord s1 s.cur 1 0x10) (· == 0x10))) = true) :=
  ⟨clear_of (by decide +kernel), by decide +kernel⟩

theorem test_witness_unwinding :
    (let u : Unwind := { target := some 1, running := true, frame := 1 }
     let s := inGate [(0x1100, 0)] (fun t => { t with unwind := some u })
     let s1 := withdraw 0 s
     (s.thread 0).unwind = some u ∧ (s1.thread 0).unwind = some u ∧ (s.thread 0).budgetOver = true ∧ u.dying = false ∧
       u.target = some 1 ∧ u.orphan = false ∧ u.outer = [] ∧ u.frame ≠ 0 ∧ u.frame = (s1.thread 0).depth ∧
       okWith (endFrame 0 (quit 0 { s1 with cur := 0 })) (fun s2 => (s2.thread 0).unwind == some u && s2.held == [] &&
         decide ((s2.thread 0).depth < 1)) = true) ∧
    (let u : Unwind := { orphan := true }
     let s := inGate [] (fun t => { t with unwind := some u })
     let s1 := withdraw 0 s
     (s.thread 0).unwind = some u ∧ (s1.thread 0).unwind = some u ∧ (s.thread 0).graceOver = true ∧ u.unread = false ∧ s1.held = [] ∧
       okWith (unwindEntry 0 s1) (fun e => e.1 == 0x52000 && e.2 == 9) = true) := by
  decide +kernel

theorem test_witness_dinfo : Clear {} (gated [] id) ∧ (gated [] id).thr.depth = 0 ∧ (inGate [] id).thr.depth ≠ 0 ∧
    okWith (frameWord (inGate [] id) 0 1 0) (fun _ => true) = true ∧ Clear {} (inGate [] id) ∧
    okWith (frameWord (inGate [] id) 0 1 0x20) (fun _ => true) = true ∧
    okWith (ipaLoad (gated [] id) 0 ((gated [] id).domIpa 0 0 0x40)) (fun _ => true) = true ∧
    okWith (ipaLoad (gated [] id) 0 ((gated [] id).domIpa 0 0 0x48)) (fun _ => true) = true ∧ ((10 : Word).toNat > 9) :=
  ⟨clear_of (by decide +kernel), by decide +kernel, by decide +kernel, by decide +kernel, clear_of (by decide +kernel),
    by decide +kernel, by decide +kernel, by decide +kernel, by decide⟩

/-- Gate slot g[6] = 3 of the own domain with a status word, and g[5] the descriptor's place, in the local window. -/
def publishing (slot w0 : Nat) (f : Thread → Thread) : State :=
  gated [(0x660F8, slot), (0xA0000000000, w0)] (fun t => f ((t.wg 5 (BitVec.ofNat 64 localBase)).wg 6 3))

theorem test_witness_GPUB : LocalRange (publishing 0 0 id) ((publishing 0 0 id).rg 5).toNat 64 ∧ ((publishing 0 0 id).rg 5).toNat % 64 = 0 ∧
    postedBy (publishing 0 0 id) (publishing 0 0 id).cur = false ∧
    (let s := publishing 0 0 id
     okWith (gateIpa s 0 0 3) (fun g => okWith (ipaLoad s 0 (g + 0x38)) (fun slot => field slot 1 0 == 0)) = true ∧
       badDescriptor (s.wordsAt (s.localPa localBase) 64) = false ∧
       okWith (placeHandle s 0 0 0x3000FF030001 1) (fun r => r.any (fun x => x.1 == 0 &&
         okWith (gateIpa s 0 0 3) (fun g => okWith (ipaStores x.2 0 g [0, 0, 0, 0, 0, 0, 0, 0x10001]) (fun _ => true)))) = true) ∧
    (let s := publishing 1 0 id
     okWith (gateIpa s 0 0 3) (fun g => okWith (ipaLoad s 0 (g + 0x38)) (fun slot => field slot 1 0 != 0)) = true) ∧
    (let s := publishing 0 2 id
     badDescriptor (s.wordsAt (s.localPa localBase) 64) = true) ∧
    okWith (emptyHandle (gated [(0x62000, 1)] id) 0 0x62000 1 0) (fun r => r.isNone) = true :=
  ⟨local_of (by decide +kernel), by decide +kernel, by decide +kernel, by decide +kernel⟩

theorem test_witness_GREV : (publishing 0 0 id).thr.level = 0 ∧ (publishing 0 0 id).rg 6 = 3 ∧ 3 < (4 : Word).toNat ∧
    (let s := publishing 0x200050001 0 id
     okWith (gateIpa s 0 0 3) (fun g => okWith (ipaLoad s 0 (g + 0x38)) (fun slot => field slot 1 0 == 1 && field slot 47 32 == 2 &&
       okWith (ipaStore s 0 (g + 0x38) (setField slot 1 0 2)) (fun _ => true))) = true) ∧
    (let s := publishing 2 0 id
     okWith (gateIpa s 0 0 3) (fun g => okWith (ipaLoad s 0 (g + 0x38)) (fun slot => field slot 1 0 == 2 &&
       okWith (ipaStore s 0 (g + 0x38) (setField slot 1 0 1)) (fun _ => true))) = true) ∧
    (let s := publishing 0 0 (fun t => { t with tstat := 0x11 })
     s.thr.level ≠ 0 ∧ okWith (ipaLoad s 0 (s.domIpa 0 1 0)) (fun x => field x 1 0 == 1 &&
       okWith (ipaStore s 0 (s.domIpa 0 1 0) (setField x 1 0 2)) (fun _ => true)) = true ∧
       okWith (ipaLoad s 0 (s.domIpa 0 5 0)) (fun x => field x 1 0 != 1) = true) := by decide +kernel

theorem test_witness_HGIVE_HDROP :
    (let s := gated [] id
     okWith (handleEntry s 0 0 1) (fun e => decide (field e.1 1 0 ≠ 0) && bit e.1 17 &&
       okWith (ipaLoad s 0 (s.domIpa 0 1 0)) (fun x => field x 1 0 == 1 &&
         okWith (placeHandle s 0 1 e.1 e.2) (fun r => r.isSome))) = true ∧
     okWith (handleIpa s 0 0 1) (fun r => r.any (fun a => okWith (ipaStores s 0 a [0, 0]) (fun _ => true))) = true ∧
     okWith (handleEntry s 0 0 2) (fun e => decide (field e.1 1 0 = 0)) = true ∧ 1024 ≤ (1024 : Word).toNat ∧
     okWith (ipaLoad s 0 (s.domIpa 0 2 0)) (fun x => field x 1 0 != 1) = true) := by decide +kernel

/-- Core 0 with tasks 1 to 4, task 1 with port 0 at buffer 5, of `free` and `filled` slots; handle 2 names the port. The thread
is that of task 1 where said; g4 is the local window. -/
def tasked (free filled : Nat) (cur : Bool) (f : Thread → Thread) : State :=
  let s := gated [(0x62020, 0x60002), (0x62028, 0x500000800)]
    (fun t => f { (t.wg 4 (BitVec.ofNat 64 localBase)).wg 1 2 with task := if cur then some 1 else none })
  { s with
    cores := [(0, { tasks := [(1, { gen := 5, state := .current, slot := some 0, ports := #v[some { buf := 5 }, none, none, none] }),
      (2, { state := .idle, prio := 1 }), (3, { state := .queued, prio := 2 }), (4, { state := .parked })], ready := [(2, [3])] })]
    clusters := [(0, { part := some 0, allocs := [(0, 0x10000)], bufs := [(5,
      { live := true, base := 0x8000, size := 64, slots := 2, free := free, filled := filled, rd := 1, wr := 1 - free / 2
        tokens := [0], port := true, task := some (0, 1) })] })] }

theorem test_witness_ports : Clear { wait := true } (tasked 1 1 false id) ∧
    (let s := tasked 0 2 false (fun t => { t with hints := { hmods := [0x200] } })
     Clear { wait := true } s ∧ s.waitHint = true ∧ s.held = [] ∧
       okWith (portTarget s 2 false) (fun r => match r with | .error _ => false | .ok y => y == (0, 0, 5)) = true) ∧
    (tasked 1 1 false id).waitHint = false ∧ postedBy (tasked 1 1 false id) 0 = false ∧
    (tasked 1 1 false id).threads.all (fun e => e.2.wait.isNone) = true ∧
    (tasked 1 1 false id).thr.depth = 0 ∧
    okWith (portTarget (tasked 1 1 false id) 1 true) (fun r => match r with | .error x => x == 3 | .ok _ => false) = true ∧
    (∀ e, okWith (portTarget (tasked 1 1 false id) 2 e) (fun r => match r with | .error _ => false | .ok y => y == (0, 0, 5)) = true) ∧
    (let b := (tasked 0 2 false id).buffer 0 5
     b.free = 0) ∧
    (let b := (tasked 1 1 false id).buffer 0 5
     0 < b.free ∧ b.resv = 0 ∧ b.done = [] ∧ b.wr < b.slots ∧ scratchBase 0 + b.base + b.wr * b.size + 64 ≤ 2 ^ 44) ∧
    ownPort (tasked 1 1 true id) 1 = none ∧ ownPort (tasked 1 1 true id) 0 = some 5 ∧ ((tasked 2 0 true id).buffer 0 5).filled = 0 ∧
    (let b := (tasked 1 1 true id).buffer 0 5
     0 < b.filled ∧ b.held = 0 ∧ b.released = [] ∧ b.rd < b.slots ∧ b.tokens.contains b.rd = false ∧
       scratchBase 0 + b.base + b.rd * b.size + 64 ≤ 2 ^ 44) :=
  ⟨clear_of (by decide +kernel), ⟨clear_of (by decide +kernel), by decide +kernel⟩, by decide +kernel⟩

/-- A spawn record of one port at the start of the local window, with a word of it changed. -/
def spawning (w : Nat × Nat) : State :=
  let s := tasked 1 1 false (·.wg 5 (-1))
  { s with mem := s.mem ++ cells (putWord w [(0xA0000000000, 0x51000), (0xA0000000018, 64), (0xA0000000020, 1),
    (0xA0000000030, 0xA01000 % 0x1000 + 0x400 + localBase)]) }

theorem test_witness_TSPAWN : ((tasked 1 1 false id).rg 3).toNat % 64 = 0 ∧ ((tasked 1 1 false id).rg 1).toNat % 64 ≠ 0 ∧
    LocalRange (spawning (0xA0000000000, 0x51000)) ((spawning (0xA0000000000, 0x51000)).rg 4).toNat 64 ∧
    (let s := spawning (0xA0000000000, 2)
     badSpawn (s.wordsAt (s.localPa localBase) 64) = true) ∧
    (let s := spawning (0xA0000000000, 0x51000)
     let w := s.wordsAt (s.localPa localBase) 64
     badSpawn w = false ∧ (localBase ≤ (w 6).toNat ∧ (w 6).toNat - localBase + 512 ≤ s.thr.splen) ∧ s.rg 5 = -1 ∧
       coreOf s.cur < 2048 ∧ (s.cluster 0).part.isSome = true ∧
       okWith (domainDenied s 0 s.thr.level s.thr.dom ((w 2).extractLsb' 0 12)) (fun x => !x) = true ∧ (w 2).getLsbD 14 = false ∧
       (List.range 32).find? (fun id => (s.task 0 id).state == .free) = some 0 ∧ freeRange s 0 (field (w 3) 22 0) = some 0x10000 ∧
       (spawnPorts w).length ≤ (freeBuffers s 0 (spawnPorts w).length).length ∧ (∀ i < 4, spawnHandle w i = false) ∧
       okWith (spawn 0 0 0x10000 (freeBuffers s 0 (spawnPorts w).length) localBase w [] s) (fun u => (u.task 0 0).state == .queued) = true) :=
  ⟨by decide +kernel, by decide +kernel, local_of (by decide +kernel), by decide +kernel⟩

theorem test_witness_tasks : namedPorts (tasked 1 1 true id) 16 = none ∧ namedPorts (tasked 1 1 true id) 2 = none ∧
    namedPorts (tasked 1 1 true id) 1 = some [(0, 5)] ∧ (tasked 1 1 true id).thr.task = some 1 ∧
    ((tasked 2 0 true id).buffer 0 5).filled = 0 ∧ ((tasked 1 1 true id).buffer 0 5).filled = 1 ∧
    (let up (t : Thread) : Thread := { t with tstat := 0x11 }
     let s := tasked 1 1 false up
     s.thr.level ≠ 0 ∧ (tasked 1 1 false id).thr.level = 0 ∧ (s.task 0 5).state = .free ∧ (s.task 0 2).state = .idle ∧
       (s.task 0 3).state = .queued ∧ (s.task 0 4).state = .parked ∧ s.thr.task = none ∧ readyHead (s.core 0) = some (2, 3) ∧
       readyHead ((gated [] up).core 0) = none ∧ (gated [] up).thr.task = none ∧ localSlot s.cur ≠ 7 ∧ s.thr.rsv = none ∧
       (s.rg 1).toNat < 32) ∧
    (let s := tasked 1 1 true (fun t => { t.wg 1 1 with tstat := 0x11 })
     s.thr.level ≠ 0 ∧ (s.rg 1).toNat = 1 ∧ (s.task 0 1).state = .current ∧ (s.task 0 1).slot = some s.cur ∧ s.thr.task = some 1 ∧
       s.thr.taskSwitch = none ∧ (∀ e ∈ (s.core 0).ready, 1 ∉ e.2) ∧ (∀ e ∈ (s.core 0).ready, 2 ∉ e.2) ∧ s.thr.rsv = none ∧
       localSlot s.cur ≠ 7) ∧
    (let others (s : State) := (List.range 8).filter (fun i => i != localSlot s.cur && slotReady s (coreOf s.cur * 8 + i))
     let s := gated [] id
     others s = [] ∧ others { s with threads := s.threads ++ [(2, { s.thr with pc := 0x60000 })] } = [2]) ∧
    ({ timerDue := true } : Thread).timerDue = true ∧ ({ slice := 0x100000000 } : Thread).sliceOn = true ∧
    ({ slice := 0x100000000 } : Thread).remain = 0 := by decide +kernel

/-- A launch record in the local window, with words of it changed, and these launches in the table of 2. -/
def launching (ws : List (Nat × Nat)) (l : List Launch) : State :=
  let s := gated [(0x38, 0x200000000)] (·.wg 4 (BitVec.ofNat 64 localBase))
  let m := ws.foldl (fun m e => putWord e m) [(0xA0000000000, 0x51000), (0xA0000000028, 1), (0xA0000000040, 0x100000000)]
  { s with mem := s.mem ++ cells m, parts := [(0, { record := some 0, launches := l })] }

/-- What the table holds of a record of one thread. -/
def launched (key : Nat) : Launch :=
  { addr := 0, key := key, dom := 0, entry := 0x51000, args := 7, prio := 1, restart := false, ox := false, groups := 1, cores := 1
    threads := 1, units := 2, dieLevel := false, spad := 64, cycles := 0, done := 0, succ := [0, 0, 0, 0], queued := true, order := 1 }

theorem test_witness_LaunchResults : Clear {} (launching [] []) ∧ ((launching [] []).rg 4).toNat % 128 = 0 ∧
    LocalRange (launching [] []) ((launching [] []).rg 4).toNat 128 ∧ (launching [] []).Unreserved ∧
    (let w (s : State) := s.wordsAt (s.localPa localBase) 128
     parseRecord (w (launching [(0xA0000000028, 0)] [])) = none ∧
     (parseRecord (w (launching [(0xA0000000010, 1)] []))).any (fun l =>
       okWith (domainDenied (launching [(0xA0000000010, 1)] []) 0 0 0 l.dom) id) = true ∧
     (parseRecord (w (launching [] []))).any (fun l => !l.queued && okWith (domainDenied (launching [] []) 0 0 0 l.dom) (fun x => !x)) = true ∧
     (launching [] []).localPa localBase = (launched 0xA0000000000).key ∧
     tableSize (launching [] [launched 0, launched 128]) 0 = 2 ∧ tableSize (launching [] []) 0 > [launched 0].length ∧
     w (launching [] []) 9 = 0 ∧ w (launching [(0xA0000000048, 2)] []) 9 = 2 ∧ w (launching [(0xA0000000048, 1)] []) 9 = 1) :=
  ⟨clear_of (by decide +kernel), by decide +kernel, local_of (by decide +kernel), ⟨rfl, rfl⟩, by decide +kernel⟩

def oneUnit : WorkUnit :=
  { part := 0, launch := 0, index := 0, group := 0, u := 0, cluster := 0, cores := [1], spbase := 0, splen := 64, threads := 1
    started := 0, cycles := 0, ox := false, restart := false }

theorem test_witness_launch_events :
    (let s := launching [] [launched 0]
     dispatching s 0 = true ∧ chooseLaunch s 0 0 = some (launched 0) ∧ (launched 0).threads ≤ 7 ∧
       ({ launched 0 with holdClock := 65537 }).left = true ∧ holdLimit s 0 < 65537) ∧
    (let s := { launching [] [launched 0] with units := [(3, oneUnit)] }
     s.units = [(3, oneUnit)] ∧ unitBusy s 3 = false ∧ (s.cluster 0).bufs = [] ∧ (s.cluster 0).stash = [] ∧
       s.launches 0 = [launched 0] ∧ (launched 0).killed = false ∧ (launched 0).completing = 0 ∧
       (launched 0).finished + 1 ≠ (launched 0).units) ∧
    (let r : PageReq := { number := 1, va := 0x20000000, dom := 0, kind := 0, posted := false }
     let s := { gated [(0x20, 0x69000)] id with parts := [(0, { record := some 0, requests := [r] })] }
     (s.part 0).notices = [] ∧ (s.part 0).requests.find? (fun q => !q.posted) = some r ∧ entryFree s 0 = true ∧
       ringNext s 0 = some 0x69040) ∧
    (let s := gated [(0x50000, 5)] id
     let s := s.setThread 0 { s.thread 0 with wait := some (.fetch (s.thread 0).pc) }
     (s.thread 0).pc.toNat % 4 = 0 ∧ okWith (access s (ctxOf s 0) (s.thread 0).pc.toNat 4 .fetch) (fun r =>
       okWith (access r.1 (ctxOf r.1 0) (s.thread 0).pc.toNat 4 .fetch) (fun q => decide (q.1 = r.1) && q.2.length == 1 &&
         q.2.all (fun q => q.pa % 4 == 0) && decide ((q.1.thread 0).wait = some (.fetch (s.thread 0).pc)))) = true) := by decide +kernel

/-! ### What meets the hypotheses of the statements: coherence, links, the network (18, 20, 21) -/

/-- The load's thread at a level, with a range of one page at g1 and g2, and a line of page 0x60000 with its entry. -/
def coherent (level : Nat) (d : List Dir) (f : Thread → Thread) : State :=
  let s := gated [] (fun t => f { ((t.wg 1 0x60000).wg 2 0x10000).wg 4 (BitVec.ofNat 64 localBase) with tstat := BitVec.ofNat 64 (0x10 + level) })
  { s with coh := { dir := d.map (fun x => (0x60000, x)) } }

/-- The state once a word at a virtual address has been read: its page is touched and its translation held. -/
def warm (va : Nat) (s : State) : State :=
  match access s s.ctx va 8 .load with
  | .ok r => r.1
  | .error _ => s

/-- The image of one state a side whose rows are all impossible. -/
def blankImage : Image :=
  { header := List.replicate 24 0 ++ [1, 1] ++ List.replicate 6 0 ++ [1, 0, 0, 0, 1] ++ List.replicate 27 0
    home := List.replicate 512 0x20, agent := List.replicate 256 0x20 }

/-- It passes every check but the signature's, which is free (log entry 9). -/
theorem test_witness_image : checkRows blankImage = none ∧ blankImage.headerOk = true ∧
    (∀ (s : State) (a : Nat), s.coh.ids = [] → Config.imageSigned a s.drawn = true → checkImage s a 5 blankImage = none) :=
  have h1 : checkRows blankImage = none := by decide +kernel
  have h2 : blankImage.headerOk = true := by decide +kernel
  ⟨h1, h2, fun s a hi hs => by simp [checkImage, hi, hs, h1, h2]⟩

theorem test_witness_PTLOAD :
    (let s := coherent 2 [] (·.wg 3 5)
     Clear {} s ∧ s.thr.level = 2 ∧ (s.rg 1).toNat % 64 = 0 ∧ s.admits s.ctx (s.rg 1).toNat 10835 = true ∧ ¬((s.rg 3).toNat < 5 ∨ 7 < (s.rg 3).toNat) ∧
       (s.rg 0).toNat < 5 ∧ 7 < (s.rg 2).toNat ∧
       checkImage { s with coh := { s.coh with ids := [(9, 5)] } } (s.rg 1).toNat (s.rg 3).toNat blankImage = some (0, 0, 0)) ∧
    (coherent 1 [] id).thr.level < 2 ∧ (coherent 0 [] id).thr.level = 0 :=
  ⟨⟨clear_of (by decide +kernel), by decide +kernel⟩, by decide +kernel⟩

theorem test_witness_binding :
    (let s := coherent 1 [] (fun t => (t.wg 3 5).wg 5 7)
     Clear {} s ∧ s.thr.level ≠ 0 ∧ (s.rg 1).toNat % 65536 = 0 ∧ (s.rg 2).toNat = 65536 ∧
       boundPages s s.ctx 1 (s.rg 1).toNat = some [0x60000] ∧ boundPages s s.ctx 1 0x20000000 = none ∧ s.Unreserved ∧ s.coh.dir = [] ∧
       s.coh.tables.get none (s.rg 3).toNat = none ∧ (s.rg 0).toNat ≤ 4 ∧ 7 < (s.rg 1).toNat ∧
       (({ s with coh := { s.coh with tables := [(7, some blankImage.table)] } }).coh.tables.get none (s.rg 5).toNat).isSome = true) ∧
    boundPages (coherent 0 [] id) (coherent 0 [] id).ctx 1 0x60000 = some [0x60000] :=
  ⟨⟨clear_of (by decide +kernel), by decide +kernel, by decide +kernel, by decide +kernel, by decide +kernel, by decide +kernel,
    ⟨rfl, rfl⟩, by decide +kernel⟩, by decide +kernel⟩

theorem test_witness_DIRQ_LINV : Clear {} (coherent 0 [] id) ∧ (coherent 0 [] id).coh.dir = [] ∧
    LocalRange (coherent 0 [] id) ((coherent 0 [] id).rg 4).toNat 8 ∧
    (let s := warm 0x60000 (coherent 0 [{ state := 1, sharers := 0x8003 }] id)
     let s := { s with coh := s.coh.setAgentLine 3 0x60000 { state := 1, copy := true } }
     okWith (access s s.ctx 0x60000 8 .load) (fun r => decide (r.1 = s) && r.2.length == 1 &&
       r.2.all (fun q => decide (q.va < localBase) && !isScratch q.pa && s.coh.holds (q.pa / 128 * 128))) = true ∧
     okWith (lineMaintenance mLWB 0x60000 0x80 s) (fun _ => true) = true ∧
     okWith (lineMaintenance mLINV 0x60000 0x80 s) (fun u => u.mem == s.mem) = true) :=
  ⟨clear_of (by decide +kernel), by decide +kernel, local_of (by decide +kernel), by decide +kernel⟩

/-- One line with its entry, one agent's state of it, and the messages in flight. -/
def lineOf (d : Dir) (x : AgentLine) (m : List Msg) : State :=
  { coh := { dir := [(0x60000, d)], agents := if x = {} then [] else [(4096 * 0x60000 + 3, x)], msgs := m } }

theorem test_witness_MessageEvents :
    (∀ d ∈ ([{}, { prot := 2 }, { prot := 4 }, { state := 1 }, { state := 2, ownreq := 3 }, { state := 3, pend := 1, ownreq := 5 },
        { state := 5, ownreq := 5 }, { stopped := some { engine := 0xFFFE, row := 0, entry := 0 } }] : List Dir),
      let s := lineOf d {} []
      s.coh.entry 0x60000 = d ∧ s.coh.holds 0x60000 = true ∧ isLine s 0x60000 = true ∧ s.clusters = [] ∧ d.stalled = [] ∧ d.left = [] ∧
        d.req = none ∧ s.coh.msgs = [] ∧ s.coh.agentLine 3 0x60000 = {} ∧ s.coh.llc 0x60000 = none ∧
        s.coh.txns.get none (64 * d.slice + 5) = none ∧ s.rsvQueues = [] ∧ s.held = [] ∧
        tokensOf s d.slice (ownerOf s 0x60000) ≠ 0 ∧ s.deferred.get [] (32 * d.slice + ownerOf s 0x60000) = [] ∧
        tokensOf { s with tokens := [(32 * d.slice + ownerOf s 0x60000, some 0)] } d.slice (ownerOf s 0x60000) = 0) ∧
    (∀ x ∈ ([{ state := 1, copy := true }, { state := 2, copy := true }, { state := 3, held := [(0, [])] },
        { state := 4, held := [(1, [(120, List.replicate 8 7)])] }, { state := 5, copy := true },
        { state := 8, copy := true, held := [(1, [])] }] : List AgentLine),
      let m : Msg := { code := mINV, src := atHome, dst := 3, line := 0x60000 }
      let s := lineOf { state := 1 } x [m]
      s.coh.agentLine 3 0x60000 = x ∧ s.coh.msgs = [m] ∧ m.data.line = none) := by decide +kernel

/-- Groups 2 and 3 of bundle 0 belong to partition 0. -/
def linked (f : Bundle → Bundle) : State :=
  let s := slot (user [(1, 0), (2, 1), (3, 0x20), (4, 2)])
  { s with now := 1000000, bundles := [(0, f { owner := [(2, some 0), (3, some 0)] })] }

theorem test_witness_LinkResults :
    (let s := linked id
     Clear {} s ∧ field (s.rg 1) 63 5 = 0 ∧ field (s.rg 3) 63 5 ≠ 0 ∧ bundleOf (field (s.rg 1) 2 0) (field (s.rg 1) 4 3) = 0 ∧
       (s.bundle 0).owned 0 = [2, 3] ∧ (s.rg 2).toNat < 2 ∧ s.rg 2 ≠ 0 ∧ (s.rg 4).toNat = 2 ∧ (s.bundle 1).owned 0 = [] ∧
       5000 ≤ s.linkClock ∧ (s.bundle 0).grantable 0 [2, 3, 4] = true ∧ (s.bundle 0).due = [] ∧ (s.bundle 0).waiting = []) ∧
    (let b := (linked (fun b => { b with queue := [(2, false)] })).bundle 0
     let late := (linked (fun b => { b with queue := [(2, false)], lastTurn := [(2, 1785000)] })).bundle 0
     b.queue = (2, false) :: [] ∧ b.turning.any (fun t => t.1 == 2) = false ∧ b.recent (linked id).linkClock < 64 ∧
       b.lastTurn.get 0 2 + 5000 ≤ (linked id).linkClock ∧ (linked id).linkClock < late.lastTurn.get 0 2 + 5000 ∧
       64 ≤ (((linked (fun b => { b with starts := List.replicate 64 1785714 })).bundle 0).recent (linked id).linkClock)) ∧
    (let b := (linked (fun b => { b with turning := [(2, false, some 48), (3, true, some 2000000)] })).bundle 0
     b.turning.find? (fun t => t.1 == 2) = some (2, false, some 48) ∧ 48 ≤ (linked id).linkClock ∧
       b.turning.find? (fun t => t.1 == 3) = some (3, true, some 2000000) ∧ (linked id).linkClock < 2000000) ∧
    ((linked id).bundle 0).grantable 1 [2, 3] = false ∧
    (let f : Flit := { cls := 2, part := none, up := true }
     let s := linked (fun b => { b with flight := [(0, f)], waiting := [f] })
     let b := s.bundle 0
     b.flight.find? (fun x => x.1 == 0 && x.2.up == true) = some (0, f) ∧ b.waiting = [f] ∧ b.turning = [] ∧ f.part = none ∧
       b.up.getLsbD 0 = f.up ∧ 1 ≤ b.window.get 128 1 ∧ (b.retry.get [] 1).length < 128 ∧ b.ackDue = [] ∧ b.due = [] ∧
       s.sendClock b ≤ s.linkClock ∧ f.seq = b.expected.get 0 1 ∧ (b.entries.get [] 1).length < 128 ∧
       s.linkClock < s.sendClock { b with nextClock := 2000000 }) ∧
    (let s := { linked id with now := 2294 }
     (s.now - 1) * 25 / 14 + 1 ≤ s.linkClock / 4096 * 4096 ∧ (s.bundle 0).audits < s.linkClock / 4096) ∧
    ¬((linked id).now - 1) * 25 / 14 + 1 ≤ (linked id).linkClock / 4096 * 4096 :=
  ⟨⟨clear_of (by decide +kernel), by decide +kernel⟩, by decide +kernel⟩

/-- A work request in g4 to g7: `len` bytes at 0x60000 to peer 2 by port 0, its counter 3. The Steppe state of the partition is
at 0x90000: a valid entry of peer 2, counter 3 of domain 0. -/
def posting (len : Nat) (f : Steppe → Steppe) : State :=
  let s := gated [(0x50, 0x90000), (0x90020, 7), (0x90028, 2 ^ 63), (0xA0018, 2 ^ 63)] (fun t => ((((((t.wg 4 0x60000).wg 6 (BitVec.ofNat 64 len)).wg 7 0x014300020000).wg 8 3).wg 9 5).wg 10
    0x8000000000000000).wg 11 1)
  let x : Steppe := { counters := [(3, { value := 4 })] }
  { s with ports := 1, parts := [(0, { record := some 0, steppe := f x })] }

/-- The request that NPOST makes of them, with what its engine has done. -/
def request (f : NetReq → NetReq) : NetReq :=
  f { number := 0, slot := 0, unit := none, quad := #v[0x60000, 0, 64, 0x014300020000],
      ctx := { (posting 64 id).ctx with agent := none, win := none, localOpen := false, engine := some (steppeNumber 0) } }

theorem test_witness_NPOST :
    (let s := posting 65535 id
     Clear { wait := true } s ∧ s.waitHint = false ∧ postedBy s s.cur = false ∧ (4 : Reg).toNat ≤ 12) ∧
    (let q : Vector Word 4 := #v[0x60000, 0, 65535, 0x014300020000]
     quadBad q = false ∧ quadBad (q.set 3 0) = true) ∧
    (let s := posting 65536 id
     let x := s.steppe 0
     (peerOf s 0 2).isSome = true ∧ (peerOf s 0 3).isSome = false ∧ upPorts s 1 ≠ [] ∧ upPorts s 2 = [] ∧
       counterDom s 0 3 = some s.thr.dom ∧ counterDom s 0 4 ≠ some s.thr.dom ∧ x.queue = [] ∧ sendEntries s 0 = 64) ∧
    (let own := ((posting 64 (fun x => { x with queue := List.replicate 16 (request id) })).steppe 0).queue.filter (fun q => q.answers.isNone)
     ¬(own.filter (fun q => q.slot == 0)).length < 16) ∧
    (request id).peer = 2 ∧ (request id).counter = some 3 ∧ (request id).mask = 1 ∧ (request id).length = 64 :=
  ⟨⟨clear_of (by decide +kernel), by decide +kernel, by decide +kernel, by decide⟩, by decide +kernel⟩

theorem test_witness_counters :
    (let s := posting 64 id
     let y := (s.steppe 0).counters.get {} 3
     Clear {} s ∧ field (s.rg 8) 5 0 = 3 ∧ field (s.rg 8) 63 6 = 0 ∧ counterDom s 0 3 = some s.thr.dom ∧ y.err = 0 ∧ y.reached 4 = true ∧
       y.reached (field (s.rg 9) 47 0) = false ∧ s.rg 0 = 0 ∧ s.rg 11 ≠ 0 ∧ field (s.rg 7) 63 6 ≠ 0) ∧
    (((posting 64 (fun x => { x with counters := [(3, { err := 1, lasterr := 7 })] })).steppe 0).counters.get {} 3).err ≠ 0 ∧
    (let s := posting 64 (fun x => { x with regions := [(0, { live := true, gen := 0, dom := 0 })] })
     s.rg 10 = 0x8000000000000000 ∧ s.rg 0 = 0 ∧ (regionOf s 0 0).isSome = true ∧ regionOf s 0 1 = none ∧ s.rg 11 = 1) ∧
    (let s := posting 0x10000 id
     let ends (s : State) := regionPieces s.ctx true false ((s.rg 6).toNat / 65536 + 2) (s.rg 4).toNat ((s.rg 4).toNat + (s.rg 6).toNat) s
     okWith (ends s) (fun r => okWith (ends r.1) (fun q => decide (q.1 = r.1)) && decide ((r.1.steppe 0).regions = [])) = true ∧
       (s.steppe 0).regions = [] ∧ (s.rg 4).toNat % 64 = 0 ∧ (s.rg 6).toNat % 64 = 0 ∧ 64 ≤ (s.rg 6).toNat ∧
       ((posting 32 id).rg 6).toNat < 64) ∧
    (let s := posting 64 (fun x => { x with counters := [(3, { err := 1, lasterr := 7 })] })
     let s := s.setThread 0 { s.thread 0 with wait := some (.counter 3 3 5 (some 0)) }
     (s.thread 0).wait = some (.counter 3 3 5 (some 0)) ∧ (s.thread 0).rep = none ∧ (s.thread 0).pending = [] ∧
       ((s.steppe (s.partOf (clusterOf 0))).counters.get {} 3).err ≠ 0) ∧
    (let s := posting 64 (fun x => { x with regions := [(0, { live := true, gen := 0, dom := 9 })] })
     (regionOf s 0 0).any (fun r => r.2.dom != s.thr.dom) = true) ∧
    (let s := slot { user [] with wait := some (.counter 3 3 5 (some 0)) }
     (s.thread 0).wait = some (.counter 3 3 5 (some 0)) ∧ (s.thread 0).rep = none ∧ (s.thread 0).pending = []) :=
  ⟨⟨clear_of (by decide +kernel), by decide +kernel⟩, by decide +kernel⟩

/-- The lines of its payload are held and have passed their checks. -/
def posted : State :=
  let s := posting 64 (fun x => { x with queue := [request id] })
  match payloadOf 0 (request id) 0 s with
  | .ok r => { r.1 with checks := [] }
  | .error _ => s

theorem test_witness_packets :
    okWith (payloadOf 0 (request id) 0 posted) (fun r =>
      decide (r.1.steppe 0 = posted.steppe 0 ∧ r.1.ports = posted.ports ∧ r.1.checks = [])) = true ∧ posted.checks = [] ∧
      (posted.steppe 0).queue = [request id] ∧ maySend posted 0 (request id) = true ∧
    (let s := posting 64 (fun x => { x with queue := [request id] })
     (s.steppe 0).queue = [request id] ∧ (s.steppe 0).waiting = [] ∧ (s.steppe 0).owed = [] ∧ (s.steppe 0).regions = [] ∧
       (request id).staged = none ∧ (request id).failure = none ∧ (request id).succeeded = false ∧ (request id).request = none ∧
       maySend s 0 (request id) = true ∧ s.checks = [] ∧ okWith (payloadOf 0 (request id) 0 s) (fun r =>
         decide (r.1.steppe 0 = s.steppe 0 ∧ r.1.ports = s.ports ∧ ∃ e ∈ r.1.checks, e.2 = 0) && r.2.length == 64) = true) ∧
    (let q : Sent := { j := 0, seq := 9, port := 0 }
     let r := request (fun r => { r with sent := [q], next := 1 })
     q.acked = false ∧ q.code = 0 ∧ r.error = none ∧ r.answers = none ∧ r.request = none ∧ r.read = false ∧ r.counter = some 3 ∧
       r.total ≤ r.next ∧ q.expires ≤ (posting 64 id).now ∧ q.sends ≤ resendLimit (posting 64 id) 0 ∧
       resendLimit (posting 64 id) 0 < { q with sends := 8 }.sends ∧
       upPorts (posting 64 id) r.mask ≠ [] ∧ (({ peer := 2, low := 10, map := 0, failed := [] } : Ack).peer = r.peer)) ∧
    (let r : Region := { live := true, rw := true, len := 128, pages := [0x60000], base := 0x60000 }
     let s := { posting 64 (fun x => { x with regions := [(0, r)] }) with mem := cells (gateWords [(0, 0x10040)]) }
     let pkt : Packet := { peer := 2, seq := 4, kind := .write, msg := 0, j := 0, key := 0, offset := 64, len := 64, rod := false,
                           payload := List.replicate 64 1 }
     (s.steppe 0).queue = [] ∧ ((s.steppe 0).received.get {} 2).has 4 = false ∧ ({ low := 5 } : Flow).has 4 = true ∧
       (∀ e ∈ (s.steppe 0).regions, e.2.closing = false) ∧ pkt.kind = .write ∧
       okWith (checkRegion s 0 pkt) (fun e => okWith (placeInRegion 0 e.2 0 64 (pkt.payload.take (packetBytes 64 0)) (s.setSteppe 0 (s.steppe 0)))
         (fun u => decide ((u.steppe 0).queue = []))) = true ∧
       (match checkRegion (posting 64 id) 0 pkt with | .error e => e == 4 | .ok _ => false) = true) := by decide +kernel

/-! ### What meets the hypotheses of the statements: vacates, partitions, the host, steps (16, 23, 24, 03) -/

/-- A vacate record at 0x60000 for cluster 0 with a deadline, cluster 0 holding these units and what f changes of it, and a
save area at 0x100000. -/
def vacating (d : Nat) (us : SMap WorkUnit) (f : Cluster → Cluster) : State :=
  let s := gated [(0x0, 0x10040), (0x60000, 1), (0x60010, d)] id
  { s with clusters := [(0, f { part := some 0, ctxbase := 0x100000 })], units := us }

theorem test_witness_vacates :
    (let s := vacating 5000 [] id
     readVacate s 0 0x60000 = some ([0], 5000, false, 0, none) ∧ readVacate s 0 0x61000 = none ∧ drainsWithin s 0 5000 = true) ∧
    (let s := vacating 5000 [(3, oneUnit)] id
     drainsWithin s 0 5000 = false ∧ (saveBytes s 0 false + 255) / 256 + 2048 ≤ 5000 ∧ mayDiscard s 0 false = false ∧ involvedUnits s 0 false = [3] ∧
       ¬((saveBytes s 0 false + 255) / 256 + 2048 ≤ 1000) ∧ holdsWhole { s with threads := [] } 0 = false ∧
       (saveCluster 0 false (s.setCluster 0 { s.cluster 0 with stopped := true })).2 = true ∧
       savePosted (s.setCluster 0 { s.cluster 0 with stopped := true }) 0 false = false) ∧
    (let s := vacating 1000 [(3, { oneUnit with restart := true })] id
     drainsWithin { s with threads := [] } 0 1000 = false ∧ mayDiscard { s with threads := [] } 0 false = true) := by decide +kernel

/-- A vacate whose one cluster is as said. -/
def underWay (x : VacateCluster) (report : Word) (f : Cluster → Cluster) : State :=
  let s := vacating 5000 [] f
  let v : Vacate := { clusters := [x], deadline := 5000, whole := report == 0, report := report, notify := none, accepted := 0 }
  { s with parts := [(0, { s.part 0 with vacates := [v] })] }

theorem test_witness_vacates_under_way :
    (let x : VacateCluster := { cluster := 0, draining := true, since := 0 }
     let s := underWay x 0 id
     s.partOf 0 = 0 ∧ x.draining = true ∧ involvedUnits s 0 true = [] ∧ holdsWhole s 0 = false ∧
       involvedUnits { s with units := [(3, oneUnit)] } 0 true ≠ [] ∧ s.now < x.since + 5000 ∧ x.since + 5000 ≤ { s with now := 5000 }.now) ∧
    (let x : VacateCluster := { cluster := 0, finished := true, since := 0 }
     let s := underWay x 0 id
     x.finished = true ∧ x.draining = false ∧ ((s.part 0).vacates.map (·.whole)) = [true] ∧ x.saving = none ∧ 0 + x.took ≤ s.now ∧
       ((s.setPart 0 { s.part 0 with vacates := [] }).cluster (clusterOf 0)).part = some 0 ∧ s.now < 0 + { x with took := 9 }.took) ∧
    (let s := underWay { cluster := 0, deferred := true, since := 0 } 0 (fun c => { c with deferral := some 0 })
     (s.cluster 0).deferral = some 0 ∧ critical s 0 0 = false ∧ critical { s with mem := cells (gateWords [(0x70, 0x69000), (0x69000, 1)]) } 0 0 = true) ∧
    (let x : VacateCluster := { cluster := 127, outcome := 3, since := 0 }
     x.cluster < 128 ∧ x.outcome < 4) := by decide +kernel

/-- What a save of an empty cluster leaves. -/
def savedNothing : SavedCluster :=
  { cluster := 0, whole := false, threads := [], away := [], units := [], cores := [], ox := none, oxUnit := none, oxTask := none
    mule := [], bufs := [], stash := [], allocs := [] }

/-- The 512 MiB from 0 on mapped to partition 0, and a save area at 0x100000 with these words in the device's own parts. -/
def keptMem (x y z : Word) : List Host.Cell :=
  let put (a : Nat) (w : Word) : List Host.Cell := (List.range 8).map (fun i => (a + i, w.extractLsb' (8 * i) 8))
  [(0, 0x40), (2, 1), (10, 1), (0x90, 1), (0x10000, 1), (0x10002, 2), (0x20000, 0x0F), (0x20001, 2)]
    ++ put 0x110000 x ++ put 0x120000 y ++ put 0x151000 z

/-- The pages of the device's own parts in that area. -/
def keptPages (x y z : Word) : List (List (Nat × Byte)) :=
  [0x110000, 0x120000, 0x130000, 0x140000, 0x150000].map (fun pa =>
    ((keptMem x y z).filter (fun c => decide (pa ≤ c.1) && decide (c.1 < pa + 65536))).map (fun c => (c.1 - pa, c.2)))

def keptWords (x y z : Word) : State :=
  { mem := keptMem x y z
    clusters := [(0, { part := some 0, ctxbase := 0x100000 })]
    parts := [(0, { record := some 0, saved := [(7, { savedNothing with area := 0x100000, check := keptPages x y z })] })] }

theorem range_eight : List.range 8 = [0, 1, 2, 3, 4, 5, 6, 7] := rfl

/-- A word is what its bytes hold. -/
theorem word_of_bytes (x : Word) : BitVec.ofNat 64 (ofBytes ((List.range 8).map (fun i => x.extractLsb' (8 * i) 8))) = x := by
  apply BitVec.eq_of_toNat_eq
  simp [range_eight, ofBytes, Nat.shiftRight_eq_div_pow]
  omega

theorem keptWords_tables (x y z : Word) : (keptWords x y z).prec 0 0x08 = 0x10000 ∧ (keptWords x y z).prec 0 0x90 = 1 ∧
    (keptWords x y z).read64 0x10000 = 0x20001 ∧ (keptWords x y z).read64 0x20000 = 0x20F := by
  simp [keptWords, keptMem, State.prec, State.part, SMap.get, State.raw64, State.read64, State.readNat, State.readBytes, State.key,
    range_eight, ofBytes, Memory.get]

theorem keptWords_parts (x y z : Word) : (keptWords x y z).read64 0x110000 = x ∧ (keptWords x y z).read64 0x120000 = y ∧
    (keptWords x y z).read64 0x151000 = z := by
  refine ⟨Eq.trans ?_ (word_of_bytes x), Eq.trans ?_ (word_of_bytes y), Eq.trans ?_ (word_of_bytes z)⟩ <;>
    simp [keptWords, keptMem, State.read64, State.readNat, State.readBytes, State.key, range_eight, Memory.get]

theorem keptWords_stage2 (x y z : Word) (a : Nat) (h : a < 2 ^ 29) :
    stage2 (keptWords x y z) 0 a .load = .ok (a, [0x10000, 0x20000]) ∧ (keptWords x y z).reachable 0 false a = true := by
  obtain ⟨h1, h2, h3, h4⟩ := keptWords_tables x y z
  have reach (b : Nat) (hb : b < 2 ^ 29) : (keptWords x y z).reachable 0 false b = true := by
    simp [State.reachable, State.ownsNear, h2, show b < 0x6000000000 by omega, show b / 0xC0000000 = 0 by omega, bit]
  have hs : stage2 (keptWords x y z) 0 a .load = .ok (a, [0x10000, 0x20000]) := by
    simp [stage2, stage2Leaf, h1, h3, h4, reach, show a / 4398046511104 = 0 by omega, show a / 536870912 = 0 by omega,
      show ¬281474976710656 ≤ a by omega, show a % 536870912 = a by omega, field, bit, s2Ok, Access.permission]
  exact ⟨hs, reach a h⟩

theorem keptWords_ipaRead (x y z : Word) (a : Nat) (h : a < 2 ^ 29) :
    ipaRead (keptWords x y z) 0 a = .ok ((keptWords x y z).read64 a) := by
  simp only [ipaRead, keptWords_stage2 x y z a h, if_true]

theorem keptWords_pages (x y z : Word) : partPages (keptWords x y z) 0 0x100000 = keptPages x y z := by
  have st (a : Nat) (h : a < 2 ^ 29) : stage2 (keptWords x y z) 0 a .load = .ok (a, [0x10000, 0x20000]) :=
    (keptWords_stage2 x y z a h).1
  simp [partPages, keptPages, st, show (keptWords x y z).mem = keptMem x y z from rfl]

/-- Save 7, and the area as it has written it. -/
def keptSave : SavedCluster :=
  { savedNothing with
    area := 0x100000
    check := keptPages (Config.savedPart 7 0x10000) (Config.savedPart 7 0x20000) (Config.savedPart 7 0x51000) }

def keptArea : State := keptWords (Config.savedPart 7 0x10000) (Config.savedPart 7 0x20000) (Config.savedPart 7 0x51000)

theorem test_witness_intact_area : (keptArea.part 0).saved.find? (fun e => partsPass keptArea 0 0x100000 e.1 e.2) =
    some (7, keptSave) ∧ canRestore keptArea 0 keptSave = true := by
  have read (a : Nat) (h : a < 2 ^ 29) : ipaRead keptArea 0 a = .ok (keptArea.read64 a) := keptWords_ipaRead _ _ _ a h
  have h1 : keptArea.read64 0x110000 = _ := (keptWords_parts _ _ _).1
  have h2 : keptArea.read64 0x120000 = _ := (keptWords_parts _ _ _).2.1
  have h3 : keptArea.read64 0x151000 = _ := (keptWords_parts _ _ _).2.2
  have hc : partPages keptArea 0 0x100000 = keptSave.check := keptWords_pages _ _ _
  have hp : partsPass keptArea 0 0x100000 7 keptSave = true := by simp [partsPass, deviceParts, read, h1, h2, h3, hc]
  have hs : (keptArea.part 0).saved = [(7, keptSave)] := rfl
  exact ⟨by simp [hs, hp], by decide⟩

/-- An area that nothing has written holds no save. -/
theorem test_witness_broken_area :
    (let s := { keptWords 0 0 0 with parts := [(0, { record := some 0 })] }
     (s.part 0).saved = [] ∧ (s.cluster 0).part = some 0 ∧ (s.cluster 1).part = none) := by decide +kernel

/-- Cluster 0 of partition 0 marked to move to live partition 1, whose record is at 0x6A000. -/
def onTheMove (now : Nat) : State :=
  let s := vacating 0 [] (fun c => { c with leaving := some 1 })
  { s with
    now := now, threads := [], mem := cells (gateWords [(0x6A000, 0x20041), (0x6A018, 0x53000)])
    parts := [(0, { record := some 0 }), (1, { record := some 0x6A000 })] }

theorem test_witness_restore_and_moves :
    (let s := vacating 0 [] id
     canRestore s 0 { savedNothing with threads := [(0, {})] } = false) ∧
    (let s := onTheMove 1400000
     (s.cluster 0).part = some 0 ∧ (s.cluster 0).leaving = some 1 ∧ (s.cluster 0).leavingAt + 1400000 ≤ s.now ∧ settled s 0 0 = true ∧
       critical s 0 0 = false ∧ cleared s 0 = true ∧ s.live 1 = true ∧ s.live 2 = false ∧ (onTheMove 1399999).now < 1400000) := by
  decide +kernel

theorem test_witness_PartitionResults :
    (let s := onTheMove 0
     floorOf s 0 ≤ heldAfter s 0 ∧ livePartitions s = [0, 1] ∧ s.live 0 = true ∧ (s.part 0).record = some 0) ∧
    (let s := gated [] id
     mapsChannel s 0 0 = true ∧ mapsChannel (gated [(0x08, 0x200000)] id) 5 0 = false ∧
       livePartitions (gated [(0x08, 0x200000)] id) = [0] ∧
     livePartitions s = [0] ∧ s.live 0 = true ∧ 0 + 256 ≤ 1 * 0xC0000000 ∧ (5 : Nat) < 160 ∧ s.live 3 = false ∧ ¬(4 ∈ s.usedWorlds) ∧
       (s.cluster 1).part = none ∧ { s with mem := cells (gateWords [(0x6A080, 2)]) }.raw64 (0x6A000 + 0x80) = 2 ∧
       overlapsOwners { s with mem := cells (gateWords [(0x6A080, 2)]) } 0x6A000 = false ∧
       overlapsOwners { s with mem := cells (gateWords [(0x6A080, 1)]) } 0x6A000 = true) ∧
    (let s := { gated [] id with checks := [(9, 0)] }
     s.checks.find? (fun e => e.1 == 9) = some (9, 0) ∧ s.checks.find? (fun e => e.1 == 8) = none ∧ clusterOf s.cur < 128) ∧
    (let s (x : Nat) (y : Nat) := gated [(0x68, 0x6B000), (0x6B000, x), (0x6B008, y), (0x6C000, 1)] id
     let formed (x y : Nat) := okWith (ipaRead (s x y) 0 0x6B000) (fun w => w == BitVec.ofNat 64 x)
     serviceEntry (s 1 0x60000) 0 = some 0x6B000 ∧ serviceEntry (gated [(0x68, 0x6B000)] id) 0 = none ∧ formed 1 0x60000 = true ∧
       formed 5 0 = true ∧ (∀ c ∈ [2, 3, 4, 9], formed c 0 = true) ∧
       (∀ y ∈ [0x40000000003, 0x10000, 5], okWith (ipaRead (s 2 y) 0 0x6B008) (fun w => w == BitVec.ofNat 64 y) = true) ∧
       (let y : Word := 0x40000000003
        field y 7 0 ≠ 0 ∧ field y 31 8 = 0 ∧ 1024 ≤ field y 56 32 ∧ field y 56 32 ≤ 16777216 ∧ field y 63 57 = 0) ∧
       field (0x10000 : Word) 63 24 = 0 ∧ field (5 : Word) 63 4 = 0 ∧ ((s 5 0).cluster 0).part = some 0 ∧ field (0x10000 : Word) 23 16 ≠ 0 ∧ field (6 : Word) 7 0 > 5 ∧
       (readVacate (gated [(0x60000, 1)] id) 0 0x60000).isSome = true) := by decide +kernel

theorem test_witness_partition_runs :
    (let s := onTheMove 140000
     s.borderRuns < s.now / 140000 ∧ (onTheMove 0).now / 140000 ≤ (onTheMove 0).borderRuns ∧ floorOf s 0 ≤ heldAfter s 0 ∧ s.live 1 = true) ∧
    heldPartitions (gated [(0x08, 0x200000)] id) = [0] ∧ (gated [] id).feLists = [] ∧
    (let s := { onTheMove 512 with deferred := [(0, [(0, false)])], threads := [(0, { user [] with wait := some (.token 0 none) })] }
     livePartitions s = [0, 1] ∧ s.refills.get 0 0 < s.now / 256 ∧ (onTheMove 0).now / 256 ≤ (onTheMove 0).refills.get 0 0 ∧
       (s.deferred.get [] 0).length ≤ 32 ∧ (s.deferred.get [] 1).length ≤ 32 ∧
       0 < min (s.deferred.get [] 0).length (min (tokensOf s 0 0 + tokenRate s 0) (tokenDepth s 0)) ∧
       (s.thread 0).wait = some (.token 0 none)) ∧
    (let s := { gated [] id with mem := cells (gateWords [(0x6A080, 2), (0x6A060, 0x1001)]) }
     boundsKept s 0x6A000 = true ∧ s.stopped = false ∧ s.live 3 = false ∧ 4 ∉ s.usedWorlds ∧ overlapsOwners s 0x6A000 = false ∧
       boundsKept { s with mem := cells (gateWords [(0x6A080, 2), (0x6A060, 0x0305)]) } 0x6A000 = false) := by decide +kernel

/-- Function 1, bound to partition 0, with a ring of 16 entries at 0x1000 of host memory whose first entry has these words. -/
def hosted (words : List (Nat × Nat)) (f : HostFn → HostFn) : State :=
  { gated [] id with
    hostMem := cells words
    hostFns := [(1, f { bound := some 0, qbase := 0x1000, qsize := 16, qwr := 1, keyed := true, dmaLen := 2 ^ 64, bar2 := 2 ^ 40 })] }

theorem test_witness_HostResults :
    (let s := hosted [(0x1000, 1), (0x1008, 3), (0x1010, 0x60000), (0x1018, 9)] id
     let f := s.hostFn 1
     let e := f.qbase.toNat + 64 * (f.qrd.toNat % f.qsize.toNat)
     f.bound = some 0 ∧ programmingFault f false = none ∧ programmingFault f true = some 4 ∧
       programmingFault { f with qbase := 0x1001 } true = some 1 ∧ programmingFault { f with qsize := 17 } true = some 2 ∧
       programmingFault { f with qwr := 17 } false = some 3 ∧ f.qstate = 0 ∧ f.qrd ≠ f.qwr ∧ (s.part 0).halted = false ∧
       (hostWord s e).toNat = f.expected ∧ field (hostWord s (e + 8)) 7 0 = 3 ∧
       (match performEntry 1 0 e s with | .done _ x => x == 0 | .waits _ => false) = true) ∧
    (let s := hosted [(0x1000, 7), (0x1008, 9)] (fun f => { f with expected := 5, spdm := { session := some 1, established := true } })
     let f := s.hostFn 1
     f.expected < (hostWord s 0x1000).toNat ∧ 3 < field (hostWord s 0x1008) 7 0 ∧ f.spdm.established = true ∧
       (hostWord (hosted [(0x1000, 4)] id) 0x1000).toNat < 5) ∧
    (let s := hosted [] id
     (hostBytes s 0 0x60000 8 .load).isSome = true ∧ hostBytes s 0 0x20000000 8 .load = none ∧ s.Unreserved ∧
       okWith (hostLoad 1 0 0x60000 [0x60000] s) (fun _ => true) = true ∧
       okWith (hostWrite 1 0 0x60000 [(0x60000, 7)] s) (fun _ => true) = true ∧
       (match hostLoad 1 0 0x60000 [0x60000] { s with tokens := [(32 * sliceOf s 0 0x60000, some 0)] } with
         | .error (.wait _) => true
         | _ => false) = true ∧ 16 * 0x6000 < (s.hostFn 1).bar2 ∧
       hostBytes s 0 (16 * 0x6000) 1 .load = some [0x60000] ∧ (s.hostFn 1).request = none ∧
       okWith (hostWalk 1 0 (16 * 0x6000) 1 s >>= lineAccess (hostCtx 1 0) 0 (0x60000 / 128 * 128) (16 * 0x6000) mUREAD { reads := some (0, 64) })
         (fun _ => true) = true ∧
       mayLeave s 1 = true ∧ mayLeave { s with checks := [(9, 0)] } 1 = false ∧ s.ready = true ∧
       ({ s with ready := false } : State).ready = false ∧ (s.hostFn 2).bound = none ∧ (s.hostFn 1).bar2 < 2 ^ 40 + 8 ∧
       0x60000 + 8 ≤ (s.hostFn 1).bar2 ∧ (s.hostFn 1).bar2 ≤ 16 * 2 ^ 36 ∧ 0x1000 + 8 ≤ (s.hostFn 1).bar2 / 16) ∧
    (let keying (g : HostFn → HostFn) := (hosted [] (fun f => g { f with spdm := { session := some 1, established := true } })).hostFn 1
     let after (f : HostFn) : HostFn := { f with qrd := f.qwr, keyed := true, expected := 1 }
     let broken := keying (fun f => { f with qstate := 3, qbase := 0x1001 })
     broken.request = none ∧ broken.spdm.established = true ∧ broken.qstate = 3 ∧ programmingFault (after broken) false = some 1 ∧
       programmingFault (after (keying id)) false = none ∧ (keying id).qstate ≠ 3 ∧ ((hosted [] id).hostFn 1).spdm.established = false) ∧
    (let x : Spdm := { version := true, capabilities := true, algorithms := true, session := some 1, established := true }
     x.version = true ∧ x.capabilities = true ∧ x.algorithms = true ∧ x.session ≠ none ∧ x.established = true) := by
  unfold State.Unreserved
  decide +kernel

theorem test_witness_ResetAndPower :
    ({ State.reset with tripped := true } : State).tripped = true ∧ State.reset.tripped = false ∧
    (let s := slot { user [] with wait := some (.leave 3 4 false) }
     oxAsksLeave (s.cluster 0).ox = false ∧ (s.cluster 0).mule.any (fun m => m.leave == 1) = false ∧
       (s.thread 0).wait = some (.leave 3 4 false)) ∧
    oxAsksLeave ((oxWith [product false] false 0).cluster 0).ox = true ∧ (State.reset.hostFn 1).request = none ∧
    (let m : CopyCmd := { fn := 0, number := 0, slot := 0, unit := none, task := none, quad := #v[0, 0, 0, 0], comp := 0, ctx := {}, leave := 1 }
     let s : State := { clusters := [(0, { mule := [m] })] }
     oxAsksLeave (s.cluster 0).ox = false ∧ (s.cluster 0).mule = m :: [] ∧ m.leave = 1) ∧
    (let within (s : State) (x : Nat) (y : IslandPower) : Prop := 600 ≤ x ∧ x ≤ 1800 ∧ 350 ≤ y.mv ∧ y.mv ≤ 550 ∧
       (((List.range 128).filter (· != 0)).map (fun n => (s.cluster n).island.amps)).sum + y.cap ≤ 5000
     let hot (x : Nat) (y : IslandPower) : Prop :=
       100 ≤ y.temp ∧ ((State.reset.cluster 0).island.toMhz < x ∨ (State.reset.cluster 0).island.toMv < y.mv)
     within State.reset 600 { mv := 350, cap := 47, temp := 99, process := 0 } ∧
       within State.reset 1800 { mv := 550, cap := 0, temp := 100, process := 0 } ∧
       ¬within State.reset 599 { mv := 350, cap := 47, temp := 99, process := 0 } ∧
       hot 1800 { mv := 550, cap := 0, temp := 100, process := 0 } ∧ ¬hot 600 { mv := 350, cap := 47, temp := 99, process := 0 } ∧
       (State.reset.cluster 0).island.amps < (State.reset.cluster 0).island.amps + 1) ∧
    (let i : Island := { mv := 400, toMv := 500 }
     i.mv ≠ i.toMv ∧ (i.ramp + 10 * 13999) / 1400 < 100 ∧ 100 ≤ (i.ramp + 10 * 14000) / 1400) := by decide +kernel

theorem test_witness_StepRunsDecoded :
    (let s := State.reset.withProgram 32 0x04C48000
     let b := noteIssue 0 { s with agenda := [], cur := 0 }
     s.agenda = .core 0 :: [] ∧ chooseSlot { s with agenda := [] } 0 = some 0 ∧ (b.thread 0).unwindDue = false ∧
       nextEvent (b.thread 0) = none ∧ (b.thread 0).resumes = false ∧ nextStream b 0 = some false ∧ (b.thread 0).wait = none ∧
       okWith (fetchAt false 0 (b.thread 0).pc b) (fun x => x.1 == 0x04C48000) = true ∧ (b.thread 0).pc.toNat % 4 = 0 ∧
       (∀ f ∈ [none, (b.thread 0).fetchBuf], let u := b.mapThread 0 (fun t => { t with fetchBuf := f })
         okWith (access u (ctxOf u 0) (u.thread 0).pc.toNat 4 .fetch) (fun x => match x.2 with
           | [q] => q.pa % 4 == 0 && (x.1.core 0).icache.isEmpty && decide ((x.1.thread 0).fetchBuf = f) &&
             (cachedBlock (cacheBlock 0 (q.pa / 64) x.1).2 0 (q.pa / 64)).isSome
           | _ => false) = true)) ∧
    (let x : Rep := { addr := 0x50000, words := [0x5048C004], creg := 7, stride := 1, smask := 0, off := 0, j := 0 }
     let s := (State.reset.withProgram 32 0).setThread 0 { loadThread with rep := some { x with bodyNext := true }, g := (Vector.replicate 16 1) }
     let b := noteIssue 0 { s with agenda := [], cur := 0 }
     chooseSlot { s with agenda := [] } 0 = some 0 ∧ nextStream b 0 = some true ∧ ((b.thread 0).rep.map (·.wait)) = some none) ∧
    (let s : State := { State.reset with agenda := [.event (.coldReset)] }
     s.agenda = .event .coldReset :: [] ∧ whileStopped .coldReset = true ∧ whileStopped (.mmaStart 0) = false) ∧
    (let l : LineData := { bytes := List.replicate 128 1, side := [] }
     ({ backing := [(0x50000, l)] } : Coh).llc 0x50000 = some l) ∧
    (let s : State := { State.reset with agenda := [.core 5] }
     chooseSlot { s with agenda := [] } 5 = none) ∧
    ({ State.reset with stopped := true } : State).agenda = [] := by decide +kernel

theorem test_witness_EncodeDecode : (Instr.add 1 2 3 true).wellFormed = true ∧ (Instr.add 1 2 3 true).isEvent = false ∧
    Instr.coldReset.isEvent = true ∧ State.reset.Canonical := by
  unfold State.Canonical
  decide +kernel

/-! ### Ill-formed terms are refused: one term for each check of `Instr.wellFormed` -/

theorem test_formats_refused : (Instr.vfadd 1 2 3 0 3).wellFormed = false ∧ (Instr.vfma 1 2 3 4 0 3).wellFormed = false ∧
    (Instr.vrcp 1 2 0 0 3).wellFormed = false ∧ (Instr.vfradd 1 2 0 3).wellFormed = false ∧ (Instr.vfadd 1 2 3 0 2).wellFormed = true := by
  decide +kernel

theorem test_scopes_refused : (Instr.icinv 1 2 6).wellFormed = false ∧ (Instr.fence true 2 7).wellFormed = false ∧
    (Instr.icinv 1 2 5).wellFormed = true := by decide +kernel

theorem test_hsched_refused : (Instr.hsched 0x200000).wellFormed = false ∧ (Instr.hsched 0x400000).wellFormed = false ∧
    (Instr.hsched 0x600000).wellFormed = true := by decide +kernel

theorem test_events_refused : (Instr.divideComplete 2048).wellFormed = false ∧ (Instr.drainDeadlineExpiry 128).wellFormed = false ∧
    (Instr.timerExpiry 16384).wellFormed = false ∧ (Instr.timerExpiry 16383).wellFormed = true := by decide +kernel

/-- The term of an illegal word is no well-formed instruction. -/
theorem test_illegal_word_refused : (Instr.illegalInstruction 0).wellFormed = false := by decide +kernel

/-! ### Words that the chapters of the spec write out, with the instructions they stand for -/

/-- The words of 03, 04, 05, 06 and 07. -/
theorem test_decode_core : decode 0x0D9BFFFF = .addi 6 6 0x3FFFF ∧ decode 0x48114044 = .icinv 4 5 4 ∧
    decode 0x4C001C05 = .fence true 3 5 ∧ decode 0x5159C172 = .vdot4 5 6 7 0 ∧ decode 0x718A6800 = .vcvtf 6 2 9 10 0 0 ∧
    decode 0x70D36862 = .vunpk4 3 4 13 10 0 2 ∧ decode 0x70CD6870 = .vscale 3 3 5 10 0 ∧ decode 0x91D14C00 = .ldxd 7 4 5 3 := by
  decide +kernel

/-- The words of 08, 09 and 10. -/
theorem test_decode_sync_matrix_copy : decode 0x99500040 = .stf 5 4 0 ∧ decode 0x99500081 = .feget 5 4 0 1 ∧
    decode 0x9C100000 = .mona 4 ∧ decode 0x9C000010 = .monc ∧ decode 0xA18C0040 = .relc 6 3 0 ∧
    decode 0xA5914800 = .fadd 6 4 5 2 false 0 ∧ decode 0xA8194013 = .bld 6 5 false 3 ∧ decode 0xA8C00030 = .acz 3 ∧
    decode 0xA8114052 = .acst 0 4 5 2 ∧ decode 0xAB018060 = .acrd 12 0 6 ∧ decode 0xA8C00080 = .mxstat 3 0 ∧
    decode 0xB050C000 = .cpy 1 4 3 0 ∧ decode 0xB448C000 = .cbinit 1 2 3 ∧ decode 0xB4240020 = .cbrel 9 0 := by decide +kernel

/-- The words of 13 and 15. -/
theorem test_decode_gates_tasks : decode 0xB80C0020 = .gabt 3 ∧ decode 0xB9580030 = .dinfo 5 6 ∧ decode 0xB848C040 = .gpub 1 2 3 ∧
    decode 0xB848C050 = .grev 1 2 3 ∧ decode 0xB8480070 = .hdrop 1 2 ∧ decode 0xBC48C000 = .tspawn 1 2 3 ∧ decode 0xBD580010 = .park 5 6 ∧
    decode 0xBD520020 = .qsend 5 4 8 ∧ decode 0xBD500040 = .eos 5 4 ∧ decode 0xBC480050 = .rqpush 1 2 ∧ decode 0xBC480060 = .rqpop 1 2 ∧
    decode 0xBC480070 = .timer 1 2 ∧ decode 0xBD500080 = .launch 5 4 ∧ decode 0xBD500090 = .depdec 5 4 ∧ decode 0xBC0000A0 = .exit ∧
    decode 0xBC0000B0 = .yield := by decide +kernel

/-- The words of 18, 20 and 21. -/
theorem test_decode_coherence_links : decode 0xC048C000 = .ptload 1 2 3 ∧ decode 0xC1140030 = .dirq 4 5 ∧ decode 0xC0114050 = .lwb 4 5 ∧
    decode 0xC5580010 = .lstat 5 6 ∧ decode 0xC8600000 = .npost 1 8 ∧ decode 0xC9580020 = .ncrd 5 6 ∧
    decode 0xC848D030 = .nreg 1 2 3 4 := by decide +kernel

/-- Bits 31 to 26 the major, 25 to 22 d, 21 to 18 a, 17 to 14 b (R40): each field of `add g3, g1, g2` with a bit changed. -/
theorem test_decode_fields : decodeTableWord 32 0x04C48000 = some (.add 3 1 2 false) ∧
    decodeTableWord 32 0x06C48000 = some (.add 11 1 2 false) ∧ decodeTableWord 32 0x04E48000 = some (.add 3 9 2 false) ∧
    decodeTableWord 32 0x04C68000 = some (.add 3 1 10 false) ∧ encode (.add 3 1 2 false) = some 0x04C48000 := by decide +kernel

/-! ### Worked values of 04 -/

/-- g3 after an instruction of a thread with g1, g2 and g4, once nothing is owed. -/
def g3 (i : Instr) (a b c : Word) : Word :=
  ((completeAll 0 (after (exec i (slot (user [(1, a), (2, b), (4, c)]))))).thread 0).rg 3

theorem test_div_values : g3 (.div 3 1 2 0 false) 0x8000000000000000 (-1) 0 = 0x8000000000000000 ∧
    g3 (.div 3 1 2 0 false) (-7) 2 0 = -3 ∧ g3 (.div 3 1 2 0 false) 5 0 0 = -1 ∧
    g3 (.div 3 1 2 0 true) 0x180000000 (-1) 0 = 0xFFFFFFFF80000000 := by decide +kernel

theorem test_rem_values : g3 (.rem 3 1 2 0 false) 0x8000000000000000 (-1) 0 = 0 ∧ g3 (.rem 3 1 2 0 false) (-7) 2 0 = -1 ∧
    g3 (.rem 3 1 2 0 false) 5 0 0 = 5 ∧ g3 (.divn 3 1 2 0 false) (-7) 2 0 = 0x7FFFFFFFFFFFFFFC := by decide +kernel

theorem test_shift_values : g3 (.shr 3 1 2 true) 0xFFFFFFFF80000000 36 0 = 0x08000000 ∧
    g3 (.sra 3 1 2 true) 0xFFFFFFFF80000000 36 0 = 0xFFFFFFFFF8000000 ∧ g3 (.clz 3 1 true) 0x100000000 0 0 = 32 := by decide +kernel

theorem test_high_products : g3 (.mulh 3 1 2 false) 0x8000000000000000 2 0 = -1 ∧ g3 (.mulhn 3 1 2 false) 0x8000000000000000 2 0 = 1 ∧
    g3 (.mulhn 3 1 2 true) 0xFFFFFFFF 0xFFFFFFFF 0 = 0xFFFFFFFFFFFFFFFE := by decide +kernel

theorem test_extracts : g3 (.extrs 3 1 2 4 false) 0xF000000000000000 60 8 = -1 ∧
    g3 (.extr 3 1 2 4 false) 0xF000000000000000 60 8 = 0xF := by decide +kernel

/-- A write of g0 is discarded (R72). -/
theorem test_g0 : reg 0 (exec (.add 0 1 2 false) (slot (user [(1, 5), (2, 6)]))) = 0 ∧
    pcOf (exec (.add 0 1 2 false) (slot (user []))) = 4 := by decide +kernel

/-! ### Worked values of 05 and 06 -/

/-- v1 after an instruction of a thread with v2, v3 and the old v1, with an HMOD payload where said. -/
def v1 (i : Instr) (a b d : Vec) (mods : List Nat) : Vec :=
  (after (exec i (slot { vecs a b d with hints := { hmods := mods.map (BitVec.ofNat 24) } }))).thr.rv 1

theorem test_vector_bytes : (v1 (.vadd 1 2 3 0 0) 0x70 0x20 0 []).setWidth 8 = (0x90 : Byte) ∧
    (v1 (.vadds 1 2 3 0 0) 0x70 0x20 0 []).setWidth 8 = (0x7F : Byte) ∧ (v1 (.vaddsn 1 2 3 0 0) 0xF0 0x20 0 []).setWidth 8 = (0xFF : Byte) ∧
    (v1 (.vsubsn 1 2 3 0 0) 0x10 0x20 0xFF []).setWidth 8 = (0 : Byte) ∧ (v1 (.vabs 1 2 0 0) 0x80 0 0 []).setWidth 8 = (0x80 : Byte) := by
  decide +kernel

theorem test_vector_saturates : (v1 (.vabs 1 2 0 0) 0x80 0 0 [0x100000]).setWidth 8 = (0x7F : Byte) ∧
    (v1 (.vshl 1 2 3 0 0) 0x30 2 0 [0x100000]).setWidth 8 = (0x7F : Byte) := by decide +kernel

theorem test_vector_halves : (v1 (.vsra 1 2 3 0 1) 0x8000 0x11 0 []).setWidth 16 = (0xC000 : BitVec 16) ∧
    (v1 (.vmulh 1 2 3 0 1) 0x4000 0x4000 0 []).setWidth 16 = (0x1000 : BitVec 16) ∧
    (v1 (.vavg 1 2 3 0 0) 0xFF 0 0xFF []).setWidth 8 = (0 : Byte) ∧ (v1 (.vavgn 1 2 3 0 0) 0xFF 0 0 []).setWidth 8 = (0x80 : Byte) := by
  decide +kernel

theorem test_vdot4 : (v1 (.vdot4 1 2 3 0) 0x0403FE01 0x08F90605 10 []).setWidth 32 = (14 : BitVec 32) := by decide +kernel

theorem test_masked_vadd : (after (exec (.vadd 1 2 3 1 2) (slot
      ((vecs 0x00000001000000010000000100000001 0x00000002000000020000000200000002 0x00000009000000090000000900000009).wm 1 0xF0)))).thr.rv 1 =
    0x00000009000000090000000300000009 := by decide +kernel

theorem test_vfmin : (v1 (.vfmin 1 2 3 0 2) 0x80000000 0 0 []).setWidth 32 = (0x80000000 : BitVec 32) ∧
    (v1 (.vfmax 1 2 3 0 2) 0x7FC00001 0x3F800000 0 []).setWidth 32 = (0x7FC00001 : BitVec 32) := by decide +kernel

/-- Narrowing of fp32 to e4m3 into bytes 4 to 7, with its flags: OF, UF and NX set, NV and DZ clear. -/
theorem test_narrowing :
    (let s := slot (vecs 0x7FC00000BAC0000043FA00003FC00000 0 0x11111111111111111111111111111111)
     let t := (after (exec (.vcvtf 1 2 9 11 0 1) s)).thr
     t.rv 1 = 0x11111111111111117F817F3C11111111 ∧ (v1 (.vcvtf 1 2 9 11 0 1) 0x43FA0000 0 0 [0x100000]).extractLsb' 32 8 = (0x7E : Byte)) := by
  decide +kernel

theorem test_dequantise : v1 (.vunpk4 1 2 13 10 0 0) 0x18563C83 0 0 [] = 0x3F80416000000000000000003FC04040 := by decide +kernel

/-! ### Steps -/

/-- The first instruction after reset, where it is placed and selected (log entry 6). -/
theorem test_first_step : reg 3 (step (State.reset.withFetchWord 32 0x0CD80005)) = 5 ∧
    pcOf (step (State.reset.withFetchWord 32 0x0CD80005)) = 0x50004 := by decide +kernel

/-- TRAP at level U takes its cause, its operand and the resumption after it (R340). -/
theorem test_trap :
    (let t := (after (exec (.trap 0x42) (slot { user [] with pc := 0x100 }))).thr
     t.epc = 0x104 ∧ t.ecause = 0x11 ∧ t.eaddr = 0x42 ∧ t.level = 1) := by decide +kernel

/-- A word of no instruction takes ILL at the word, with the word in eaddr (R54). -/
theorem test_illegal :
    (let t := (after (step (State.reset.withFetchWord 32 0xFFFFFFFF))).thr
     t.ecause = 1 ∧ t.eaddr = 0xFFFFFFFF ∧ t.epc = 0x50000) := by decide +kernel

end Sys2Proof.Tests
end

section
namespace Sys2Proof.Machine

/-! ## O59: every step keeps the two memories in the canonical form

The form is kept by every function on states that a step reaches, so there is one lemma per function, named after it
(`State.Canonical.f`), and the lemma of a caller cites those of its callees. `Yields`, `Offers` and `Keeps` say of a
computation that may stop, of an optional answer and of an outcome that what they hold keeps a property; their rules
come first. The bytes change in few places (`writeBytes`, `write64`, `freshRange` and `putHostWord`, whose lemmas stand
in the laws above); nearly every other function only updates further fields (`State.Canonical.update`). The lemmas
follow the order of the model's files. -/

/-- What a computation answers, where it does not stop, satisfies P. -/
def Yields {ε α : Type} (P : α → Prop) (x : Except ε α) : Prop := ∀ a, x = .ok a → P a

/-- What an optional answer holds, where it holds one, satisfies P. -/
def Offers {α : Type} (P : α → Prop) (o : Option α) : Prop := ∀ a, o = some a → P a

section Rules
variable {ε ε' α β : Type} {P : α → Prop} {Q : β → Prop}

theorem Yields.ok {a : α} (h : P a) : Yields P (.ok a : Except ε α) := by
  rintro _ ⟨⟩; exact h

theorem Yields.ok_fst {s : State} {b : β} (h : s.Canonical) :
    Yields (·.1.Canonical) (.ok (s, b) : Except ε (State × β)) :=
  .ok h

theorem Yields.ok_snd {s : State} {b : β} (h : s.Canonical) :
    Yields (·.2.Canonical) (.ok (b, s) : Except ε (β × State)) :=
  .ok h

theorem Yields.of_ok {x : Except ε α} {a : α} (e : x = .ok a) (h : Yields P x) : P a := h a e

theorem Yields.error {e : ε} : Yields P (.error e : Except ε α) := nofun

/-- A computation in sequence: what the first part answers satisfies P, and from there on the answer satisfies Q. -/
theorem Yields.bind {x : Except ε α} {f : α → Except ε β} (hx : Yields P x) (hf : ∀ a, P a → Yields Q (f a)) :
    Yields Q (x >>= f) := by
  cases x with
  | error e => exact Yields.error
  | ok a => exact hf a (hx a rfl)

/-- A computation in sequence whose first part answers no state. -/
theorem Yields.after {x : Except ε α} {f : α → Except ε β} (hf : ∀ a, Yields Q (f a)) : Yields Q (x >>= f) :=
  Yields.bind (P := fun _ => True) (fun _ _ => trivial) fun a _ => hf a

theorem Yields.ok_bind {a : α} {f : α → Except ε β} (h : Yields Q (f a)) : Yields Q ((.ok a : Except ε α) >>= f) := h

theorem Yields.error_bind {e : ε} {f : α → Except ε β} : Yields Q ((.error e : Except ε α) >>= f) := Yields.error

theorem Yields.map {x : Except ε α} {f : α → β} (hx : Yields P x) (hf : ∀ a, P a → Q (f a)) : Yields Q (x.map f) := by
  cases x with
  | error e => exact Yields.error
  | ok a => exact .ok (hf a (hx a rfl))

theorem Yields.mapError {x : Except ε α} {f : ε → ε'} (hx : Yields P x) : Yields P (x.mapError f) := by
  cases x with
  | error e => exact Yields.error
  | ok a => exact .ok (hx a rfl)

/-- A loop that may stop: what every round keeps holds at its end. -/
theorem Yields.foldlM {f : α → β → Except ε α} {l : List β} {a : α} (h : P a) (hf : ∀ a b, P a → Yields P (f a b)) :
    Yields P (l.foldlM f a) := by
  induction l generalizing a with
  | nil => exact .ok h
  | cons b l ih => exact (hf a b h).bind fun _ => ih

theorem Yields.asEngine {va : Nat} {x : Except Stop α} (h : Yields P x) : Yields P (asEngine va x) := by
  cases x with
  | error e => exact Yields.error
  | ok a => exact .ok (h a rfl)

theorem Yields.orFirmware {va : Nat} {x : Except Nat α} (h : Yields P x) : Yields P (orFirmware va x) := by
  cases x with
  | error e => exact Yields.error
  | ok a => exact .ok (h a rfl)

/-- A fault of a pool becomes an empty answer. -/
theorem Yields.unlessFault {x : Except Stop α} (h : Yields P x) : Yields (Offers P) (unlessFault x) := by
  unfold Machine.unlessFault
  split
  · exact .ok fun _ e => Option.some.inj e ▸ h _ rfl
  · exact .error
  · exact .ok nofun

theorem Yields.exhaustible {va : Word} {x : Except Stop α} (h : Yields P x) : Yields P (exhaustible va x) := h.mapError

theorem Offers.offer {a : α} (h : P a) : Offers P (some a) := by
  rintro _ ⟨⟩; exact h

theorem Offers.nothing : Offers P none := nofun

theorem Offers.map {o : Option β} {f : β → α} (hf : ∀ b, P (f b)) : Offers P (o.map f) := by
  cases o with
  | none => exact .nothing
  | some b => exact .offer (hf b)

theorem Keeps.next {P : State → Prop} {s : State} (h : P s) : Keeps P (.next s) := by
  rintro _ ⟨⟩; exact h

theorem Keeps.fault {P : State → Prop} {r : Fault} : Keeps P (.fault r) := nofun

theorem Keeps.refused {P : State → Prop} {r : Refusal} : Keeps P (.refused r) := nofun

/-- An update of fields other than the two memories keeps the form; written over the constructor, so that unifying
with an update finds the state it is one of. -/
theorem State.Canonical.update {s : State} {now cur drawn bringUpError serial borderRuns : Nat} {agenda : List Turn}
    {stopped tripped ready : Bool} {side : SMap (BitVec 32)} {pageClear credits refills spill borrowed : SMap Nat}
    {threads : SMap Thread} {cores : SMap CoreState} {clusters : SMap Cluster} {parts : SMap Partition}
    {units : SMap WorkUnit} {feLists : SMap (List FeWaiter)} {rsvQueues : SMap (List Nat)} {held : SMap (List Held)}
    {coh : Coh} {tokens : SMap (Option Nat)} {deferred : SMap (List (Nat × Bool))} {coreRequests : List Instr}
    {checks : List (Nat × Nat)} {bundles : SMap Bundle} {ports : BitVec 8} {hostFns : SMap HostFn}
    {reports : List Report} {usedWorlds : List Nat} (h : s.Canonical) :
    State.Canonical
      { now := now, agenda := agenda, cur := cur, drawn := drawn, stopped := stopped, tripped := tripped,
        ready := ready, bringUpError := bringUpError, mem := s.mem, side := side, pageClear := pageClear,
        threads := threads, cores := cores, clusters := clusters, parts := parts, units := units, serial := serial,
        feLists := feLists, rsvQueues := rsvQueues, held := held, coh := coh, tokens := tokens,
        deferred := deferred, credits := credits, refills := refills, spill := spill, borrowed := borrowed,
        borderRuns := borderRuns, coreRequests := coreRequests, checks := checks, bundles := bundles,
        ports := ports, hostFns := hostFns, hostMem := s.hostMem, reports := reports, usedWorlds := usedWorlds } := h

theorem State.Canonical.ite {c : Prop} [Decidable c] {s t : State} (hs : s.Canonical) (ht : t.Canonical) :
    (if c then s else t).Canonical := by
  split
  · exact hs
  · exact ht

theorem State.Canonical.getD {o : Option State} {s : State} (ho : Offers State.Canonical o) (hs : s.Canonical) :
    (o.getD s).Canonical := by
  cases o with
  | none => exact hs
  | some t => exact ho t rfl

/-- A loop over states: what every round keeps holds at its end. -/
theorem State.Canonical.foldl {f : State → α → State} {l : List α} {s : State} (h : s.Canonical)
    (hf : ∀ s a, s.Canonical → (f s a).Canonical) : (l.foldl f s).Canonical := by
  induction l generalizing s with
  | nil => exact h
  | cons a l ih => exact ih (hf s a h)

/-- A loop over states that gathers something beside. -/
theorem State.Canonical.foldl_fst {f : State × β → α → State × β} {l : List α} {r : State × β} (h : r.1.Canonical)
    (hf : ∀ r a, r.1.Canonical → (f r a).1.Canonical) : (l.foldl f r).1.Canonical := by
  induction l generalizing r with
  | nil => exact h
  | cons a l ih => exact ih (hf r a h)

theorem State.Canonical.of_fst_eq {p : State × α} {t : State} {x : α} (e : p = (t, x)) (h : p.1.Canonical) :
    t.Canonical := by
  subst e; exact h

theorem State.Canonical.of_snd_eq {p : α × State} {t : State} {x : α} (e : p = (x, t)) (h : p.2.Canonical) :
    t.Canonical := by
  subst e; exact h

end Rules

/-! ### Machine/Ops -/

theorem State.Canonical.setThread {s : State} {k : Nat} {t : Thread} (h : s.Canonical) :
    (s.setThread k t).Canonical :=
  h.update

theorem State.Canonical.mapThread {s : State} {k : Nat} {f : Thread → Thread} (h : s.Canonical) :
    (s.mapThread k f).Canonical :=
  h.setThread

theorem State.Canonical.setCore {s : State} {n : Nat} {c : CoreState} (h : s.Canonical) :
    (s.setCore n c).Canonical :=
  h.update

theorem State.Canonical.setCluster {s : State} {c : Nat} {x : Cluster} (h : s.Canonical) :
    (s.setCluster c x).Canonical :=
  h.update

theorem State.Canonical.setPart {s : State} {p : Nat} {x : Partition} (h : s.Canonical) :
    (s.setPart p x).Canonical :=
  h.update

theorem State.Canonical.setThr {s : State} {t : Thread} (h : s.Canonical) :
    (s.setThr t).Canonical :=
  h.setThread

theorem State.Canonical.mapThr {s : State} {f : Thread → Thread} (h : s.Canonical) :
    (s.mapThr f).Canonical :=
  h.setThr

theorem State.Canonical.next {s : State} (h : s.Canonical) :
    s.next.Canonical :=
  h.update

theorem State.Canonical.divideComplete {s : State} {n : Nat} (h : s.Canonical) :
    (divideComplete n s).Canonical := by
  unfold Machine.divideComplete
  split
  · exact h
  · exact h.setCore.mapThread

theorem State.Canonical.completeDivides {s : State} {k : Nat} {q : Pending → Bool} {a : Nat} (h : s.Canonical) :
    (completeDivides k q a s).Canonical := by
  induction a generalizing k q s with
  | zero =>
    unfold Machine.completeDivides
    exact h
  | succ _ ih =>
    unfold Machine.completeDivides
    split
    · exact ih h.divideComplete
    · exact h

theorem State.Canonical.completePending {s : State} {k : Nat} {q : Pending → Bool} (h : s.Canonical) :
    (completePending k q s).Canonical :=
  h.completeDivides.mapThread

theorem State.Canonical.completeAll {s : State} {k : Nat} (h : s.Canonical) :
    (completeAll k s).Canonical :=
  h.completePending

theorem State.Canonical.lineEvicted {s : State} {line : Nat} {trans : Bool} (h : s.Canonical) :
    (lineEvicted line trans s).Canonical := by
  unfold Machine.lineEvicted
  extract_lets s1
  have h1 : s1.Canonical := h.update
  clear_value s1
  split
  · exact h1.update
  · exact h1

theorem State.Canonical.writeNat {s : State} {a n x : Nat} (h : s.Canonical) :
    (s.writeNat a n x).Canonical :=
  h.writeBytes _ _

theorem State.Canonical.setDesc {s : State} {a : Nat} {d : BitVec 16} (h : s.Canonical) :
    (s.setDesc a d).Canonical :=
  h.setSideband _ _

theorem State.Canonical.setFe {s : State} {a : Nat} {x : BitVec 2} (h : s.Canonical) :
    (s.setFe a x).Canonical :=
  h.setSideband _ _

theorem State.Canonical.reportFill {s : State} {k how : Nat} {eaddr : Word} (h : s.Canonical) :
    (reportFill k how eaddr s).Canonical :=
  h.mapThread

theorem State.Canonical.post {s : State} {k cause : Nat} {eaddr : Word} (h : s.Canonical) :
    (post k cause eaddr s).Canonical :=
  h.mapThread

theorem State.Canonical.tellFirmware {s : State} {r : Report} (h : s.Canonical) :
    (tellFirmware r s).Canonical := by
  unfold Machine.tellFirmware
  extract_lets n s1
  have h1 : s1.Canonical := h.update
  clear_value s1
  clear_value n
  split
  · exact h1.post
  · exact h1

theorem State.Canonical.stopSlot {s : State} {k : Nat} (h : s.Canonical) :
    (stopSlot k s).Canonical :=
  h.mapThread.update

theorem State.Canonical.enterLevel {s : State} {a a1 : Nat} {a2 : Word} {a3 : Nat} {a4 : Word} {a5 : Nat}
    (h : s.Canonical) :
    (enterLevel a a1 a2 a3 a4 a5 s).Canonical := by
  induction a generalizing a1 a2 a3 a4 a5 s with
  | zero =>
    unfold Machine.enterLevel
    exact h.stopSlot
  | succ _ ih =>
    unfold Machine.enterLevel
    extract_lets _ s1
    have h1 : s1.Canonical := h.mapThread
    clear_value s1
    split
    · exact h1
    · split
      · exact h1.stopSlot
      · exact ih h1

theorem State.Canonical.enterTrap {s : State} {k : Nat} {resume : Word} {cause : Nat} {eaddr : Word} {l : Nat}
    (h : s.Canonical) :
    (enterTrap k resume cause eaddr l s).Canonical :=
  h.completeAll.enterLevel

theorem State.Canonical.trapAt {s : State} {k : Nat} {resume : Word} {t : Trap} (h : s.Canonical) :
    (trapAt k resume t s).Canonical :=
  h.enterTrap

theorem State.Canonical.trap {s : State} {k : Nat} {t : Trap} (h : s.Canonical) :
    (trap k t s).Canonical :=
  h.trapAt

theorem State.Canonical.retireSlot {s : State} {k : Nat} (h : s.Canonical) :
    (retireSlot k s).Canonical :=
  h.mapThread

theorem State.Canonical.retire {s : State} (h : s.Canonical) :
    (retire s).Canonical :=
  h.mapThr

theorem State.Canonical.retireTo {s : State} {pc : Word} (h : s.Canonical) :
    (retireTo pc s).Canonical :=
  h.mapThr

/-! ### Machine/FullEmpty -/

theorem State.Canonical.fePerform {s : State} {op : FeOp} {pa : Nat} {value : Word} (h : s.Canonical) :
    (fePerform op pa value s).1.Canonical := by
  unfold Machine.fePerform
  extract_lets _ _ _ _ s1 s2 s3
  have h1 : s1.Canonical := by
    unfold s1
    split
    · exact h.write64 _ _
    · exact h
  clear_value s1
  have h2 : s2.Canonical := by
    unfold s2
    split
    · exact h1.setFe
    · exact h1
  clear_value s2
  have h3 : s3.Canonical := by
    unfold s3
    split
    · exact h2.setFe
    · exact h2
  clear_value s3
  exact h3

theorem State.Canonical.serveWaiter {s : State} {w : FeWaiter} {pa : Nat} (h : s.Canonical) :
    (serveWaiter w pa s).Canonical := by
  unfold Machine.serveWaiter
  split
  rename_i s1 _ _ e
  have h1 : s1.Canonical := .of_fst_eq e h.fePerform
  extract_lets s2
  have h2 : s2.Canonical := h1.mapThread
  clear_value s2
  split
  · exact h2.reportFill
  · exact h2

theorem State.Canonical.examine {s : State} {a a1 a2 : Nat} (h : s.Canonical) :
    (examine a a1 a2 s).Canonical := by
  induction a generalizing a1 a2 s with
  | zero =>
    unfold Machine.examine
    exact h
  | succ _ ih =>
    unfold Machine.examine
    extract_lets l
    clear_value l
    split
    · exact h
    · exact ih (.serveWaiter h.update)

theorem State.Canonical.examineWord {s : State} {pa : Nat} (h : s.Canonical) :
    (examineWord pa s).Canonical :=
  .foldl h fun _ _ h2 => h2.examine

theorem State.Canonical.setFeNow {s : State} {pa : Nat} {x : BitVec 2} (h : s.Canonical) :
    (setFeNow pa x s).Canonical :=
  h.setFe.examineWord

theorem State.Canonical.freshNow {s : State} {lo n : Nat} (h : s.Canonical) :
    (freshNow lo n s).Canonical :=
  .foldl (h.freshRange _ _) fun _ _ h2 => h2.examineWord

theorem State.Canonical.freshScratch {s : State} {c off n : Nat} (h : s.Canonical) :
    (freshScratch c off n s).Canonical :=
  h.freshNow.setCluster

theorem State.Canonical.fillWords {s : State} {pa n : Nat} (h : s.Canonical) :
    (fillWords pa n s).Canonical :=
  .foldl h fun _ _ h2 => .ite h2.setFeNow h2

theorem State.Canonical.engineWrite {s : State} {pa : Nat} {l : List Byte} (h : s.Canonical) :
    (engineWrite pa l s).Canonical :=
  (h.writeBytes _ _).fillWords

/-! ### Machine/Routes -/

theorem State.Canonical.setBundle {s : State} {b : Nat} {x : Bundle} (h : s.Canonical) :
    (s.setBundle b x).Canonical :=
  h.update

theorem State.Canonical.enterRoute {s : State} {part : Option Nat} {cls : Nat} {a b : Die} (h : s.Canonical) :
    (enterRoute part cls a b s).Canonical :=
  .foldl h fun _ _ h2 => h2.setBundle

theorem State.Canonical.enterBoth {s : State} {part : Option Nat} {a b : Die} (h : s.Canonical) :
    (enterBoth part a b s).Canonical :=
  h.enterRoute.enterRoute

/-! ### Machine/Coherence -/

theorem State.Canonical.putPlane {s : State} {line : Nat} {p : Plane} (h : s.Canonical) :
    (s.putPlane line p).Canonical := by
  unfold State.putPlane
  extract_lets s1
  have h1 : s1.Canonical := h.update
  clear_value s1
  split
  · exact ((h1.writeBytes _ _).setSideband _ _).setSideband _ _
  · exact .foldl h1 fun _ _ h3 => h3.writeBytes _ _

theorem State.Canonical.writeBackStash {s : State} {line : Nat} (h : s.Canonical) :
    (writeBackStash line s).Canonical :=
  .foldl h fun _ _ h2 => .foldl h2 fun _ _ h4 => .foldl h4 fun _ _ h6 => h6.putPlane

theorem State.Canonical.enterSent {s : State} {fw : Bool} {l : List Msg} (h : s.Canonical) :
    (enterSent fw l s).Canonical := by
  unfold Machine.enterSent
  refine .foldl h fun _ _ h2 => ?_
  split
  · exact h2.enterRoute
  · exact h2

theorem State.Canonical.startCheck {s : State} {p line : Nat} (h : s.Canonical) :
    (startCheck p line s).Canonical :=
  h.update

theorem State.Canonical.exchange {s : State} {line : Nat} {f : Plane → Plane} {fw : Bool} (h : s.Canonical) :
    (exchange line f s fw).Canonical :=
  .foldl (.ite (.startCheck (.enterBoth (.enterSent (.ite h.update h.writeBackStash.putPlane))))
    (.enterSent (.ite h.update h.writeBackStash.putPlane))) fun _ _ h2 => h2.tellFirmware

theorem State.Canonical.demote {s : State} {p : Nat} {i : Option Nat} {b : Bool} (h : s.Canonical) :
    (demote p i b s).Canonical := by
  unfold Machine.demote
  split
  · exact h
  · split
    · exact h.setPart
    · exact h

theorem State.Canonical.evictLine {s : State} {line : Nat} (h : s.Canonical) :
    (evictLine line s).Canonical := by
  unfold Machine.evictLine
  extract_lets _ s1 _ s2
  have h1 : s1.Canonical := h.exchange
  clear_value s1
  have h2 : s2.Canonical := by
    unfold s2
    split
    · exact h1.writeBackStash
    · exact h1
  clear_value s2
  split
  · exact h1
  · exact .lineEvicted (.ite h2.enterRoute h2)

theorem State.Canonical.makeRoom {s : State} {a a1 a2 a3 : Nat} (h : s.Canonical) :
    Yields State.Canonical (makeRoom a a1 a2 a3 s) := by
  induction a generalizing a1 a2 a3 s with
  | zero =>
    unfold Machine.makeRoom
    exact .error
  | succ _ ih =>
    unfold Machine.makeRoom
    split
    · exact .ok h
    · extract_lets l
      split
      · exact .ok h
      · clear_value l
        split
        · exact .error
        · extract_lets s1
          have h1 : s1.Canonical := h.demote.evictLine
          clear_value s1
          split
          · exact .error
          · split
            · exact .error
            · exact ih h1

theorem State.Canonical.startClear {s : State} {line : Nat} (h : s.Canonical) :
    (startClear line s).Canonical := by
  unfold Machine.startClear
  split
  · exact h
  · exact h.update

theorem State.Canonical.fillLine {s : State} {c : Ctx} {at0 line : Nat} {low : Bool} (h : s.Canonical) :
    Yields State.Canonical (fillLine c at0 line low s) := by
  unfold Machine.fillLine
  split
  · exact .ok h
  · exact h.makeRoom.bind fun _ h2 => .ok (.startCheck (.startClear (.enterBoth h2.update)))

theorem State.Canonical.setCredit {s : State} {r i n : Nat} (h : s.Canonical) :
    (s.setCredit r i n).Canonical :=
  h.update

theorem State.Canonical.earn {s : State} {me : Nat × Bool} {i n : Nat} (h : s.Canonical) :
    (s.earn me i n).Canonical := by
  unfold State.earn
  split
  · exact h.mapThread
  · exact h.setCredit

theorem State.Canonical.borrowToken {s : State} {slice p : Nat} (h : s.Canonical) :
    Offers State.Canonical (borrowToken slice p s) := by
  unfold Machine.borrowToken
  extract_lets i
  split
  · exact .nothing
  · exact .map fun _ => h.update

theorem State.Canonical.takeToken {s : State} {c : Ctx} {slice : Nat} (h : s.Canonical) :
    Yields State.Canonical (takeToken c slice s) := by
  unfold Machine.takeToken
  extract_lets _ _
  split
  · exact .ok h
  · split
    · refine .ok ?_
      split
      · exact h.mapThread
      · exact h.setCredit
      · exact h
    · split
      · exact .error
      · split
        · exact .ok h.update
        · split
          · rename_i s1 e7
            have h1 : s1.Canonical := h.borrowToken _ e7
            exact .ok h1
          · exact .error

theorem State.Canonical.deferToken {s : State} {i k : Nat} {body : Bool} (h : s.Canonical) :
    Offers State.Canonical (deferToken i k body s) := by
  unfold Machine.deferToken
  extract_lets _ _ s1
  have h1 : s1.Canonical := h.update
  clear_value s1
  split
  · exact .offer h
  · split
    · exact .nothing
    · split
      · exact .offer (.earn h1.update)
      · exact .offer h1

theorem State.Canonical.agentAccess {s : State} {a line ev : Nat} {runs : List (Nat × List Byte)} {fw : Bool}
    (h : s.Canonical) :
    (agentAccess a line ev runs s fw).1.Canonical := by
  unfold Machine.agentAccess
  extract_lets _ s1 s2 _
  have h1 : s1.Canonical := h.update
  clear_value s1
  have h2 : s2.Canonical := h1.exchange
  clear_value s2
  split
  · exact h
  · split
    · exact h2.update
    · split
      · exact h2.update
      · split
        · exact h2
        · exact h2

theorem State.Canonical.uncached {s : State} {c : Ctx} {code line : Nat} {data : Payload} (h : s.Canonical) :
    Yields (·.1.Canonical) (uncached c code line data s) := by
  unfold Machine.uncached
  extract_lets slice _
  clear_value slice
  split
  · exact .error
  · extract_lets i3 s1 s2 _
    have h1 : s1.Canonical := h.update
    clear_value s1
    have h2 : s2.Canonical := h1.exchange
    clear_value s2
    clear_value i3
    split
    · exact .ok_fst h2
    · exact .ok_fst h2.update

theorem State.Canonical.maintainLine {s : State} {c : Ctx} {code a line : Nat} (h : s.Canonical) :
    Yields State.Canonical (maintainLine c code a line s) := by
  unfold Machine.maintainLine
  refine h.takeToken.bind fun _ h2 => ?_
  extract_lets s3
  have h3 : s3.Canonical := h2.exchange
  clear_value s3
  split
  · exact .error
  · exact .ok h3

theorem State.Canonical.cleanRange {s : State} {pa n : Nat} (h : s.Canonical) :
    (cleanRange pa n s).Canonical :=
  .foldl h fun _ _ h2 => h2.evictLine

theorem State.Canonical.makeWay {s : State} {a a1 a2 : Nat} (h : s.Canonical) :
    Yields State.Canonical (makeWay a a1 a2 s) := by
  induction a generalizing a1 a2 s with
  | zero =>
    unfold Machine.makeWay
    exact .error
  | succ _ ih =>
    unfold Machine.makeWay
    split
    · exact .ok h
    · extract_lets l
      split
      · exact .ok h
      · clear_value l
        split
        · exact .ok h
        · extract_lets _ s1
          have h1 : s1.Canonical := h.exchange
          clear_value s1
          split
          · exact ih h1
          · exact .error

theorem State.Canonical.takeWay {s : State} {a at0 line : Nat} (h : s.Canonical) :
    Yields State.Canonical (takeWay a at0 line s) := by
  unfold Machine.takeWay
  extract_lets _
  split
  · exact .ok h
  · exact State.Canonical.makeWay (.ite h.update h)

theorem State.Canonical.lineAccess {s : State} {c : Ctx} {pol : Policy} {at0 va code : Nat} {data : Payload}
    (h : s.Canonical) :
    Yields (·.1.Canonical) (lineAccess c pol at0 va code data s) := by
  unfold Machine.lineAccess
  extract_lets line s1 _ ev agent _ jp
  have h1 : s1.Canonical := h.enterBoth
  clear_value s1
  have hjp : ∀ x, x.Canonical → Yields (·.1.Canonical) (jp x) := by
    intro _ h3
    dsimp -zeta only [jp]
    refine h3.fillLine.bind fun _ h5 => ?_
    extract_lets s6
    have h6 : s6.Canonical := h5.demote
    clear_value s6
    clear_value agent
    split
    · rename_i x _
      extract_lets _ jp1
      have hjp1 : ∀ x, x.Canonical → Yields (·.1.Canonical) (jp1 x) := by
        intro _ h8
        dsimp -zeta only [jp1]
        clear_value line ev
        split
        · exact .ok_fst (.ite h8.agentAccess.update h8.agentAccess)
        · exact .error
        · exact .error
      clear_value jp1
      split
      · exact h6.takeWay.bind fun _ h10 => hjp1 _ h10
      · exact .ok_bind (hjp1 _ h6)
    · refine h6.uncached.bind fun _ h11 => ?_
      split
      · exact .ok_fst (.ite h11.writeBackStash h11)
      · exact .error
      · exact .error
  clear_value jp
  split
  · exact .ok_fst (.ite (.foldl h1 fun _ _ h13 => h13.writeBytes _ _) h1)
  · split
    · exact .ok_bind (hjp _ h)
    · exact h.takeToken.bind fun _ h15 => hjp _ h15

theorem State.Canonical.countRefused {s : State} {slice : Nat} (h : s.Canonical) :
    (countRefused slice s).Canonical :=
  h.update

theorem State.Canonical.loadPiece {s : State} {c : Ctx} {pol : Policy} {p : Piece} (h : s.Canonical) :
    Yields (·.1.Canonical) (loadPiece c pol p s) := by
  unfold Machine.loadPiece
  refine .foldlM h fun _ _ h1 => h1.lineAccess.bind fun _ h2 => ?_
  split
  split
  exact .ok_fst h2

theorem State.Canonical.loadSides {s : State} {c : Ctx} {pol : Policy} {p : Piece} (h : s.Canonical) :
    Yields (·.1.Canonical) (loadSides c pol p s) := by
  unfold Machine.loadSides
  refine .foldlM h fun _ _ h1 => h1.lineAccess.bind fun _ h2 => ?_
  split
  split
  exact .ok_fst h2

theorem State.Canonical.storePiece {s : State} {c : Ctx} {pol : Policy} {p : Piece} {l : List Byte} (h : s.Canonical) :
    Yields State.Canonical (storePiece c pol p l s) := by
  unfold Machine.storePiece
  refine .foldlM h fun _ _ h2 => ?_
  split
  extract_lets _
  refine h2.lineAccess.bind fun _ h3 => ?_
  split
  exact .ok h3

theorem State.Canonical.atHomes {s : State} {c : Ctx} {p : Piece} {code : Nat} (h : s.Canonical) :
    Yields State.Canonical (atHomes c p code s) :=
  .foldlM h fun _ _ h2 => h2.lineAccess.map fun _ h3 => h3

theorem State.Canonical.loadPieces {s : State} {c : Ctx} {a : List (Policy × Piece)} (h : s.Canonical) :
    Yields (·.1.Canonical) (loadPieces c a s) := by
  induction a generalizing c s with
  | nil =>
    unfold Machine.loadPieces
    exact .ok_fst h
  | cons _ _ ih =>
    unfold Machine.loadPieces
    refine h.loadPiece.bind fun _ h1 => ?_
    split
    refine (ih h1).bind fun _ h3 => ?_
    split
    exact .ok_fst h3

theorem State.Canonical.storePieces {s : State} {c : Ctx} {a : List (Policy × Piece)} {a1 : List Byte}
    (h : s.Canonical) :
    Yields State.Canonical (storePieces c a a1 s) := by
  induction a generalizing c a1 s with
  | nil =>
    unfold Machine.storePieces
    exact .ok h
  | cons _ _ ih =>
    unfold Machine.storePieces
    exact h.storePiece.bind fun _ h2 => ih h2

theorem State.Canonical.homeWrite {s : State} {pa : Nat} {x : Word} (h : s.Canonical) :
    (s.homeWrite pa x).Canonical := by
  unfold State.homeWrite
  extract_lets line d
  split
  · exact h.write64 _ _
  · clear_value line d
    split
    · rename_i s1 _ _ e1
      exact h.uncached _ e1
    · exact h.write64 _ _

theorem State.Canonical.ipaWrite {s : State} {p ipa : Nat} {x : Word} {fw : Bool} (h : s.Canonical) :
    Yields State.Canonical (ipaWrite s p ipa x fw) := by
  unfold Machine.ipaWrite
  split
  · split
    · exact .ok h.homeWrite
    · exact .error
  · exact .error

theorem State.Canonical.setDomWord {s : State} {p : Nat} {d : BitVec 12} {off : Nat} {x : Word} (h : s.Canonical) :
    (s.setDomWord p d off x).Canonical := by
  unfold State.setDomWord
  split
  · rename_i s1 e
    exact Yields.of_ok (P := State.Canonical) e h.ipaWrite
  · exact h

/-! ### Machine/Grants -/

theorem State.Canonical.recallLine {s : State} {line : Nat} (h : s.Canonical) :
    (recallLine line s).Canonical := by
  unfold Machine.recallLine
  split
  · split
    · rename_i s1 _ _ e1
      have h1 : s1.Canonical := h.uncached _ e1
      exact h1.writeBackStash
    · exact h
  · exact h

theorem State.Canonical.performPosted {s : State} {a a1 : Nat} (h : s.Canonical) :
    (performPosted a a1 s).Canonical := by
  induction a generalizing a1 s with
  | zero =>
    unfold Machine.performPosted
    exact h
  | succ _ ih =>
    unfold Machine.performPosted
    split
    · exact h
    · split
      · extract_lets s1
        have h1 : s1.Canonical := .recallLine h.update
        clear_value s1
        split
        rename_i s2 _ _ e2
        have h2 : s2.Canonical := .of_fst_eq e2 h1.fePerform
        exact ih (.ite h2.examineWord.reportFill h2.examineWord)
      · exact h

theorem State.Canonical.grantHead {s : State} {w : Nat} (h : s.Canonical) :
    (grantHead w s).Canonical := by
  unfold Machine.grantHead
  split
  · exact h
  · exact h.mapThread

theorem State.Canonical.grantNext {s : State} {w : Nat} (h : s.Canonical) :
    (grantNext w s).Canonical := by
  unfold Machine.grantNext
  extract_lets s1
  have h1 : s1.Canonical := h.performPosted
  clear_value s1
  split
  · exact .grantHead (.ite h1 h1.recallLine)
  · exact h1

theorem State.Canonical.passOn {s : State} {w : Nat} (h : s.Canonical) :
    (passOn w s).Canonical :=
  .grantNext h.update

theorem State.Canonical.leaveHeld {s : State} {me : Nat × Bool} {w : Nat} (h : s.Canonical) :
    (leaveHeld me w s).Canonical :=
  .grantNext h.update

theorem State.Canonical.leaveAllHeld {s : State} {me : Nat × Bool} (h : s.Canonical) :
    (leaveAllHeld me s).Canonical := by
  unfold Machine.leaveAllHeld
  split
  · exact h
  · exact .foldl h fun _ _ h2 => h2.leaveHeld

theorem State.Canonical.performedAt {s : State} {me : Nat × Bool} {pa n : Nat} (h : s.Canonical) :
    (performedAt me pa n s).Canonical := by
  unfold Machine.performedAt
  split
  · exact h
  · exact .foldl h fun _ _ h2 => .ite h2.leaveHeld h2

theorem State.Canonical.takePlace {s : State} {me : Nat × Bool} {w : Nat} (h : s.Canonical) :
    (takePlace me w s).Canonical := by
  unfold Machine.takePlace
  extract_lets _
  split
  · exact h
  · exact h.update

theorem State.Canonical.performedBy {s : State} {me : Option (Nat × Bool)} {pa n : Nat} (h : s.Canonical) :
    (performedBy me pa n s).Canonical := by
  unfold Machine.performedBy
  split
  · exact h.performedAt
  · exact h

/-! ### Machine/Access -/

theorem State.Canonical.walkerRead {s : State} {c : Ctx} {va at0 : Nat} (h : s.Canonical) :
    Yields State.Canonical (walkerRead c va at0 s) := by
  unfold Machine.walkerRead
  extract_lets _
  refine h.lineAccess.bind fun _ h1 => ?_
  split
  exact .ok (.ite h1.update h1)

theorem State.Canonical.lookup {s : State} {c : Ctx} {p : Piece} (h : s.Canonical) :
    Yields State.Canonical (lookup c p s) := by
  unfold Machine.lookup
  split
  · exact .ok h
  · extract_lets x _ jp
    have hjp : ∀ x, x.Canonical → Yields State.Canonical (jp x) := by
      intro _ h2
      dsimp -zeta only [jp]
      refine .ok ?_
      split
      · exact h2.setCore
      · exact h2
    clear_value jp
    split
    · exact .ok h
    · split
      · exact .ok_bind (hjp _ h)
      · exact Yields.bind (P := State.Canonical) (.foldlM h fun _ _ h4 => h4.walkerRead)
          fun _ h6 => .ok_bind (hjp _ h6.setCluster)

theorem State.Canonical.updateEntry {s : State} {c : Ctx} {va a : Nat} {e : Word} (h : s.Canonical) :
    Yields State.Canonical (updateEntry c va a e s) := by
  unfold Machine.updateEntry
  refine h.lineAccess.bind fun _ h1 => ?_
  split
  exact .ok (h1.write64 _ _)

theorem State.Canonical.writeRecordWord {s : State} {me : Option (Nat × Bool)} {p : Nat} {d : BitVec 12} {off : Nat}
    {x : Word} (h : s.Canonical) :
    Yields State.Canonical (writeRecordWord me p d off x s) := by
  unfold Machine.writeRecordWord
  split
  · exact .ok h
  · split
    · exact .error
    · exact .ok h.setDomWord.performedBy

theorem State.Canonical.touch {s : State} {c : Ctx} {k : Access} {p : Piece} (h : s.Canonical) :
    Yields State.Canonical (touch c k p s) := by
  unfold Machine.touch
  split
  · exact .ok h
  · extract_lets _ _ _ _
    split
    · split
      · exact h.updateEntry
      · exact .ok h
    · split
      · exact .error
      · exact .bind h.updateEntry fun _ h2 => h2.writeRecordWord

theorem State.Canonical.touchAll {s : State} {c : Ctx} {k : Access} {a : List Piece} (h : s.Canonical) :
    Yields State.Canonical (touchAll c k a s) := by
  induction a generalizing c k s with
  | nil =>
    unfold Machine.touchAll
    exact .ok h
  | cons _ _ ih =>
    unfold Machine.touchAll
    split
    · rename_i s1 e
      have h1 : s1.Canonical := h.touch _ e
      exact ih h1
    · exact .error

theorem State.Canonical.dropLines {s : State} {a : Nat} {ranges : List (Nat × Nat)} (h : s.Canonical) :
    (dropLines a ranges s).Canonical :=
  .foldl h fun _ _ h2 => h2.exchange

theorem State.Canonical.refreshEntry {s : State} {c : Ctx} {i : Nat} (h : s.Canonical) :
    Yields State.Canonical (refreshEntry c i s) := by
  unfold Machine.refreshEntry
  extract_lets _
  split
  · exact .after fun _ => .after fun _ => h.touchAll.bind fun _ h2 => .ok h2.dropLines.setCluster
  · exact .ok h

theorem State.Canonical.charge {s : State} {c : Ctx} {k : Access} {ps : List Piece} (h : s.Canonical) :
    Yields State.Canonical (charge c k ps s) := by
  unfold Machine.charge
  refine Yields.bind (P := State.Canonical) (.foldlM h fun _ _ h2 => h2.lookup)
    fun _ h4 => Yields.bind (P := State.Canonical) (.foldlM h4 fun _ _ h6 => ?_) fun _ h8 => h8.touchAll
  split
  · exact h6.refreshEntry
  · exact .ok h6

theorem State.Canonical.access {s : State} {c : Ctx} {va n : Nat} {k : Access} (h : s.Canonical) :
    Yields (·.1.Canonical) (access s c va n k) :=
  .after fun _ => .after fun _ => h.charge.bind fun _ h2 => .ok_fst h2

theorem State.Canonical.accesses {s : State} {c : Ctx} {k : Access} {a : List (Nat × Nat)} (h : s.Canonical) :
    Yields (·.1.Canonical) (accesses c k a s) := by
  induction a generalizing c k s with
  | nil =>
    unfold Machine.accesses
    exact .ok_fst h
  | cons _ _ ih =>
    unfold Machine.accesses
    extract_lets jp
    have hjp : ∀ x, x.1.Canonical → Yields (·.1.Canonical) (jp x) := by
      intro _ h1
      dsimp -zeta only [jp]
      exact (ih h1).bind fun _ h2 => .ok_fst h2
    clear_value jp
    split
    · rename_i r3 e
      have hr3 : r3.1.Canonical := h.access _ e
      exact .ok_bind (hjp _ hr3)
    · exact .error_bind

theorem State.Canonical.splitAccess {s : State} {c : Ctx} {k : Access} {l : List (Nat × Nat)} (h : s.Canonical) :
    Yields (·.1.Canonical) (splitAccess c k l s) :=
  .after fun _ => .after fun _ => h.charge.bind fun _ h2 => .ok_fst h2

/-! ### Machine/Pages -/

theorem State.Canonical.ringAdvance {s : State} {p : Nat} (h : s.Canonical) :
    (ringAdvance s p).Canonical := by
  unfold Machine.ringAdvance
  extract_lets ring
  clear_value ring
  split
  · split
    · rename_i s1 e1
      exact Yields.of_ok (P := State.Canonical) e1 h.ipaWrite
    · exact h
  · exact h

theorem State.Canonical.writeRecord {s : State} {p : Nat} {r : PageReq} {pa : Nat} (h : s.Canonical) :
    (writeRecord s p r pa).Canonical :=
  h.homeWrite.homeWrite.homeWrite.setFeNow.homeWrite.setPart.ringAdvance

theorem State.Canonical.postDeferred {s : State} {p : Nat} (h : s.Canonical) :
    (postDeferred p s).Canonical := by
  unfold Machine.postDeferred
  split
  · exact h
  · split
    · split
      · exact h.writeRecord
      · exact h
    · exact h

theorem State.Canonical.writeNotice {s : State} {p : Nat} {n : Nat × Word × Word} {pa : Nat} (h : s.Canonical) :
    (writeNotice s p n pa).Canonical :=
  h.homeWrite.homeWrite.homeWrite.setFeNow.homeWrite.ringAdvance

theorem State.Canonical.postNotices {s : State} {p : Nat} (h : s.Canonical) :
    (postNotices p s).Canonical := by
  unfold Machine.postNotices
  split
  · exact h
  · split
    · exact h.setPart.writeNotice
    · exact h

theorem State.Canonical.notice {s : State} {p kind : Nat} {a b : Word} (h : s.Canonical) :
    (notice p kind a b s).Canonical :=
  h.setPart.postNotices

theorem State.Canonical.joinRequest {s : State} {p : Nat} {slot : Option Nat} {va : Nat} {dom : BitVec 12}
    {kind : Nat} (h : s.Canonical) :
    (joinRequest p slot va dom kind s).2.Canonical := by
  unfold Machine.joinRequest
  extract_lets page _ _ s1 _ s2
  have h1 : s1.Canonical := h.update
  have h2 : s2.Canonical := h1.setPart
  clear_value page
  split
  · extract_lets _ s3
    have h3 : s3.Canonical := h.setPart
    clear_value s3
    split
    · exact h3.homeWrite
    · exact h3
  · split
    · exact h2.postDeferred
    · exact h2

theorem State.Canonical.forgetRequests {s : State} {p : Nat} (h : s.Canonical) :
    (forgetRequests p s).Canonical :=
  h.setPart

theorem State.Canonical.mapRequest {s : State} {p number : Nat} {f : PageReq → PageReq} (h : s.Canonical) :
    (mapRequest p number f s).Canonical :=
  h.setPart

theorem State.Canonical.countParked {s : State} {p number : Nat} (h : s.Canonical) :
    (countParked p number s).Canonical := by
  unfold Machine.countParked
  split
  · split
    · exact h.homeWrite
    · exact h
  · exact h

theorem State.Canonical.leaveRequest {s : State} {p number slot : Nat} (h : s.Canonical) :
    (leaveRequest p number slot s).Canonical :=
  h.mapRequest.countParked.forgetRequests

theorem State.Canonical.joinEngine {s : State} {p tag va : Nat} {dom : BitVec 12} {kind : Nat} (h : s.Canonical) :
    (joinEngine p tag va dom kind s).2.Canonical := by
  unfold Machine.joinEngine
  split
  rename_i s1 e
  have h1 : s1.Canonical := .of_snd_eq e h.joinRequest
  exact h1.mapRequest

theorem State.Canonical.leaveEngine {s : State} {p number tag : Nat} (h : s.Canonical) :
    (leaveEngine p number tag s).Canonical :=
  h.mapRequest.forgetRequests

/-! ### Machine/Home -/

theorem State.Canonical.revoke {s : State} {k : Nat} (h : s.Canonical) :
    (revoke k s).Canonical := by
  unfold Machine.revoke
  split
  · exact h
  · split
    · exact h
    · split
      · exact h.mapThread.passOn
      · exact h.mapThread.update

theorem State.Canonical.leaveDeferred {s : State} {k : Nat} {body : Bool} (h : s.Canonical) :
    (leaveDeferred k body s).Canonical := by
  unfold Machine.leaveDeferred
  split
  · exact h
  · exact h.update

theorem State.Canonical.withdrawWait {s : State} {k : Nat} {body : Bool} {w : Wait} (h : s.Canonical) :
    (withdrawWait k body w s).Canonical := by
  unfold Machine.withdrawWait
  extract_lets _ _ _
  split
  · exact h.update
  · exact h.revoke
  · exact h.leaveRequest
  · exact h.leaveAllHeld
  · exact h.leaveDeferred
  · exact h.leaveDeferred.setCluster
  · exact h

theorem State.Canonical.withdraw {s : State} {k : Nat} (h : s.Canonical) :
    (withdraw k s).Canonical := by
  unfold Machine.withdraw
  extract_lets t s1 s2
  have h1 : s1.Canonical := by
    unfold s1
    clear_value t
    split
    · exact h.withdrawWait
    · exact h
  clear_value s1
  have h2 : s2.Canonical := by
    unfold s2
    clear_value t
    split
    · split
      · exact h1.withdrawWait
      · exact h1
    · exact h1
  clear_value s2
  exact h2.mapThread

theorem State.Canonical.trapNow {s : State} {k : Nat} {t : Trap} (h : s.Canonical) :
    (trapNow k t s).Canonical := by
  unfold Machine.trapNow
  split
  · exact h.withdraw.trap
  · exact h.trap

theorem State.Canonical.feFill {s : State} {k : Nat} {ea : Word} (h : s.Canonical) :
    (feFill k ea s).Canonical :=
  h.trapNow

/-! ### Machine/Issue -/

theorem State.Canonical.setVx {s : State} {u : Use} (h : s.Canonical) :
    (setVx u s).Canonical := by
  unfold Machine.setVx
  split
  · exact h.mapThr
  · exact h

theorem State.Canonical.consume {s : State} {t : State} {u : Use} (h : t.Canonical) :
    (consume u s t).Canonical := by
  unfold Machine.consume
  split
  · exact .foldl h fun _ _ h2 => h2.setCore
  · exact h

theorem State.Canonical.stopLine {s : State} {line : Nat} {stop : Option LineStop} (h : s.Canonical) :
    (stopLine line stop s).Canonical := by
  unfold Machine.stopLine
  split
  · exact h
  · extract_lets told _ _ _
    have htold : ∀ t, t.Canonical → (told t).Canonical := fun _ h2 => h2.tellFirmware
    clear_value told
    split
    · split
      · exact h
      · exact htold _ h.update
    · split
      · exact h
      · exact htold _ h.update

theorem State.Canonical.takeArrival {s : State} {o : Nat} (h : s.Canonical) :
    (takeArrival o s).Canonical := by
  unfold Machine.takeArrival
  extract_lets _ _
  split
  · exact h.setCluster
  · exact h

theorem State.Canonical.enterWait {s : State} {w : Wait} (h : s.Canonical) :
    (enterWait w s).2.Canonical := by
  unfold Machine.enterWait
  split
  · split
    · rename_i s1 e
      exact h.deferToken _ e
    · exact h
  · exact h
  · exact h

theorem State.Canonical.waitMarks {s : State} {w : Wait} (h : s.Canonical) :
    (waitMarks w s).Canonical := by
  unfold Machine.waitMarks
  split
  · exact h.stopLine
  · exact h.mapThr
  · exact h.takeArrival
  · exact h.takeArrival
  · split
    · exact h.next
    · exact h
  · exact h.takePlace
  · exact h

theorem State.Canonical.stopAt {s : State} {e : Stop} (h : s.Canonical) :
    (stopAt e s).Canonical := by
  unfold Machine.stopAt
  extract_lets me s1
  have h1 : s1.Canonical := h.leaveAllHeld
  clear_value s1
  split
  · exact h.leaveAllHeld.trapNow
  · clear_value me
    split
    rename_i s2 e3
    have h2 : s2.Canonical := .of_snd_eq e3 (.enterWait (.ite h h.leaveAllHeld))
    exact h2.waitMarks.mapThr
  · split
    rename_i s3 e5
    have h3 : s3.Canonical := .of_snd_eq e5 h1.joinRequest
    exact h3.mapThr

/-- An issue keeps the form where the body of the instruction does. -/
theorem State.Canonical.issue {s : State} {u : Use} {body : State → Except Stop State} (h : s.Canonical)
    (hbody : ∀ a, a.Canonical → Yields State.Canonical (body a)) :
    Keeps State.Canonical (issue u body s) := by
  unfold Machine.issue
  split
  · exact .next h.stopAt
  · split
    · rename_i s1 e3
      have h1 : s1.Canonical := (hbody _ h) _ e3
      exact .next (h1.setVx.consume)
    · exact .next h.stopAt

theorem State.Canonical.engineWaits {s : State} {r : Nat} {w : Option Wait} (h : s.Canonical) :
    (engineWaits r w s).Canonical := by
  unfold Machine.engineWaits
  split
  · exact h.takePlace
  · exact .getD h.deferToken h
  · exact h.stopLine
  · exact h

theorem State.Canonical.engineLeaves {s : State} {r : Nat} (h : s.Canonical) :
    (engineLeaves r s).Canonical :=
  h.leaveAllHeld.leaveDeferred

theorem State.Canonical.wg {s : State} {r : Reg} {x : Word} (h : s.Canonical) :
    (s.wg r x).Canonical :=
  h.mapThr

theorem State.Canonical.wv {s : State} {r : Reg} {x : Vec} (h : s.Canonical) :
    (s.wv r x).Canonical := by
  unfold State.wv
  split
  · exact h.setCore
  · exact h.mapThr

theorem State.Canonical.wm {s : State} {r : BitVec 2} {x : Mask} (h : s.Canonical) :
    (s.wm r x).Canonical :=
  h.mapThr

theorem State.Canonical.retireLong {s : State} {dest : Dest} {value : Vec} {n : Nat} {divide : Bool} (h : s.Canonical) :
    (retireLong dest value n divide s).Canonical :=
  h.mapThr.retire

/-! ### Machine/Fetch -/

theorem State.Canonical.cacheBlock {s : State} {n block : Nat} (h : s.Canonical) :
    (cacheBlock n block s).2.Canonical := by
  unfold Machine.cacheBlock
  split
  · exact h
  · exact h.setCore

theorem State.Canonical.fetchBlock {s : State} {k block : Nat} {miss : Bool} (h : s.Canonical) :
    Offers (·.2.Canonical) (fetchBlock k block miss s) := by
  unfold Machine.fetchBlock
  extract_lets fill
  have hfill : ∀ r, r.2.Canonical → Offers (·.2.Canonical) (fill r) := by
    intro r h1
    dsimp -zeta only [fill]
    exact .offer h1.mapThread
  clear_value fill
  split
  · split
    · exact .offer h
    · split
      · exact hfill _ h.cacheBlock
      · exact .nothing
  · split
    · exact hfill _ h.cacheBlock
    · exact .nothing

theorem State.Canonical.fetchAt {s : State} {miss : Bool} {k : Nat} {pc : Word} (h : s.Canonical) :
    Yields (·.2.Canonical) (fetchAt miss k pc s) := by
  unfold Machine.fetchAt
  split
  · exact .error
  · refine h.access.bind fun _ h1 => ?_
    split
    split
    · split
      · exact .ok_snd h1
      · split
        · rename_i s3 e1
          have h3 : s3.Canonical := h1.fetchBlock _ e1
          exact .ok_snd h3
        · exact .error
    · exact .error

theorem State.Canonical.fetchFault {s : State} {e : Stop} (h : s.Canonical) :
    (fetchFault e s).Canonical := by
  unfold Machine.fetchFault
  extract_lets _
  split
  · split
    · split
      · exact h.stopSlot
      · exact h.enterTrap
    · exact h.trapNow
  · exact h.stopAt

theorem State.Canonical.execFetchMissFill {s : State} {slot : Nat} (h : s.Canonical) :
    Keeps State.Canonical (execFetchMissFill slot s) := by
  unfold Machine.execFetchMissFill
  split
  · extract_lets s1
    have h1 : s1.Canonical := by
      unfold s1
      split
      · rename_i s2 e1
        exact h.fetchAt _ e1
      · exact h
    clear_value s1
    exact .next h1.mapThread
  · exact .next h

theorem State.Canonical.prefetchBlock {s : State} {k : Nat} {pc : Word} (h : s.Canonical) :
    (prefetchBlock k pc s).Canonical := by
  unfold Machine.prefetchBlock
  split
  · split
    · split
      · exact h.cacheBlock
      · exact h
    · split
      · exact h.cacheBlock
      · exact h
  · exact h

theorem State.Canonical.takeEvent {s : State} {k : Nat} {e : Posted} (h : s.Canonical) :
    (takeEvent k e s).Canonical :=
  h.withdraw.mapThread.enterTrap

/-! ### Machine/Branch -/

theorem State.Canonical.likelyFetch {s : State} {i : Word} (h : s.Canonical) :
    (likelyFetch i s).Canonical := by
  unfold Machine.likelyFetch
  split
  · exact h.prefetchBlock
  · exact h.prefetchBlock
  · exact h

theorem State.Canonical.branchTo {s : State} {i : Word} {taken : Bool} (h : s.Canonical) :
    (branchTo i taken s).Canonical := by
  unfold Machine.branchTo
  extract_lets s1
  have h1 : s1.Canonical := h.likelyFetch
  clear_value s1
  split
  · exact h1.retireTo
  · exact h1.retire

theorem State.Canonical.compareBranch {s : State} {word : Nat} {a b : Reg} {i : BitVec 14} {c : Word → Word → Bool}
    (h : s.Canonical) :
    Keeps State.Canonical (compareBranch word a b i c s) :=
  h.issue fun _ h2 => .ok h2.branchTo

theorem State.Canonical.zeroBranch {s : State} {word : Nat} {a : Reg} {i : BitVec 18} {c : Int → Bool}
    (h : s.Canonical) :
    Keeps State.Canonical (zeroBranch word a i c s) :=
  h.issue fun _ h2 => .ok h2.branchTo

theorem State.Canonical.execJr {s : State} {a : Reg} (h : s.Canonical) :
    Keeps State.Canonical (execJr a s) := by
  unfold Machine.execJr
  refine h.issue fun _ h2 => ?_
  split
  · exact .error
  · exact .ok h2.retireTo

theorem State.Canonical.execJlr {s : State} {d a : Reg} (h : s.Canonical) :
    Keeps State.Canonical (execJlr d a s) := by
  unfold Machine.execJlr
  refine h.issue fun _ h2 => ?_
  split
  · exact .error
  · exact .ok h2.wg.retireTo

/-! ### Machine/Memory -/

theorem State.Canonical.threadAccess {s : State} {k : Access} {l : List (Nat × Nat)} {each : Bool} (h : s.Canonical) :
    Yields (·.1.Canonical) (threadAccess k l s each) := by
  unfold Machine.threadAccess
  extract_lets jp
  have hjp : ∀ x, x.1.Canonical → Yields (·.1.Canonical) (jp x) := by
    intro _ h1
    dsimp -zeta only [jp]
    exact .after fun _ => .ok_fst h1
  clear_value jp
  split
  · exact h.accesses.bind fun _ h2 => hjp _ h2
  · exact h.splitAccess.bind fun _ h3 => hjp _ h3

theorem State.Canonical.performLoads {s : State} {nt : Bool} {ps : List Piece} (h : s.Canonical) :
    Yields (·.1.Canonical) (performLoads nt ps s) :=
  h.loadPieces

theorem State.Canonical.loadRanges {s : State} {nt : Bool} {l : List (Nat × Nat)} {each : Bool} (h : s.Canonical) :
    Yields (·.1.Canonical) (loadRanges s nt l each) := by
  unfold Machine.loadRanges
  refine h.threadAccess.bind fun _ h1 => ?_
  split
  exact h1.performLoads

theorem State.Canonical.performStores {s : State} {nt : Bool} {ps : List Piece} {l : List Byte} (h : s.Canonical) :
    Yields State.Canonical (performStores nt ps l s) := by
  unfold Machine.performStores
  extract_lets me
  clear_value me
  split
  · exact .error
  · exact h.storePieces.bind fun _ h2 => .ok (.foldl h2 fun _ _ h4 => h4.performedAt)

theorem State.Canonical.storeRanges {s : State} {nt : Bool} {l : List (Nat × List Byte)} (h : s.Canonical) :
    Yields State.Canonical (storeRanges s nt l) := by
  unfold Machine.storeRanges
  refine h.threadAccess.bind fun _ h1 => ?_
  split
  exact h1.performStores

theorem State.Canonical.depart {s : State} {n : Nat} (h : s.Canonical) :
    (depart n s).Canonical :=
  h.enterRoute.setCore.mapThr

theorem State.Canonical.renameWork {s : State} {f : Nat → Option Nat → Option Nat → Nat} (h : s.Canonical) :
    (renameWork f s).Canonical :=
  h.update

theorem State.Canonical.renameIssuer {s : State} {unit : Option Nat} {a b : Nat} (h : s.Canonical) :
    (renameIssuer unit a b s).Canonical :=
  h.renameWork

theorem State.Canonical.settleMigrant {s : State} {m : Migrant} {k : Nat} (h : s.Canonical) :
    (settleMigrant m k s).Canonical :=
  h.renameIssuer.setThread

theorem State.Canonical.arrive {s : State} {n : Nat} (h : s.Canonical) :
    (arrive n s).Canonical := by
  unfold Machine.arrive
  split
  · exact h
  · extract_lets _ s1 _ free _ _ _ _
    have h1 : s1.Canonical := h.setCore
    clear_value s1
    have hfree : ∀ t, t.Canonical → (free t).Canonical := fun _ h3 => h3.next.renameIssuer.setThread
    clear_value free
    split
    · exact h1.mapThread
    · split
      · exact (hfree _ h1).settleMigrant
      · split
        · exact hfree _ h1.setCore
        · exact h1.mapThread

theorem State.Canonical.dequeueArrival {s : State} {n : Nat} (h : s.Canonical) :
    (dequeueArrival n s).Canonical := by
  unfold Machine.dequeueArrival
  split
  · exact h.setCore.settleMigrant
  · exact h

theorem State.Canonical.loadTo {s : State} {va : Word} {n : Nat} {nt : Bool} {dest : Dest} {f : Nat → Vec} {l : Nat}
    (h : s.Canonical) :
    Yields State.Canonical (loadTo va n nt dest f l s) := by
  unfold Machine.loadTo
  refine h.threadAccess.bind fun _ h1 => ?_
  split
  split
  · exact .after fun _ => .ok h.depart
  · refine h1.performLoads.bind fun _ h3 => ?_
    split
    exact .ok h3.retireLong

theorem State.Canonical.storeFrom {s : State} {va : Word} {l : List Byte} {nt : Bool} (h : s.Canonical) :
    Yields State.Canonical (storeFrom va l nt s) := by
  unfold Machine.storeFrom
  refine h.threadAccess.bind fun _ h1 => ?_
  split
  split
  · exact .after fun _ => .ok h.depart
  · exact h1.performStores.bind fun _ h4 => .ok h4.retire

theorem State.Canonical.load {s : State} {word : Nat} {d b : Reg} {o : BitVec 10} {v : Bool} {l : BitVec 4} {n : Nat}
    {sx : Bool} (h : s.Canonical) :
    Keeps State.Canonical (load word d b o v l n sx s) :=
  h.issue fun _ h2 => h2.loadTo

theorem State.Canonical.store {s : State} {word : Nat} {d b : Reg} {o : BitVec 10} {v : Bool} {n : Nat}
    (h : s.Canonical) :
    Keeps State.Canonical (store word d b o v n s) :=
  h.issue fun _ h2 => h2.storeFrom

theorem State.Canonical.gatherTo {s : State} {each : Bool} {d : Reg} {n : Nat} {es : List Nat} {addr : Nat → Word}
    {l : Nat} (h : s.Canonical) :
    Yields State.Canonical (gatherTo each d n es addr l s) := by
  unfold Machine.gatherTo
  refine h.loadRanges.bind fun _ h1 => ?_
  split
  exact .ok h1.retireLong

theorem State.Canonical.execLongLatencyComplete {s : State} {slot : Nat} (h : s.Canonical) :
    Keeps State.Canonical (execLongLatencyComplete slot s) := by
  unfold Machine.execLongLatencyComplete
  split
  · exact .next h.completePending
  · exact .next h

/-! ### Machine/Sync -/

theorem State.Canonical.atomAccess {s : State} {ea : Word} {n align : Nat} {load store charged sync : Bool}
    (h : s.Canonical) :
    Yields (·.1.Canonical) (atomAccess ea n align load store charged sync s) := by
  unfold Machine.atomAccess
  refine .after fun _ => ?_
  extract_lets _ jp
  have hjp : ∀ x, Yields (·.1.Canonical) (jp x) := by
    intro x
    dsimp -zeta only [jp]
    refine .after fun _ => .after fun _ => ?_
    extract_lets jp1
    have hjp1 : ∀ x, x.Canonical → Yields (·.1.Canonical) (jp1 x) := fun _ h2 => .after fun _ => .ok_fst h2
    clear_value jp1
    split
    · exact h.charge.bind fun _ h4 => hjp1 _ h4
    · exact h.lookup.bind fun _ h6 => hjp1 _ h6
  clear_value jp
  split
  · exact .after fun _ => hjp _
  · exact hjp _

theorem State.Canonical.bringHome {s : State} {p : Piece} {writes : Bool} (h : s.Canonical) :
    Yields State.Canonical (bringHome p writes s) :=
  h.atHomes

theorem State.Canonical.homeDone {s : State} {p : Piece} (h : s.Canonical) :
    (homeDone p s).Canonical :=
  h.performedAt

theorem State.Canonical.refuse {s : State} {ea : Word} :
    Yields State.Canonical (refuse ea s) := by
  unfold Machine.refuse
  extract_lets _
  split
  · exact .error
  · exact .error

theorem State.Canonical.fePerformed {s : State} {op : FeOp} {p : Piece} {d : Reg} {l : BitVec 4} {ea : Word}
    (h : s.Canonical) :
    (fePerformed op p d l ea s).Canonical := by
  unfold Machine.fePerformed
  split
  rename_i s1 _ _ e
  have h1 : s1.Canonical := .of_fst_eq e h.fePerform
  extract_lets s2 s3 s4
  have h2 : s2.Canonical := by
    unfold s2
    split
    · exact h1.examineWord.homeDone
    · exact h1
  clear_value s2
  have h3 : s3.Canonical := h2.wg.retire
  clear_value s3
  have h4 : s4.Canonical := h2.retire
  clear_value s4
  split
  · exact h2.wg.retire
  · split
    · exact h3.feFill
    · exact h3
  · split
    · exact h4.feFill
    · exact h4
  · exact h2.retireLong
  · split
    · exact h2.retire.reportFill
    · exact h2.retire

theorem State.Canonical.fePark {s : State} {op : FeOp} {p : Piece} {d : Reg} {ea : Word} (h : s.Canonical) :
    Yields State.Canonical (fePark op p d ea s) := by
  unfold Machine.fePark
  split
  extract_lets _ _ _
  split
  · exact State.Canonical.refuse
  · exact .ok (.leaveAllHeld (.mapThr h.update))

theorem State.Canonical.postOp {s : State} {op : FeOp} {p : Piece} {d : Reg} {ea : Word} (h : s.Canonical) :
    (postOp op p d ea s).Canonical :=
  .retire h.update

theorem State.Canonical.feAtHome {s : State} {op : FeOp} {p : Piece} {d : Reg} {l : BitVec 4} {ea : Word}
    (h : s.Canonical) :
    Yields State.Canonical (feAtHome op p d l ea s) := by
  unfold Machine.feAtHome
  split
  · split
    · exact h.bringHome.bind fun _ h2 => .ok h2.postOp
    · exact .after fun _ => .ok h
  · refine h.bringHome.bind fun _ h4 => ?_
    split
    · exact .ok h4.fePerformed
    · exact h4.fePark

theorem State.Canonical.fullEmpty {s : State} {word : Nat} {op : FeOp} {d b : Reg} {o : BitVec 10} {l : BitVec 4}
    (h : s.Canonical) :
    Keeps State.Canonical (fullEmpty word op d b o l s) := by
  unfold Machine.fullEmpty
  extract_lets _
  refine h.issue fun _ h2 => .exhaustible (h2.atomAccess.bind fun _ h3 => ?_)
  split
  exact h3.feAtHome

theorem State.Canonical.execFeretry {s : State} {slot : Nat} (h : s.Canonical) :
    Keeps State.Canonical (execFeretry slot s) := by
  unfold Machine.execFeretry
  split
  · exact .next h.withdraw.trap
  · exact .next h.withdraw.trap
  · exact .next h

theorem State.Canonical.execMwait {s : State} {d a : Reg} (h : s.Canonical) :
    Keeps State.Canonical (execMwait d a s) := by
  unfold Machine.execMwait
  refine h.issue fun _ h2 => ?_
  extract_lets _
  split
  · exact .error
  · split
    · exact .ok h2.mapThr
    · exact .error

theorem State.Canonical.execMwaitTimeout {s : State} {slot : Nat} (h : s.Canonical) :
    Keeps State.Canonical (execMwaitTimeout slot s) := by
  unfold Machine.execMwaitTimeout
  split
  · exact .next h.mapThread
  · exact .next h

theorem State.Canonical.reserve {s : State} {d : Reg} {pair : Bool} {ea : Word} {p : Piece} (h : s.Canonical) :
    Yields State.Canonical (reserve d pair ea p s) := by
  unfold Machine.reserve
  extract_lets _ _ _ jp
  have hjp : ∀ x, x.Canonical → Yields State.Canonical (jp x) :=
    fun _ h2 => .ok (.ite (.grantNext (.mapThr h2.update)) (.mapThr h2.update))
  clear_value jp
  split
  · exact State.Canonical.refuse
  · split
    · exact h.bringHome.bind fun _ h4 => hjp _ h4
    · exact .ok_bind (hjp _ h)

theorem State.Canonical.execRsv {s : State} {d b : Reg} {o : BitVec 10} {l : BitVec 4} (h : s.Canonical) :
    Keeps State.Canonical (execRsv d b o l s) := by
  unfold Machine.execRsv
  refine h.issue fun _ h2 => .exhaustible (h2.atomAccess.bind fun _ h3 => ?_)
  split
  exact h3.reserve

theorem State.Canonical.execRsvt {s : State} {d b : Reg} {o : BitVec 10} {l : BitVec 4} (h : s.Canonical) :
    Keeps State.Canonical (execRsvt d b o l s) := by
  unfold Machine.execRsvt
  refine h.issue fun _ h2 => .exhaustible (h2.atomAccess.bind fun _ h3 => ?_)
  split
  split
  · exact h3.reserve
  · exact .ok h3.wg.wg.retire

theorem State.Canonical.release {s : State} {p : Piece} {x : Word} (h : s.Canonical) :
    Yields (·.1.Canonical) (release p x s) := by
  unfold Machine.release
  split
  · exact .ok_fst h
  · split
    · exact .ok_fst h.mapThr
    · exact h.bringHome.bind fun _ h2 => .ok_fst ((h2.mapThr.write64 _ _).passOn)

theorem State.Canonical.execRel {s : State} {d b : Reg} {o : BitVec 10} (h : s.Canonical) :
    Keeps State.Canonical (execRel d b o s) := by
  unfold Machine.execRel
  refine h.issue fun _ h2 => ?_
  extract_lets jp
  have hjp : ∀ x, Yields State.Canonical (jp x) := by
    intro x
    dsimp -zeta only [jp]
    exact h2.atomAccess.bind fun _ h3 => h3.release.bind fun _ h4 => .ok h4.retire
  clear_value jp
  split
  · exact .error_bind
  · exact hjp _

theorem State.Canonical.execRelc {s : State} {d b : Reg} {o : BitVec 10} (h : s.Canonical) :
    Keeps State.Canonical (execRelc d b o s) := by
  unfold Machine.execRelc
  split
  · rename_i x _ _ _ _
    exact .next h.stopAt
  · refine h.issue fun _ h2 => ?_
    extract_lets jp
    have hjp : ∀ x, Yields State.Canonical (jp x) := by
      intro _
      dsimp -zeta only [jp]
      exact h2.atomAccess.bind fun _ h3 => h3.release.bind fun _ h4 => .ok (.ite h4.retireTo h4.retire)
    clear_value jp
    split
    · exact .error_bind
    · exact hjp _

theorem State.Canonical.execReservationTimeout {s : State} {word : Nat} (h : s.Canonical) :
    Keeps State.Canonical (execReservationTimeout word s) := by
  unfold Machine.execReservationTimeout
  split
  · split
    · split
      · exact .next h.revoke
      · exact .next h
    · exact .next h
  · exact .next h

theorem State.Canonical.farAtomic {s : State} {word : Nat} {d a : Reg} {b : Option Reg} {l : BitVec 4} {w : Bool}
    {r : BitVec 2} {pair expects : Bool} {f : Nat → Nat → Nat → Nat → Nat → Nat × Nat} (h : s.Canonical) :
    Keeps State.Canonical (farAtomic word d a b l w r pair expects f s) := by
  unfold Machine.farAtomic
  refine h.issue fun _ h2 => h2.atomAccess.bind fun _ h3 => ?_
  split
  refine .after fun _ => h3.bringHome.bind fun _ h6 => ?_
  extract_lets m x
  clear_value m x
  split
  exact .ok h6.writeNat.homeDone.retireLong

theorem State.Canonical.farOld {s : State} {word : Nat} {d a b : Reg} {l : BitVec 4} {w : Bool} {r : BitVec 2}
    {f : Nat → Nat → Nat → Nat} (h : s.Canonical) :
    Keeps State.Canonical (farOld word d a b l w r f s) :=
  h.farAtomic

/-! ### Machine/Stash -/

theorem State.Canonical.unmapEntry {s : State} {cl i : Nat} (h : s.Canonical) :
    (unmapEntry cl i s).Canonical := by
  unfold Machine.unmapEntry
  extract_lets _ s1 _
  have h1 : s1.Canonical := h.dropLines
  clear_value s1
  split
  · exact h1.setCluster
  · exact h

theorem State.Canonical.unmapWhere {s : State} {cl : Nat} {q : StashEntry → Bool} (h : s.Canonical) :
    (unmapWhere cl q s).Canonical :=
  .foldl h fun _ _ h2 => h2.unmapEntry

theorem State.Canonical.execStmap {s : State} {d a b c : Reg} (h : s.Canonical) :
    Keeps State.Canonical (execStmap d a b c s) := by
  unfold Machine.execStmap
  refine h.issue fun _ h2 => .after fun _ => .after fun _ => ?_
  extract_lets _ _ _ cl
  split
  · exact .error
  · split
    · exact .error
    · refine .after fun _ => .after fun _ => ?_
      clear_value cl
      split
      · exact .ok h2.wg.retire
      · split
        · exact .ok h2.wg.retire
        · exact h2.charge.bind fun _ h4 => .ok h4.setCluster.wg.retire

theorem State.Canonical.execStunmap {s : State} {d a : Reg} (h : s.Canonical) :
    Keeps State.Canonical (execStunmap d a s) := by
  unfold Machine.execStunmap
  refine h.issue fun _ h2 => ?_
  extract_lets _ _
  split
  · exact .ok h2.unmapEntry.wg.retire
  · exact .ok h2.wg.retire

theorem State.Canonical.prefetchLine {s : State} {llcOnly : Bool} {p : Piece} {at0 : Nat} (h : s.Canonical) :
    (prefetchLine llcOnly p at0 s).Canonical := by
  unfold Machine.prefetchLine
  extract_lets _ r
  have hr : Yields State.Canonical r := by
    unfold r
    split
    · split
      · exact .ok h
      · split
        · exact .ok h
        · exact h.takeToken.bind fun _ h2 => h2.fillLine
    · exact h.lineAccess.map fun _ h3 => h3
  clear_value r
  split
  · rename_i s4
    exact hr _ rfl
  · exact h

theorem State.Canonical.setTensors {s : State} {p : Nat} {x : SMap Tensor} (h : s.Canonical) :
    (s.setTensors p x).Canonical :=
  h.setPart

theorem State.Canonical.tensorRecord {s : State} {w0 w1 w2 w3 : Nat} (h : s.Canonical) :
    Yields (·.1.Canonical) (tensorRecord w0 w1 w2 w3 s) := by
  unfold Machine.tensorRecord
  extract_lets c ts _ _ _ id
  split
  · exact .ok_fst h
  · split
    · clear_value c ts id
      split
      · exact .ok_fst h.cleanRange.setTensors
      · exact .ok_fst h
    · split
      · exact .ok_fst h
      · clear_value ts
        split
        · exact .ok_fst h
        · refine .after fun _ => .after fun _ => ?_
          extract_lets _ _
          split
          · exact .ok_fst h
          · split
            · exact .ok_fst h
            · exact h.charge.bind fun _ h2 => .ok_fst h2.cleanRange.setTensors

theorem State.Canonical.execTilereg {s : State} {d a : Reg} (h : s.Canonical) :
    Keeps State.Canonical (execTilereg d a s) := by
  unfold Machine.execTilereg
  refine h.issue fun _ h2 => .after fun _ => h2.loadRanges.bind fun _ h3 => ?_
  split
  extract_lets _
  refine h3.tensorRecord.bind fun _ h5 => ?_
  split
  exact .ok h5.wg.retire

theorem State.Canonical.execTres {s : State} {d a b : Reg} (h : s.Canonical) :
    Keeps State.Canonical (execTres d a b s) := by
  unfold Machine.execTres
  refine h.issue fun _ h2 => ?_
  extract_lets _ ts
  clear_value ts
  split
  · exact .ok h2.wg.retire
  · split
    · exact .ok h2.wg.retire
    · exact .ok h2.setTensors.wg.retire

/-! ### Machine/Buffers -/

theorem State.Canonical.setBuffer {s : State} {c b : Nat} {x : Buffer} (h : s.Canonical) :
    (s.setBuffer c b x).Canonical :=
  h.setCluster

theorem State.Canonical.setTask {s : State} {n id : Nat} {x : Task} (h : s.Canonical) :
    (s.setTask n id x).Canonical :=
  h.setCore

theorem State.Canonical.pushReady {s : State} {n id : Nat} (h : s.Canonical) :
    (pushReady n id s).Canonical := by
  unfold Machine.pushReady
  split
  · exact h
  · exact h.setCore

theorem State.Canonical.wakeTask {s : State} {n id : Nat} (h : s.Canonical) :
    (wakeTask n id s).Canonical := by
  unfold Machine.wakeTask
  extract_lets _
  split
  · exact h.setTask.pushReady
  · exact h

theorem State.Canonical.waiterFault {s : State} {k b : Nat} (h : s.Canonical) :
    (waiterFault k b s).Canonical :=
  h.trapNow

theorem State.Canonical.serveSlot {s : State} {c b k : Nat} {d : Reg} {r : Nat × Buffer} (h : s.Canonical) :
    (serveSlot c b k d r s).Canonical := by
  unfold Machine.serveSlot
  split
  · exact h.waiterFault
  · exact h.setBuffer.mapThread

theorem State.Canonical.serveBuffer {s : State} {a a1 a2 : Nat} (h : s.Canonical) :
    (serveBuffer a a1 a2 s).Canonical := by
  induction a generalizing a1 a2 s with
  | zero =>
    unfold Machine.serveBuffer
    exact h
  | succ _ ih =>
    unfold Machine.serveBuffer
    extract_lets buf
    clear_value buf
    split
    · exact ih h.serveSlot
    · split
      · exact ih h.serveSlot
      · exact h

theorem State.Canonical.updateBuffer {s : State} {c b : Nat} {new : Buffer} (h : s.Canonical) :
    (updateBuffer c b new s).Canonical := by
  unfold Machine.updateBuffer
  extract_lets _ s1
  have h1 : s1.Canonical := h.setBuffer.serveBuffer
  clear_value s1
  split
  · split
    · exact h1.wakeTask
    · exact h1
  · exact h1

theorem State.Canonical.stopCommands {s : State} {c : Nat} {q : CopyCmd → Bool} {code : Int} (h : s.Canonical) :
    (stopCommands c q code s).Canonical := by
  unfold Machine.stopCommands
  extract_lets _ s1 _
  have h1 : s1.Canonical := by
    unfold s1
    refine .foldl h fun _ _ h3 => ?_
    split
    · exact h3.leaveEngine
    · exact h3
  clear_value s1
  exact h1.setCluster

theorem State.Canonical.releaseBuffer {s : State} {c b : Nat} (h : s.Canonical) :
    (releaseBuffer c b s).Canonical :=
  .foldl h.stopCommands.setCluster.update fun _ _ h2 => h2.waiterFault

theorem State.Canonical.releaseWhere {s : State} {c : Nat} {q : Buffer → Bool} (h : s.Canonical) :
    (releaseWhere c q s).Canonical :=
  .foldl h fun _ _ h2 => h2.releaseBuffer

theorem State.Canonical.cbFault {a : Word} :
    Yields State.Canonical (cbFault a) :=
  .error

theorem State.Canonical.portChecked {s : State} {p : Nat} (h : s.Canonical) :
    (portChecked p s).Canonical := by
  unfold Machine.portChecked
  split
  · exact h.setPart
  · exact h

theorem State.Canonical.execCbinit {s : State} {d a b : Reg} (h : s.Canonical) :
    Keeps State.Canonical (execCbinit d a b s) := by
  unfold Machine.execCbinit
  refine h.issue fun _ h2 => .after fun _ => ?_
  extract_lets _ _ _ _ _ _ _ s3 _
  have h3 : s3.Canonical := by
    unfold s3
    split
    · exact h2.releaseBuffer
    · exact h2
  clear_value s3
  split
  · exact .ok h3.wg.retire
  · split
    · exact .ok h2.wg.retire
    · split
      · exact .ok h2.wg.retire
      · split
        · exact .ok h2.wg.retire
        · exact .ok h2.setBuffer.portChecked.wg.retire

theorem State.Canonical.execCbacq {s : State} {d a : Reg} (h : s.Canonical) :
    Keeps State.Canonical (execCbacq d a s) := by
  unfold Machine.execCbacq
  refine h.issue fun _ h2 => .after fun _ => ?_
  extract_lets _ _
  split
  · exact .error
  · split
    split
    · exact State.Canonical.cbFault
    · exact .ok h2.setBuffer.wg.retire

theorem State.Canonical.execCbrel {s : State} {a b : Reg} (h : s.Canonical) :
    Keeps State.Canonical (execCbrel a b s) := by
  unfold Machine.execCbrel
  refine h.issue fun _ h2 => .after fun _ => .after fun _ => ?_
  split
  · split
    · exact .ok h2.updateBuffer.retire
    · exact State.Canonical.cbFault
  · exact State.Canonical.cbFault

theorem State.Canonical.execCbres {s : State} {d a : Reg} (h : s.Canonical) :
    Keeps State.Canonical (execCbres d a s) := by
  unfold Machine.execCbres
  refine h.issue fun _ h2 => .after fun _ => ?_
  extract_lets _ _
  split
  · exact State.Canonical.cbFault
  · split
    · split
      · exact .error
      · exact .ok h2.wg.retire
    · split
      split
      · exact State.Canonical.cbFault
      · exact .ok h2.setBuffer.wg.retire

theorem State.Canonical.execCbpub {s : State} {a b : Reg} (h : s.Canonical) :
    Keeps State.Canonical (execCbpub a b s) := by
  unfold Machine.execCbpub
  refine h.issue fun _ h2 => .after fun _ => .after fun _ => ?_
  split
  · exact State.Canonical.cbFault
  · split
    · exact State.Canonical.cbFault
    · exact .ok h2.updateBuffer.retire

/-! ### Machine/Flags -/

theorem State.Canonical.raise {s : State} {f : Nat} (h : s.Canonical) :
    (raise f s).Canonical :=
  h.mapThr

/-! ### Machine/Vector -/

theorem State.Canonical.writeLanes {s : State} {d : Reg} {m : BitVec 2} {w : Nat} {new : List Nat} (h : s.Canonical) :
    (writeLanes d m w new s).Canonical :=
  h.wv

theorem State.Canonical.elementwise {s : State} {word : Nat} {d a b : Reg} {m q : BitVec 2} {takesSat : Bool}
    {f : Bool → Nat → Nat → Nat → Nat} (h : s.Canonical) :
    Keeps State.Canonical (elementwise word d a b m q takesSat f s) :=
  h.issue fun _ h2 => .ok h2.writeLanes.retire

theorem State.Canonical.dotProduct {s : State} {word : Nat} {d a b : Reg} {m : BitVec 2} {natural : Bool}
    (h : s.Canonical) :
    Keeps State.Canonical (dotProduct word d a b m natural s) :=
  h.issue fun _ h2 => .ok h2.writeLanes.retire

theorem State.Canonical.compare {s : State} {word : Nat} {d : BitVec 2} {a b : Reg} {m q : BitVec 2}
    {f : Nat → Nat → Nat → Bool} (h : s.Canonical) :
    Keeps State.Canonical (compare word d a b m q f s) :=
  h.issue fun _ h2 => .ok h2.wm.retire

theorem State.Canonical.permute {s : State} {u : Use} {d : Reg} {m q : BitVec 2} {f : State → Nat → Nat → Nat}
    (h : s.Canonical) :
    Keeps State.Canonical (permute u d m q f s) :=
  h.issue fun _ h2 => .ok h2.writeLanes.retire

theorem State.Canonical.maskOp {s : State} {word : Nat} {d a b : BitVec 2} {f : Mask → Mask → Mask} (h : s.Canonical) :
    Keeps State.Canonical (maskOp word d a b f s) :=
  h.issue fun _ h2 => .ok h2.wm.retire

theorem State.Canonical.maskToGeneral {s : State} {word : Nat} {d : Reg} {a : BitVec 2} {f : Mask → Nat}
    (h : s.Canonical) :
    Keeps State.Canonical (maskToGeneral word d a f s) :=
  h.issue fun _ h2 => .ok h2.wg.retire

theorem State.Canonical.reduce {s : State} {word : Nat} {d a : Reg} {m q : BitVec 2} {f : Nat → List Int → Int}
    (h : s.Canonical) :
    Keeps State.Canonical (reduce word d a m q f s) :=
  h.issue fun _ h2 => .ok h2.wg.retire

theorem State.Canonical.setNeighbour {s : State} {core sl : Nat} {r : Bool} {x : Neighbour} (h : s.Canonical) :
    (s.setNeighbour core sl r x).Canonical :=
  h.setCore

theorem State.Canonical.execNsend {s : State} {a : Reg} {r : Bool} (h : s.Canonical) :
    Keeps State.Canonical (execNsend a r s) := by
  unfold Machine.execNsend
  refine h.issue fun _ h2 => ?_
  extract_lets _ _ _ s3 _
  have h3 : s3.Canonical := h2.setNeighbour
  clear_value s3
  split
  · exact .error
  · exact .ok h3.setNeighbour.retire

theorem State.Canonical.execNrecv {s : State} {d : Reg} {r : Bool} (h : s.Canonical) :
    Keeps State.Canonical (execNrecv d r s) := by
  unfold Machine.execNrecv
  refine h.issue fun _ h2 => ?_
  extract_lets _ _ me _
  clear_value me
  split
  · exact .error
  · exact .ok h2.setNeighbour.setNeighbour.wv.retire

theorem State.Canonical.execNwin {s : State} {d a : Reg} {r : Bool} (h : s.Canonical) :
    Keeps State.Canonical (execNwin d a r s) := by
  unfold Machine.execNwin
  refine h.issue fun _ h2 => ?_
  extract_lets _ _ _ _
  split
  · exact .ok h2.wg.retire
  · split
    · exact .ok h2.setNeighbour.wg.retire
    · exact .ok h2.wg.retire

/-! ### Machine/VFloat -/

theorem State.Canonical.floatWrite {s : State} {d : Reg} {m : BitVec 2} {f : Fmt} {l : List (Nat × Nat)}
    (h : s.Canonical) :
    (floatWrite d m f l s).Canonical :=
  h.writeLanes.raise

theorem State.Canonical.floatBinary {s : State} {word : Nat} {d a b : Reg} {m q : BitVec 2}
    {op : Fmt → Nat → FVal → FVal → Nat × Nat} (h : s.Canonical) :
    Keeps State.Canonical (floatBinary word d a b m q op s) :=
  h.issue fun _ h2 => .ok h2.floatWrite.retire

theorem State.Canonical.floatPick {s : State} {word : Nat} {d a b : Reg} {m q : BitVec 2} {first : FVal → FVal → Bool}
    (h : s.Canonical) :
    Keeps State.Canonical (floatPick word d a b m q first s) :=
  h.issue fun _ h2 => .ok h2.floatWrite.retire

theorem State.Canonical.floatSign {s : State} {word : Nat} {d a : Reg} {m q : BitVec 2} {g : Fmt → Nat → Nat}
    (h : s.Canonical) :
    Keeps State.Canonical (floatSign word d a m q g s) :=
  h.issue fun _ h2 => .ok h2.writeLanes.retire

theorem State.Canonical.floatCompare {s : State} {word : Nat} {d : BitVec 2} {a b : Reg} {m q : BitVec 2}
    {quiet : Bool} {c : FVal → FVal → Bool} (h : s.Canonical) :
    Keeps State.Canonical (floatCompare word d a b m q quiet c s) :=
  h.issue fun _ h2 => .ok h2.wm.raise.retire

theorem State.Canonical.fused {s : State} {word : Nat} {d a b c : Reg} {m q : BitVec 2} {np nc : Bool}
    (h : s.Canonical) :
    Keeps State.Canonical (fused word d a b c m q np nc s) :=
  h.issue fun _ h2 => .ok h2.floatWrite.retire

theorem State.Canonical.execVfradd {s : State} {d a : Reg} {m q : BitVec 2} (h : s.Canonical) :
    Keeps State.Canonical (execVfradd d a m q s) := by
  unfold Machine.execVfradd
  refine h.issue fun _ h2 => ?_
  extract_lets f _ es
  clear_value f es
  split
  exact .ok h2.wv.raise.retire

/-! ### Machine/Convert -/

theorem State.Canonical.convert {s : State} {word : Nat} {d a x t : Reg} {m p : BitVec 2} {types rm sat : Bool}
    {conv : Nat → Bool → Vec → Nat → Nat × Nat} (h : s.Canonical) :
    Keeps State.Canonical (convert word d a x t m p types rm sat conv s) := by
  unfold Machine.convert
  refine h.issue fun _ h2 => ?_
  split
  exact .ok h2.wv.raise.retire

theorem State.Canonical.execVscale {s : State} {d a b t : Reg} {m : BitVec 2} (h : s.Canonical) :
    Keeps State.Canonical (execVscale d a b t m s) := by
  unfold Machine.execVscale
  refine h.issue fun _ h2 => ?_
  extract_lets _ _ _ _
  split
  · exact .error
  · exact .ok h2.floatWrite.retire

theorem State.Canonical.execBdld {s : State} {d a : Reg} (h : s.Canonical) :
    Keeps State.Canonical (execBdld d a s) := by
  unfold Machine.execBdld
  refine h.issue fun _ h2 => .after fun _ => h2.threadAccess.bind fun _ h3 => ?_
  split
  extract_lets _
  refine h3.loadSides.bind fun _ h5 => ?_
  split
  exact .ok h5.wg.retire

theorem State.Canonical.execBdst {s : State} {a b : Reg} (h : s.Canonical) :
    Keeps State.Canonical (execBdst a b s) := by
  unfold Machine.execBdst
  refine h.issue fun _ h2 => .after fun _ => h2.threadAccess.bind fun _ h3 => ?_
  split
  exact h3.performStores.bind fun _ h6 => .ok h6.setDesc.retire

/-! ### Machine/Engine -/

theorem State.Canonical.engineRead {s : State} {c : Ctx} {va n : Nat} (h : s.Canonical) :
    Yields (·.1.Canonical) (engineRead c va n s) := by
  unfold Machine.engineRead
  refine .asEngine (h.access.bind fun _ h1 => ?_)
  split
  refine h1.loadPieces.bind fun _ h3 => ?_
  split
  exact .ok_fst h3

theorem State.Canonical.postFills {s : State} {me : Option (Nat × Bool)} {p engine : Nat} {dom : BitVec 12} {a : Nat}
    {a1 : List (Nat × Nat)} (h : s.Canonical) :
    Yields State.Canonical (postFills me p engine dom a a1 s) := by
  induction a generalizing a1 s with
  | zero =>
    cases a1 with
    | nil => exact .ok h
    | cons e r => exact .error
  | succ n ih =>
    cases a1 with
    | nil => exact .ok h
    | cons e r =>
      unfold Machine.postFills
      split
      · exact .error
      · split
        split
        extract_lets _ _ s1
        have h1 : s1.Canonical := h.engineWrite
        split
        · exact .error
        · exact ih h1.updateBuffer.performedBy

theorem State.Canonical.noticePort {s : State} {p engine : Nat} (h : s.Canonical) :
    (noticePort p engine s).Canonical := by
  unfold Machine.noticePort
  split
  · exact h
  · split
    exact h.setPart.notice

theorem State.Canonical.enginePut {s : State} {c : Ctx} {engine : Nat} {q : Piece} {l : List Byte} (h : s.Canonical) :
    Yields State.Canonical (enginePut c engine q l s) := by
  unfold Machine.enginePut
  extract_lets _ _ me
  clear_value me
  split
  · exact .error
  · exact h.storePiece.asEngine.bind fun _ h2 => h2.fillWords.portChecked.performedBy.postFills

theorem State.Canonical.enginePuts {s : State} {c : Ctx} {engine : Nat} {a : List Piece} {a1 : List Byte}
    (h : s.Canonical) :
    Yields State.Canonical (enginePuts c engine a a1 s) := by
  induction a generalizing c engine a1 s with
  | nil =>
    unfold Machine.enginePuts
    exact .ok h
  | cons _ _ ih =>
    unfold Machine.enginePuts
    exact h.enginePut.bind fun _ h2 => ih h2

theorem State.Canonical.engineStore {s : State} {c : Ctx} {engine va : Nat} {l : List Byte} (h : s.Canonical) :
    Yields State.Canonical (engineStore c engine va l s) := by
  unfold Machine.engineStore
  refine h.access.asEngine.bind fun _ h1 => ?_
  split
  exact h1.enginePuts

/-! ### Machine/Matrix -/

theorem State.Canonical.setOx {s : State} {c : Nat} {x : Ox} (h : s.Canonical) :
    (s.setOx c x).Canonical :=
  h.setCluster

theorem State.Canonical.rowAccess {s : State} {c : Ctx} {k : Access} {a n : Nat} (h : s.Canonical) :
    Yields (·.1.Canonical) (rowAccess c k a n s) := by
  unfold Machine.rowAccess
  extract_lets r
  have hr : Yields (·.1.Canonical) r := h.accesses
  clear_value r
  split
  · exact hr
  · split
    · exact .error
    · exact .error

theorem State.Canonical.rowsAccess {s : State} {c : Ctx} {k : Access} {n : Nat} {a : List Nat} (h : s.Canonical) :
    Yields (·.1.Canonical) (rowsAccess c k n a s) := by
  induction a generalizing c k n s with
  | nil =>
    unfold Machine.rowsAccess
    exact .ok_fst h
  | cons _ _ ih =>
    unfold Machine.rowsAccess
    refine h.rowAccess.bind fun _ h1 => ?_
    split
    refine (ih h1).bind fun _ h3 => ?_
    split
    exact .ok_fst h3

theorem State.Canonical.readBlocks {s : State} {c : Ctx} {row : Nat} {a : List (Nat × Piece)} (h : s.Canonical) :
    Yields (·.1.Canonical) (readBlocks c row a s) := by
  induction a generalizing c row s with
  | nil =>
    unfold Machine.readBlocks
    exact .ok_fst h
  | cons _ _ ih =>
    unfold Machine.readBlocks
    refine h.loadPiece.bind fun _ h1 => ?_
    split
    refine h1.loadSides.bind fun _ h3 => ?_
    split
    extract_lets _
    refine (ih h3).bind fun _ h5 => ?_
    split
    exact .ok_fst h5

theorem State.Canonical.gatherList {s : State} {c : Ctx} {list : Word} (h : s.Canonical) :
    Yields (·.1.Canonical) (gatherList c list s) := by
  unfold Machine.gatherList
  extract_lets _ jp
  have hjp : ∀ x, x.1.Canonical → Yields (·.1.Canonical) (jp x) := by
    intro _ h1
    dsimp -zeta only [jp]
    split
    · exact .error
    · exact h1.loadPieces
  clear_value jp
  split
  · exact .ok_bind (hjp _ h)
  · exact h.access.bind fun _ h2 => hjp _ h2

theorem State.Canonical.performFill {s : State} {c : Ctx} {isB gather : Bool} {base pitch list : Word} {n : Nat}
    (h : s.Canonical) :
    Yields (·.1.Canonical) (performFill c isB gather base pitch list n s) := by
  unfold Machine.performFill
  extract_lets jp
  have hjp : ∀ x, x.1.Canonical → Yields (·.1.Canonical) (jp x) := by
    intro _ h1
    dsimp -zeta only [jp]
    exact h1.rowsAccess.bind fun _ h2 => Yields.bind (P := (·.1.Canonical))
      (.foldlM h2 fun _ _ h3 => h3.readBlocks.bind fun _ h4 => .ok_fst h4) fun _ h5 => .after fun _ => .ok_fst h5
  clear_value jp
  split
  · exact h.gatherList.bind fun _ h6 => hjp _ h6
  · exact .ok_bind (hjp _ h)

theorem State.Canonical.enqueue {s : State} {cmd : OxCmd} (h : s.Canonical) :
    Yields State.Canonical (enqueue cmd s) := by
  unfold Machine.enqueue
  extract_lets _ _ _ _ _
  split
  · exact .ok h.setOx
  · exact .error

theorem State.Canonical.fillLatch {s : State} {u : Use} {latch : Nat} {gather : Bool} {d a b : Reg} {n : Nat}
    (h : s.Canonical) :
    Keeps State.Canonical (fillLatch u latch gather d a b n s) := by
  unfold Machine.fillLatch
  refine h.issue fun _ h2 => .after fun _ => .after fun _ => .after fun _ => ?_
  extract_lets jp jp1
  have hjp : ∀ x, Yields State.Canonical (jp x) := fun x => .after fun _ => h2.enqueue.bind fun _ h4 => .ok h4.mapThr
  clear_value jp
  have hjp1 : ∀ x, Yields State.Canonical (jp1 x) := by
    intro _
    dsimp -zeta only [jp1]
    split
    · exact .error_bind
    · exact hjp _
  clear_value jp1
  split
  · exact .after fun _ => hjp1 _
  · exact hjp1 _

theorem State.Canonical.execMma {s : State} {d : BitVec 3} {a b : Bool} {l : BitVec 4} (h : s.Canonical) :
    Keeps State.Canonical (execMma d a b l s) := by
  unfold Machine.execMma
  refine h.issue fun _ h2 => .after fun _ => ?_
  extract_lets _ _
  split
  · exact .error
  · exact h2.enqueue.bind fun _ h4 => .ok (.ite h4.next.retireLong.mapThr h4.next.retireLong)

theorem State.Canonical.setTile {s : State} {t : Nat} {x : Tile} (h : s.Canonical) :
    (s.setTile t x).Canonical :=
  h.setOx

theorem State.Canonical.transferRows {s : State} {k : Access} {base pitch : Word} {n : Nat} (h : s.Canonical) :
    Yields (·.1.Canonical) (transferRows k base pitch n s) := by
  unfold Machine.transferRows
  refine .after fun _ => .after fun _ => h.rowsAccess.bind fun _ h1 => ?_
  split
  exact .after fun _ => .ok_fst h1

theorem State.Canonical.beginTransfer {s : State} {t : Nat} (h : s.Canonical) :
    (beginTransfer t s).Canonical :=
  h.setOx.retire.mapThr

theorem State.Canonical.execAcld {s : State} {d : BitVec 3} {a b : Reg} (h : s.Canonical) :
    Keeps State.Canonical (execAcld d a b s) := by
  unfold Machine.execAcld
  refine h.issue fun _ h2 => .after fun _ => h2.transferRows.bind fun _ h3 => ?_
  split
  refine h3.performLoads.bind fun _ h5 => ?_
  split
  exact .ok h5.setTile.beginTransfer

theorem State.Canonical.execAcst {s : State} {d : BitVec 3} {a b : Reg} {f : BitVec 2} (h : s.Canonical) :
    Keeps State.Canonical (execAcst d a b f s) := by
  unfold Machine.execAcst
  refine h.issue fun _ h2 => .after fun _ => h2.transferRows.bind fun _ h3 => ?_
  split
  exact h3.performStores.bind fun _ h6 => .ok (.beginTransfer (.foldl h6 fun _ _ h8 => h8.setDesc))

theorem State.Canonical.asStream {s : State} {k : Nat} {body : Bool} (h : s.Canonical) :
    (asStream k body s).Canonical :=
  .mapThread h.update

theorem State.Canonical.onBehalf {r : Except Stop State} {s : State} {k : Nat} {body : Bool}
    (h : Yields State.Canonical r) (h' : s.Canonical) :
    (onBehalf k body r s).Canonical := by
  unfold Machine.onBehalf
  extract_lets _
  split
  · rename_i s1
    have h1 : s1.Canonical := h _ rfl
    exact h1.asStream.retire.update
  · exact h'.asStream.stopAt.update

theorem State.Canonical.execLatchFillComplete {s : State} {c : Nat} (h : s.Canonical) :
    Keeps State.Canonical (execLatchFillComplete c s) := by
  unfold Machine.execLatchFillComplete
  split
  · extract_lets _ _ out
    have hout : ∀ t l, t.Canonical → (out t l).Canonical := fun _ l h2 => h2.setOx
    clear_value out
    split
    · rename_i s3 _ e1
      have h3 : s3.Canonical := h.asStream.performFill _ e1
      exact .next (((hout _ _ h3).retire).update)
    · exact .next h.stopLine
    · exact .next (.getD h.deferToken h)
    · exact .next h
    · exact .next (.onBehalf .error h.setOx)
  · exact .next h

theorem State.Canonical.execMmaStart {s : State} {c : Nat} (h : s.Canonical) :
    Keeps State.Canonical (execMmaStart c s) := by
  unfold Machine.execMmaStart
  extract_lets x
  clear_value x
  split
  · split
    · exact .next h.setOx
    · exact .next h
  · exact .next h

theorem State.Canonical.execMmaComplete {s : State} {c : Nat} (h : s.Canonical) :
    Keeps State.Canonical (execMmaComplete c s) := by
  unfold Machine.execMmaComplete
  extract_lets x
  clear_value x
  split
  · exact .next h.setOx.mapThread
  · exact .next h

theorem State.Canonical.execAccumTransferComplete {s : State} {c : Nat} (h : s.Canonical) :
    Keeps State.Canonical (execAccumTransferComplete c s) := by
  unfold Machine.execAccumTransferComplete
  split
  · exact .next h.setOx.mapThread
  · exact .next h

theorem State.Canonical.execLeaveHoldExpiry {s : State} {c : Nat} (h : s.Canonical) :
    Keeps State.Canonical (execLeaveHoldExpiry c s) := by
  unfold Machine.execLeaveHoldExpiry
  extract_lets _
  split
  · exact .next h.setOx
  · exact .next h

/-! ### Machine/Copy -/

theorem State.Canonical.setMule {s : State} {c : Nat} {l : List CopyCmd} (h : s.Canonical) :
    (s.setMule c l).Canonical :=
  h.setCluster

theorem State.Canonical.copy {s : State} {word fn : Nat} {d a b l : Reg} (h : s.Canonical) :
    Keeps State.Canonical (copy word fn d a b l s) := by
  unfold Machine.copy
  refine h.issue fun _ h2 => ?_
  extract_lets _ done jp
  have hdone : ∀ x t, t.Canonical → Yields State.Canonical (done x t) := fun x _ h4 => .ok h4.retireLong
  clear_value done
  have hjp : ∀ x, x.Canonical → Yields State.Canonical (jp x) := by
    intro _ h6
    dsimp -zeta only [jp]
    extract_lets t _ _ _ _ _ s7 _
    have h7 : s7.Canonical := h6.setMule
    clear_value s7
    split
    · exact hdone _ _ h6
    · split
      · exact hdone _ _ h6
      · split
        · exact .error
        · exact .after fun _ => hdone _ _ h7.setCluster
  clear_value jp
  split
  · exact .ok_bind (hjp _ h2)
  · refine .after fun _ => h2.access.bind fun _ h8 => ?_
    split
    exact .ok_bind (hjp _ h8)

theorem State.Canonical.rowIndex_read {s : State} {m : CopyCmd} {row : Nat} (h : s.Canonical) :
    Yields (·.1.Canonical) (rowIndex.read m row s) := by
  unfold rowIndex.read
  refine h.engineRead.bind fun _ h1 => ?_
  split
  exact .ok_fst h1

theorem State.Canonical.rowIndex {s : State} {m : CopyCmd} {row : Nat} (h : s.Canonical) :
    Yields (·.1.Canonical) (rowIndex m row s) := by
  unfold Machine.rowIndex
  split
  · split
    · split
      · exact .ok_fst h
      · exact h.rowIndex_read
    · exact h.rowIndex_read
  · exact .ok_fst h

theorem State.Canonical.cover {s : State} {m : CopyCmd} {pa n : Nat} {src : Option Nat} {d : BitVec 16}
    (h : s.Canonical) :
    (CopyCmd.cover m pa n src d s).1.Canonical := by
  unfold CopyCmd.cover
  extract_lets b _ x one mask
  clear_value b x one mask
  split
  rename_i s1 _ e
  have h1 : s1.Canonical := by
    refine .of_fst_eq e ?_
    split
    · exact h.setDesc
    · split
      · exact h.setDesc
      · exact h
    · exact h
  exact h1

theorem State.Canonical.unitTarget {s : State} {c : Nat} {m : CopyCmd} {x : Place} {n : Nat} (h : s.Canonical) :
    Yields (·.1.Canonical) (unitTarget c m x n s) := by
  unfold Machine.unitTarget
  split
  · exact .ok_fst h
  · exact h.access.asEngine

theorem State.Canonical.sourceDesc {s : State} {c : Ctx} {p : Piece} (h : s.Canonical) :
    Yields (·.1.Canonical) (sourceDesc c p s) := by
  unfold Machine.sourceDesc
  refine .asEngine (h.loadSides.bind fun _ h1 => ?_)
  split
  exact .ok_fst h1

theorem State.Canonical.copyUnit {s : State} {c : Nat} {m : CopyCmd} {x : Place} {w room : Nat} (h : s.Canonical) :
    Yields (·.1.Canonical) (copyUnit c m x w room s) := by
  unfold Machine.copyUnit
  extract_lets _ _ _ _ jp
  have hjp : ∀ x, x.1.Canonical → Yields (·.1.Canonical) (jp x) := by
    intro _ h1
    dsimp -zeta only [jp]
    refine h1.unitTarget.bind fun _ h2 => ?_
    extract_lets _ _ _ _ jp1
    have hjp1 : ∀ x, x.1.Canonical → Yields (·.1.Canonical) (jp1 x) := fun _ h3 => h3.enginePuts.bind
      fun _ h5 => .ok_fst h5.cover
    clear_value jp1
    split
    · exact h2.sourceDesc.bind fun _ h6 => hjp1 _ h6
    · exact .ok_bind (hjp1 _ h2)
  clear_value jp
  split
  · exact .ok_fst h
  · split
    · exact .ok_bind (hjp _ h)
    · exact h.engineRead.bind fun _ h7 => hjp _ h7

theorem State.Canonical.nextPlace {s : State} {c : Nat} {m : CopyCmd} (h : s.Canonical) :
    Yields (·.1.Canonical) (nextPlace c m s) := by
  unfold Machine.nextPlace
  extract_lets _ _ _ buf
  split
  · exact .ok_fst h
  · split
    · split
      · exact .error
      · clear_value buf
        split
        exact .ok_fst h.setBuffer
    · refine h.rowIndex.bind fun _ h1 => ?_
      split
      exact .ok_fst h1

theorem State.Canonical.publishSlot {s : State} {c : Nat} {m : CopyCmd} (h : s.Canonical) :
    (publishSlot c m s).1.Canonical := by
  unfold Machine.publishSlot
  split
  · split
    · exact h.updateBuffer
    · exact h
  · exact h

theorem State.Canonical.chunk {s : State} {c a a1 : Nat} {a2 : CopyCmd} (h : s.Canonical) :
    (chunk c a a1 a2 s).1.Canonical := by
  induction a generalizing c a1 a2 s with
  | zero =>
    unfold Machine.chunk
    exact h
  | succ _ ih =>
    unfold Machine.chunk
    split
    · exact h
    · split
      · exact h
      · rename_i s1 _ e3
        exact h.nextPlace _ e3
      · rename_i s2 _ e4
        have h2 : s2.Canonical := h.nextPlace _ e4
        exact ih h2
      · rename_i s3 _ _ e5
        have h3 : s3.Canonical := h.nextPlace _ e5
        split
        · exact h3
        · rename_i s4 _ e8
          exact h3.copyUnit _ e8
        · rename_i s5 _ _ _ e9
          have h5 : s5.Canonical := h3.copyUnit _ e9
          split
          rename_i s6 _ e10
          have h6 : s6.Canonical := .of_fst_eq e10 h5.publishSlot
          extract_lets _
          split
          · exact h6
          · exact ih h6

theorem State.Canonical.putCmd {s : State} {c : Nat} {m : CopyCmd} (h : s.Canonical) :
    (putCmd c m s).Canonical :=
  h.setMule

theorem State.Canonical.setMuleHeld {s : State} {c : Nat} {x : Option Nat} (h : s.Canonical) :
    (setMuleHeld c x s).Canonical :=
  h.setCluster

theorem State.Canonical.muleStop {s : State} {c : Nat} {m : CopyCmd} {e : EStop} (h : s.Canonical) :
    (muleStop c m e s).Canonical := by
  unfold Machine.muleStop
  split
  · exact h.putCmd
  · split
    rename_i s1 e1
    have h1 : s1.Canonical := .of_snd_eq e1 h.joinEngine
    exact h1.putCmd
  · extract_lets s2
    have h2 : s2.Canonical := h.engineWaits.putCmd
    clear_value s2
    split
    · exact h2.noticePort.setMuleHeld
    · exact h2

theorem State.Canonical.muleReply {s : State} {c : Nat} {m : CopyCmd} (h : s.Canonical) :
    (muleReply c m s).1.Canonical := by
  unfold Machine.muleReply
  split
  · exact h
  · split
    · exact h
    · exact h.leaveEngine.putCmd

theorem State.Canonical.muleTurns {s : State} {c : Nat} {a : List CopyCmd} (h : s.Canonical) :
    (muleTurns c a s).Canonical := by
  induction a generalizing c s with
  | nil =>
    unfold Machine.muleTurns
    exact h
  | cons _ _ ih =>
    unfold Machine.muleTurns
    split
    rename_i s1 _ e
    have h1 : s1.Canonical := .of_fst_eq e h.muleReply
    split
    · exact ih h1
    · split
      · exact ih h1.putCmd
      · extract_lets _
        split
        rename_i s2 _ _ e4
        have h2 : s2.Canonical := .of_fst_eq e4 h1.setMuleHeld.chunk
        extract_lets s3 _
        have h3 : s3.Canonical := by
          unfold s3
          split
          · exact h2.muleStop
          · exact h2.putCmd
        clear_value s3
        split
        · exact h3.setCluster
        · split
          · exact h3
          · exact ih h3

theorem State.Canonical.writeCompletion {s : State} {m : CopyCmd} {x : Int × Word} (h : s.Canonical) :
    Yields State.Canonical (writeCompletion m x s) :=
  h.engineStore.bind fun _ h2 => h2.engineStore

theorem State.Canonical.leaveMule {s : State} {c : Nat} {l : List CopyCmd} (h : s.Canonical) :
    (leaveMule c l s).Canonical := by
  unfold Machine.leaveMule
  split
  · exact h.setMule.engineLeaves
  · exact h.setMule

theorem State.Canonical.dropCmd {s : State} {c : Nat} {m : CopyCmd} (h : s.Canonical) :
    (dropCmd c m s).Canonical :=
  h.leaveMule

theorem State.Canonical.muleComplete {s : State} {c : Nat} {m : CopyCmd} (h : s.Canonical) :
    (muleComplete c m s).Canonical := by
  unfold Machine.muleComplete
  split
  · exact h.dropCmd
  · split
    · rename_i s1 e1
      have h1 : s1.Canonical := Yields.of_ok (P := State.Canonical) e1 h.setMuleHeld.writeCompletion
      exact h1.dropCmd
    · exact h.dropCmd
    · exact h.setMuleHeld.muleStop

theorem State.Canonical.completionReply {s : State} {c : Nat} {m : CopyCmd} (h : s.Canonical) :
    Offers (·.2.Canonical) (completionReply c m s) := by
  unfold Machine.completionReply
  split
  · exact .offer h
  · exact .map fun _ => h.leaveEngine

theorem State.Canonical.completeFirst {s : State} {c : Nat} {a : List CopyCmd} (h : s.Canonical) :
    (completeFirst c a s).Canonical := by
  induction a generalizing c s with
  | nil =>
    unfold Machine.completeFirst
    exact h
  | cons _ _ ih =>
    unfold Machine.completeFirst
    split
    · exact ih h
    · rename_i s1 e1
      have h1 : s1.Canonical := h.completionReply _ e1
      exact h1.dropCmd
    · rename_i s2 e2
      have h2 : s2.Canonical := h.completionReply _ e2
      extract_lets s3
      have h3 : s3.Canonical := h2.muleComplete
      clear_value s3
      split
      · exact ih h3
      · exact h3

/-! ### Machine/Units -/

theorem State.Canonical.freeAlloc {s : State} {c : Nat} {a : Nat × Nat} (h : s.Canonical) :
    (freeAlloc c a s).Canonical :=
  h.setCluster

theorem State.Canonical.endTask {s : State} {k : Nat} (h : s.Canonical) :
    (endTask k s).Canonical := by
  unfold Machine.endTask
  split
  · exact h
  · exact .mapThread
      (.setCore (.ite h.releaseWhere.unmapWhere.freeAlloc.setCluster h.releaseWhere.unmapWhere.freeAlloc))

theorem State.Canonical.freeSlotOf {s : State} {k : Nat} (h : s.Canonical) :
    (freeSlotOf k s).Canonical :=
  h.mapThread

theorem State.Canonical.exitThread {s : State} {k : Nat} {resume : Word} (h : s.Canonical) :
    (exitThread k resume s).Canonical := by
  unfold Machine.exitThread
  extract_lets s1
  have h1 : s1.Canonical := h.completeAll.revoke
  clear_value s1
  split
  · exact h1.endTask.trapAt
  · exact h1.freeSlotOf

theorem State.Canonical.freeUnit {s : State} {u : Nat} (h : s.Canonical) :
    (freeUnit u s).Canonical :=
  .update (.foldl (.ite (.setCluster (.ite h.releaseWhere.unmapWhere h.releaseWhere.unmapWhere.freeAlloc))
    (.ite h.releaseWhere.unmapWhere h.releaseWhere.unmapWhere.freeAlloc)) fun _ _ h2 => .ite h2.setCore h2)

/-! ### Machine/Gates -/

theorem State.Canonical.ipaStore {s : State} {p ipa : Nat} {x : Word} (h : s.Canonical) :
    Yields State.Canonical (ipaStore s p ipa x) := by
  unfold Machine.ipaStore
  refine .after fun _ => ?_
  split
  extract_lets me
  clear_value me
  split
  · exact .error
  · exact h.ipaWrite.orFirmware.bind fun _ h2 => .ok h2.performedAt

theorem State.Canonical.ipaAdd {s : State} {p ipa : Nat} {x : Word} (h : s.Canonical) :
    Yields State.Canonical (ipaAdd s p ipa x) :=
  .after fun _ => h.ipaStore

theorem State.Canonical.ipaStores {s : State} {p ipa : Nat} {a : List Word} (h : s.Canonical) :
    Yields State.Canonical (ipaStores s p ipa a) := by
  induction a generalizing s p ipa with
  | nil =>
    unfold Machine.ipaStores
    exact .ok h
  | cons _ _ ih =>
    unfold Machine.ipaStores
    exact h.ipaStore.bind fun _ h2 => ih h2

theorem State.Canonical.placeHandle {s : State} {p : Nat} {d : BitVec 12} {x y : Word} (h : s.Canonical) :
    Yields (Offers (·.2.Canonical)) (placeHandle s p d x y) := by
  unfold Machine.placeHandle
  refine .after fun _ => .after fun _ => ?_
  split
  · exact .ok .nothing
  · exact h.ipaStores.bind fun _ h2 => .ok (.offer h2)

theorem State.Canonical.poolStep {s : State} {k : Nat} {d : BitVec 12} {p : Piece} {f : State → State}
    (h : s.Canonical) (hf : ∀ a, a.Canonical → (f a).Canonical) :
    Yields State.Canonical (poolStep k d p f s) := by
  unfold Machine.poolStep
  extract_lets c
  clear_value c
  split
  · exact .error
  · exact h.touch.bind fun _ h2 => h2.atHomes.bind fun _ h4 => .ok ((hf _ h4).performedBy)

theorem State.Canonical.poolTake {s : State} {k : Nat} {d : BitVec 12} {pool : Nat} (h : s.Canonical) :
    Yields (·.2.Canonical) (poolTake s k d pool) := by
  unfold Machine.poolTake
  refine .after fun _ => ?_
  split
  refine .after fun _ => .after fun _ => .after fun _ => ?_
  split
  · exact .error
  · exact Yields.bind (P := State.Canonical) (h.poolStep fun _ h2 => h2.write64 _ _)
      fun _ h4 => Yields.bind (P := State.Canonical) (h4.poolStep fun _ h6 => h6.write64 _ _)
      fun _ h8 => Yields.bind (P := State.Canonical) (h8.poolStep fun _ h10 => h10.fePerform.examineWord)
      fun _ h12 => .ok_snd h12

theorem State.Canonical.poolPut {s : State} {k : Nat} {d : BitVec 12} {pool : Nat} {stack : Word} (h : s.Canonical) :
    Yields State.Canonical (poolPut s k d pool stack) := by
  unfold Machine.poolPut
  refine .after fun _ => ?_
  split
  refine .after fun _ => .after fun _ => .after fun _ => ?_
  split
  · exact .error
  · exact Yields.bind (P := State.Canonical) (h.poolStep fun _ h2 => h2.write64 _ _)
      fun _ h4 => Yields.bind (P := State.Canonical) (h4.poolStep fun _ h6 => h6.fePerform.examineWord)
      fun _ h8 => h8.poolStep fun _ h10 => h10.write64 _ _

theorem State.Canonical.closeFrame {s : State} {k : Nat} (h : s.Canonical) :
    Yields State.Canonical (closeFrame k s) := by
  unfold Machine.closeFrame
  extract_lets _ _ _
  refine .after fun _ => .after fun _ => .after fun _ => .after fun _ => .after fun _ => .after fun _ => ?_
  extract_lets jp jp1 jp2
  have hjp : ∀ x, x.Canonical → Yields State.Canonical (jp x) := fun _ h2 => .after fun _ => .ok h2.mapThread
  clear_value jp
  have hjp1 : ∀ x, x.Canonical → Yields State.Canonical (jp1 x) := by
    intro _ h4
    dsimp -zeta only [jp1]
    refine h4.ipaAdd.bind fun _ h6 => .after fun _ => ?_
    extract_lets _ _ _
    split
    · exact h6.ipaStore.bind fun _ h8 => hjp _ h8
    · exact .ok_bind (hjp _ h6)
  clear_value jp1
  have hjp2 : ∀ x, Offers State.Canonical x → Yields State.Canonical (jp2 x) := by
    intro _ hc1
    dsimp -zeta only [jp2]
    extract_lets s9
    have h9 : s9.Canonical := .getD hc1 h
    clear_value s9
    split
    · exact h9.ipaAdd.bind fun _ h11 => hjp1 _ h11
    · exact .ok_bind (hjp1 _ h9)
  clear_value jp2
  split
  · exact h.poolPut.unlessFault.bind fun _ hc3 => hjp2 _ hc3
  · exact .ok_bind (hjp2 _ .nothing)

theorem State.Canonical.endFrame {s : State} {k : Nat} (h : s.Canonical) :
    Yields State.Canonical (endFrame k s) :=
  .after fun _ => .after fun _ => .after fun _ => h.closeFrame.bind fun _ h2 => .ok h2.mapThread

theorem State.Canonical.quit {s : State} {k : Nat} (h : s.Canonical) :
    (quit k s).Canonical :=
  h.completeAll.mapThread

theorem State.Canonical.dropFrames {s : State} {k a : Nat} (h : s.Canonical) :
    (dropFrames k a s).Canonical := by
  induction a generalizing k s with
  | zero =>
    unfold Machine.dropFrames
    exact h
  | succ _ ih =>
    unfold Machine.dropFrames
    split
    · exact h
    · split
      · rename_i s1 e1
        have h1 : s1.Canonical := h.closeFrame _ e1
        exact ih h1
      · exact h

theorem State.Canonical.dropAway {s : State} {c : Nat} {t : Thread} (h : s.Canonical) :
    (dropAway c t s).Canonical := by
  unfold Machine.dropAway
  split
  · exact h
  · exact h.setThread.dropFrames.setThread

theorem State.Canonical.gcallFails {s : State} {n : Int} (h : s.Canonical) :
    Yields State.Canonical (gcallFails n s) :=
  .ok h.wg.retire

theorem State.Canonical.enterGate {s : State} {dom : BitVec 12} {gate : Nat} {slot entry stack : Word}
    {win : Word × Word} {g : Nat} (h : s.Canonical) :
    Yields State.Canonical (enterGate s dom gate slot entry stack win g) := by
  unfold Machine.enterGate
  extract_lets _ p _ f _ words jp
  have hjp : ∀ x, x.Canonical → Yields State.Canonical (jp x) := fun _ h2 => h2.ipaStore.bind
    fun _ h4 => h4.ipaAdd.bind fun _ h6 => h6.ipaAdd.bind fun _ h8 => .after fun _ => .ok h8.mapThr
  clear_value jp
  clear_value p f words
  split
  · rename_i s9 e
    have h9 : s9.Canonical := h.ipaStores _ e
    exact .ok_bind (hjp _ h9)
  · exact .error_bind
  · exact .error_bind

theorem State.Canonical.execGcall {s : State} {a b c : Reg} (h : s.Canonical) :
    Keeps State.Canonical (execGcall a b c s) := by
  unfold Machine.execGcall
  refine h.issue fun _ h2 => .after fun _ => ?_
  split
  extract_lets _ _
  split
  · exact h2.gcallFails
  · refine .after fun _ => .after fun _ => .after fun _ => ?_
    split
    · exact h2.gcallFails
    · refine .after fun _ => .after fun _ => .after fun _ => .after fun _ => .after fun _ => ?_
      split
      · exact h2.gcallFails
      · split
        · exact h2.gcallFails
        · split
          · exact h2.gcallFails
          · split
            · exact h2.gcallFails
            · refine .after fun _ => ?_
              split
              · exact h2.gcallFails
              · split
                · exact h2.gcallFails
                · refine h2.poolTake.unlessFault.bind fun _ hc7 => ?_
                  split
                  · exact h2.gcallFails
                  · rename_i s3
                    have h3 : s3.Canonical := hc7 _ rfl
                    exact h3.enterGate

theorem State.Canonical.endThread {s : State} {k : Nat} {resume : Word} (h : s.Canonical) :
    (endThread k resume s).Canonical := by
  unfold Machine.endThread
  extract_lets _ s1
  have h1 : s1.Canonical := h.mapThread
  clear_value s1
  split
  · exact h1.completeAll.revoke.endTask.freeSlotOf
  · exact h1.exitThread

theorem State.Canonical.endAll {s : State} {k : Nat} {resume : Word} {a : Nat} (h : s.Canonical) :
    Yields State.Canonical (endAll k resume a s) := by
  induction a generalizing k resume s with
  | zero =>
    unfold Machine.endAll
    exact .ok h.endThread
  | succ _ ih =>
    unfold Machine.endAll
    split
    · exact .ok h.endThread
    · exact h.closeFrame.bind fun _ h2 => ih h2

theorem State.Canonical.enterUnwind {s : State} {k cause : Nat} {eaddr entry : Word} {budget : Nat} (h : s.Canonical) :
    (enterUnwind k cause eaddr entry budget s).Canonical :=
  h.completeAll.mapThread

theorem State.Canonical.unwindFrames {s : State} {k a : Nat} (h : s.Canonical) :
    Yields State.Canonical (unwindFrames k a s) := by
  induction a generalizing k s with
  | zero =>
    unfold Machine.unwindFrames
    exact .ok h
  | succ _ ih =>
    unfold Machine.unwindFrames
    split
    · exact .ok h
    · split
      · exact .ok h
      · extract_lets _
        split
        · exact .ok h.mapThread
        · refine .after fun _ => ?_
          split
          split
          · exact .ok h.enterUnwind
          · exact h.quit.endFrame.bind fun _ h2 => ih h2.mapThread

theorem State.Canonical.endDownTo {s : State} {k m a : Nat} (h : s.Canonical) :
    Yields State.Canonical (endDownTo k m a s) := by
  induction a generalizing k m s with
  | zero =>
    unfold Machine.endDownTo
    exact .ok h
  | succ _ ih =>
    unfold Machine.endDownTo
    split
    · exact .ok h
    · exact h.quit.endFrame.bind fun _ h2 => ih h2.mapThread

theorem State.Canonical.unwindNext {s : State} {k : Nat} (h : s.Canonical) :
    Yields State.Canonical (unwindNext k s) := by
  unfold Machine.unwindNext
  split
  · exact .ok h
  · split
    · exact h.endAll
    · exact h.endDownTo.bind fun _ h2 => h2.mapThread.unwindFrames

theorem State.Canonical.atSlot {s : State} {k : Nat} {f : State → Except Stop State} (h : s.Canonical)
    (hf : ∀ a, a.Canonical → Yields State.Canonical (f a)) :
    (atSlot k f s).Canonical := by
  unfold Machine.atSlot
  split
  · rename_i s1 e
    have h1 : s1.Canonical := Yields.of_ok (P := State.Canonical) e (hf _ h.update)
    exact .leaveAllHeld h1.update
  · exact h.leaveAllHeld.trapNow
  · exact h.takePlace
  · exact h

theorem State.Canonical.callerGone {s : State} {k : Nat} (h : s.Canonical) :
    Yields State.Canonical (callerGone k s) := by
  unfold Machine.callerGone
  split
  · exact .after fun _ => .after fun _ => .ok h.mapThread
  · refine .after fun _ => ?_
    split
    extract_lets s1
    have h1 : s1.Canonical := h.mapThread
    clear_value s1
    split
    · exact .ok h1.enterUnwind
    · exact h1.endAll

theorem State.Canonical.markFrame {s : State} {p : Nat} {t : Thread} {d : Nat} {unw orph : Bool} (h : s.Canonical) :
    (markFrame p t d unw orph s).Canonical := by
  unfold Machine.markFrame
  split
  · extract_lets _ w1
    clear_value w1
    split
    · rename_i s1 e1
      exact Yields.of_ok (P := State.Canonical) e1 h.ipaWrite
    · exact h
  · exact h

theorem State.Canonical.markFrames {s : State} {p : Nat} {hit : Word → Bool} {orph : Bool} {t : Thread}
    (h : s.Canonical) :
    (markFrames p hit orph t s).Canonical := by
  unfold Machine.markFrames
  extract_lets _ s1
  have h1 : s1.Canonical := .foldl h fun _ _ h3 => h3.markFrame
  clear_value s1
  split
  · exact .foldl h1 fun _ _ h5 => h5.markFrame
  · exact h1

theorem State.Canonical.markThreads {s : State} {p cause : Nat} {hit : Word → Bool} {root : Thread → Bool}
    (h : s.Canonical) :
    (markThreads p cause hit root s).Canonical :=
  .foldl (.foldl h fun _ _ h2 => .ite h2.markFrames.mapThread h2)
    fun _ _ h4 => .ite (.foldl h4 fun _ _ h6 => h6.markFrames) (.setCore (.foldl h4 fun _ _ h8 => h8.markFrames))

theorem State.Canonical.markGate {s : State} {p : Nat} {dom : BitVec 12} {x : Nat} (h : s.Canonical) :
    (markGate p dom x s).Canonical :=
  h.markThreads

theorem State.Canonical.killDomain {s : State} {p : Nat} {dom : BitVec 12} (h : s.Canonical) :
    (killDomain p dom s).Canonical :=
  .foldl (.setPart (.foldl h.markThreads fun _ _ h2 => .ite h2.mapThread h2)) fun _ _ h4 => h4.stopCommands

theorem State.Canonical.checkFrames {s : State} {k : Nat} (h : s.Canonical) :
    Yields State.Canonical (checkFrames k s) :=
  .after fun _ => .after fun _ => .ok h.markFrames.mapThread

theorem State.Canonical.frameCheck {s : State} {k : Nat} (h : s.Canonical) :
    (frameCheck k s).Canonical :=
  h.mapThread.atSlot fun _ h2 => h2.checkFrames.bind fun _ h4 => .ok h4.mapThread

theorem State.Canonical.unwindStep {s : State} {k : Nat} (h : s.Canonical) :
    (unwindStep k s).Canonical := by
  unfold Machine.unwindStep
  split
  · exact h.withdraw.frameCheck
  · refine h.withdraw.atSlot fun _ h2 => ?_
    split
    · exact .ok h2
    · split
      · exact h2.endAll
      · exact h2.unwindFrames

theorem State.Canonical.gateReturn {s : State} {word : Nat} {gr : List Reg} {code : State → Option Word}
    (h : s.Canonical) :
    Keeps State.Canonical (gateReturn word gr code s) := by
  unfold Machine.gateReturn
  refine h.issue fun _ h2 => .after fun _ => ?_
  extract_lets s3 _
  have h3 : s3.Canonical := h2.mapThr
  clear_value s3
  split
  · exact h3.unwindNext
  · split
    · exact h3.endAll
    · refine h3.endFrame.bind fun _ h5 => .ok ?_
      split
      · exact h5.mapThr.mapThr
      · exact h5.mapThr

theorem State.Canonical.execGpub {s : State} {d a b : Reg} (h : s.Canonical) :
    Keeps State.Canonical (execGpub d a b s) := by
  unfold Machine.execGpub
  refine h.issue fun _ h2 => .after fun _ => h2.loadRanges.bind fun _ h3 => ?_
  split
  extract_lets _ _ _ _ _
  refine .after fun _ => .after fun _ => ?_
  split
  · exact .ok h3.wg.retire
  · split
    · exact .ok h3.wg.retire
    · extract_lets _
      refine h3.placeHandle.bind fun _ hc2 => ?_
      split
      · exact .ok h3.wg.retire
      · rename_i s6
        have h6 : s6.Canonical := hc2 _ rfl
        exact h6.ipaStores.bind fun _ h8 => .ok h8.wg.retire

theorem State.Canonical.execGrev {s : State} {d a b : Reg} (h : s.Canonical) :
    Keeps State.Canonical (execGrev d a b s) := by
  unfold Machine.execGrev
  refine h.issue fun _ h2 => ?_
  extract_lets _ _ mode _
  split
  · exact .ok h2.wg.retire
  · split
    · refine .after fun _ => ?_
      split
      · exact .ok h2.wg.retire
      · exact h2.ipaStore.bind fun _ h4 => .ok h4.wg.retire.killDomain
    · refine .after fun _ => .after fun _ => ?_
      clear_value mode
      split
      · exact .ok h2.wg.retire
      · exact h2.ipaStore.bind fun _ h6 => .ok (.ite h6.wg.retire.markGate h6.wg.retire)

theorem State.Canonical.execHgive {s : State} {d a b c : Reg} (h : s.Canonical) :
    Keeps State.Canonical (execHgive d a b c s) := by
  unfold Machine.execHgive
  refine h.issue fun _ h2 => .after fun _ => ?_
  split
  split
  · exact .ok h2.wg.retire
  · split
    · exact .ok h2.wg.retire
    · extract_lets _
      refine .after fun _ => ?_
      split
      · exact .ok h2.wg.retire
      · refine h2.placeHandle.bind fun _ hc5 => ?_
        split
        · exact .ok h2.wg.retire
        · rename_i s4
          have h4 : s4.Canonical := hc5 _ rfl
          exact .ok h4.wg.retire

theorem State.Canonical.execHdrop {s : State} {d a : Reg} (h : s.Canonical) :
    Keeps State.Canonical (execHdrop d a s) := by
  unfold Machine.execHdrop
  refine h.issue fun _ h2 => .after fun _ => ?_
  split
  refine .after fun _ => ?_
  split
  · exact .ok h2.wg.retire
  · split
    · exact .ok h2.wg.retire
    · exact h2.ipaStores.bind fun _ h4 => .ok h4.wg.retire

/-! ### Machine/Links -/

theorem State.Canonical.execLbias {s : State} {d a b : Reg} (h : s.Canonical) :
    Keeps State.Canonical (execLbias d a b s) := by
  unfold Machine.execLbias
  refine h.issue fun _ h2 => ?_
  extract_lets _ n die sel p bu _
  split
  · exact .ok h2.wg.retire
  · split
    · exact .ok h2.wg.retire
    · split
      · exact .ok h2.wg.retire
      · clear_value n die sel p bu
        split
        exact .ok h2.setBundle.wg.retire

theorem State.Canonical.execLstat {s : State} {d a : Reg} (h : s.Canonical) :
    Keeps State.Canonical (execLstat d a s) := by
  unfold Machine.execLstat
  refine h.issue fun _ h2 => ?_
  extract_lets _ _
  split
  · exact .ok h2.wg.retire
  · exact .ok h2.wg.retire

theorem State.Canonical.execLaneGrant {s : State} {bundle part groups : Nat} (h : s.Canonical) :
    Keeps State.Canonical (execLaneGrant bundle part groups s) := by
  unfold Machine.execLaneGrant
  extract_lets _ _
  split
  · exact .next h.setBundle
  · exact .next h

theorem State.Canonical.execFlitSend {s : State} {bundle : Nat} (h : s.Canonical) :
    Keeps State.Canonical (execFlitSend bundle s) := by
  unfold Machine.execFlitSend
  extract_lets _ _
  split
  · exact .next h
  · exact .next h.setBundle

theorem State.Canonical.execFlitArrival {s : State} {bundle group : Nat} {dir : Bool} (h : s.Canonical) :
    Keeps State.Canonical (execFlitArrival bundle group dir s) := by
  unfold Machine.execFlitArrival
  extract_lets b s1
  have h1 : s1.Canonical := h.update
  clear_value s1
  clear_value b
  split
  · exact .next h
  · exact .next h1.setBundle

theorem State.Canonical.execCreditAudit {s : State} {bundle : Nat} (h : s.Canonical) :
    Keeps State.Canonical (execCreditAudit bundle s) := by
  unfold Machine.execCreditAudit
  extract_lets _
  split
  · exact .next h.setBundle
  · exact .next h

/-! ### Machine/Messages -/

theorem State.Canonical.protocolEvent {s : State} {line : Nat} {f : Plane → Plane} (h : s.Canonical) :
    (protocolEvent line f s).Canonical := by
  unfold Machine.protocolEvent
  split
  · rename_i s1 e
    have h1 : s1.Canonical := h.fillLine _ e
    exact h1.exchange
  · exact h

theorem State.Canonical.meter {s : State} {code line : Nat} (h : s.Canonical) :
    Yields State.Canonical (meter code line s) := by
  unfold Machine.meter
  split
  · exact .ok h
  · exact h.takeToken

theorem State.Canonical.agentRequest {s : State} {code agent line : Nat} {first : Plane → Plane} (h : s.Canonical) :
    (agentRequest code agent line first s).Canonical := by
  unfold Machine.agentRequest
  extract_lets _ s1
  have h1 : s1.Canonical := by
    unfold s1
    split
    · exact h
    · exact h.exchange
  clear_value s1
  split
  · exact h1
  · split
    · rename_i s2 e2
      have h2 : s2.Canonical := h1.meter _ e2
      exact h2.exchange
    · exact h1

theorem State.Canonical.agentRequestEvent {s : State} {code agent line : Nat} {first : Plane → Plane}
    (h : s.Canonical) :
    (agentRequestEvent code agent line first s).Canonical := by
  unfold Machine.agentRequestEvent
  extract_lets r
  have hr : Yields State.Canonical r := by
    unfold r
    refine h.fillLine.bind fun _ h2 => ?_
    split
    · exact h2.takeWay
    · exact .ok h2
  clear_value r
  split
  · rename_i s3
    have h3 : s3.Canonical := hr _ rfl
    exact h3.agentRequest
  · exact h

theorem State.Canonical.requestEvent {s : State} {code ev agent line : Nat} (h : s.Canonical) :
    Keeps State.Canonical (requestEvent code ev agent line s) := by
  unfold Machine.requestEvent
  split
  · exact .next h
  · exact .next h.agentRequestEvent

theorem State.Canonical.maintenanceEvent {s : State} {code agent line : Nat} (h : s.Canonical) :
    Keeps State.Canonical (maintenanceEvent code agent line s) := by
  unfold Machine.maintenanceEvent
  split
  · exact .next h
  · exact .next h.agentRequestEvent

theorem State.Canonical.takeAnswer {s : State} {slice dst : Nat} (h : s.Canonical) :
    (takeAnswer slice dst s).Canonical := by
  unfold Machine.takeAnswer
  extract_lets i _ s1
  have h1 : s1.Canonical := h.update
  clear_value s1
  clear_value i
  split
  · exact h
  · split
    · exact h1.countRefused
    · exact h1

theorem State.Canonical.coreAtSlice {s : State} {c : Ctx} {code txn line : Nat} {data : Payload} (h : s.Canonical) :
    Yields State.Canonical (coreAtSlice c code txn line data s) := by
  unfold Machine.coreAtSlice
  refine h.fillLine.bind fun _ h2 => ?_
  extract_lets _ _ jp
  have hjp : ∀ x, Yields State.Canonical (jp x) := fun x => h2.takeToken.bind
    fun _ h4 => .ok (.exchange h4.takeAnswer.update)
  clear_value jp
  split
  · exact .error_bind
  · exact hjp _

theorem State.Canonical.coreAtScratch {s : State} {c : Ctx} {line : Nat} {data : Payload} (h : s.Canonical) :
    (coreAtScratch c line data s).Canonical := by
  unfold Machine.coreAtScratch
  extract_lets s1
  have h1 : s1.Canonical := h.enterBoth
  clear_value s1
  split
  · exact h1.writeBytes _ _
  · exact .foldl h1 fun _ _ h3 => h3.writeBytes _ _

theorem State.Canonical.transactionEvent {s : State} {i : Instr} {code core txn line at0 n : Nat} {data : Payload}
    (h : s.Canonical) :
    Keeps State.Canonical (transactionEvent i code core txn line at0 n data s) := by
  unfold Machine.transactionEvent
  extract_lets c me waits done
  have hwaits : ∀ w, Keeps State.Canonical (waits w) := by
    intro w
    dsimp -zeta only [waits]
    exact .next (.engineWaits h.update)
  clear_value waits
  have hdone : ∀ t, t.Canonical → Keeps State.Canonical (done t) := by
    intro _ h2
    dsimp -zeta only [done]
    exact .next (.performedBy h2.update)
  clear_value done
  split
  · exact .next h
  · clear_value me
    split
    · exact hwaits _
    · split
      · exact hdone _ h.coreAtScratch
      · clear_value c
        split
        · rename_i s3 e4
          have h3 : s3.Canonical := h.coreAtSlice _ e4
          exact hdone _ h3
        · exact hwaits _
        · exact .next h

theorem State.Canonical.toHome {s : State} {code agent line : Nat} (h : s.Canonical) :
    Keeps State.Canonical (toHome code agent line s) :=
  .next h.protocolEvent

theorem State.Canonical.toAgent {s : State} {code agent line : Nat} (h : s.Canonical) :
    Keeps State.Canonical (toAgent code agent line s) :=
  .next h.protocolEvent

theorem State.Canonical.toRequester {s : State} {code requester line : Nat} (h : s.Canonical) :
    Keeps State.Canonical (toRequester code requester line s) :=
  .next h.exchange.takeAnswer

theorem State.Canonical.execPuts {s : State} {agent line : Nat} (h : s.Canonical) :
    Keeps State.Canonical (execPuts agent line s) := by
  unfold Machine.execPuts
  split
  · exact h.requestEvent
  · exact h.toHome

theorem State.Canonical.execPutm {s : State} {agent line : Nat} (h : s.Canonical) :
    Keeps State.Canonical (execPutm agent line s) := by
  unfold Machine.execPutm
  split
  · exact h.requestEvent
  · exact h.toHome

/-! ### Machine/Network -/

theorem State.Canonical.setSteppe {s : State} {p : Nat} {x : Steppe} (h : s.Canonical) :
    (s.setSteppe p x).Canonical :=
  h.setPart

theorem State.Canonical.mapSteppe {s : State} {p : Nat} {f : Steppe → Steppe} (h : s.Canonical) :
    (s.mapSteppe p f).Canonical :=
  h.setSteppe

theorem State.Canonical.putReq {s : State} {p : Nat} {r : NetReq} (h : s.Canonical) :
    (putReq p r s).Canonical :=
  h.mapSteppe

theorem State.Canonical.mapCounter {s : State} {p n : Nat} {f : Counter → Counter} (h : s.Canonical) :
    (mapCounter p n f s).Canonical :=
  h.mapSteppe

theorem State.Canonical.endRequest {s : State} {p : Nat} {r : NetReq} (h : s.Canonical) :
    (endRequest p r s).Canonical := by
  unfold Machine.endRequest
  extract_lets s1 s2
  have h1 : s1.Canonical := by
    unfold s1
    split
    · exact h.leaveEngine
    · exact h
  clear_value s1
  have h2 : s2.Canonical := h1.mapSteppe
  clear_value s2
  split
  · exact h2
  · split
    · exact h2.mapCounter
    · exact h2.notice
    · exact h2.mapCounter
    · exact h2

theorem State.Canonical.endRequests {s : State} {p : Nat} (h : s.Canonical) :
    (endRequests p s).Canonical :=
  .foldl h fun _ _ h2 => h2.endRequest

theorem State.Canonical.postRequest {s : State} {d a : Reg} {wait leave : Bool} (h : s.Canonical) :
    Yields State.Canonical (postRequest d a wait leave s) := by
  unfold Machine.postRequest
  extract_lets _ _ _ _ _ _ _ _ s1
  have h1 : s1.Canonical := h.enterBoth
  clear_value s1
  split
  · exact .ok h.wg.retire
  · split
    · exact .ok h.wg.retire
    · split
      · exact .ok h.wg.retire
      · split
        · split
          · exact .error
          · exact .ok h.wg.retire
        · split
          · exact .error
          · exact .after fun _ => .ok h1.setSteppe.wg.retire

theorem State.Canonical.grantPost {s : State} {k : Nat} (h : s.Canonical) :
    (grantPost k s).Canonical := by
  unfold Machine.grantPost
  split
  · split
    · rename_i s1 e1
      have h1 : s1.Canonical := Yields.of_ok (P := State.Canonical) e1 (State.Canonical.postRequest h.update)
      exact h1.update
    · exact .update (.stopAt h.update)
  · exact h

theorem State.Canonical.execNcwait {s : State} {d a b c : Reg} (h : s.Canonical) :
    Keeps State.Canonical (execNcwait d a b c s) := by
  unfold Machine.execNcwait
  refine h.issue fun _ h2 => ?_
  extract_lets _ _ _
  split
  · exact .ok h2.wg.retire
  · split
    · exact .error
    · split
      · exact .ok h2.wg.retire
      · exact .error

theorem State.Canonical.execNcwaitTimeout {s : State} {slot : Nat} (h : s.Canonical) :
    Keeps State.Canonical (execNcwaitTimeout slot s) := by
  unfold Machine.execNcwaitTimeout
  split
  · extract_lets _
    split
    · exact .next h.trapNow
    · exact .next h.mapThread
  · exact .next h

theorem State.Canonical.execNcrd {s : State} {d a : Reg} (h : s.Canonical) :
    Keeps State.Canonical (execNcrd d a s) := by
  unfold Machine.execNcrd
  refine h.issue fun _ h2 => ?_
  extract_lets _ _ _ _ _
  split
  · exact .ok h2.wg.retire
  · exact .ok h2.mapCounter.wg.retire

theorem State.Canonical.regionPieces {s : State} {c : Ctx} {rr rw : Bool} {a a1 a2 : Nat} (h : s.Canonical) :
    Yields (·.1.Canonical) (regionPieces c rr rw a a1 a2 s) := by
  induction a generalizing c rr rw a1 a2 s with
  | zero =>
    unfold Machine.regionPieces
    exact .ok_fst h
  | succ _ ih =>
    unfold Machine.regionPieces
    split
    · exact .ok_fst h
    · split
      · exact .error
      · extract_lets _ jp
        have hjp : ∀ x, Yields (·.1.Canonical) (jp x) := by
          intro x
          dsimp -zeta only [jp]
          exact .after fun _ => h.charge.bind fun _ h2 => (ih h2).bind fun _ h3 => .ok_fst h3
        clear_value jp
        refine .after fun _ => ?_
        split
        · exact .after fun _ => hjp _
        · exact .ok_bind (hjp _)

theorem State.Canonical.execNreg {s : State} {d a b c : Reg} (h : s.Canonical) :
    Keeps State.Canonical (execNreg d a b c s) := by
  unfold Machine.execNreg
  refine h.issue fun _ h2 => ?_
  extract_lets base len x ctx p st ctr rr rw
  split
  · split
    · exact .ok h2.wg.retire
    · clear_value base p
      split
      · split
        · exact .ok h2.setSteppe.wg.retire
        · exact .ok h2.wg.retire
      · exact .ok h2.wg.retire
  · clear_value base len x ctx p st ctr rr rw
    split
    · split
      · exact .ok h2.wg.retire
      · split
        · exact .ok h2.wg.retire
        · refine h2.regionPieces.bind fun _ h3 => ?_
          split
          exact .ok h3.mapSteppe.wg.retire
    · split
      · exact .ok h2.wg.retire
      · split
        · exact .ok h2.wg.retire
        · refine h2.regionPieces.bind fun _ h5 => ?_
          split
          exact .ok h5.mapSteppe.wg.retire

theorem State.Canonical.payloadOf {s : State} {p : Nat} {r : NetReq} {j : Nat} (h : s.Canonical) :
    Yields (·.1.Canonical) (payloadOf p r j s) := by
  unfold Machine.payloadOf
  extract_lets _ _
  split
  · split
    · exact h.loadPieces.asEngine
    · exact .error
  · split
    · exact .asEngine (.after fun _ => .after fun _ => h.charge.bind fun _ h2 => .ok_fst h2)
    · split
      · exact .ok_fst h
      · refine h.engineRead.bind fun _ h3 => ?_
        split
        exact .ok_fst h3

theorem State.Canonical.netStop {s : State} {p : Nat} {r : NetReq} {e : EStop} (h : s.Canonical) :
    (netStop p r e s).Canonical := by
  unfold Machine.netStop
  split
  · exact h.putReq
  · split
    rename_i s1 e1
    have h1 : s1.Canonical := .of_snd_eq e1 h.joinEngine
    exact h1.putReq
  · extract_lets s2
    have h2 : s2.Canonical := h.engineWaits
    clear_value s2
    split
    · exact h2.noticePort
    · exact h2

theorem State.Canonical.netReply {s : State} {p : Nat} {r : NetReq} (h : s.Canonical) :
    (netReply p r s).Canonical := by
  unfold Machine.netReply
  split
  · exact h
  · split
    · exact h
    · exact h.putReq.leaveEngine

theorem State.Canonical.sendPacket {s : State} {p : Nat} {r : NetReq} {bytes : List Byte} (h : s.Canonical) :
    (sendPacket p r bytes s).Canonical :=
  h.mapSteppe.putReq

theorem State.Canonical.sendFirst {s : State} {p : Nat} {a : List NetReq} (h : s.Canonical) :
    (sendFirst p a s).Canonical := by
  induction a generalizing p s with
  | nil =>
    unfold Machine.sendFirst
    exact h
  | cons _ _ ih =>
    unfold Machine.sendFirst
    split
    · exact h.sendPacket
    · split
      · rename_i s1 _ e2
        have h1 : s1.Canonical := h.payloadOf _ e2
        split
        · exact h1.putReq
        · exact h1.sendPacket
      · exact ih h.netStop

theorem State.Canonical.received {s : State} {p : Nat} {pkt : Packet} {code : Nat} (h : s.Canonical) :
    (received p pkt code s).Canonical :=
  h.mapSteppe

theorem State.Canonical.sendAcks {s : State} {p : Nat} (h : s.Canonical) :
    (sendAcks p s).Canonical :=
  h.mapSteppe

theorem State.Canonical.placeInRegion {s : State} {p : Nat} {r : Region} {io off : Nat} {l : List Byte}
    (h : s.Canonical) :
    Yields State.Canonical (placeInRegion p r io off l s) :=
  h.enginePuts

theorem State.Canonical.countPlaced {s : State} {p : Nat} {r : Region} {pkt : Packet} (h : s.Canonical) :
    (countPlaced p r pkt s).Canonical := by
  unfold Machine.countPlaced
  extract_lets _ _ _ _ _ s1
  have h1 : s1.Canonical := h.setSteppe
  clear_value s1
  split
  · split
    · exact h1.mapCounter
    · exact h1
  · exact h.setSteppe

theorem State.Canonical.holdPacket {s : State} {p : Nat} {pkt : Packet} {port : Bool} {w : Option Wait}
    (h : s.Canonical) :
    (holdPacket p pkt port w s).Canonical := by
  unfold Machine.holdPacket
  extract_lets s1
  have h1 : s1.Canonical := h.engineWaits
  clear_value s1
  split
  · exact h1.mapSteppe.noticePort
  · exact h1

theorem State.Canonical.writeArrival {s : State} {p : Nat} {pkt : Packet} (h : s.Canonical) :
    (writeArrival p pkt s).Canonical := by
  unfold Machine.writeArrival
  split
  · exact h.received
  · split
    · rename_i s1 e2
      have h1 : s1.Canonical := h.placeInRegion _ e2
      exact h1.countPlaced.received
    · exact h.holdPacket
    · exact h.received

theorem State.Canonical.readArrival {s : State} {p : Nat} {pkt : Packet} (h : s.Canonical) :
    (readArrival p pkt s).Canonical := by
  unfold Machine.readArrival
  split
  · exact h.received
  · exact h.mapSteppe.received

theorem State.Canonical.dataArrival {s : State} {p : Nat} {pkt : Packet} (h : s.Canonical) :
    (dataArrival p pkt s).Canonical := by
  unfold Machine.dataArrival
  split
  · exact h.received
  · extract_lets l done x2
    have hdone : ∀ t, t.Canonical → (done t).Canonical := fun _ h2 => h2.putReq.received
    clear_value done
    split
    · exact hdone _ h
    · clear_value l x2
      split
      · rename_i s3 e3
        have h3 : s3.Canonical := h.engineStore _ e3
        exact hdone _ h3
      · exact h.netStop.received
      · exact h.holdPacket
      · exact h.netStop

theorem State.Canonical.takePacket {s : State} {p : Nat} {pkt : Packet} (h : s.Canonical) :
    (takePacket p pkt s).Canonical := by
  unfold Machine.takePacket
  split
  · exact h.received
  · split
    · exact h.writeArrival
    · exact h.readArrival
    · exact h.dataArrival

theorem State.Canonical.placeWaiting {s : State} {p : Nat} {a : List Packet} (h : s.Canonical) :
    (placeWaiting p a s).Canonical := by
  induction a generalizing p s with
  | nil =>
    unfold Machine.placeWaiting
    exact h
  | cons _ _ ih =>
    unfold Machine.placeWaiting
    split
    · exact ih h.takePacket
    · exact ih h.mapSteppe

theorem State.Canonical.retryWaiting {s : State} {p : Nat} (h : s.Canonical) :
    (retryWaiting p s).Canonical :=
  h.mapSteppe.placeWaiting.mapSteppe

theorem State.Canonical.execPacketArrival {s : State} {p : Nat} {pkt : Packet} (h : s.Canonical) :
    Keeps State.Canonical (execPacketArrival p pkt s) := by
  unfold Machine.execPacketArrival
  extract_lets s1 _
  have h1 : s1.Canonical := h.retryWaiting
  clear_value s1
  split
  · exact .next h1
  · split
    · exact .next h1.mapSteppe
    · exact .next h1.takePacket.endRequests

theorem State.Canonical.execPacketSend {s : State} {p : Nat} (h : s.Canonical) :
    Keeps State.Canonical (execPacketSend p s) := by
  unfold Machine.execPacketSend
  extract_lets s1 s2 s3
  have h1 : s1.Canonical := h.retryWaiting
  clear_value s1
  have h2 : s2.Canonical := .endRequests (.foldl h1 fun _ _ h5 => h5.netReply)
  clear_value s2
  have h3 : s3.Canonical := h2.sendAcks
  clear_value s3
  split
  · exact .next h2
  · exact .next h3.sendFirst.endRequests

theorem State.Canonical.execPortStateChange {s : State} {port : Nat} {up : Bool} (h : s.Canonical) :
    Keeps State.Canonical (execPortStateChange port up s) := by
  unfold Machine.execPortStateChange
  split
  · exact .next h
  · exact .next h.update

/-! ### Machine/Launch -/

theorem State.Canonical.setLaunches {s : State} {p : Nat} {l : List Launch} (h : s.Canonical) :
    (s.setLaunches p l).Canonical :=
  h.setPart

theorem State.Canonical.mapLaunch {s : State} {p key : Nat} {f : Launch → Launch} (h : s.Canonical) :
    (mapLaunch p key f s).Canonical :=
  h.setLaunches

theorem State.Canonical.enqueueLaunch {s : State} {p key : Nat} (h : s.Canonical) :
    (enqueueLaunch p key s).Canonical :=
  h.next.mapLaunch

theorem State.Canonical.decrement {s : State} {p pa : Nat} (h : s.Canonical) :
    (decrement p pa s).1.Canonical := by
  unfold Machine.decrement
  extract_lets _ s1
  have h1 : s1.Canonical := h.write64 _ _
  clear_value s1
  split
  · exact h
  · split
    · exact h1.enqueueLaunch
    · exact h1

theorem State.Canonical.launchStep {s : State} {c : Ctx} {va : Nat} (h : s.Canonical) :
    Yields (·.1.Canonical) (launchStep c va s) := by
  unfold Machine.launchStep
  refine .after fun _ => h.access.bind fun _ h1 => ?_
  split
  refine h1.loadPieces.bind fun _ h3 => ?_
  split
  refine h3.access.bind fun _ h5 => ?_
  split
  extract_lets w _ _
  clear_value w
  split
  · exact .ok_fst h5
  · refine .after fun _ => ?_
    split
    · exact .ok_fst h5
    · split
      · exact .ok_fst h5
      · split
        · exact .ok_fst h5
        · refine Yields.bind (P := State.Canonical) (.foldlM h5 fun _ _ h8 => h8.atHomes) fun _ h10 => ?_
          extract_lets s11
          have h11 : s11.Canonical := h10.setLaunches
          clear_value s11
          split
          · exact .ok_fst h11.enqueueLaunch
          · exact .ok_fst h11

theorem State.Canonical.depdecStep {s : State} {c : Ctx} {va : Nat} (h : s.Canonical) :
    Yields (·.1.Canonical) (depdecStep c va s) := by
  unfold Machine.depdecStep
  refine .after fun _ => h.access.bind fun _ h1 => ?_
  split
  split
  · split
    · exact .error
    · refine h1.atHomes.bind fun _ h4 => ?_
      split
      rename_i s5 _ e2
      have h5 : s5.Canonical := .of_fst_eq e2 h4.decrement
      exact .ok_fst h5.performedBy
  · exact .ok_fst h1

theorem State.Canonical.execLaunch {s : State} {d a : Reg} (h : s.Canonical) :
    Keeps State.Canonical (execLaunch d a s) := by
  unfold Machine.execLaunch
  refine h.issue fun _ h2 => .after fun _ => h2.launchStep.bind fun _ h3 => ?_
  split
  exact .ok h3.wg.retire

theorem State.Canonical.execDepdec {s : State} {d a : Reg} (h : s.Canonical) :
    Keeps State.Canonical (execDepdec d a s) := by
  unfold Machine.execDepdec
  refine h.issue fun _ h2 => .after fun _ => h2.depdecStep.bind fun _ h3 => ?_
  split
  exact .ok h3.wg.retire

theorem State.Canonical.placeUnit {s : State} {p c : Nat} {l : Launch} (h : s.Canonical) :
    (placeUnit p c l s).Canonical := by
  unfold Machine.placeUnit
  extract_lets j _ _ _ s1
  have h1 : s1.Canonical := h.next
  clear_value s1
  clear_value j
  split
  exact .foldl (.foldl (.freshScratch (.ite (.setOx (.setCluster (.mapLaunch h1.update)))
    (.setCluster (.mapLaunch h1.update)))) fun _ _ h3 => h3.setCore) fun _ _ h5 => .foldl h5 fun _ _ h7 => h7.setThread

theorem State.Canonical.execLaunchDispatch {s : State} {c : Nat} (h : s.Canonical) :
    Keeps State.Canonical (execLaunchDispatch c s) := by
  unfold Machine.execLaunchDispatch
  extract_lets p
  split
  · clear_value p
    split
    · exact .next h.placeUnit
    · exact .next h
  · exact .next h

theorem State.Canonical.skipWrite {s : State} {p : Nat} {l : Launch} {which : Nat} {status : Int} {refused : Bool}
    (h : s.Canonical) :
    (skipWrite p l which status refused s).Canonical :=
  h.notice

theorem State.Canonical.completionWrite {s : State} {p : Nat} {l : Launch} {n : Nat} (h : s.Canonical) :
    Yields State.Canonical (completionWrite p l n s) := by
  unfold Machine.completionWrite
  extract_lets c _
  split
  · split
    · exact .ok h
    · split
      · split
        · exact .ok h
        · exact h.engineStore
      · exact h.engineStore
  · split
    · exact .ok h
    · refine h.access.asEngine.bind fun _ h1 => ?_
      split
      split
      · clear_value c
        split
        · exact .error
        · exact h1.atHomes.asEngine.bind fun _ h4 => .ok h4.decrement.performedBy
      · exact .ok h1

theorem State.Canonical.completeLaunch {s : State} {p key a : Nat} (h : s.Canonical) :
    (completeLaunch p key a s).Canonical := by
  induction a generalizing p key s with
  | zero =>
    unfold Machine.completeLaunch
    exact h
  | succ _ ih =>
    unfold Machine.completeLaunch
    split
    · exact h
    · split
      · exact h
      · split
        · extract_lets _ s1
          have h1 : s1.Canonical := h.setLaunches
          clear_value s1
          split
          · exact h1
          · exact h1.engineLeaves
        · extract_lets step write
          have hstep : ∀ t, t.Canonical → (step t).Canonical := fun _ h3 => ih h3.mapLaunch
          clear_value step
          have hwrite : ∀ t, t.Canonical → (write t).Canonical := by
            intro _ h5
            dsimp -zeta only [write]
            split
            · rename_i s6 e4
              have h6 : s6.Canonical := Yields.of_ok (P := State.Canonical) e4 h5.completionWrite
              exact hstep _ h6
            · exact hstep _ h5.skipWrite
            · exact h5.joinEngine.mapLaunch
            · exact h5.engineWaits
          clear_value write
          split
          · exact hwrite _ h
          · split
            · exact h
            · extract_lets s7
              have h7 : s7.Canonical := h.leaveEngine
              clear_value s7
              split
              · exact hwrite _ h7.mapLaunch
              · exact hstep _ h7.skipWrite

theorem State.Canonical.finishLaunch {s : State} {p key : Nat} (h : s.Canonical) :
    (finishLaunch p key s).Canonical :=
  h.mapLaunch

theorem State.Canonical.execWorkUnitComplete {s : State} {p record unit : Nat} (h : s.Canonical) :
    Keeps State.Canonical (execWorkUnitComplete p record unit s) := by
  unfold Machine.execWorkUnitComplete
  extract_lets s1
  have h1 : s1.Canonical := by
    unfold s1
    split
    · split
      · exact h.freeUnit.mapLaunch
      · exact h
    · exact h
  clear_value s1
  exact .next h1.finishLaunch.completeLaunch

theorem State.Canonical.execTimerExpiry {s : State} {slot : Nat} (h : s.Canonical) :
    Keeps State.Canonical (execTimerExpiry slot s) := by
  unfold Machine.execTimerExpiry
  split
  · exact .next h.mapThread.post
  · exact .next h

theorem State.Canonical.execSliceExpiry {s : State} {slot : Nat} (h : s.Canonical) :
    Keeps State.Canonical (execSliceExpiry slot s) := by
  unfold Machine.execSliceExpiry
  split
  · exact .next h.mapThread.post
  · exact .next h

/-! ### Machine/System -/

theorem State.Canonical.writeRegister {s : State} {n : Nat} {x : Word} (h : s.Canonical) :
    Yields State.Canonical (writeRegister n x s) := by
  unfold Machine.writeRegister
  extract_lets _ _ put _
  have hput : ∀ f, Yields State.Canonical (put f) := fun f => .ok h.mapThr
  clear_value put
  split
  · exact hput _
  · exact hput _
  · exact hput _
  · exact hput _
  · exact hput _
  · exact hput _
  · exact hput _
  · exact hput _
  · exact hput _
  · exact hput _
  · exact hput _
  · exact h.ipaStore
  · exact h.ipaStore
  · exact .ok h.setCluster
  · exact .ok h.setCluster
  · exact .ok h

theorem State.Canonical.execSwrite {s : State} {a : Reg} {n : BitVec 8} (h : s.Canonical) :
    Keeps State.Canonical (execSwrite a n s) := by
  unfold Machine.execSwrite
  refine h.issue fun _ h2 => ?_
  extract_lets jp
  have hjp : ∀ x, x.Canonical → Yields State.Canonical (jp x) := fun _ h4 => .ok h4.retire
  clear_value jp
  split
  · exact h2.writeRegister.bind fun _ h6 => hjp _ h6
  · exact .ok_bind (hjp _ h2)

theorem State.Canonical.fetchBody {s : State} {miss : Bool} {k : Nat} {addr : Word} {a : Nat} (h : s.Canonical) :
    Yields (·.2.Canonical) (fetchBody miss k addr a s) := by
  induction a generalizing miss k addr s with
  | zero =>
    unfold Machine.fetchBody
    exact .ok_snd h
  | succ _ ih =>
    unfold Machine.fetchBody
    refine h.fetchAt.bind fun _ h1 => ?_
    split
    refine (ih h1).bind fun _ h3 => ?_
    split
    exact .ok_snd h3

theorem State.Canonical.execRept {s : State} {n : BitVec 3} {c st m : BitVec 4} (h : s.Canonical) :
    Keeps State.Canonical (execRept n c st m s) := by
  unfold Machine.execRept
  extract_lets start
  have hstart : ∀ ws t, t.Canonical → Yields State.Canonical (start ws t) :=
    fun ws _ h2 => .ok (.ite h2.retireTo h2.retireTo.mapThr)
  clear_value start
  split
  · exact .next h.stopAt
  · rename_i s3 _ e4
    have h3 : s3.Canonical := h.fetchBody _ e4
    exact h3.issue fun _ h5 => hstart _ _ h5
  · exact h.issue fun _ h7 => hstart _ _ h7

theorem State.Canonical.resumeRept {s : State} (h : s.Canonical) :
    Yields State.Canonical (resumeRept s) := by
  unfold Machine.resumeRept
  extract_lets _ _ _
  refine h.fetchAt.bind fun _ h1 => ?_
  split
  extract_lets _ _
  split
  · exact .error
  · refine h1.fetchBody.bind fun _ h3 => ?_
    split
    exact .ok (.ite h3 h3.mapThr)

theorem State.Canonical.applySwitch {s : State} {x : TaskSwitch} (h : s.Canonical) :
    (applySwitch x s).Canonical :=
  h.mapThr.frameCheck

theorem State.Canonical.execEret {s : State} (h : s.Canonical) :
    Keeps State.Canonical (execEret s) := by
  unfold Machine.execEret
  refine h.issue fun _ h2 => ?_
  extract_lets s3 s4
  have h3 : s3.Canonical := h2.mapThr
  clear_value s3
  have h4 : s4.Canonical := by
    unfold s4
    split
    · split
      · exact h3.applySwitch
      · exact h3
    · exact h3
  clear_value s4
  split
  · exact h4.resumeRept
  · exact .ok h4

theorem State.Canonical.dropBlocks {s : State} {p scope n : Nat} {q : Nat → Bool} (h : s.Canonical) :
    (dropBlocks p scope n q s).Canonical :=
  h.update

theorem State.Canonical.execIcinv {s : State} {a b : Reg} {sc : BitVec 3} (h : s.Canonical) :
    Keeps State.Canonical (execIcinv a b sc s) := by
  unfold Machine.execIcinv
  refine h.issue fun _ h2 => ?_
  split
  · exact .ok h2.retire
  · exact .ok (.mapThr (.ite h2.dropBlocks h2.dropBlocks))

theorem State.Canonical.execIcinvComplete {s : State} {slot : Nat} (h : s.Canonical) :
    Keeps State.Canonical (execIcinvComplete slot s) := by
  unfold Machine.execIcinvComplete
  split
  · exact .next h.retireSlot
  · exact .next h

theorem State.Canonical.fencePosted {s : State} (h : s.Canonical) :
    (fencePosted s).Canonical :=
  h.update

theorem State.Canonical.execFence {s : State} {e : Bool} {k : BitVec 2} {sc : BitVec 3} (h : s.Canonical) :
    Keeps State.Canonical (execFence e k sc s) := by
  unfold Machine.execFence
  refine h.issue fun _ h2 => ?_
  split
  · exact .ok h2.retire
  · split
    · exact .error
    · split
      · exact .error
      · exact .ok (.retire (.ite h2.fencePosted h2))

theorem State.Canonical.execIllegalInstruction {s : State} {w : BitVec 32} (h : s.Canonical) :
    Keeps State.Canonical (execIllegalInstruction w s) :=
  h.issue fun _ h2 => .ok h2

/-! ### Machine/Vacate -/

theorem State.Canonical.nextOr {o : Out} {s : State} (h : Keeps State.Canonical o) (h' : s.Canonical) :
    (nextOr o s).Canonical := by
  unfold Machine.nextOr
  split
  · exact h _ rfl
  · exact h'

theorem State.Canonical.dropThread {s : State} {k : Nat} (h : s.Canonical) :
    (dropThread k s).Canonical :=
  h.withdraw.revoke.dropFrames.freeSlotOf

theorem State.Canonical.dropFramesAway {s : State} {p : Nat} {l : List Thread} (h : s.Canonical) :
    (dropFramesAway p l s).Canonical := by
  unfold Machine.dropFramesAway
  split
  · exact .foldl h fun _ _ h2 => h2.dropAway
  · exact h

theorem State.Canonical.leaveIdleMules {s : State} (h : s.Canonical) :
    (leaveIdleMules s).Canonical :=
  .foldl h fun _ _ h2 => h2.engineLeaves

theorem State.Canonical.dropUnit {s : State} {u : Nat} (h : s.Canonical) :
    (dropUnit u s).Canonical :=
  .freeUnit (.leaveIdleMules (.update (.foldl h.dropFramesAway fun _ _ h2 => h2.dropThread)))

theorem State.Canonical.discardUnit {s : State} {u : Nat} (h : s.Canonical) :
    (discardUnit u s).Canonical := by
  unfold Machine.discardUnit
  split
  · exact h
  · exact h.dropUnit.mapLaunch

theorem State.Canonical.killLaunch {s : State} {p key : Nat} (h : s.Canonical) :
    (killLaunch p key s).Canonical :=
  h.mapLaunch.markThreads

theorem State.Canonical.loseUnit {s : State} {u : Nat} (h : s.Canonical) :
    (loseUnit u s).Canonical := by
  unfold Machine.loseUnit
  split
  · exact h
  · exact h.dropUnit.killLaunch.finishLaunch

theorem State.Canonical.dropCode {s : State} {c : Nat} (h : s.Canonical) :
    (dropCode c s).Canonical :=
  h.update

theorem State.Canonical.discardCluster {s : State} {c : Nat} {whole : Bool} (h : s.Canonical) :
    (discardCluster c whole s).Canonical :=
  .foldl h fun _ _ h2 => h2.discardUnit

theorem State.Canonical.loseCluster {s : State} {c : Nat} {whole : Bool} (h : s.Canonical) :
    (loseCluster c whole s).Canonical := by
  unfold Machine.loseCluster
  extract_lets s1 s2
  have h1 : s1.Canonical := .foldl h fun _ _ h4 => h4.loseUnit
  clear_value s1
  have h2 : s2.Canonical := .foldl h1 fun _ _ h6 => h6.dropThread
  clear_value s2
  split
  · exact .foldl h2 fun _ _ h8 => h8.setCore
  · exact h1

theorem State.Canonical.drainOx {s : State} {c a : Nat} (h : s.Canonical) :
    (drainOx c a s).Canonical := by
  induction a generalizing c s with
  | zero =>
    unfold Machine.drainOx
    exact h
  | succ _ ih =>
    unfold Machine.drainOx
    extract_lets _ s1 s2 _ s3 s4
    have h1 : s1.Canonical := .nextOr h.execAccumTransferComplete h
    clear_value s1
    have h2 : s2.Canonical := .nextOr h1.execLatchFillComplete h1
    clear_value s2
    have h3 : s3.Canonical := by
      unfold s3
      split
      · exact h2.setOx
      · exact h2
    clear_value s3
    have h4 : s4.Canonical := .nextOr h3.execMmaStart h3
    clear_value s4
    split
    · exact h
    · exact ih (.nextOr h4.execMmaComplete h4)

theorem State.Canonical.stillSlot {s : State} {k : Nat} (h : s.Canonical) :
    (stillSlot k s).Canonical :=
  .mapThread (.revoke (.completeAll (.withdraw h.update)))

theorem State.Canonical.copyBlock {s : State} {a b : Nat} (h : s.Canonical) :
    (copyBlock a b s).Canonical :=
  .foldl ((h.writeBytes _ _).setSideband _ _) fun _ _ h2 => h2.examineWord

theorem State.Canonical.putWords {s : State} {p ipa : Nat} {a : List Word} (h : s.Canonical) :
    (putWords p ipa a s).Canonical := by
  induction a generalizing p ipa s with
  | nil =>
    unfold Machine.putWords
    exact h
  | cons _ _ ih =>
    unfold Machine.putWords
    split
    · rename_i s1 e
      have h1 : s1.Canonical := Yields.of_ok (P := State.Canonical) e h.ipaWrite
      exact ih h1
    · exact ih h

theorem State.Canonical.saveImage {s : State} {p c area : Nat} {ranges : List (Nat × Nat)} (h : s.Canonical) :
    (saveImage p c area ranges s).Canonical := by
  unfold Machine.saveImage
  refine .foldl h fun _ _ h2 => ?_
  split
  · exact h2.copyBlock
  · exact h2

theorem State.Canonical.loadImage {s : State} {p c area : Nat} {ranges : List (Nat × Nat)} (h : s.Canonical) :
    (loadImage p c area ranges s).Canonical := by
  unfold Machine.loadImage
  refine .foldl h fun _ _ h2 => ?_
  split
  · exact h2.copyBlock
  · exact h2

theorem State.Canonical.saveRecords {s : State} {p c area : Nat} {slots : List Nat} (h : s.Canonical) :
    (saveRecords p c area slots s).Canonical :=
  .foldl h fun _ _ h2 => .ite h2.putWords h2.putWords

theorem State.Canonical.saveAway {s : State} {p area : Nat} {l : List (Nat × Thread)} (h : s.Canonical) :
    (saveAway p area l s).Canonical :=
  .foldl h fun _ _ h2 => h2.putWords

theorem State.Canonical.saveParts {s : State} {p area n : Nat} (h : s.Canonical) :
    (saveParts p area n s).Canonical :=
  .foldl h fun _ _ h2 => h2.putWords

theorem State.Canonical.stillCluster {s : State} {c : Nat} {whole : Bool} (h : s.Canonical) :
    (stillCluster c whole s).Canonical :=
  .drainOx (.foldl h.drainOx fun _ _ h2 => h2.stillSlot)

theorem State.Canonical.leaveRequests {s : State} {c : Nat} (h : s.Canonical) :
    (leaveRequests c s).Canonical := by
  unfold Machine.leaveRequests
  extract_lets s1 _
  have h1 : s1.Canonical := by
    unfold s1
    refine .foldl h fun _ _ h3 => ?_
    split
    · exact h3.leaveEngine
    · exact h3
  clear_value s1
  exact h1.setCluster

theorem State.Canonical.saveCluster {s : State} {c : Nat} {whole : Bool} (h : s.Canonical) :
    (saveCluster c whole s).1.Canonical := by
  unfold Machine.saveCluster
  extract_lets _ _ _ _ _ _ s1 _ _ _ s2 _ s3 s4 _ s5 _ _ _ _ _ s6 _ _ s7 s8 s9 _
  have h1 : s1.Canonical := h.stillCluster
  clear_value s1
  have h2 : s2.Canonical := h1.renameWork
  clear_value s2
  have h3 : s3.Canonical := .foldl h2 fun _ _ h11 => h11.renameIssuer
  clear_value s3
  have h4 : s4.Canonical := h3.saveRecords.saveAway.saveParts
  clear_value s4
  have h5 : s5.Canonical := h4.saveImage.leaveRequests
  clear_value s5
  have h6 : s6.Canonical := .foldl h5 fun _ _ h13 => h13.unmapEntry
  clear_value s6
  have h7 : s7.Canonical := h6.setCluster.leaveIdleMules
  clear_value s7
  have h8 : s8.Canonical := .foldl h7 fun _ _ h15 => h15.freeSlotOf
  clear_value s8
  have h9 : s9.Canonical := h8.update
  clear_value s9
  split
  · exact h1
  · exact h9.next.setPart

theorem State.Canonical.finishCluster {s : State} {v : VacateCluster} {accepted outcome : Nat} {fail : Bool}
    (h : s.Canonical) :
    (finishCluster v accepted outcome fail s).1.Canonical :=
  h.dropCode.update

theorem State.Canonical.saveOrFail {s : State} {v : VacateCluster} {accepted : Nat} {whole : Bool} {outcome : Nat}
    (h : s.Canonical) :
    (saveOrFail v accepted whole outcome s).1.Canonical := by
  unfold Machine.saveOrFail
  extract_lets _
  split
  · rename_i s1 e
    have h1 : s1.Canonical := .of_fst_eq e h.saveCluster
    exact h1.finishCluster
  · rename_i s2 e1
    have h2 : s2.Canonical := .of_fst_eq e1 h.saveCluster
    split
    · exact h2.discardCluster.finishCluster
    · exact h2.loseCluster.finishCluster

theorem State.Canonical.beginSave {s : State} {v : VacateCluster} {accepted : Nat} {whole : Bool} {outcome : Nat}
    (h : s.Canonical) :
    (beginSave v accepted whole outcome s).1.Canonical := by
  unfold Machine.beginSave
  extract_lets s1
  have h1 : s1.Canonical := by
    unfold s1
    split
    · exact h.stillCluster
    · exact h
  clear_value s1
  split
  · exact h1
  · exact h1.saveOrFail

theorem State.Canonical.startOutcome {s : State} {v : VacateCluster} {accepted : Nat} {whole : Bool} {outcome : Nat}
    (h : s.Canonical) :
    (startOutcome v accepted whole outcome s).1.Canonical := by
  unfold Machine.startOutcome
  split
  · exact h
  · split
    · exact h.discardCluster.finishCluster
    · exact h.beginSave

theorem State.Canonical.acceptVacate {s : State} {p : Nat} {cs : List Nat} {d : Nat} {whole forced : Bool}
    {report : Option Word} {notify : Option Nat} (h : s.Canonical) :
    (acceptVacate p cs d whole forced report notify s).Canonical := by
  unfold Machine.acceptVacate
  extract_lets s1 chosen step
  have h1 : s1.Canonical := .foldl h fun _ _ h3 => h3.setCluster
  clear_value s1
  have hstep : ∀ r e, r.1.Canonical → (step r e).1.Canonical := by
    intro r e h4
    dsimp -zeta only [step]
    extract_lets _ _
    split
    · exact h4.setCluster
    · exact h4.startOutcome
  clear_value step
  clear_value chosen
  split
  rename_i s5 _ e3
  have h5 : s5.Canonical := .of_fst_eq e3 (.foldl_fst h1 fun _ _ h6 => hstep _ _ h6)
  exact h5.setPart

theorem State.Canonical.execVacateRequest {s : State} {p record : Nat} (h : s.Canonical) :
    Keeps State.Canonical (execVacateRequest p record s) := by
  unfold Machine.execVacateRequest
  split
  · exact .next h
  · exact .next h.acceptVacate

theorem State.Canonical.mapVacates {s : State} {p : Nat} {f : Vacate → VacateCluster → State → State × VacateCluster}
    (h : s.Canonical) (hf : ∀ a a1 a2, a2.Canonical → (f a a1 a2).1.Canonical) :
    (mapVacates p f s).Canonical := by
  unfold Machine.mapVacates
  extract_lets vs
  split
  rename_i s1 _ e
  have h1 : s1.Canonical :=
    .of_fst_eq e (.foldl_fst h fun r v h2 => .foldl_fst (r := (_, [])) h2 fun q x h3 => hf v x q.1 h3)
  exact h1.setPart

theorem State.Canonical.drained {s : State} {p : Nat} (h : s.Canonical) :
    (drained p s).Canonical := by
  unfold Machine.drained
  refine h.mapVacates fun _ _ _ h2 => ?_
  split
  · exact h2.dropCode
  · split
    · split
      · exact h2
      · exact h2.saveOrFail
    · exact h2

theorem State.Canonical.execDrainDeadlineExpiry {s : State} {cluster : Nat} (h : s.Canonical) :
    Keeps State.Canonical (execDrainDeadlineExpiry cluster s) := by
  unfold Machine.execDrainDeadlineExpiry
  extract_lets _
  refine .next (h.drained.mapVacates fun _ _ _ h2 => ?_)
  split
  · exact h2.beginSave
  · exact h2

theorem State.Canonical.execCritDeferralExpiry {s : State} {cluster : Nat} (h : s.Canonical) :
    Keeps State.Canonical (execCritDeferralExpiry cluster s) := by
  unfold Machine.execCritDeferralExpiry
  extract_lets _ _
  split
  · exact .next h
  · split
    · exact .next h
    · refine .next (h.setCluster.mapVacates fun _ _ _ h2 => ?_)
      split
      · exact h2.startOutcome
      · exact h2

theorem State.Canonical.writeReport {s : State} {p ipa : Nat} {v : Vacate} (h : s.Canonical) :
    (writeReport p ipa v s).Canonical := by
  unfold Machine.writeReport
  extract_lets s1
  have h1 : s1.Canonical := h.putWords
  clear_value s1
  split
  · exact h1.engineWrite
  · exact h1

theorem State.Canonical.execVacateReport {s : State} {p : Nat} (h : s.Canonical) :
    Keeps State.Canonical (execVacateReport p s) := by
  unfold Machine.execVacateReport
  extract_lets s1 _
  have h1 : s1.Canonical := h.drained
  clear_value s1
  split
  · exact .next h1
  · extract_lets s2 s3
    have h2 : s2.Canonical := h1.setPart
    clear_value s2
    have h3 : s3.Canonical := by
      unfold s3
      split
      · exact h2.writeReport
      · exact h2
    clear_value s3
    split
    · exact .next (.ite h3.post h3)
    · exact .next h3

theorem State.Canonical.restoreThread {s : State} {p c k : Nat} {old : Thread} {w : Nat → Word} (h : s.Canonical) :
    (restoreThread p c k old w s).Canonical :=
  h.setThread

theorem State.Canonical.restoreFails {s : State} {p : Nat} {x : SavedCluster} (h : s.Canonical) :
    (restoreFails p x s).Canonical :=
  .foldl h.dropFramesAway fun _ _ h2 => .ite h2.discardUnit h2.loseUnit

theorem State.Canonical.restoreCheck {s : State} {p k : Nat} (h : s.Canonical) :
    (restoreCheck p k s).Canonical := by
  unfold Machine.restoreCheck
  extract_lets s1 _
  have h1 : s1.Canonical := h.frameCheck
  clear_value s1
  split
  · exact h1.mapThread
  · exact h1

theorem State.Canonical.restoreCluster {s : State} {p c area n : Nat} {x : SavedCluster} (h : s.Canonical) :
    (restoreCluster p c area n x s).Canonical := by
  unfold Machine.restoreCluster
  extract_lets _ _ s1 _ _ s2 s3 s4 s5 s6 s7
  have h1 : s1.Canonical := h.loadImage
  clear_value s1
  have h2 : s2.Canonical := h1.next.setCluster
  clear_value s2
  have h3 : s3.Canonical := h2.renameWork
  clear_value s3
  have h4 : s4.Canonical := h3.update
  clear_value s4
  have h5 : s5.Canonical := by
    unfold s5
    refine .foldl h4 fun _ _ h9 => ?_
    split
    · exact .foldl h9 fun _ _ h11 => h11.setCore
    · exact h9
  clear_value s5
  have h6 : s6.Canonical := .foldl h5 fun _ _ h13 => h13.restoreThread
  clear_value s6
  have h7 : s7.Canonical := by
    unfold s7
    refine .foldl h6 fun _ _ h15 => ?_
    split
    · exact h15.restoreThread.renameWork
    · exact h15
  clear_value s7
  exact .portChecked (.foldl h7 fun _ _ h17 => h17.restoreCheck)

theorem State.Canonical.execRestore {s : State} {cluster area : Nat} (h : s.Canonical) :
    Keeps State.Canonical (execRestore cluster area s) := by
  unfold Machine.execRestore
  extract_lets p q
  split
  · exact .next h
  · clear_value p q
    split
    · split
      · exact .next h.setPart.restoreCluster
      · exact .next h
    · split
      · exact .next h.setPart.restoreFails
      · exact .next h

/-! ### Machine/Partitions -/

theorem State.Canonical.setRecord {s : State} {p off : Nat} {x : Word} (h : s.Canonical) :
    (setRecord p off x s).Canonical := by
  unfold Machine.setRecord
  split
  · exact h.write64 _ _
  · exact h

theorem State.Canonical.setOwned {s : State} {p off n : Nat} {b : Bool} (h : s.Canonical) :
    (setOwned p off n b s).Canonical :=
  h.setRecord

theorem State.Canonical.markCluster {s : State} {c : Nat} (h : s.Canonical) :
    (markCluster c s).Canonical := by
  unfold Machine.markCluster
  extract_lets cl
  clear_value cl
  split
  · exact h
  · split
    · exact h
    · split
      · exact h.setCluster
      · exact h

theorem State.Canonical.execBorderControllerRun {s : State} (h : s.Canonical) :
    Keeps State.Canonical (execBorderControllerRun s) := by
  unfold Machine.execBorderControllerRun
  split
  · exact .next h
  · exact .next (.foldl h.update fun _ _ h2 => h2.markCluster)

theorem State.Canonical.turnBack {s : State} {c : Nat} (h : s.Canonical) :
    (turnBack c s).Canonical :=
  .foldl h fun _ _ h2 => h2.mapThread

theorem State.Canonical.cleanCluster {s : State} {c : Nat} (h : s.Canonical) :
    (cleanCluster c s).Canonical :=
  .engineLeaves (.setCluster (.update (.leaveRequests (.turnBack (.foldl h fun _ _ h2 => h2.exchange)))))

theorem State.Canonical.giveCluster {s : State} {c q : Nat} (h : s.Canonical) :
    (giveCluster c q s).Canonical :=
  .foldl h.freshScratch.setCluster fun _ _ h2 => h2.setThread

theorem State.Canonical.borderNotice {s : State} {p c : Nat} {joined : Bool} {report : Word} (h : s.Canonical) :
    (borderNotice p c joined report s).Canonical :=
  h.notice

theorem State.Canonical.execClusterMove {s : State} {c : Nat} (h : s.Canonical) :
    Keeps State.Canonical (execClusterMove c s) := by
  unfold Machine.execClusterMove
  split
  · split
    · exact .next h
    · extract_lets s1 s2 _ s3
      have h1 : s1.Canonical := by
        unfold s1
        split
        · exact h
        · split
          · rename_i s4 e4
            exact .of_fst_eq e4 h.saveCluster
          · rename_i s5 e5
            have h5 : s5.Canonical := .of_fst_eq e5 h.saveCluster
            exact h5.loseCluster
      clear_value s1
      have h2 : s2.Canonical := .foldl h1 fun _ _ h7 => h7.dropThread
      clear_value s2
      have h3 : s3.Canonical := h2.cleanCluster.setOwned.setOwned
      clear_value s3
      exact .next h3.giveCluster.borderNotice.borderNotice
  · exact .next h

theorem State.Canonical.execForcedMove {s : State} {c : Nat} {force : ForcedVacate} (h : s.Canonical) :
    Keeps State.Canonical (execForcedMove c force s) := by
  unfold Machine.execForcedMove
  split
  · split
    · exact .next h
    · exact .next h.setCluster.acceptVacate
  · exact .next h

theorem State.Canonical.setChannel {s : State} {p ch : Nat} {b : Bool} (h : s.Canonical) :
    (setChannel p ch b s).Canonical := by
  unfold Machine.setChannel
  split
  · exact h.setOwned
  · exact h.setOwned

theorem State.Canonical.wipeChannel {s : State} {ch : Nat} (h : s.Canonical) :
    (wipeChannel ch s).Canonical := by
  unfold Machine.wipeChannel
  split
  exact .update (.freshNow h.update)

theorem State.Canonical.execChannelMove {s : State} {channel part : Nat} (h : s.Canonical) :
    Keeps State.Canonical (execChannelMove channel part s) := by
  unfold Machine.execChannelMove
  split
  · exact .next h
  · exact .next (.setChannel (.foldl h.wipeChannel fun _ _ h2 => .ite h2 h2.setChannel))

theorem State.Canonical.refill {s : State} {slice p : Nat} (h : s.Canonical) :
    (refill slice p s).1.Canonical :=
  h.update

theorem State.Canonical.giveTokens {s : State} {i n : Nat} (h : s.Canonical) :
    (giveTokens i n s).Canonical := by
  unfold Machine.giveTokens
  extract_lets _
  split
  · exact h
  · exact .foldl h.update fun _ _ h2 => .ite h2.earn.mapThread h2.earn

theorem State.Canonical.serveDeferred {s : State} {slice p : Nat} (h : s.Canonical) :
    (serveDeferred slice p s).Canonical :=
  .giveTokens h.update

theorem State.Canonical.borrowDeferred {s : State} {slice p a : Nat} (h : s.Canonical) :
    (borrowDeferred slice p a s).Canonical := by
  induction a generalizing slice p s with
  | zero =>
    unfold Machine.borrowDeferred
    exact h
  | succ _ ih =>
    unfold Machine.borrowDeferred
    split
    · exact h
    · split
      · rename_i s1 e1
        have h1 : s1.Canonical := h.borrowToken _ e1
        exact ih h1.giveTokens
      · exact h

theorem State.Canonical.execTokenRefill {s : State} {slice : Nat} (h : s.Canonical) :
    Keeps State.Canonical (execTokenRefill slice s) := by
  unfold Machine.execTokenRefill
  split
  · exact .next h
  · extract_lets _ _ s1 s2 s3
    have h1 : s1.Canonical := h.update
    clear_value s1
    have h2 : s2.Canonical := by
      unfold s2
      refine .foldl h1 fun _ _ h5 => ?_
      split
      rename_i s6 _ e1
      have h6 : s6.Canonical := .of_fst_eq e1 h5.refill
      exact h6.update
    clear_value s2
    have h3 : s3.Canonical := .foldl h2 fun _ _ h8 => h8.serveDeferred
    clear_value s3
    exact .next (.foldl h3 fun _ _ h10 => h10.borrowDeferred)

theorem State.Canonical.clearPage {s : State} {page : Nat} (h : s.Canonical) :
    (clearPage page s).Canonical := by
  unfold Machine.clearPage
  split
  · exact h
  · exact h.update

theorem State.Canonical.execScratchpadUnitClear {s : State} {cluster unit : Nat} (h : s.Canonical) :
    Keeps State.Canonical (execScratchpadUnitClear cluster unit s) := by
  unfold Machine.execScratchpadUnitClear
  split
  · exact .next h
  · exact .next h.setCluster

theorem State.Canonical.setHostFn {s : State} {n : Nat} {f : HostFn} (h : s.Canonical) :
    (s.setHostFn n f).Canonical :=
  h.update

theorem State.Canonical.sendNow {s : State} {fn : Nat} {o : Outward} (h : s.Canonical) :
    (sendNow fn o s).Canonical := by
  unfold Machine.sendNow
  split
  · exact h.putHostWord _ _
  · exact h.setHostFn
  · exact h.setHostFn

theorem State.Canonical.sendOut {s : State} {fn : Nat} {o : Outward} (h : s.Canonical) :
    (sendOut fn o s).Canonical := by
  unfold Machine.sendOut
  split
  · exact h.sendNow
  · exact h.setHostFn

theorem State.Canonical.takeOutward {s : State} {p : Nat} (h : s.Canonical) :
    (takeOutward p s).1.Canonical :=
  h.update

theorem State.Canonical.releaseOutward {s : State} {p : Nat} (h : s.Canonical) :
    (releaseOutward p s).Canonical := by
  unfold Machine.releaseOutward
  split
  · exact h
  · split
    rename_i s1 _ e1
    have h1 : s1.Canonical := .of_fst_eq e1 h.takeOutward
    exact .foldl h1 fun _ _ h3 => h3.sendNow

theorem State.Canonical.clearSlots {s : State} {c : Nat} (h : s.Canonical) :
    (clearSlots c s).Canonical :=
  .update (.foldl h fun _ _ h2 => h2.withdraw.revoke)

theorem State.Canonical.loseLines {s : State} {mine : Nat → Bool} (h : s.Canonical) :
    (loseLines mine s).Canonical :=
  .update (.foldl h fun _ _ h2 => .ite h2 (((h2.writeBytes _ _).setSideband _ _).setSideband _ _))

theorem State.Canonical.haltWorld {s : State} {p : Nat} (h : s.Canonical) :
    (haltWorld p s).Canonical :=
  .tellFirmware (.setRecord (.takeOutward (.update
    (.setPart (.mapSteppe (.foldl (.loseLines (.foldl h fun _ _ h2 => h2.clearSlots))
    fun _ _ h4 => h4.cleanCluster.freshScratch))))))

theorem State.Canonical.execIntegrityCheckComplete {s : State} {block : Nat} {good : Bool} (h : s.Canonical) :
    Keeps State.Canonical (execIntegrityCheckComplete block good s) := by
  unfold Machine.execIntegrityCheckComplete
  split
  · exact .next h
  · exact .next (.ite (.releaseOutward h.update) (.haltWorld h.update))

theorem State.Canonical.execLineReset {s : State} {release : LineRelease} (h : s.Canonical) :
    Keeps State.Canonical (execLineReset release s) := by
  unfold Machine.execLineReset
  split
  · exact .next h
  · split
    · exact .next h.haltWorld
    · exact .next h.exchange

theorem State.Canonical.serviceDone {s : State} {p entry : Nat} {st : Int} (h : s.Canonical) :
    (serviceDone p entry st s).Canonical := by
  unfold Machine.serviceDone
  extract_lets ring s1
  have h1 : s1.Canonical := by
    unfold s1
    split
    · exact h.engineWrite
    · exact h
  clear_value s1
  clear_value ring
  split
  · exact h1.putWords
  · exact h1

theorem State.Canonical.service {s : State} {p code : Nat} {granted : Bool} {ok : State → Word → Bool}
    {change : State → Word → State} (h : s.Canonical) (hchange : ∀ a a1, a.Canonical → (change a a1).Canonical) :
    Keeps State.Canonical (service p code granted ok change s) := by
  unfold Machine.service
  split
  · exact .next h
  · split
    · extract_lets _
      split
      · exact .next h.serviceDone
      · split
        · exact .next h
        · split
          · exact .next h.serviceDone
          · split
            · exact .next h.serviceDone
            · exact .next ((hchange _ _ h).serviceDone)
    · exact .next h

theorem State.Canonical.execServiceVacate {s : State} {part : Nat} {granted : Bool} (h : s.Canonical) :
    Keeps State.Canonical (execServiceVacate part granted s) := by
  unfold Machine.execServiceVacate
  refine h.service fun _ _ h2 => ?_
  split
  · exact h2.acceptVacate
  · exact h2

theorem State.Canonical.execServiceFeLimits {s : State} {part : Nat} {granted : Bool} (h : s.Canonical) :
    Keeps State.Canonical (execServiceFeLimits part granted s) :=
  h.service fun _ _ h2 => h2.setRecord

theorem State.Canonical.execServiceTarget {s : State} {part : Nat} {granted : Bool} (h : s.Canonical) :
    Keeps State.Canonical (execServiceTarget part granted s) :=
  h.service fun _ _ h2 => h2.setRecord

theorem State.Canonical.execServiceBars {s : State} {part : Nat} {granted : Bool} (h : s.Canonical) :
    Keeps State.Canonical (execServiceBars part granted s) :=
  h.service fun _ _ h2 => h2.setRecord

theorem State.Canonical.execServiceGiveBack {s : State} {part : Nat} {granted : Bool} (h : s.Canonical) :
    Keeps State.Canonical (execServiceGiveBack part granted s) :=
  h.service fun _ _ h2 => h2.setCluster

theorem State.Canonical.execPartitionCreation {s : State} {part record world : Nat} (h : s.Canonical) :
    Keeps State.Canonical (execPartitionCreation part record world s) := by
  unfold Machine.execPartitionCreation
  split
  · exact .next h
  · exact .next (.update (.foldl (.setRecord (.next h.update)) fun _ _ h2 => h2.giveCluster.borderNotice))

/-! ### Machine/HostLink -/

theorem State.Canonical.recordQueue {s : State} {p st : Nat} (h : s.Canonical) :
    (recordQueue p st s).Canonical :=
  h.setRecord

theorem State.Canonical.failQueue {s : State} {fn p cause : Nat} {f : HostFn} (h : s.Canonical) :
    (failQueue fn p cause f s).Canonical :=
  h.setHostFn.recordQueue.sendOut

theorem State.Canonical.writeQueue {s : State} {n : Nat} {moved : Bool} {put : HostFn → HostFn} (h : s.Canonical) :
    Keeps State.Canonical (writeQueue n moved put s) := by
  unfold Machine.writeQueue
  split
  · exact .next h
  · extract_lets f
    clear_value f
    split
    · exact .next h.failQueue
    · exact .next h.setHostFn

theorem State.Canonical.execQwr {s : State} {fn : Nat} {value : BitVec 64} (h : s.Canonical) :
    Keeps State.Canonical (execQwr fn value s) :=
  h.writeQueue

theorem State.Canonical.execQbase {s : State} {fn : Nat} {value : BitVec 64} (h : s.Canonical) :
    Keeps State.Canonical (execQbase fn value s) :=
  h.writeQueue

theorem State.Canonical.execQsize {s : State} {fn : Nat} {value : BitVec 64} (h : s.Canonical) :
    Keeps State.Canonical (execQsize fn value s) :=
  h.writeQueue

theorem State.Canonical.leaveEntry {s : State} {fn : Nat} (h : s.Canonical) :
    (leaveEntry fn s).Canonical := by
  unfold Machine.leaveEntry
  split
  · exact h.setHostFn.leaveEngine
  · exact h

theorem State.Canonical.execQueueKeying {s : State} {fn : Nat} (h : s.Canonical) :
    Keeps State.Canonical (execQueueKeying fn s) := by
  unfold Machine.execQueueKeying
  extract_lets s1 f _
  have h1 : s1.Canonical := h.leaveEntry
  clear_value s1
  clear_value f
  split
  · split
    · exact .next h1
    · split
      · exact .next h1.setHostFn
      · exact .next h1.setHostFn.recordQueue
  · exact .next h1

theorem State.Canonical.bumpCount {s : State} {p lo : Nat} (h : s.Canonical) :
    (bumpCount p lo s).Canonical :=
  h.setRecord

theorem State.Canonical.hostWalk {s : State} {fn p ipa n : Nat} (h : s.Canonical) :
    Yields State.Canonical (hostWalk fn p ipa n s) :=
  .foldlM h fun _ _ h2 => h2.walkerRead

/-- The state that the performance of an entry of a host queue leaves. -/
def EntryResult.state : EntryResult → State
  | .done s _ => s
  | .waits s => s

theorem State.Canonical.of_done {r : EntryResult} {s : State} {x : Word} (e : r = .done s x)
    (h : r.state.Canonical) : s.Canonical := by
  subst e; exact h

theorem State.Canonical.of_waits {r : EntryResult} {s : State} (e : r = .waits s) (h : r.state.Canonical) :
    s.Canonical := by
  subst e; exact h

theorem State.Canonical.done {s : State} {x : Word} (h : s.Canonical) : (EntryResult.done s x).state.Canonical := h

theorem State.Canonical.waits {s : State} (h : s.Canonical) : (EntryResult.waits s).state.Canonical := h

theorem State.Canonical.entryOutcome {s : State} {fn p seq : Nat} {r : Except Stop (State × Word)} (h : s.Canonical)
    (hr : Yields (·.1.Canonical) r) : (entryOutcome fn p seq s r).state.Canonical := by
  unfold Machine.entryOutcome
  split
  · exact hr _ rfl
  · split
    rename_i s1 e
    have h1 : s1.Canonical := .of_snd_eq e h.joinEngine
    exact h1.setHostFn.waits
  · exact h.engineWaits.waits
  · exact h

theorem State.Canonical.hostStore {s : State} {fn p seq ipa : Nat} {x : Word} (h : s.Canonical) :
    (hostStore fn p seq ipa x s).state.Canonical := by
  unfold Machine.hostStore
  split
  · exact h
  · split
    · exact h
    · extract_lets _
      split
      · exact h.takePlace.waits
      · split
        · rename_i s1 _ e
          have h1 : s1.Canonical :=
            Yields.of_ok (P := (·.1.Canonical)) e (h.hostWalk.bind fun _ h2 => h2.lineAccess)
          exact h1.fePerform.examineWord.performedBy.done
        · exact h.engineWaits.waits
        · exact h.countRefused.done

theorem State.Canonical.performEntry {s : State} {fn p at0 : Nat} (h : s.Canonical) :
    (performEntry fn p at0 s).state.Canonical := by
  unfold Machine.performEntry
  extract_lets
  split
  · exact h
  · split
    · exact h.entryOutcome h.launchStep
    · split
      · exact h.entryOutcome h.depdecStep
      · exact h.hostStore

theorem State.Canonical.entryTurn {s : State} {fn p at0 : Nat} (h : s.Canonical) :
    (entryTurn fn p at0 s).state.Canonical := by
  unfold Machine.entryTurn
  split
  · exact h.performEntry
  · split
    · exact h
    · extract_lets s1
      have h1 : s1.Canonical := h.leaveEntry
      split
      · exact h1.performEntry
      · exact h1

theorem State.Canonical.consumeEntry {s : State} {fn code : Nat} (h : s.Canonical) :
    (consumeEntry fn code s).Canonical := by
  unfold Machine.consumeEntry
  extract_lets _ _ _ _ skip _
  have hskip : ∀ t, t.Canonical → (skip t).Canonical := fun _ h2 => h2.setHostFn
  clear_value skip
  split
  · exact h
  · split
    · exact h
    · split
      · exact .failQueue h.update
      · split
        · exact h
        · split
          · exact hskip _ h.bumpCount
          · split
            · exact h
            · split
              · exact h.setHostFn.recordQueue
              · split
                · exact hskip _ (.bumpCount h.update)
                · split
                  · rename_i e
                    exact .of_waits e h.entryTurn
                  · rename_i s1 _ e
                    have h1 : s1.Canonical := .of_done e h.entryTurn
                    exact .recordQueue (.setHostFn (.sendOut h1.update))

theorem State.Canonical.execHostqLaunch {s : State} {fn : Nat} (h : s.Canonical) :
    Keeps State.Canonical (execHostqLaunch fn s) :=
  .next h.consumeEntry

theorem State.Canonical.execHostqDepdec {s : State} {fn : Nat} (h : s.Canonical) :
    Keeps State.Canonical (execHostqDepdec fn s) :=
  .next h.consumeEntry

theorem State.Canonical.execHostqStff {s : State} {fn : Nat} (h : s.Canonical) :
    Keeps State.Canonical (execHostqStff fn s) :=
  .next h.consumeEntry

theorem State.Canonical.hostLoad {s : State} {fn p ipa : Nat} {pas : List Nat} (h : s.Canonical) :
    Yields (·.1.Canonical) (hostLoad fn p ipa pas s) := by
  unfold Machine.hostLoad
  refine h.hostWalk.bind fun _ h2 => .foldlM h2 fun _ _ h3 => h3.lineAccess.bind fun _ h4 => ?_
  split
  exact .ok_fst h4

theorem State.Canonical.hostWrite {s : State} {fn p ipa : Nat} {data : List (Nat × Byte)} (h : s.Canonical) :
    Yields State.Canonical (hostWrite fn p ipa data s) := by
  unfold Machine.hostWrite
  refine h.hostWalk.bind fun _ h2 => .foldlM h2 fun _ _ h4 => ?_
  extract_lets at0 run
  clear_value at0
  split
  · exact .error
  · clear_value run
    split
    · rename_i s5 _ e2
      have h5 : s5.Canonical := h4.lineAccess _ e2
      exact .ok h5.performedBy
    · exact .ok h4.countRefused.performedBy
    · exact .error

theorem State.Canonical.answerHost {s : State} {fn : Nat} {x : Completion} (h : s.Canonical) :
    (answerHost fn x s).Canonical :=
  h.sendOut

theorem State.Canonical.bar2Access {s : State} {fn p ipa n : Nat} {data : Option (List Byte)} {pas : List Nat}
    (h : s.Canonical) :
    Yields (·.1.Canonical) (bar2Access fn p ipa n data pas s) := by
  unfold Machine.bar2Access
  split
  · exact h.hostLoad.map fun _ h1 => h1
  · exact h.hostWrite.map fun _ h3 => h3

theorem State.Canonical.sidebandAccess {s : State} {fn p ipa : Nat} {pas : List Nat} (h : s.Canonical) :
    Yields (·.1.Canonical) (sidebandAccess fn p ipa pas s) := by
  unfold Machine.sidebandAccess
  extract_lets _
  refine h.hostWalk.bind fun _ h2 => h2.lineAccess.bind fun _ h3 => ?_
  split
  exact .ok_fst h3

theorem State.Canonical.hostAccess {s : State} {i : Instr} {fn p ipa n : Nat} {k : Access}
    {f : List Nat → State → Except Stop (State × Completion)} (h : s.Canonical)
      (hf : ∀ a a1, a1.Canonical → Yields (·.1.Canonical) (f a a1)) :
    Keeps State.Canonical (hostAccess i fn p ipa n k f s) := by
  unfold Machine.hostAccess
  split
  · exact .next h.answerHost
  · split
    · rename_i s1 _ e2
      have h1 : s1.Canonical := (hf _ _ h) _ e2
      exact .next (.answerHost h1.update)
    · exact .next (.engineWaits h.update)
    · exact .next h.answerHost

theorem State.Canonical.registerWrite {s : State} {fn addr : Nat} {l : List Byte} (h : s.Canonical) :
    Keeps State.Canonical (registerWrite fn addr l s) := by
  unfold Machine.registerWrite
  extract_lets _
  split
  · exact h.execQbase
  · split
    · exact h.execQsize
    · split
      · exact h.execQwr
      · exact .next h

theorem State.Canonical.execHostBar2Access {s : State} {fn : Nat} {place : BarPlace} {size : Nat}
    {data : Option (List (BitVec 8))} (h : s.Canonical) :
    Keeps State.Canonical (execHostBar2Access fn place size data s) := by
  unfold Machine.execHostBar2Access
  extract_lets _ _ _ _
  split
  · exact .next h.answerHost
  · split
    · exact .next h.answerHost
    · split
      · split
        · exact .next h.answerHost
        · exact h.registerWrite
      · split
        · exact h.hostAccess fun _ _ h2 => h2.bar2Access
        · split
          · exact .next h
          · exact .next h.answerHost

theorem State.Canonical.execHostSidebandRead {s : State} {fn addr : Nat} (h : s.Canonical) :
    Keeps State.Canonical (execHostSidebandRead fn addr s) := by
  unfold Machine.execHostSidebandRead
  extract_lets _
  split
  · exact .next h.answerHost
  · exact h.hostAccess fun _ _ h2 => h2.sidebandAccess

theorem State.Canonical.spdm {s : State} {fn : Nat} {ok : Spdm → Bool} {answer : State → Spdm → Spdm}
    (h : s.Canonical) :
    Keeps State.Canonical (spdm fn ok answer s) := by
  unfold Machine.spdm
  split
  · exact .next h
  · exact .next h.setHostFn

theorem State.Canonical.execGetVersion {s : State} {fn : Nat} (h : s.Canonical) :
    Keeps State.Canonical (execGetVersion fn s) :=
  h.spdm

theorem State.Canonical.execGetCapabilities {s : State} {fn : Nat} (h : s.Canonical) :
    Keeps State.Canonical (execGetCapabilities fn s) :=
  h.spdm

theorem State.Canonical.execNegotiateAlgorithms {s : State} {fn : Nat} (h : s.Canonical) :
    Keeps State.Canonical (execNegotiateAlgorithms fn s) :=
  h.spdm

theorem State.Canonical.execGetDigests {s : State} {fn : Nat} (h : s.Canonical) :
    Keeps State.Canonical (execGetDigests fn s) :=
  h.spdm

theorem State.Canonical.execGetCertificate {s : State} {fn : Nat} (h : s.Canonical) :
    Keeps State.Canonical (execGetCertificate fn s) :=
  h.spdm

theorem State.Canonical.execChallenge {s : State} {fn nonce : Nat} (h : s.Canonical) :
    Keeps State.Canonical (execChallenge fn nonce s) :=
  h.spdm

theorem State.Canonical.execGetMeasurements {s : State} {fn index : Nat} (h : s.Canonical) :
    Keeps State.Canonical (execGetMeasurements fn index s) :=
  h.spdm

theorem State.Canonical.execKeyExchange {s : State} {fn : Nat} (h : s.Canonical) :
    Keeps State.Canonical (execKeyExchange fn s) :=
  h.next.spdm

theorem State.Canonical.execFinish {s : State} {fn : Nat} (h : s.Canonical) :
    Keeps State.Canonical (execFinish fn s) :=
  h.spdm

theorem State.Canonical.execHeartbeat {s : State} {fn : Nat} (h : s.Canonical) :
    Keeps State.Canonical (execHeartbeat fn s) :=
  h.spdm

theorem State.Canonical.execKeyUpdate {s : State} {fn : Nat} (h : s.Canonical) :
    Keeps State.Canonical (execKeyUpdate fn s) :=
  h.spdm

theorem State.Canonical.execEndSession {s : State} {fn : Nat} (h : s.Canonical) :
    Keeps State.Canonical (execEndSession fn s) :=
  h.spdm

/-! ### Machine/Protocol -/

theorem State.Canonical.execPtload {s : State} {d a b : Reg} (h : s.Canonical) :
    Keeps State.Canonical (execPtload d a b s) := by
  unfold Machine.execPtload
  refine h.issue fun _ h2 => .after fun _ => ?_
  split
  · exact .error
  · extract_lets _ verdict s3 _
    have h3 : s3.Canonical := h2.update
    clear_value s3
    clear_value verdict
    split
    · exact .ok (.retire (.wg h3.update))
    · exact .ok h3.wg.retire

theorem State.Canonical.dropOut {s : State} {line : Nat} (h : s.Canonical) :
    Yields State.Canonical (dropOut line s) := by
  unfold Machine.dropOut
  extract_lets s1
  have h1 : s1.Canonical := h.evictLine
  clear_value s1
  split
  · exact .error
  · exact .ok h1

theorem State.Canonical.forgetFrame {s : State} {f : Nat} (h : s.Canonical) :
    (forgetFrame f s).Canonical :=
  h.update

theorem State.Canonical.bindPage {s : State} {id pa : Nat} (h : s.Canonical) :
    Yields State.Canonical (bindPage id pa s) := by
  unfold Machine.bindPage
  split
  · exact .error
  · exact Yields.bind (P := State.Canonical) (.foldlM h fun _ _ h2 => h2.dropOut)
      fun _ h4 => .ok (.performedAt (.forgetFrame h4.update))

theorem State.Canonical.bindRange {s : State} {d : Reg} {base len id : Word} (h : s.Canonical) :
    Yields State.Canonical (bindRange d base len id s) := by
  unfold Machine.bindRange
  split
  · exact .ok h.wg.retire
  · split
    · exact .ok h.wg.retire
    · split
      · exact .ok h.wg.retire
      · exact Yields.bind (P := State.Canonical) (.foldlM h fun _ _ h2 => h2.bindPage) fun _ h4 => .ok h4.wg.retire

theorem State.Canonical.execDirq {s : State} {d a : Reg} (h : s.Canonical) :
    Keeps State.Canonical (execDirq d a s) := by
  unfold Machine.execDirq
  refine h.issue fun _ h2 => h2.access.bind fun _ h3 => ?_
  split
  exact .ok h3.wg.wg.retire

theorem State.Canonical.lineMaintenance {s : State} {code va n : Nat} (h : s.Canonical) :
    Yields State.Canonical (lineMaintenance code va n s) := by
  unfold Machine.lineMaintenance
  extract_lets me
  refine .foldlM h fun _ _ h2 => ?_
  extract_lets lo len
  clear_value me lo len
  split
  · exact .error
  · exact Yields.bind (P := State.Canonical) (.foldlM h2 fun _ _ h4 => h4.maintainLine) fun _ h6 => .ok h6.performedAt

/-! ### Machine/Power -/

theorem State.Canonical.bringUp {s : State} (h : s.Canonical) :
    (bringUp s).Canonical :=
  ⟨reset_mem_wf, h.2⟩

theorem State.Canonical.execFunctionLevelReset {s : State} {fn : Nat} (h : s.Canonical) :
    Keeps State.Canonical (execFunctionLevelReset fn s) := by
  unfold Machine.execFunctionLevelReset
  split
  · exact .next h
  · extract_lets s1 f s2
    have h1 : s1.Canonical := h.leaveEntry
    clear_value s1
    have h2 : s2.Canonical := by
      unfold s2
      clear_value f
      split
      · exact h1.recordQueue
      · exact h1
    clear_value s2
    exact .next h2.setHostFn

theorem State.Canonical.setIsland {s : State} {c : Nat} {i : Island} (h : s.Canonical) :
    (s.setIsland c i).Canonical :=
  h.setCluster

theorem State.Canonical.execIslandPointChange {s : State} {cluster mhz : Nat} {power : IslandPower} (h : s.Canonical) :
    Keeps State.Canonical (execIslandPointChange cluster mhz power s) := by
  unfold Machine.execIslandPointChange
  extract_lets _ _
  split
  · exact .next h
  · split
    · exact .next h.setIsland
    · exact .next h.setIsland

theorem State.Canonical.execCurrentCapThrottle {s : State} {cluster : Nat} {excess : Throttle} (h : s.Canonical) :
    Keeps State.Canonical (execCurrentCapThrottle cluster excess s) := by
  unfold Machine.execCurrentCapThrottle
  extract_lets _
  split
  · exact .next h
  · exact .next h.setIsland

theorem State.Canonical.lowerFor {s : State} {c kind : Nat} (h : s.Canonical) :
    (lowerFor c kind s).Canonical :=
  h.setIsland

theorem State.Canonical.execLeaveGrant {s : State} {cluster : Nat} (h : s.Canonical) :
    Keeps State.Canonical (execLeaveGrant cluster s) := by
  unfold Machine.execLeaveGrant
  extract_lets _ _
  split
  · exact .next h.setOx.lowerFor
  · split
    · exact .next h.setCluster.lowerFor
    · split
      · exact .next h.lowerFor.grantPost
      · exact .next h

/-! ### Machine/Scalar -/

theorem State.Canonical.binary {s : State} {word : Nat} {d a b : Reg} {w : Bool} {f : Word → Word → Word}
    (h : s.Canonical) :
    Keeps State.Canonical (binary word d a b w f s) :=
  h.issue fun _ h2 => .ok h2.wg.retire

theorem State.Canonical.unary {s : State} {word : Nat} {d a : Reg} {w : Bool} {f : Word → Word} (h : s.Canonical) :
    Keeps State.Canonical (unary word d a w f s) :=
  h.issue fun _ h2 => .ok h2.wg.retire

theorem State.Canonical.addDivide {s : State} (h : s.Canonical) :
    (addDivide s).Canonical :=
  h.setCore

theorem State.Canonical.joinDivider {s : State} (h : s.Canonical) :
    Yields State.Canonical (joinDivider s) := by
  unfold Machine.joinDivider
  split
  · exact .error
  · exact .ok h.addDivide

theorem State.Canonical.divide {s : State} {word : Nat} {d a b : Reg} {l : BitVec 4} {w : Bool}
    {f : Word → Word → Word} (h : s.Canonical) :
    Keeps State.Canonical (divide word d a b l w f s) :=
  h.issue fun _ h2 => h2.joinDivider.bind fun _ h4 => .ok h4.retireLong

theorem State.Canonical.immediate {s : State} {word : Nat} {d a : Reg} {i : BitVec 18} {f : Word → Word → Word}
    (h : s.Canonical) :
    Keeps State.Canonical (immediate word d a i f s) :=
  h.issue fun _ h2 => .ok h2.wg.retire

theorem State.Canonical.shiftImm {s : State} {word : Nat} {d a : Reg} {f : Word → Word} (h : s.Canonical) :
    Keeps State.Canonical (shiftImm word d a f s) :=
  h.issue fun _ h2 => .ok h2.wg.retire

/-! ### Machine/Special -/

theorem State.Canonical.special {s : State} {word : Nat} {d : Reg} {rs : List Reg} {l : BitVec 4} {m q : BitVec 2}
    {rm : Bool} {results : State → Fmt → List (Nat × Nat)} (h : s.Canonical) :
    Keeps State.Canonical (special word d rs l m q rm results s) :=
  h.issue fun _ h2 => .ok h2.raise.retireLong

theorem State.Canonical.special1 {s : State} {word : Nat} {d a : Reg} {l : BitVec 4} {m q : BitVec 2} {rm : Bool}
    {op : Nat → Fmt → FVal → Nat × Nat} (h : s.Canonical) :
    Keeps State.Canonical (special1 word d a l m q rm op s) :=
  h.special

/-! ### Machine/Tasks -/

theorem State.Canonical.placePorts {s : State} {p : Nat} {dom : BitVec 12} {ref : Nat → Word} {a : List Nat}
    (h : s.Canonical) :
    Yields (Offers (·.2.Canonical)) (placePorts p dom ref a s) := by
  induction a generalizing p dom ref s with
  | nil =>
    unfold Machine.placePorts
    exact .ok (.offer h)
  | cons _ _ ih =>
    unfold Machine.placePorts
    refine h.placeHandle.bind fun _ hc => ?_
    split
    · exact .ok .nothing
    · rename_i s2
      have h2 : s2.Canonical := hc _ rfl
      refine (ih h2).bind fun _ hc1 => ?_
      split
      · exact .ok hc1
      · rename_i s3
        have h3 : s3.Canonical := hc1 _ rfl
        exact .ok (.offer h3)

theorem State.Canonical.spawn {s : State} {n id base : Nat} {bufs : List Nat} {va : Nat} {w : Nat → Word}
    {handles : List (Nat × Nat)} (h : s.Canonical) :
    Yields State.Canonical (spawn n id base bufs va w handles s) :=
  Yields.bind (P := State.Canonical) (State.Canonical.storeRanges
    (.freshScratch (.setCluster (.foldl h fun _ _ h2 => h2.setBuffer)))) fun _ h4 => h4.storeRanges.bind
    fun _ h6 => .after fun _ => .ok h6.setTask.pushReady.portChecked

theorem State.Canonical.execTspawn {s : State} {d a b : Reg} (h : s.Canonical) :
    Keeps State.Canonical (execTspawn d a b s) := by
  unfold Machine.execTspawn
  refine h.issue fun _ h2 => ?_
  extract_lets _ _ done
  have hdone : ∀ x t, t.Canonical → Yields State.Canonical (done x t) := fun x _ h4 => .ok h4.wg.retire
  clear_value done
  split
  · exact hdone _ _ h2
  · refine h2.loadRanges.bind fun _ h5 => ?_
    split
    refine h5.access.bind fun _ h7 => ?_
    split
    extract_lets w _
    split
    · exact hdone _ _ h7
    · refine h7.access.bind fun _ h9 => ?_
      split
      extract_lets n c _
      refine .after fun _ => ?_
      split
      · exact hdone _ _ h9
      · split
        · exact hdone _ _ h9
        · clear_value n
          split
          · exact hdone _ _ h9
          · clear_value w c
            split
            · exact hdone _ _ h9
            · split
              · exact hdone _ _ h9
              · extract_lets _
                refine h9.placePorts.bind fun _ hc7 => ?_
                split
                · exact hdone _ _ h9
                · rename_i s11
                  have h11 : s11.Canonical := hc7 _ rfl
                  exact h11.spawn.bind fun _ h13 => .ok h13.wg.retire

theorem State.Canonical.sendTo {s : State} {c b : Nat} {msg : Option (List Byte)} (h : s.Canonical) :
    (sendTo c b msg s).Canonical := by
  unfold Machine.sendTo
  split
  extract_lets s1 _
  have h1 : s1.Canonical := by
    unfold s1
    split
    · exact h.writeBytes _ _
    · exact h
  clear_value s1
  exact h1.updateBuffer

theorem State.Canonical.send {s : State} {u : Use} {d a : Reg} {msg : Option (State → List Byte)} (h : s.Canonical) :
    Keeps State.Canonical (send u d a msg s) := by
  unfold Machine.send
  refine h.issue fun _ h2 => .after fun _ => ?_
  split
  · exact .ok h2.wg.retire
  · split
    · split
      · exact .error
      · exact .ok h2.wg.retire
    · exact .after fun _ => .ok h2.sendTo.wg.retire

theorem State.Canonical.execQrecv {s : State} {d a b : Reg} (h : s.Canonical) :
    Keeps State.Canonical (execQrecv d a b s) := by
  unfold Machine.execQrecv
  refine h.issue fun _ h2 => .after fun _ => ?_
  split
  · exact .ok h2.wg.retire
  · extract_lets _ buf
    split
    · split
      · exact .error
      · exact .ok h2.wg.retire
    · clear_value buf
      split
      exact .ok (.retire (.wg (.foldl h2.setBuffer fun _ _ h4 => h4.wv)))

theorem State.Canonical.execPark {s : State} {d a : Reg} (h : s.Canonical) :
    Keeps State.Canonical (execPark d a s) := by
  unfold Machine.execPark
  refine h.issue fun _ h2 => ?_
  extract_lets _ jp
  have hjp : ∀ x, Yields State.Canonical (jp x) := by
    intro x
    dsimp -zeta only [jp]
    refine .after fun _ => ?_
    split
    · extract_lets _ _ _ _ s3 _ s4
      have h3 : s3.Canonical := h2.setTask
      clear_value s3
      have h4 : s4.Canonical := h3.setTask
      clear_value s4
      split
      · exact .ok h2.wg.retire
      · exact .ok h4.trap
    · exact .ok h2
  clear_value jp
  split
  · exact .error_bind
  · exact hjp _

theorem State.Canonical.execRqpush {s : State} {d a : Reg} (h : s.Canonical) :
    Keeps State.Canonical (execRqpush d a s) := by
  unfold Machine.execRqpush
  refine h.issue fun _ h2 => ?_
  extract_lets _ _ _ _ jp
  have hjp : ∀ x, Yields State.Canonical (jp x) := by
    intro x
    dsimp -zeta only [jp]
    split
    · exact .ok h2.wg.retire
    · split
      · exact .ok h2.setTask.pushReady.wg.retire
      · exact .ok h2.wg.retire
  clear_value jp
  split
  · exact .error_bind
  · exact hjp _

theorem State.Canonical.replaceTask {s : State} (h : s.Canonical) :
    (replaceTask s).Canonical := by
  unfold Machine.replaceTask
  split
  · exact h
  · exact h.setTask

theorem State.Canonical.execRqpop {s : State} {d a : Reg} (h : s.Canonical) :
    Keeps State.Canonical (execRqpop d a s) := by
  unfold Machine.execRqpop
  refine h.issue fun _ h2 => ?_
  extract_lets n _ s3 x jp
  have h3 : s3.Canonical := h2.replaceTask
  clear_value s3
  have hjp : ∀ x, Yields State.Canonical (jp x) := by
    intro _
    dsimp -zeta only [jp]
    refine .after fun _ => ?_
    clear_value n
    split
    · split
      · exact .error
      · exact .ok h2.wg.retire
    · exact .ok h3.setCore.setTask.mapThr.wg.retire
  clear_value jp
  split
  · exact .error_bind
  · exact hjp _

/-! ### Machine/Waits -/

theorem State.Canonical.settleYields {s : State} {n : Nat} {issued : Option Nat} (h : s.Canonical) :
    (settleYields n issued s).Canonical := by
  unfold Machine.settleYields
  refine .foldl h fun _ _ h2 => ?_
  split
  · exact h2.mapThread
  · exact h2

theorem State.Canonical.noteIssue {s : State} {k : Nat} (h : s.Canonical) :
    (noteIssue k s).Canonical :=
  h.setCore.mapThread.settleYields

theorem State.Canonical.execYield {s : State} (h : s.Canonical) :
    Keeps State.Canonical (execYield s) := by
  unfold Machine.execYield
  refine h.issue fun _ h2 => .after fun _ => ?_
  extract_lets _ _
  split
  · exact .ok h2.trapAt
  · exact .ok (.ite h2.retire h2.retire.mapThr)

/-! ### Machine/Dispatch -/

/-- Every instruction and event keeps the form. An arm whose meaning is a shared one that takes functions is first shown
as that meaning (`show`), so that the functions are read off there. -/
theorem State.Canonical.exec {s : State} {i : Instr} (h : s.Canonical) :
    Keeps State.Canonical (exec i s) := by
  cases i
  case divideComplete => exact .next h.divideComplete
  case icinvComplete => exact h.execIcinvComplete
  case holdExpiry | feRefusalRetry => exact .next h.mapThread
  case longLatencyComplete => exact h.execLongLatencyComplete
  case migrationArrival => exact .next h.arrive
  case arrivalDequeue => exact .next h.dequeueArrival
  case pageRequestDeferredPost => exact .next h.postNotices.postDeferred
  case feretry => exact h.execFeretry
  case mwaitTimeout => exact h.execMwaitTimeout
  case reservationTimeout => exact h.execReservationTimeout
  case latchFillComplete => exact h.execLatchFillComplete
  case mmaStart => exact h.execMmaStart
  case mmaComplete => exact h.execMmaComplete
  case accumTransferComplete => exact h.execAccumTransferComplete
  case leaveGrant => exact h.execLeaveGrant
  case muleChunk => exact .next h.muleTurns
  case muleCommandComplete => exact .next h.completeFirst
  case unwindBudgetExpiry => exact .next (.ite (h.withdraw.atSlot fun _ h2 => h2.unwindNext) h)
  case callergone => exact .next (.ite (h.withdraw.atSlot fun _ h2 => h2.callerGone) h)
  case launchDispatch => exact h.execLaunchDispatch
  case holdLimitExpiry => exact .next h.setLaunches
  case workUnitComplete => exact h.execWorkUnitComplete
  case forecastUpdate => exact .next h.setCluster
  case timerExpiry => exact h.execTimerExpiry
  case sliceExpiry => exact h.execSliceExpiry
  case gets | getm | updw => exact h.requestEvent
  case puts => exact h.execPuts
  case putm => exact h.execPutm
  case uread | uwrite | atom => exact h.transactionEvent
  case linvMsg | lwbMsg => exact h.maintenanceEvent
  case ack | odata => exact h.toHome
  case inv | down | upd | dataS | dataM | putack | updack | nackw => exact h.toAgent
  case udata | wack => exact h.toRequester
  case turnStart | turnEnd => exact .next h.setBundle
  case laneGrant => exact h.execLaneGrant
  case flitArrival => exact h.execFlitArrival
  case creditAudit => exact h.execCreditAudit
  case packetSend => exact h.execPacketSend
  case packetArrival => exact h.execPacketArrival
  case ackArrival | retransmitTimerExpiry => exact .next h.setSteppe.endRequests
  case ncwaitTimeout => exact h.execNcwaitTimeout
  case vacateRequest => exact h.execVacateRequest
  case drainDeadlineExpiry => exact h.execDrainDeadlineExpiry
  case vacateReport => exact h.execVacateReport
  case restore => exact h.execRestore
  case critDeferralExpiry => exact h.execCritDeferralExpiry
  case borderControllerRun => exact h.execBorderControllerRun
  case clusterMove => exact h.execClusterMove
  case forcedMove => exact h.execForcedMove
  case tokenRefill => exact h.execTokenRefill
  case freshPageClearComplete | backgroundClear => exact .next h.clearPage
  case scratchpadUnitClear => exact h.execScratchpadUnitClear
  case integrityCheckComplete => exact h.execIntegrityCheckComplete
  case serviceVacate => exact h.execServiceVacate
  case serviceFeLimits => exact h.execServiceFeLimits
  case serviceTarget => exact h.execServiceTarget
  case serviceBars => exact h.execServiceBars
  case serviceGiveBack => exact h.execServiceGiveBack
  case hostqLaunch => exact h.execHostqLaunch
  case hostqDepdec => exact h.execHostqDepdec
  case hostqStff => exact h.execHostqStff
  case qwr => exact h.execQwr
  case qbase => exact h.execQbase
  case qsize => exact h.execQsize
  case queueKeying => exact h.execQueueKeying
  case hostBar2Access => exact h.execHostBar2Access
  case hostSidebandRead => exact h.execHostSidebandRead
  case getVersion => exact h.execGetVersion
  case getCapabilities => exact h.execGetCapabilities
  case negotiateAlgorithms => exact h.execNegotiateAlgorithms
  case getDigests => exact h.execGetDigests
  case getCertificate => exact h.execGetCertificate
  case challenge => exact h.execChallenge
  case getMeasurements => exact h.execGetMeasurements
  case keyExchange => exact h.execKeyExchange
  case finish => exact h.execFinish
  case heartbeat => exact h.execHeartbeat
  case keyUpdate => exact h.execKeyUpdate
  case endSession => exact h.execEndSession
  case coldReset => exact .next h.bringUp
  case fundamentalReset => exact .next (.ite h h.bringUp)
  case functionLevelReset => exact h.execFunctionLevelReset
  case islandPointChange => exact h.execIslandPointChange
  case currentCapThrottle => exact h.execCurrentCapThrottle
  case thermtrip => exact .next h.update
  case illegalInstruction => exact h.execIllegalInstruction
  case fetchMissFill => exact h.execFetchMissFill
  case leaveHoldExpiry => exact h.execLeaveHoldExpiry
  case flitSend => exact h.execFlitSend
  case portStateChange => exact h.execPortStateChange
  case lineReset => exact h.execLineReset
  case channelMove => exact h.execChannelMove
  case partitionCreation => exact h.execPartitionCreation
  case add => exact show Keeps _ (execAdd ..) from h.binary
  case sub => exact show Keeps _ (execSub ..) from h.binary
  case and => exact show Keeps _ (execAnd ..) from h.binary
  case or => exact show Keeps _ (execOr ..) from h.binary
  case xor => exact show Keeps _ (execXor ..) from h.binary
  case andn => exact show Keeps _ (execAndn ..) from h.binary
  case orn => exact show Keeps _ (execOrn ..) from h.binary
  case shl => exact show Keeps _ (execShl ..) from h.binary
  case shr => exact show Keeps _ (execShr ..) from h.binary
  case sra => exact show Keeps _ (execSra ..) from h.binary
  case rol => exact show Keeps _ (execRol ..) from h.binary
  case ror => exact show Keeps _ (execRor ..) from h.binary
  case min => exact show Keeps _ (execMin ..) from h.binary
  case max => exact show Keeps _ (execMax ..) from h.binary
  case minn => exact show Keeps _ (execMinn ..) from h.binary
  case maxn => exact show Keeps _ (execMaxn ..) from h.binary
  case slt => exact show Keeps _ (execSlt ..) from h.binary
  case sltn => exact show Keeps _ (execSltn ..) from h.binary
  case seq => exact show Keeps _ (execSeq ..) from h.binary
  case sne => exact show Keeps _ (execSne ..) from h.binary
  case mul => exact show Keeps _ (execMul ..) from h.binary
  case mulh => exact show Keeps _ (execMulh ..) from h.binary
  case mulhn => exact show Keeps _ (execMulhn ..) from h.binary
  case clz => exact show Keeps _ (execClz ..) from h.unary
  case ctz => exact show Keeps _ (execCtz ..) from h.unary
  case popc => exact show Keeps _ (execPopc ..) from h.unary
  case brev => exact show Keeps _ (execBrev ..) from h.unary
  case bswap => exact show Keeps _ (execBswap ..) from h.unary
  case sel => exact show Keeps _ (execSel ..) from h.issue fun _ h2 => .ok h2.wg.retire
  case extr => exact show Keeps _ (execExtr ..) from h.issue fun _ h2 => .ok h2.wg.retire
  case extrs => exact show Keeps _ (execExtrs ..) from h.issue fun _ h2 => .ok h2.wg.retire
  case insb => exact show Keeps _ (execInsb ..) from h.issue fun _ h2 => .ok h2.wg.retire
  case li => exact show Keeps _ (execLi ..) from h.issue fun _ h2 => .ok h2.wg.retire
  case lpc => exact show Keeps _ (execLpc ..) from h.issue fun _ h2 => .ok h2.wg.retire
  case vext => exact show Keeps _ (execVext ..) from h.issue fun _ h2 => .ok h2.wg.retire
  case div => exact show Keeps _ (execDiv ..) from h.divide
  case divn => exact show Keeps _ (execDivn ..) from h.divide
  case rem => exact show Keeps _ (execRem ..) from h.divide
  case remn => exact show Keeps _ (execRemn ..) from h.divide
  case addi => exact show Keeps _ (execAddi ..) from h.immediate
  case andi => exact show Keeps _ (execAndi ..) from h.immediate
  case ori => exact show Keeps _ (execOri ..) from h.immediate
  case xori => exact show Keeps _ (execXori ..) from h.immediate
  case slti => exact show Keeps _ (execSlti ..) from h.immediate
  case sltni => exact show Keeps _ (execSltni ..) from h.immediate
  case muli => exact show Keeps _ (execMuli ..) from h.immediate
  case shli => exact show Keeps _ (execShli ..) from h.shiftImm
  case shri => exact show Keeps _ (execShri ..) from h.shiftImm
  case srai => exact show Keeps _ (execSrai ..) from h.shiftImm
  case roli => exact show Keeps _ (execRoli ..) from h.shiftImm
  case beq => exact show Keeps _ (execBeq ..) from h.compareBranch
  case bne => exact show Keeps _ (execBne ..) from h.compareBranch
  case blt => exact show Keeps _ (execBlt ..) from h.compareBranch
  case bge => exact show Keeps _ (execBge ..) from h.compareBranch
  case bltn => exact show Keeps _ (execBltn ..) from h.compareBranch
  case bgen => exact show Keeps _ (execBgen ..) from h.compareBranch
  case beqz => exact show Keeps _ (execBeqz ..) from h.zeroBranch
  case bnez => exact show Keeps _ (execBnez ..) from h.zeroBranch
  case bltz => exact show Keeps _ (execBltz ..) from h.zeroBranch
  case bgez => exact show Keeps _ (execBgez ..) from h.zeroBranch
  case bgtz => exact show Keeps _ (execBgtz ..) from h.zeroBranch
  case blez => exact show Keeps _ (execBlez ..) from h.zeroBranch
  case j => exact show Keeps _ (execJ ..) from h.issue fun _ h2 => .ok h2.retireTo
  case jl => exact show Keeps _ (execJl ..) from h.issue fun _ h2 => .ok h2.wg.retireTo
  case jr => exact h.execJr
  case jlr => exact h.execJlr
  case trap => exact show Keeps _ (execTrap ..) from h.issue fun _ h2 => .ok h2.retire.trapAt
  case eret => exact h.execEret
  case sread => exact show Keeps _ (execSread ..) from h.issue fun _ h2 => .after fun _ => .ok h2.wg.retire
  case cbstat => exact show Keeps _ (execCbstat ..) from h.issue fun _ h2 => .after fun _ => .ok h2.wg.retire
  case dinfo => exact show Keeps _ (execDinfo ..) from h.issue fun _ h2 => .after fun _ => .ok h2.wg.retire
  case swrite => exact h.execSwrite
  case icinv => exact h.execIcinv
  case brk => exact h.issue fun _ _ => .error
  case halt => exact h.issue fun _ h2 => .ok h2.retire.mapThr
  case fence => exact h.execFence
  case himm | hmod | hsched | hschedIfetch => exact .next h.mapThr
  case hschedHold => exact .next (.ite h.mapThr.mapThr h.mapThr)
  case vadd => exact show Keeps _ (execVadd ..) from h.elementwise
  case vsub => exact show Keeps _ (execVsub ..) from h.elementwise
  case vadds => exact show Keeps _ (execVadds ..) from h.elementwise
  case vaddsn => exact show Keeps _ (execVaddsn ..) from h.elementwise
  case vsubs => exact show Keeps _ (execVsubs ..) from h.elementwise
  case vsubsn => exact show Keeps _ (execVsubsn ..) from h.elementwise
  case vmul => exact show Keeps _ (execVmul ..) from h.elementwise
  case vmulh => exact show Keeps _ (execVmulh ..) from h.elementwise
  case vmulhn => exact show Keeps _ (execVmulhn ..) from h.elementwise
  case vmin => exact show Keeps _ (execVmin ..) from h.elementwise
  case vmax => exact show Keeps _ (execVmax ..) from h.elementwise
  case vminn => exact show Keeps _ (execVminn ..) from h.elementwise
  case vmaxn => exact show Keeps _ (execVmaxn ..) from h.elementwise
  case vand => exact show Keeps _ (execVand ..) from h.elementwise
  case vor => exact show Keeps _ (execVor ..) from h.elementwise
  case vxor => exact show Keeps _ (execVxor ..) from h.elementwise
  case vandn => exact show Keeps _ (execVandn ..) from h.elementwise
  case vshl => exact show Keeps _ (execVshl ..) from h.elementwise
  case vshr => exact show Keeps _ (execVshr ..) from h.elementwise
  case vsra => exact show Keeps _ (execVsra ..) from h.elementwise
  case vavg => exact show Keeps _ (execVavg ..) from h.elementwise
  case vavgn => exact show Keeps _ (execVavgn ..) from h.elementwise
  case vabs => exact show Keeps _ (execVabs ..) from h.issue fun _ h2 => .ok h2.writeLanes.retire
  case vsel => exact show Keeps _ (execVsel ..) from h.issue fun _ h2 => .ok h2.writeLanes.retire
  case vdot4 => exact show Keeps _ (execVdot4 ..) from h.dotProduct
  case vdot4n => exact show Keeps _ (execVdot4n ..) from h.dotProduct
  case vcmpeq => exact show Keeps _ (execVcmpeq ..) from h.compare
  case vcmplt => exact show Keeps _ (execVcmplt ..) from h.compare
  case vcmpltn => exact show Keeps _ (execVcmpltn ..) from h.compare
  case vfadd => exact show Keeps _ (execVfadd ..) from h.floatBinary
  case vfsub => exact show Keeps _ (execVfsub ..) from h.floatBinary
  case vfmul => exact show Keeps _ (execVfmul ..) from h.floatBinary
  case vfmin => exact show Keeps _ (execVfmin ..) from h.floatPick
  case vfmax => exact show Keeps _ (execVfmax ..) from h.floatPick
  case vfabs => exact show Keeps _ (execVfabs ..) from h.floatSign
  case vfneg => exact show Keeps _ (execVfneg ..) from h.floatSign
  case vfcmpeq => exact show Keeps _ (execVfcmpeq ..) from h.floatCompare
  case vfcmplt => exact show Keeps _ (execVfcmplt ..) from h.floatCompare
  case vfcmple => exact show Keeps _ (execVfcmple ..) from h.floatCompare
  case vfcmpun => exact show Keeps _ (execVfcmpun ..) from h.floatCompare
  case vfma => exact show Keeps _ (execVfma ..) from h.fused
  case vfms => exact show Keeps _ (execVfms ..) from h.fused
  case vfnma => exact show Keeps _ (execVfnma ..) from h.fused
  case vrcp => exact show Keeps _ (execVrcp ..) from h.special1
  case vrsq => exact show Keeps _ (execVrsq ..) from h.special1
  case vsqrt => exact show Keeps _ (execVsqrt ..) from h.special1
  case vexp2 => exact show Keeps _ (execVexp2 ..) from h.special1
  case vlog2 => exact show Keeps _ (execVlog2 ..) from h.special1
  case vtanh => exact show Keeps _ (execVtanh ..) from h.special1
  case vdiv => exact show Keeps _ (execVdiv ..) from h.special
  case vshuf => exact show Keeps _ (execVshuf ..) from h.permute
  case vzip => exact show Keeps _ (execVzip ..) from h.permute
  case vunzip => exact show Keeps _ (execVunzip ..) from h.permute
  case vrotl => exact show Keeps _ (execVrotl ..) from h.permute
  case vbcst => exact show Keeps _ (execVbcst ..) from h.permute
  case vsplat => exact show Keeps _ (execVsplat ..) from h.permute
  case vins => exact show Keeps _ (execVins ..) from h.permute
  case vmov => exact show Keeps _ (execVmov ..) from h.permute
  case vcompress => exact show Keeps _ (execVcompress ..) from h.issue fun _ h2 => .ok h2.wv.retire
  case mand => exact show Keeps _ (execMand ..) from h.maskOp
  case mor => exact show Keeps _ (execMor ..) from h.maskOp
  case mxor => exact show Keeps _ (execMxor ..) from h.maskOp
  case mnot => exact show Keeps _ (execMnot ..) from h.maskOp
  case mcnt => exact show Keeps _ (execMcnt ..) from h.maskToGeneral
  case mff => exact show Keeps _ (execMff ..) from h.maskToGeneral
  case mtog => exact show Keeps _ (execMtog ..) from h.maskToGeneral
  case mfromg => exact show Keeps _ (execMfromg ..) from h.issue fun _ h2 => .ok h2.wm.retire
  case vradd => exact show Keeps _ (execVradd ..) from h.reduce
  case vrmax => exact show Keeps _ (execVrmax ..) from h.reduce
  case vrmin => exact show Keeps _ (execVrmin ..) from h.reduce
  case vfradd => exact h.execVfradd
  case nsend => exact h.execNsend
  case nrecv => exact h.execNrecv
  case nwin => exact h.execNwin
  case vcvtf => exact show Keeps _ (execVcvtf ..) from h.convert
  case vcvtfi => exact show Keeps _ (execVcvtfi ..) from h.convert
  case vcvtif => exact show Keeps _ (execVcvtif ..) from h.convert
  case vpack8 => exact show Keeps _ (execVpack8 ..) from h.convert
  case vunpk8 => exact show Keeps _ (execVunpk8 ..) from h.convert
  case vpack4 => exact show Keeps _ (execVpack4 ..) from h.convert
  case vunpk4 => exact show Keeps _ (execVunpk4 ..) from h.convert
  case vscale => exact h.execVscale
  case ldb => exact show Keeps _ (execLdb ..) from h.load
  case ldbs => exact show Keeps _ (execLdbs ..) from h.load
  case ldh => exact show Keeps _ (execLdh ..) from h.load
  case ldhs => exact show Keeps _ (execLdhs ..) from h.load
  case ldw => exact show Keeps _ (execLdw ..) from h.load
  case ldws => exact show Keeps _ (execLdws ..) from h.load
  case ldd => exact show Keeps _ (execLdd ..) from h.load
  case stb => exact show Keeps _ (execStb ..) from h.store
  case sth => exact show Keeps _ (execSth ..) from h.store
  case stw => exact show Keeps _ (execStw ..) from h.store
  case std => exact show Keeps _ (execStd ..) from h.store
  case vld => exact show Keeps _ (execVld ..) from h.issue fun _ h2 => h2.loadTo
  case ldxd => exact show Keeps _ (execLdxd ..) from h.issue fun _ h2 => h2.loadTo
  case vldx => exact show Keeps _ (execVldx ..) from h.issue fun _ h2 => h2.loadTo
  case vst => exact show Keeps _ (execVst ..) from h.issue fun _ h2 => h2.storeFrom
  case stxd => exact show Keeps _ (execStxd ..) from h.issue fun _ h2 => h2.storeFrom
  case vstx => exact show Keeps _ (execVstx ..) from h.issue fun _ h2 => h2.storeFrom
  case vldm => exact show Keeps _ (execVldm ..) from h.issue fun _ h2 => h2.gatherTo
  case vgath => exact show Keeps _ (execVgath ..) from h.issue fun _ h2 => h2.gatherTo
  case vstm => exact show Keeps _ (execVstm ..) from h.issue fun _ h2 => h2.storeRanges.bind fun _ h4 => .ok h4.retire
  case pref =>
    exact show Keeps _ (execPref ..) from
      h.issue fun _ h2 => .ok (.retire (.foldl h2 fun _ _ h4 => .foldl h4 fun _ _ h6 => h6.prefetchLine))
  case tres => exact h.execTres
  case stmap => exact h.execStmap
  case stunmap => exact h.execStunmap
  case stwb =>
    exact show Keeps _ (execStwb ..) from
      h.issue fun _ h2 => Yields.bind (P := State.Canonical) (.foldlM h2 fun _ _ h4 => h4.maintainLine)
        fun _ h6 => .ok h6.retire
  case tilereg => exact h.execTilereg
  case ldf | ldfe | stf | stff | feget | feempty | femark => exact h.fullEmpty
  case mona =>
    exact show Keeps _ (execMona ..) from
      h.issue fun _ h2 => .after fun _ => .after fun _ => h2.lookup.bind fun _ h4 => .ok h4.next.mapThr.retire
  case monc => exact h.issue fun _ h2 => .ok h2.mapThr.retire
  case mwait => exact h.execMwait
  case rsv => exact h.execRsv
  case rel => exact h.execRel
  case relc => exact h.execRelc
  case rsvt => exact h.execRsvt
  case fadd => exact show Keeps _ (execFadd ..) from h.farOld
  case fand => exact show Keeps _ (execFand ..) from h.farOld
  case fOr => exact show Keeps _ (execFOr ..) from h.farOld
  case fxor => exact show Keeps _ (execFxor ..) from h.farOld
  case fmax => exact show Keeps _ (execFmax ..) from h.farOld
  case fmin => exact show Keeps _ (execFmin ..) from h.farOld
  case fmaxn => exact show Keeps _ (execFmaxn ..) from h.farOld
  case fminn => exact show Keeps _ (execFminn ..) from h.farOld
  case fswp => exact show Keeps _ (execFswp ..) from h.farOld
  case fincw => exact show Keeps _ (execFincw ..) from h.farOld
  case fcas => exact show Keeps _ (execFcas ..) from h.farAtomic
  case fincb => exact show Keeps _ (execFincb ..) from h.farAtomic
  case fdecp => exact show Keeps _ (execFdecp ..) from h.farAtomic
  case faddl => exact show Keeps _ (execFaddl ..) from h.farAtomic
  case gath | bld => exact h.fillLatch
  case mma => exact h.execMma
  case acz => exact show Keeps _ (execAcz ..) from h.issue fun _ h2 => .after fun _ => .ok h2.setTile.retire
  case acwr => exact show Keeps _ (execAcwr ..) from h.issue fun _ h2 => .after fun _ => .ok h2.setTile.retire
  case acld => exact h.execAcld
  case acst => exact h.execAcst
  case acrd =>
    exact show Keeps _ (execAcrd ..) from
      h.issue fun _ h2 => .after fun _ => .ok (.retire (.foldl h2 fun _ _ h4 => h4.wv))
  case mxstat => exact show Keeps _ (execMxstat ..) from h.issue fun _ h2 => .after fun _ => .ok h2.setOx.wg.retire
  case rept => exact h.execRept
  case cpy | cpy2 | cpyg | cpys | cpycb => exact h.copy
  case cbinit => exact h.execCbinit
  case cbacq => exact h.execCbacq
  case cbrel => exact h.execCbrel
  case cbres => exact h.execCbres
  case cbpub => exact h.execCbpub
  case tspawn => exact h.execTspawn
  case park => exact h.execPark
  case qsend | eos => exact h.send
  case qrecv => exact h.execQrecv
  case rqpush => exact h.execRqpush
  case rqpop => exact h.execRqpop
  case timer => exact show Keeps _ (execTimer ..) from h.issue fun _ h2 => .ok h2.mapThr.wg.retire
  case launch => exact h.execLaunch
  case depdec => exact h.execDepdec
  case exit => exact show Keeps _ (execExit ..) from h.issue fun _ h2 => .after fun _ => .ok h2.exitThread
  case yield => exact h.execYield
  case bdld => exact h.execBdld
  case bdst => exact h.execBdst
  case gcall => exact h.execGcall
  case gret => exact show Keeps _ (execGret ..) from h.gateReturn
  case gabt => exact show Keeps _ (execGabt ..) from h.gateReturn
  case gpub => exact h.execGpub
  case grev => exact h.execGrev
  case hgive => exact h.execHgive
  case hdrop => exact h.execHdrop
  case ptload => exact h.execPtload
  case ptbind => exact show Keeps _ (execPtbind ..) from h.issue fun _ h2 => h2.bindRange
  case ptunbind => exact show Keeps _ (execPtunbind ..) from h.issue fun _ h2 => h2.bindRange
  case dirq => exact h.execDirq
  case linv =>
    exact show Keeps _ (execLinv ..) from h.issue fun _ h2 => h2.lineMaintenance.bind fun _ h4 => .ok h4.retire
  case lwb =>
    exact show Keeps _ (execLwb ..) from h.issue fun _ h2 => h2.lineMaintenance.bind fun _ h4 => .ok h4.retire
  case lbias => exact h.execLbias
  case lstat => exact h.execLstat
  case npost => exact show Keeps _ (execNpost ..) from h.issue fun _ h2 => h2.postRequest
  case ncwait => exact h.execNcwait
  case ncrd => exact h.execNcrd
  case nreg => exact h.execNreg
  -- The arm left is that of `recall`, a word that Mathlib keeps for a command.
  exact h.toAgent

/-! ### Machine/Run -/

theorem State.Canonical.execWord {s : State} {w : BitVec 32} (h : s.Canonical) :
    Keeps State.Canonical (execWord w s) :=
  h.exec

/-! ### Machine/Turns -/

theorem State.Canonical.issueMain {s : State} {k : Nat} (h : s.Canonical) :
    Keeps State.Canonical (issueMain k s) := by
  unfold Machine.issueMain
  split
  · rename_i s1 e
    have h1 : s1.Canonical := h.fetchAt _ e
    exact h1.mapThread.execWord
  · exact .next h.fetchFault

theorem State.Canonical.issueBody {s : State} {k : Nat} {r : Rep} (h : s.Canonical) :
    Keeps State.Canonical (issueBody k r s) :=
  h.mapThread.execWord

theorem State.Canonical.issueStream {s : State} {k : Nat} {body : Bool} (h : s.Canonical) :
    Keeps State.Canonical (issueStream k body s) := by
  unfold Machine.issueStream
  split
  · exact h.issueBody
  · exact h.issueMain

theorem State.Canonical.refusedPage {s : State} {k : Nat} {body : Bool} {va : Nat} (h : s.Canonical) :
    (refusedPage k body va s).Canonical := by
  unfold Machine.refusedPage
  extract_lets _
  split
  · exact h.fetchFault
  · exact h.trapNow

theorem State.Canonical.resumeStream {s : State} {k : Nat} {body : Bool} (h : s.Canonical) :
    Keeps State.Canonical (resumeStream k body s) := by
  unfold Machine.resumeStream
  split
  · extract_lets p
    clear_value p
    split
    · exact h.leaveRequest.mapThread.issueStream
    · exact .next h.leaveRequest.withdraw.refusedPage
  · exact h.issueStream

theorem State.Canonical.takeNext {s : State} {k : Nat} {e : Posted} (h : s.Canonical) :
    (takeNext k e s).Canonical := by
  unfold Machine.takeNext
  split
  · exact h.mapThread.takeEvent
  · exact h.takeEvent

theorem State.Canonical.resumeSaved {s : State} {k : Nat} (h : s.Canonical) :
    (resumeSaved k s).Canonical := by
  unfold Machine.resumeSaved
  extract_lets resumed retry _
  have hresumed : ∀ t, t.Canonical → (resumed t).Canonical := fun _ h2 => h2.mapThread
  clear_value resumed
  have hretry : ∀ t, t.Canonical → (retry t).Canonical := by
    intro _ h4
    dsimp -zeta only [retry]
    split
    · rename_i s5 e
      have h5 : s5.Canonical := h4.resumeRept _ e
      exact hresumed _ h5
    · rename_i t _
      exact (hresumed _ h4).stopAt
    · exact h4.stopAt
  clear_value retry
  split
  · extract_lets s6
    have h6 : s6.Canonical := h.leaveRequest.mapThread
    clear_value s6
    split
    · exact hretry _ h6
    · exact (hresumed _ h6).refusedPage
  · exact hretry _ h.mapThread

theorem State.Canonical.slotTurn {s : State} {k : Nat} (h : s.Canonical) :
    Keeps State.Canonical (slotTurn k s) := by
  unfold Machine.slotTurn
  extract_lets s1
  have h1 : s1.Canonical := .noteIssue h.update
  clear_value s1
  split
  · exact .next h1.unwindStep
  · split
    · exact .next h1.takeNext
    · split
      · exact .next h1.resumeSaved
      · split
        · exact h1.resumeStream
        · exact .next h1

theorem State.Canonical.coreTurn {s : State} {n : Nat} (h : s.Canonical) :
    Keeps State.Canonical (coreTurn n s) := by
  unfold Machine.coreTurn
  split
  · exact h.slotTurn
  · exact .next h

theorem State.Canonical.elapse {s : State} {k : Nat} (h : s.Canonical) :
    (elapse k s).Canonical := by
  unfold Machine.elapse
  split
  · exact h.update
  · exact .update (.foldl (.foldl h fun _ _ h2 => .ite h2 h2.drained) fun _ _ h4 => h4.settleYields)

theorem State.Canonical.runTurn {s : State} {t : Turn} (h : s.Canonical) :
    Keeps State.Canonical (runTurn t s) := by
  unfold Machine.runTurn
  split
  · exact h.coreTurn
  · exact .next h.elapse
  · split
    · exact .refused
    · split
      · exact .next h
      · exact h.exec

/-! ### Machine/Step -/

/-- A step runs one turn of the agenda or draws the next one. -/
theorem State.Canonical.step {s : State} (h : s.Canonical) :
    Keeps State.Canonical (step s) := by
  unfold Machine.step
  split
  · exact State.Canonical.runTurn h.update
  · split
    · exact .fault
    · split
      · exact State.Canonical.runTurn h.update
      · exact .next h

/-- Settles O59: `step` keeps the form because each function that it calls does, down to the writes of bytes. -/
theorem stepKeepsCanonical : Obligations.StepKeepsCanonical := fun _ h => h.step

end Sys2Proof.Machine
end


section
namespace Sys2Proof

/-! ## O58: words written out -/

/-- Settles O58: the decoder reads each word. -/
theorem decodeWords : Obligations.DecodeWords := by
  unfold Obligations.DecodeWords
  decide +kernel

/-! ## O57: words and instructions -/

/-! ### Fields of a word -/

theorem testBit_fld (n hi lo j : Nat) : (fld n hi lo).testBit j = (decide (j < hi - lo + 1) && n.testBit (j + lo)) := by
  rw [fld, Nat.testBit_mod_two_pow, Nat.testBit_div_two_pow]

/-- A field counts the bits up to its end alone. -/
theorem fld_mod {n hi lo k : Nat} (hl : lo ≤ hi) (hk : hi < k) : fld (n % 2 ^ k) hi lo = fld n hi lo := by
  refine Nat.eq_of_testBit_eq fun j => ?_
  rw [testBit_fld, testBit_fld, Nat.testBit_mod_two_pow]
  by_cases hj : j < hi - lo + 1
  · rw [decide_eq_true (by omega : j + lo < k), Bool.true_and]
  · rw [decide_eq_false hj, Bool.false_and, Bool.false_and]

/-- The word m leaves the wd bits at k free, so that a field may be put there. -/
def Gap (m k wd : Nat) : Prop := m / 2 ^ k % 2 ^ wd = 0

theorem gap_iff_testBit {m k wd : Nat} : Gap m k wd ↔ ∀ j < wd, m.testBit (j + k) = false := by
  have hb (j : Nat) : (m / 2 ^ k % 2 ^ wd).testBit j = (decide (j < wd) && m.testBit (j + k)) := by
    rw [Nat.testBit_mod_two_pow, Nat.testBit_div_two_pow]
  constructor
  · intro h j hj
    have := hb j
    rwa [h, Nat.zero_testBit, decide_eq_true hj, Bool.true_and, eq_comm] at this
  · intro h
    refine Nat.eq_of_testBit_eq fun j => ?_
    rw [hb, Nat.zero_testBit]
    by_cases hj : j < wd
    · rw [h j hj, Bool.and_false]
    · rw [decide_eq_false hj, Bool.false_and]

theorem gap_add {m k wd k' wd' : Nat} (x : BitVec wd') (h : k + wd ≤ k') :
    Gap (m + x.toNat * 2 ^ k') k wd ↔ Gap m k wd := by
  obtain ⟨e, rfl⟩ := Nat.exists_eq_add_of_le h
  rw [Gap, Gap, Nat.pow_add, Nat.pow_add, Nat.mul_left_comm, Nat.mul_assoc,
    Nat.add_mul_div_left _ _ (Nat.two_pow_pos k), Nat.add_mul_mod_self_left]

theorem gap_literal (c k wd : Nat) : Gap (no_index (OfNat.ofNat c)) k wd ↔ c >>> k % 1 <<< wd = 0 := by
  rw [Nat.shiftRight_eq_div_pow, Nat.one_shiftLeft]; rfl

/-- A field put into a gap of the word m: the bits of the gap are the field's, every other bit is m's. -/
theorem testBit_add_field {m k wd : Nat} (x : BitVec wd) (hz : Gap m k wd) (i : Nat) :
    (m + x.toNat * 2 ^ k).testBit i = if k ≤ i ∧ i < k + wd then x.toNat.testBit (i - k) else m.testBit i := by
  have hx : x.toNat < 2 ^ wd := x.isLt
  have hr : m % 2 ^ k < 2 ^ k := Nat.mod_lt _ (Nat.two_pow_pos k)
  have hg : m / 2 ^ k = 2 ^ wd * (m / 2 ^ k / 2 ^ wd) := by
    have := Nat.div_add_mod (m / 2 ^ k) (2 ^ wd)
    rwa [show m / 2 ^ k % 2 ^ wd = 0 from hz, Nat.add_zero, eq_comm] at this
  have hm : m = 2 ^ k * (2 ^ wd * (m / 2 ^ k / 2 ^ wd) + 0) + m % 2 ^ k := by
    rw [Nat.add_zero, ← hg, Nat.div_add_mod]
  have hs : m + x.toNat * 2 ^ k = 2 ^ k * (2 ^ wd * (m / 2 ^ k / 2 ^ wd) + x.toNat) + m % 2 ^ k := by
    rw [Nat.mul_add, ← hg, Nat.add_right_comm, Nat.div_add_mod, Nat.mul_comm x.toNat]
  rw [hs]
  conv_rhs => rw [hm]
  rw [Nat.testBit_two_pow_mul_add _ hr, Nat.testBit_two_pow_mul_add _ hr, Nat.testBit_two_pow_mul_add _ hx,
    Nat.testBit_two_pow_mul_add _ (Nat.two_pow_pos wd)]
  by_cases hk : i < k
  · rw [if_pos hk, if_pos hk, if_neg (by omega)]
  · by_cases hi : i - k < wd
    · rw [if_neg hk, if_pos hi, if_pos (by omega)]
    · rw [if_neg hk, if_neg hi, if_neg (by omega), if_neg hk, if_neg hi]

/-- A range that ends below the field. -/
theorem fld_add_below {m hi lo k wd : Nat} (x : BitVec wd) (hl : lo ≤ hi) (hk : hi < k) :
    fld (m + x.toNat * 2 ^ k) hi lo = fld m hi lo := by
  rw [← fld_mod hl hk, Nat.add_mul_mod_self_right, fld_mod hl hk]

/-- A range that begins above the field. -/
theorem fld_add_above {m hi lo k wd : Nat} (x : BitVec wd) (hk : k + wd ≤ lo) (hz : Gap m k wd) :
    fld (m + x.toNat * 2 ^ k) hi lo = fld m hi lo := by
  refine Nat.eq_of_testBit_eq fun j => ?_
  rw [testBit_fld, testBit_fld, testBit_add_field x hz, if_neg (by omega)]

/-- The gap seen within a range that holds it. -/
theorem Gap.fld {m hi lo k wd : Nat} (hl : lo ≤ k) (hz : Gap m k wd) : Gap (fld m hi lo) (k - lo) wd := by
  refine gap_iff_testBit.2 fun j hj => ?_
  rw [testBit_fld, (by omega : j + (k - lo) + lo = j + k), gap_iff_testBit.1 hz j hj, Bool.and_false]

/-- A range that holds the field. -/
theorem fld_add_inside {m hi lo k wd : Nat} (x : BitVec wd) (hl : lo ≤ k) (hh : k + wd ≤ hi + 1) (hz : Gap m k wd) :
    fld (m + x.toNat * 2 ^ k) hi lo = fld m hi lo + x.toNat * 2 ^ (k - lo) := by
  refine Nat.eq_of_testBit_eq fun j => ?_
  rw [testBit_add_field x (hz.fld hl), testBit_fld, testBit_fld, testBit_add_field x hz,
    (by omega : j + lo - k = j - (k - lo))]
  by_cases hj : k - lo ≤ j ∧ j < k - lo + wd
  · rw [if_pos (by omega), if_pos hj, decide_eq_true (by omega), Bool.true_and]
  · rw [if_neg (by omega), if_neg hj]

/-- The field's own bits. -/
theorem shiftRight_add_field {m k wd : Nat} (x : BitVec wd) (hz : Gap m k wd) :
    (m + x.toNat * 2 ^ k) >>> k % 1 <<< wd = x.toNat := by
  rw [Nat.shiftRight_eq_div_pow, Nat.one_shiftLeft, Nat.add_mul_div_right _ _ (Nat.two_pow_pos k), Nat.add_mod,
    show m / 2 ^ k % 2 ^ wd = 0 from hz, Nat.zero_add, Nat.mod_mod, Nat.mod_eq_of_lt x.isLt]

/-- The field's own range. -/
theorem fld_add_self {m hi k wd : Nat} (x : BitVec wd) (hh : hi - k + 1 = wd) (hz : Gap m k wd) :
    fld (m + x.toNat * 2 ^ k) hi k = x.toNat := by
  rw [fld, hh, ← Nat.shiftRight_eq_div_pow, ← Nat.one_shiftLeft wd, shiftRight_add_field x hz]

/-- A range tested against j asks j's bits of the field that lies within the range, and the rest of what is left. -/
theorem fld_add_eq {m hi lo k wd j : Nat} (x : BitVec wd) (hl : lo ≤ k) (hh : k + wd ≤ hi + 1) (hz : Gap m k wd) :
    fld (m + x.toNat * 2 ^ k) hi lo = j ↔
      x.toNat = j >>> (k - lo) % 1 <<< wd ∧ fld m hi lo = j - (j >>> (k - lo) % 1 <<< wd) <<< (k - lo) := by
  rw [fld_add_inside x hl hh hz]
  constructor
  · rintro rfl
    rw [shiftRight_add_field x (hz.fld hl), Nat.shiftLeft_eq]
    exact ⟨rfl, (Nat.add_sub_cancel ..).symm⟩
  · rintro ⟨hx, hm⟩
    have hj : j >>> (k - lo) % 1 <<< wd * 2 ^ (k - lo) ≤ j := by
      rw [Nat.shiftRight_eq_div_pow]
      exact (Nat.mul_le_mul_right _ (Nat.mod_le _ _)).trans (Nat.div_mul_le_self ..)
    rw [hm, hx, Nat.shiftLeft_eq, Nat.sub_add_cancel hj]

theorem fld_literal (c hi lo : Nat) : fld (no_index (OfNat.ofNat c)) hi lo = c >>> lo % 1 <<< (hi - lo + 1) := by
  rw [Nat.shiftRight_eq_div_pow, Nat.one_shiftLeft]; rfl

theorem flag_eq (n lo : Nat) : flag n lo = decide (fld n lo lo = 1) := by
  rw [flag, fld, Nat.sub_self]; rfl

theorem toNat_flag (n lo : Nat) : (flag n lo).toNat = fld n lo lo := by
  rw [flag_eq, fld, Nat.sub_self, Nat.zero_add, Nat.pow_one]
  rcases Nat.mod_two_eq_zero_or_one (n / 2 ^ lo) with h | h <;> rw [h] <;> rfl

theorem decide_ofBool (w : Bool) : decide ((BitVec.ofBool w).toNat = 1) = w := by
  cases w <;> rfl

/-! ### From an instruction to its word and back -/

theorem toNat_bool (w : Bool) : w.toNat = (BitVec.ofBool w).toNat := (BitVec.toNat_ofBool w).symm

/-- Every instruction but an event has a word. -/
theorem encodeNat_isSome (i : Instr) : (encodeNat i).isSome = !i.isEvent := by
  cases i <;> rfl

/-- The bits of HSCHED that name its forms `hold` and `ifetch`. -/
theorem fld_wordHsched_ne {p : BitVec 24} {j : Nat} (h : p.toNat / 2 ^ 21 ≠ j) (hj : j < 8) :
    fld (wordHsched p) 25 21 ≠ 16 + j := by
  have hp := p.isLt
  rw [wordHsched, fld]
  omega

/-- A well-formed HSCHED is neither of its forms `hold` and `ifetch`, which share the bits above. -/
theorem decodeNat_wordHsched {p : BitVec 24} (hp : hschedOk p = true) :
    decodeNat (wordHsched p % 2 ^ 32) = some (.hsched p) := by
  rw [hschedOk, Bool.and_eq_true, bne_iff_ne, bne_iff_ne] at hp
  have hhold : fld (wordHsched p) 25 21 ≠ 17 := fld_wordHsched_ne hp.1 (by decide)
  have hifetch : fld (wordHsched p) 25 21 ≠ 18 := fld_wordHsched_ne hp.2 (by decide)
  have hmajor : fld (wordHsched p) 31 26 = 63 := (fld_add_above p (by decide) ((gap_literal ..).2 rfl)).trans rfl
  have hminor : fld (wordHsched p) 25 24 = 2 := (fld_add_above p (by decide) ((gap_literal ..).2 rfl)).trans rfl
  have hp0 : fld (wordHsched p) 23 0 = p.toNat := fld_add_self p rfl ((gap_literal ..).2 rfl)
  simp only [decodeNat, decodeMajor3F, fld_mod, hmajor, hminor, hp0, hhold, hifetch, BitVec.ofNat_toNat,
    BitVec.setWidth_eq, ↓reduceIte, Nat.reduceLT, Nat.reduceLeDiff, Nat.reduceEqDiff]

/-- The words of the majors below 0x18: each test of the decoder asks bits that the constant
and the fields of the word answer. The two `change` steps show the word as that sum. -/
theorem decodeNat_encodeNat_of_lt {i : Instr} {n : Nat} (hw : i.wellFormed = true) (he : encodeNat i = some n)
    (hm : fld n 31 26 < 0x18) : decodeNat (n % 2 ^ 32) = some i := by
  cases i
  case illegalInstruction => cases hw
  case hsched p => cases he; exact decodeNat_wordHsched hw
  case eret | brk | halt | monc | exit | yield | gret => cases he; rfl
  all_goals cases he
  all_goals change fld (_ + _) 31 26 < 0x18 at hm
  all_goals change decodeNat ((_ + _) % 2 ^ 32) = _
  all_goals
    simp only [fld_add_above, gap_add, gap_literal, fld_literal, toNat_bool, Nat.reduceLT, Nat.reduceLeDiff,
      Nat.reduceAdd, Nat.reduceSub, Nat.reduceMod, Nat.reduceShiftRight, Nat.reduceShiftLeft] at hm
  all_goals
    simp only [decodeNat, decodeMajor01, decodeMajor02, decodeMajor03, decodeMajor04, decodeMajor05,
      decodeMajor06, decodeMajor07, decodeMajor08, decodeMajor09, decodeMajor0A, decodeMajor0B, decodeMajor0C,
      decodeMajor0D, decodeMajor0E, decodeMajor0F, decodeMajor10, decodeMajor11, decodeMajor12, decodeMajor13,
      decodeMajor14, decodeMajor15, decodeMajor16, decodeMajor17, fld_mod, gap_add, gap_literal, fld_add_below,
      fld_add_above, fld_add_self, fld_add_eq, fld_literal, toNat_bool, flag_eq, decide_ofBool,
      BitVec.ofNat_toNat, BitVec.setWidth_eq, ↓reduceIte, and_false, false_and, and_true, Nat.reduceLT,
      Nat.reduceLeDiff, Nat.reduceAdd, Nat.reduceSub, Nat.reduceMod, Nat.reduceEqDiff, Nat.reduceShiftRight,
      Nat.reduceShiftLeft]

/-- The words of the other majors. -/
theorem decodeNat_encodeNat_of_ge {i : Instr} {n : Nat} (hw : i.wellFormed = true) (he : encodeNat i = some n)
    (hm : 0x18 ≤ fld n 31 26) : decodeNat (n % 2 ^ 32) = some i := by
  cases i
  case illegalInstruction => cases hw
  case hsched p => cases he; exact decodeNat_wordHsched hw
  case eret | brk | halt | monc | exit | yield | gret => cases he; rfl
  all_goals cases he
  all_goals change 0x18 ≤ fld (_ + _) 31 26 at hm
  all_goals change decodeNat ((_ + _) % 2 ^ 32) = _
  all_goals
    simp only [fld_add_above, gap_add, gap_literal, fld_literal, toNat_bool, Nat.reduceLeDiff, Nat.reduceAdd,
      Nat.reduceSub, Nat.reduceMod, Nat.reduceShiftRight, Nat.reduceShiftLeft] at hm
  all_goals
    simp only [decodeNat, decodeMajor3F, decodeMajor18, decodeMajor19, decodeMajor1A, decodeMajor1B,
      decodeMajor1C, decodeMajor20, decodeMajor21, decodeMajor22, decodeMajor23, decodeMajor24, decodeMajor25,
      decodeMajor26, decodeMajor27, decodeMajor28, decodeMajor29, decodeMajor2A, decodeMajor2B, decodeMajor2C,
      decodeMajor2D, decodeMajor2F, decodeMajor1D, decodeMajor2E, decodeMajor30, decodeMajor31, decodeMajor32,
      fld_mod, gap_add, gap_literal, fld_add_below, fld_add_above, fld_add_self, fld_add_eq, fld_literal,
      toNat_bool, flag_eq, decide_ofBool, BitVec.ofNat_toNat, BitVec.setWidth_eq, ↓reduceIte, and_false,
      false_and, and_true, Nat.reduceLT, Nat.reduceLeDiff, Nat.reduceAdd, Nat.reduceSub, Nat.reduceMod,
      Nat.reduceEqDiff, Nat.reduceShiftRight, Nat.reduceShiftLeft]

theorem decodeNat_encodeNat {i : Instr} {n : Nat} (hw : i.wellFormed = true) (he : encodeNat i = some n) :
    decodeNat (n % 2 ^ 32) = some i := by
  rcases Nat.lt_or_ge (fld n 31 26) 0x18 with h | h
  · exact decodeNat_encodeNat_of_lt hw he h
  · exact decodeNat_encodeNat_of_ge hw he h

/-! ### From a word to its instruction and back -/

/-- The word n below bit k. -/
def lowPart (n k : Nat) : Int := (n % 2 ^ k : Nat)

theorem lowPart_zero (n : Nat) : lowPart n 0 = 0 := by rw [lowPart, Nat.pow_zero, Nat.mod_one]; rfl

theorem lowPart_word {n : Nat} (h : n < 2 ^ 32) : lowPart n 32 = n := by rw [lowPart, Nat.mod_eq_of_lt h]

/-- A field in place is what lies below its end less what lies below its start. -/
theorem fld_mul_two_pow (n : Nat) {hi lo : Nat} (h : lo ≤ hi) :
    ((fld n hi lo * 2 ^ lo : Nat) : Int) = lowPart n (hi + 1) - lowPart n lo := by
  have hm := Nat.mod_mul (x := n) (a := 2 ^ lo) (b := 2 ^ (hi - lo + 1))
  rw [← Nat.pow_add, (by omega : lo + (hi - lo + 1) = hi + 1)] at hm
  rw [lowPart, lowPart, hm, fld, Nat.mul_comm]
  omega

theorem fld_eq_iff (n k : Nat) {hi lo : Nat} (h : lo ≤ hi) :
    fld n hi lo = k ↔ lowPart n (hi + 1) - lowPart n lo = (k * 2 ^ lo : Nat) := by
  rw [← fld_mul_two_pow n h, Int.natCast_inj, Nat.mul_left_inj (Nat.two_pow_pos lo).ne']

theorem operand_mul_two_pow (n : Nat) {hi lo wd : Nat} (hw : 0 < wd) (h : hi + 1 = lo + wd) :
    (((BitVec.ofNat wd (fld n hi lo)).toNat * 2 ^ lo : Nat) : Int) = lowPart n (hi + 1) - lowPart n lo := by
  have hf : fld n hi lo < 2 ^ wd := by
    rw [(by omega : wd = hi - lo + 1)]; exact Nat.mod_lt _ (Nat.two_pow_pos _)
  rw [BitVec.toNat_ofNat, Nat.mod_eq_of_lt hf, fld_mul_two_pow n (by omega)]

theorem flag_mul_two_pow (n lo : Nat) :
    (((flag n lo).toNat * 2 ^ lo : Nat) : Int) = lowPart n (lo + 1) - lowPart n lo := by
  rw [toNat_flag, fld_mul_two_pow n le_rfl]

/-- Where P holds, n is the word of what the reading o of n names, if it names an instruction. -/
def WordOf (P : Prop) (n : Nat) (o : Option Instr) : Prop := P → ∀ i, o = some i → encodeNat i = some n

theorem WordOf.none {P : Prop} {n : Nat} : WordOf P n none := nofun

theorem WordOf.instr {P : Prop} {n k : Nat} {i : Instr} (hi : encodeNat i = some k) (hk : P → (k : Int) = n) :
    WordOf P n (some i) := by
  rintro hp _ ⟨⟩
  rw [hi, Int.natCast_inj.1 (hk hp)]

theorem WordOf.ite {P c : Prop} {n : Nat} [Decidable c] {a b : Option Instr} (ha : WordOf (P ∧ c) n a)
    (hb : WordOf P n b) : WordOf P n (if c then a else b) := by
  intro hp
  split
  · exact ha ⟨hp, ‹_›⟩
  · exact hb hp

/-- Every branch of the decoder: the word is the sum of the bits that it tests and of the fields that it reads. -/
theorem wordOf_decodeNat {n : Nat} (hn : lowPart n 32 = n) : WordOf True n (decodeNat n) := by
  unfold decodeNat decodeMajor01 decodeMajor02 decodeMajor03 decodeMajor04 decodeMajor05 decodeMajor06 decodeMajor07
    decodeMajor08 decodeMajor09 decodeMajor0A decodeMajor0B decodeMajor0C decodeMajor0D decodeMajor0E
    decodeMajor0F decodeMajor10 decodeMajor11 decodeMajor12 decodeMajor13 decodeMajor3F decodeMajor14
    decodeMajor15 decodeMajor16 decodeMajor17 decodeMajor18 decodeMajor19 decodeMajor1A decodeMajor1B
    decodeMajor1C decodeMajor20 decodeMajor21 decodeMajor22 decodeMajor23 decodeMajor24 decodeMajor25
    decodeMajor26 decodeMajor27 decodeMajor28 decodeMajor29 decodeMajor2A decodeMajor2B decodeMajor2C
    decodeMajor2D decodeMajor2F decodeMajor1D decodeMajor2E decodeMajor30 decodeMajor31 decodeMajor32
  repeat' refine .ite ?_ ?_
  any_goals exact .none
  all_goals refine .instr rfl fun h => ?_
  any_goals change ((_ + _ : Nat) : Int) = _
  all_goals
    simp only [fld_eq_iff, Nat.reduceLeDiff] at h
    simp only [wordEret, wordBrk, wordHalt, wordMonc, wordExit, wordYield, wordGret, operand_mul_two_pow,
      flag_mul_two_pow, lowPart_zero, Nat.cast_add, Nat.reduceAdd, Nat.reduceLT] at h ⊢
    omega

/-! ### The two directions -/

theorem encodeNat_of_decodeNat {w : BitVec 32} {i : Instr} (h : decodeNat w.toNat = some i) :
    encodeNat i = some w.toNat :=
  wordOf_decodeNat (lowPart_word w.isLt) trivial i h

theorem encode_decode (w : BitVec 32) : encode (decode w) = some w := by
  have hill : encode (.illegalInstruction w) = some w := by
    rw [encode, encodeNat, Option.map_some, BitVec.ofNat_toNat, BitVec.setWidth_eq]
  unfold decode
  split
  · split
    · rw [encode, encodeNat_of_decodeNat ‹_›, Option.map_some, BitVec.ofNat_toNat, BitVec.setWidth_eq]
    · exact hill
  · exact hill

theorem decode_encode {i : Instr} (hw : i.wellFormed = true) (hi : i.isEvent = false) :
    ∃ w, encode i = some w ∧ decode w = i := by
  have hsome : (encodeNat i).isSome = true := by rw [encodeNat_isSome, hi]; rfl
  obtain ⟨n, hn⟩ := Option.isSome_iff_exists.1 hsome
  refine ⟨.ofNat 32 n, by rw [encode, hn]; rfl, ?_⟩
  rw [decode, BitVec.toNat_ofNat, decodeNat_encodeNat hw hn]
  exact if_pos hw

theorem encode_event {i : Instr} (hi : i.isEvent = true) : encode i = none := by
  have hnone : ¬(encodeNat i).isSome = true := by rw [encodeNat_isSome, hi]; decide
  rw [encode, Option.not_isSome_iff_eq_none.1 hnone]
  rfl

/-- Settles O57: a field put into a gap of a word reads back as it is, and the fields of a word add up to it. -/
theorem encodeDecode : Obligations.EncodeDecode :=
  ⟨fun _ => decode_encode, fun _ => encode_event, encode_decode⟩

end Sys2Proof
end

section
namespace Sys2Proof.Machine

/-! ## O16: pending results -/

/-! ### Instructions that touch a pending register -/

/-- The main stream of the current slot, outside window mode and with no hint group, has one result pending. -/
structure Pends (s : State) (p : Pending) : Prop where
  main : s.thr.rep = none
  plain : s.thr.winMode = false
  unhinted : s.thr.hints = {}
  pending : s.thr.pending = [p]
  mine : p.body = false
  register : p.register = true

/-- LAV within the window of the pending result, a wait for its register beyond (R44, R45): what an instruction that touches
the register has for its outcome. -/
def Stalls (s : State) (p : Pending) (o : Out) : Prop :=
  (0 < p.window → s.Unheld → o = .next (trap s.cur { cause := 4, eaddr := p.at_ } s)) ∧
    (p.window = 0 → s.Unheld → o = .next (s.setThr (s.thr.waits (.scoreboard [p.dest] false false))))

/-- A group without hints is one that every instruction accepts. -/
theorem Hints.legal_empty (acc : Accept) : ({} : Hints).legal acc = true := rfl

theorem Pends.precheck {s : State} {p : Pending} {u : Use} (h : Pends s p) (hi : u.ill = false) (hp : u.priv = false)
    (hd : u.drain = false) (ht : u.touches p = true) :
    precheck u s = some (if 0 < p.window then .trap { cause := 4, eaddr := p.at_ }
      else .wait (.scoreboard [p.dest] false false)) := by
  have hbody : s.thr.inBody = false := by rw [Thread.inBody, h.main]
  have hgrp : s.thr.grp = {} := by rw [Thread.grp, h.main, h.unhinted]
  by_cases hw : 0 < p.window
  · simp [Machine.precheck, h.main, h.plain, hgrp, hbody, Hints.legal_empty, h.pending, h.mine, hi, hp, ht, hw]
  · simp [Machine.precheck, Use.scoreboard, Use.awaited, h.main, h.plain, hgrp, hbody, Hints.legal_empty, h.pending, h.mine,
      h.register, hi, hp, hd, ht, hw]

theorem Pends.issue {s : State} {p : Pending} {u : Use} {body : State → Except Stop State} (h : Pends s p)
    (hi : u.ill = false) (hp : u.priv = false) (hd : u.drain = false) (ht : u.touches p = true) :
    Stalls s p (issue u body s) := by
  refine ⟨fun hw hh => ?_, fun hw hh => ?_⟩
  · rw [Machine.issue, h.precheck hi hp hd ht, if_pos hw]
    exact congrArg Host.Outcome.next (stopAt_trap _ h.main hh)
  · rw [Machine.issue, h.precheck hi hp hd ht, if_neg (by omega)]
    exact congrArg Host.Outcome.next (stopAt_wait _ h.main hh rfl rfl rfl)

theorem Use.touches_gen {u : Use} {p : Pending} {r : Reg} (hd : p.dest = .gen r) (hr : r ≠ 0)
    (h : r ∈ u.gw ∨ r ∈ u.gr) : u.touches p = true := by
  simp only [Use.touches, hd, Bool.and_eq_true, Bool.or_eq_true, bne_iff_ne, List.contains_iff_mem]
  exact ⟨hr, h.symm⟩

theorem Use.touches_vec {u : Use} {p : Pending} {r : Reg} (hd : p.dest = .vec r) (h : r ∈ u.vw ∨ r ∈ u.vr) :
    u.touches p = true := by
  simp only [Use.touches, hd, Bool.or_eq_true, List.contains_iff_mem]
  exact h.symm

theorem Use.touches_mask {u : Use} {p : Pending} {r : BitVec 2} (hd : p.dest = .mask r) (hr : r ≠ 0)
    (h : r ∈ u.mw ∨ r ∈ u.mr) : u.touches p = true := by
  simp only [Use.touches, hd, Bool.and_eq_true, Bool.or_eq_true, bne_iff_ne, List.contains_iff_mem]
  exact ⟨hr, h.symm⟩

/-! The outcome of each shared operation: it is the issue of an instruction that names the registers given. -/

section
variable {s : State} {p : Pending} {word : Nat} {d a b c : Reg} {e g m q : BitVec 2}

theorem Pends.binary {w : Bool} {f : Word → Word → Word} (h : Pends s p)
    (ht : Use.touches { word := word, gr := [a, b], gw := [d] } p = true) :
    Stalls s p (binary word d a b w f s) := by
  rw [Machine.binary]; exact h.issue rfl rfl rfl ht

theorem Pends.unary {w : Bool} {f : Word → Word} (h : Pends s p)
    (ht : Use.touches { word := word, gr := [a], gw := [d] } p = true) :
    Stalls s p (unary word d a w f s) := by
  rw [Machine.unary]; exact h.issue rfl rfl rfl ht

theorem Pends.immediate {i : BitVec 18} {f : Word → Word → Word} (h : Pends s p)
    (ht : Use.touches { word := word, gr := [a], gw := [d] } p = true) :
    Stalls s p (immediate word d a i f s) := by
  rw [Machine.immediate]; exact h.issue rfl rfl rfl ht

theorem Pends.shiftImm {f : Word → Word} (h : Pends s p)
    (ht : Use.touches { word := word, gr := [a], gw := [d] } p = true) :
    Stalls s p (shiftImm word d a f s) := by
  rw [Machine.shiftImm]; exact h.issue rfl rfl rfl ht

theorem Pends.divide {l : BitVec 4} {w : Bool} {f : Word → Word → Word} (h : Pends s p)
    (ht : Use.touches { word := word, gr := [a, b], gw := [d] } p = true) :
    Stalls s p (divide word d a b l w f s) := by
  rw [Machine.divide]; exact h.issue rfl rfl rfl ht

theorem Pends.compareBranch {i : BitVec 14} {f : Word → Word → Bool} (h : Pends s p)
    (ht : Use.touches { word := word, gr := [a, b] } p = true) :
    Stalls s p (compareBranch word a b i f s) := by
  rw [Machine.compareBranch]; exact h.issue rfl rfl rfl ht

theorem Pends.zeroBranch {i : BitVec 18} {f : Int → Bool} (h : Pends s p)
    (ht : Use.touches { word := word, gr := [a] } p = true) :
    Stalls s p (zeroBranch word a i f s) := by
  rw [Machine.zeroBranch]; exact h.issue rfl rfl rfl ht

theorem Pends.load {o : BitVec 10} {v : Bool} {l : BitVec 4} {n : Nat} {sx : Bool} (h : Pends s p)
    (ht : Use.touches { word := word, gr := [b], gw := [d] } p = true) :
    Stalls s p (load word d b o v l n sx s) := by
  rw [Machine.load]; exact h.issue rfl rfl rfl ht

theorem Pends.store {o : BitVec 10} {v : Bool} {n : Nat} (h : Pends s p)
    (ht : Use.touches { word := word, gr := [d, b] } p = true) :
    Stalls s p (store word d b o v n s) := by
  rw [Machine.store]; exact h.issue rfl rfl rfl ht

theorem Pends.elementwise {sat : Bool} {f : Bool → Nat → Nat → Nat → Nat} (h : Pends s p)
    (ht : Use.touches { word := word, vr := [a, b], vw := [d], mr := [m] } p = true) :
    Stalls s p (elementwise word d a b m q sat f s) := by
  rw [Machine.elementwise]; exact h.issue rfl rfl rfl ht

theorem Pends.dotProduct {nat : Bool} (h : Pends s p)
    (ht : Use.touches { word := word, vr := [a, b, d], vw := [d], mr := [m] } p = true) :
    Stalls s p (dotProduct word d a b m nat s) := by
  rw [Machine.dotProduct]; exact h.issue rfl rfl rfl ht

theorem Pends.maskToGeneral {f : Mask → Nat} (h : Pends s p)
    (ht : Use.touches { word := word, gw := [d], mr := [e] } p = true) :
    Stalls s p (maskToGeneral word d e f s) := by
  rw [Machine.maskToGeneral]; exact h.issue rfl rfl rfl ht

theorem Pends.reduce {f : Nat → List Int → Int} (h : Pends s p)
    (ht : Use.touches { word := word, gw := [d], vr := [a], mr := [m] } p = true) :
    Stalls s p (reduce word d a m q f s) := by
  rw [Machine.reduce]; exact h.issue rfl rfl rfl ht

theorem Pends.compare {f : Nat → Nat → Nat → Bool} (h : Pends s p)
    (ht : Use.touches { word := word, vr := [a, b], mr := [m], mw := [e] } p = true) :
    Stalls s p (compare word e a b m q f s) := by
  rw [Machine.compare]; exact h.issue rfl rfl rfl ht

theorem Pends.maskOp {f : Mask → Mask → Mask} (h : Pends s p)
    (ht : Use.touches { word := word, mr := [g, m], mw := [e] } p = true) :
    Stalls s p (maskOp word e g m f s) := by
  rw [Machine.maskOp]; exact h.issue rfl rfl rfl ht

theorem Pends.permute {u : Use} {f : State → Nat → Nat → Nat} (h : Pends s p) (hi : u.ill = false) (hp : u.priv = false)
    (hd : u.drain = false) (ht : u.touches p = true) : Stalls s p (permute u d m q f s) := by
  rw [Machine.permute]; exact h.issue hi hp hd ht

theorem Pends.floatBinary {f : Fmt → Nat → FVal → FVal → Nat × Nat} (h : Pends s p) (hq : q ≠ 3)
    (ht : Use.touches { word := word, vr := [a, b], vw := [d], mr := [m] } p = true) :
    Stalls s p (floatBinary word d a b m q f s) := by
  rw [Machine.floatBinary]; exact h.issue (beq_false_of_ne hq) rfl rfl ht

theorem Pends.fused {np nc : Bool} (h : Pends s p) (hq : q ≠ 3)
    (ht : Use.touches { word := word, vr := [a, b, c], vw := [d], mr := [m] } p = true) :
    Stalls s p (fused word d a b c m q np nc s) := by
  rw [Machine.fused]; exact h.issue (beq_false_of_ne hq) rfl rfl ht

theorem Pends.special1 {l : BitVec 4} {rm : Bool} {f : Nat → Fmt → FVal → Nat × Nat} (h : Pends s p) (hq : q ≠ 3)
    (ht : Use.touches { word := word, vr := [a], vw := [d], mr := [m] } p = true) :
    Stalls s p (special1 word d a l m q rm f s) := by
  rw [Machine.special1, special]; exact h.issue (beq_false_of_ne hq) rfl rfl ht

theorem Pends.floatCompare {quiet : Bool} {f : FVal → FVal → Bool} (h : Pends s p) (hq : q ≠ 3)
    (ht : Use.touches { word := word, vr := [a, b], mr := [m], mw := [e] } p = true) :
    Stalls s p (floatCompare word e a b m q quiet f s) := by
  rw [Machine.floatCompare]; exact h.issue (beq_false_of_ne hq) rfl rfl ht

end

section
variable {s : State} {p : Pending} {d a b c : Reg} {w v : Bool} {l : BitVec 4} {i : BitVec 18} {j : BitVec 14} {k : BitVec 6}
  {o : BitVec 10} {e f g m q : BitVec 2}

/-! What each instruction of the statement has for its outcome, by the registers that it names. -/

theorem Pends.gen_d_a {r : Reg} (h : Pends s p) (hd : p.dest = .gen r) (h0 : r ≠ 0)
    (hx : r = d ∨ r = a) :
    Stalls s p (execAddi d a i s) ∧ Stalls s p (execAndi d a i s) ∧ Stalls s p (execOri d a i s) ∧
    Stalls s p (execXori d a i s) ∧ Stalls s p (execSlti d a i s) ∧ Stalls s p (execMuli d a i s) ∧
    Stalls s p (execShli d a k s) ∧ Stalls s p (execSrai d a k s) ∧ Stalls s p (execClz d a w s) ∧
    Stalls s p (execCtz d a w s) ∧ Stalls s p (execPopc d a w s) ∧ Stalls s p (execBswap d a w s) ∧
    Stalls s p (execJlr d a s) := by
  have ht {u : Use} (hu : r ∈ u.gw ∨ r ∈ u.gr) : u.touches p = true := Use.touches_gen hd h0 hu
  have hm : r ∈ [d] ∨ r ∈ [a] := by simpa using hx
  exact ⟨h.immediate (ht hm), h.immediate (ht hm), h.immediate (ht hm), h.immediate (ht hm), h.immediate (ht hm),
    h.immediate (ht hm), h.shiftImm (ht hm), h.shiftImm (ht hm), h.unary (ht hm), h.unary (ht hm), h.unary (ht hm),
    h.unary (ht hm), h.issue rfl rfl rfl (ht hm)⟩

theorem Pends.gen_d_a_b {r : Reg} (h : Pends s p) (hd : p.dest = .gen r) (h0 : r ≠ 0)
    (hx : r = d ∨ r = a ∨ r = b) :
    Stalls s p (execAdd d a b w s) ∧ Stalls s p (execSub d a b w s) ∧ Stalls s p (execAnd d a b w s) ∧
    Stalls s p (execOr d a b w s) ∧ Stalls s p (execXor d a b w s) ∧ Stalls s p (execShl d a b w s) ∧
    Stalls s p (execSra d a b w s) ∧ Stalls s p (execMin d a b w s) ∧ Stalls s p (execSlt d a b w s) ∧
    Stalls s p (execMul d a b w s) ∧ Stalls s p (execMulh d a b w s) ∧ Stalls s p (execDiv d a b l w s) ∧
    Stalls s p (execRemn d a b l w s) ∧ Stalls s p (execLdxd d a b l s) ∧ Stalls s p (execStxd d a b s) := by
  have ht {u : Use} (hu : r ∈ u.gw ∨ r ∈ u.gr) : u.touches p = true := Use.touches_gen hd h0 hu
  have hm : r ∈ [d] ∨ r ∈ [a, b] := by simpa using hx
  have hall : r ∈ ([] : List Reg) ∨ r ∈ [d, a, b] := by simpa using hx
  exact ⟨h.binary (ht hm), h.binary (ht hm), h.binary (ht hm), h.binary (ht hm), h.binary (ht hm), h.binary (ht hm),
    h.binary (ht hm), h.binary (ht hm), h.binary (ht hm), h.binary (ht hm), h.binary (ht hm), h.divide (ht hm),
    h.divide (ht hm), h.issue rfl rfl rfl (ht hm), h.issue rfl rfl rfl (ht hall)⟩

theorem Pends.gen_d_a_b_c {r : Reg} (h : Pends s p) (hd : p.dest = .gen r) (h0 : r ≠ 0)
    (hx : r = d ∨ r = a ∨ r = b ∨ r = c) :
    Stalls s p (execSel d a b c w s) ∧ Stalls s p (execExtr d a b c w s) ∧ Stalls s p (execInsb d a b c w s) := by
  have ht {u : Use} (hu : r ∈ u.gw ∨ r ∈ u.gr) : u.touches p = true := Use.touches_gen hd h0 hu
  have hm : r ∈ [d] ∨ r ∈ [a, b, c] := by simpa using hx
  have hall : r ∈ [d] ∨ r ∈ [d, a, b, c] := .inr (by simpa using hx)
  exact ⟨h.issue rfl rfl rfl (ht hm), h.issue rfl rfl rfl (ht hm), h.issue rfl rfl rfl (ht hall)⟩

theorem Pends.gen_a_b {r : Reg} (h : Pends s p) (hd : p.dest = .gen r) (h0 : r ≠ 0)
    (hx : r = a ∨ r = b) :
    Stalls s p (execBeq a b j s) ∧ Stalls s p (execBne a b j s) ∧ Stalls s p (execBlt a b j s) ∧
    Stalls s p (execBge a b j s) ∧ Stalls s p (execVldx d a b l s) ∧ Stalls s p (execVstx d a b s) := by
  have ht {u : Use} (hu : r ∈ u.gw ∨ r ∈ u.gr) : u.touches p = true := Use.touches_gen hd h0 hu
  have hm : r ∈ ([] : List Reg) ∨ r ∈ [a, b] := by simpa using hx
  exact ⟨h.compareBranch (ht hm), h.compareBranch (ht hm), h.compareBranch (ht hm), h.compareBranch (ht hm),
    h.issue rfl rfl rfl (ht hm), h.issue rfl rfl rfl (ht hm)⟩

theorem Pends.gen_a {r : Reg} (h : Pends s p) (hd : p.dest = .gen r) (h0 : r ≠ 0)
    (hx : r = a) :
    Stalls s p (execBeqz a i s) ∧ Stalls s p (execBnez a i s) ∧ Stalls s p (execJr a s) ∧
    Stalls s p (execVsplat d a m q s) ∧ Stalls s p (execMfromg e a s) := by
  have ht {u : Use} (hu : r ∈ u.gw ∨ r ∈ u.gr) : u.touches p = true := Use.touches_gen hd h0 hu
  have hm : r ∈ ([] : List Reg) ∨ r ∈ [a] := by simpa using hx
  exact ⟨h.zeroBranch (ht hm), h.zeroBranch (ht hm), h.issue rfl rfl rfl (ht hm), h.permute rfl rfl rfl (ht hm),
    h.issue rfl rfl rfl (ht hm)⟩

theorem Pends.gen_d_b {r : Reg} (h : Pends s p) (hd : p.dest = .gen r) (h0 : r ≠ 0)
    (hx : r = d ∨ r = b) :
    Stalls s p (execLdb d b o v l s) ∧ Stalls s p (execLdw d b o v l s) ∧ Stalls s p (execLdd d b o v l s) ∧
    Stalls s p (execStb d b o v s) ∧ Stalls s p (execStw d b o v s) ∧ Stalls s p (execStd d b o v s) := by
  have ht {u : Use} (hu : r ∈ u.gw ∨ r ∈ u.gr) : u.touches p = true := Use.touches_gen hd h0 hu
  have hm : r ∈ [d] ∨ r ∈ [b] := by simpa using hx
  have hall : r ∈ ([] : List Reg) ∨ r ∈ [d, b] := by simpa using hx
  exact ⟨h.load (ht hm), h.load (ht hm), h.load (ht hm), h.store (ht hall), h.store (ht hall), h.store (ht hall)⟩

theorem Pends.gen_b {r : Reg} (h : Pends s p) (hd : p.dest = .gen r) (h0 : r ≠ 0)
    (hx : r = b) :
    Stalls s p (execVld d b o v l s) ∧ Stalls s p (execVst d b o v s) := by
  have ht {u : Use} (hu : r ∈ u.gw ∨ r ∈ u.gr) : u.touches p = true := Use.touches_gen hd h0 hu
  have hm : r ∈ ([] : List Reg) ∨ r ∈ [b] := by simpa using hx
  exact ⟨h.issue rfl rfl rfl (ht hm), h.issue rfl rfl rfl (ht hm)⟩

theorem Pends.gen_d {r : Reg} (h : Pends s p) (hd : p.dest = .gen r) (h0 : r ≠ 0)
    (hx : r = d) :
    Stalls s p (execLi d i s) ∧ Stalls s p (execLpc d i s) ∧ Stalls s p (execVradd d a m q s) ∧
    Stalls s p (execMcnt d g s) ∧ Stalls s p (execMtog d g s) := by
  have ht {u : Use} (hu : r ∈ u.gw ∨ r ∈ u.gr) : u.touches p = true := Use.touches_gen hd h0 hu
  have hm : r ∈ [d] ∨ r ∈ ([] : List Reg) := by simpa using hx
  exact ⟨h.issue rfl rfl rfl (ht hm), h.issue rfl rfl rfl (ht hm), h.reduce (ht hm), h.maskToGeneral (ht hm),
    h.maskToGeneral (ht hm)⟩

theorem Pends.vec_d_a_b {r : Reg} (h : Pends s p) (hd : p.dest = .vec r) (hf : f ≠ 3)
    (hx : r = d ∨ r = a ∨ r = b) :
    Stalls s p (execVadd d a b m q s) ∧ Stalls s p (execVsub d a b m q s) ∧ Stalls s p (execVmul d a b m q s) ∧
    Stalls s p (execVand d a b m q s) ∧ Stalls s p (execVdot4 d a b m s) ∧ Stalls s p (execVfadd d a b m f s) ∧
    Stalls s p (execVfmul d a b m f s) := by
  have ht {u : Use} (hu : r ∈ u.vw ∨ r ∈ u.vr) : u.touches p = true := Use.touches_vec hd hu
  have hm : r ∈ [d] ∨ r ∈ [a, b] := by simpa using hx
  have hall : r ∈ [d] ∨ r ∈ [a, b, d] := by
    rcases hx with rfl | rfl | rfl <;> simp
  exact ⟨h.elementwise (ht hm), h.elementwise (ht hm), h.elementwise (ht hm), h.elementwise (ht hm),
    h.dotProduct (ht hall), h.floatBinary hf (ht hm), h.floatBinary hf (ht hm)⟩

theorem Pends.vec_d_a_b_c {r : Reg} (h : Pends s p) (hd : p.dest = .vec r) (hf : f ≠ 3)
    (hx : r = d ∨ r = a ∨ r = b ∨ r = c) :
    Stalls s p (execVfma d a b c m f s) := by
  have ht {u : Use} (hu : r ∈ u.vw ∨ r ∈ u.vr) : u.touches p = true := Use.touches_vec hd hu
  have hm : r ∈ [d] ∨ r ∈ [a, b, c] := by simpa using hx
  exact h.fused hf (ht hm)

theorem Pends.vec_d_a {r : Reg} (h : Pends s p) (hd : p.dest = .vec r) (hf : f ≠ 3)
    (hx : r = d ∨ r = a) :
    Stalls s p (execVabs d a m q s) ∧ Stalls s p (execVmov d a m q s) ∧ Stalls s p (execVrcp d a l m f s) := by
  have ht {u : Use} (hu : r ∈ u.vw ∨ r ∈ u.vr) : u.touches p = true := Use.touches_vec hd hu
  have hm : r ∈ [d] ∨ r ∈ [a] := by simpa using hx
  exact ⟨h.issue rfl rfl rfl (ht hm), h.permute rfl rfl rfl (ht hm), h.special1 hf (ht hm)⟩

theorem Pends.vec_a {r : Reg} (h : Pends s p) (hd : p.dest = .vec r)
    (hx : r = a) :
    Stalls s p (execVradd d a m q s) ∧ Stalls s p (execVext d a b q s) := by
  have ht {u : Use} (hu : r ∈ u.vw ∨ r ∈ u.vr) : u.touches p = true := Use.touches_vec hd hu
  have hm : r ∈ ([] : List Reg) ∨ r ∈ [a] := by simpa using hx
  exact ⟨h.reduce (ht hm), h.issue rfl rfl rfl (ht hm)⟩

theorem Pends.vec_a_b {r : Reg} (h : Pends s p) (hd : p.dest = .vec r) (hf : f ≠ 3)
    (hx : r = a ∨ r = b) :
    Stalls s p (execVcmpeq e a b m q s) ∧ Stalls s p (execVcmplt e a b m q s) ∧ Stalls s p (execVfcmpeq e a b m f s) := by
  have ht {u : Use} (hu : r ∈ u.vw ∨ r ∈ u.vr) : u.touches p = true := Use.touches_vec hd hu
  have hm : r ∈ ([] : List Reg) ∨ r ∈ [a, b] := by simpa using hx
  exact ⟨h.compare (ht hm), h.compare (ht hm), h.floatCompare hf (ht hm)⟩

theorem Pends.vec_d {r : Reg} (h : Pends s p) (hd : p.dest = .vec r)
    (hx : r = d) :
    Stalls s p (execVld d b o v l s) ∧ Stalls s p (execVst d b o v s) ∧ Stalls s p (execVsplat d a m q s) := by
  have ht {u : Use} (hu : r ∈ u.vw ∨ r ∈ u.vr) : u.touches p = true := Use.touches_vec hd hu
  have hm : r ∈ [d] ∨ r ∈ ([] : List Reg) := by simpa using hx
  have hv : r ∈ ([] : List Reg) ∨ r ∈ [d] := by simpa using hx
  exact ⟨h.issue rfl rfl rfl (ht hm), h.issue rfl rfl rfl (ht hv), h.permute rfl rfl rfl (ht hm)⟩

theorem Pends.mask_e_g_m {r : BitVec 2} (h : Pends s p) (hd : p.dest = .mask r) (h0 : r ≠ 0)
    (hx : r = e ∨ r = g ∨ r = m) :
    Stalls s p (execMand e g m s) ∧ Stalls s p (execMor e g m s) ∧ Stalls s p (execMxor e g m s) := by
  have ht {u : Use} (hu : r ∈ u.mw ∨ r ∈ u.mr) : u.touches p = true := Use.touches_mask hd h0 hu
  have hm : r ∈ [e] ∨ r ∈ [g, m] := by simpa using hx
  exact ⟨h.maskOp (ht hm), h.maskOp (ht hm), h.maskOp (ht hm)⟩

theorem Pends.mask_e_m {r : BitVec 2} (h : Pends s p) (hd : p.dest = .mask r) (h0 : r ≠ 0) (hf : f ≠ 3)
    (hx : r = e ∨ r = m) :
    Stalls s p (execVcmpeq e a b m q s) ∧ Stalls s p (execVfcmplt e a b m f s) := by
  have ht {u : Use} (hu : r ∈ u.mw ∨ r ∈ u.mr) : u.touches p = true := Use.touches_mask hd h0 hu
  have hm : r ∈ [e] ∨ r ∈ [m] := by simpa using hx
  exact ⟨h.compare (ht hm), h.floatCompare hf (ht hm)⟩

theorem Pends.mask_m {r : BitVec 2} (h : Pends s p) (hd : p.dest = .mask r) (h0 : r ≠ 0) (hf : f ≠ 3)
    (hx : r = m) :
    Stalls s p (execVadd d a b m q s) ∧ Stalls s p (execVfma d a b c m f s) := by
  have ht {u : Use} (hu : r ∈ u.mw ∨ r ∈ u.mr) : u.touches p = true := Use.touches_mask hd h0 hu
  have hm : r ∈ ([] : List (BitVec 2)) ∨ r ∈ [m] := by simpa using hx
  exact ⟨h.elementwise (ht hm), h.fused hf (ht hm)⟩

end

/-! ### Instructions that touch no pending register -/

/-- What is pending in the main stream of the current slot is none of the registers of l. -/
structure Untouched (s : State) (l : List Reg) : Prop where
  main : s.thr.rep = none
  plain : s.thr.winMode = false
  unhinted : s.thr.hints = {}
  mine : ∀ p ∈ s.thr.pending, p.body = false
  other : ∀ p ∈ s.thr.pending, ∀ r ∈ l, p.dest ≠ .gen r

theorem Untouched.touches {s : State} {word : Nat} {gr gw : List Reg} {acc : Accept} (h : Untouched s (gr ++ gw))
    {p : Pending} (hp : p ∈ s.thr.pending) :
    Use.touches { word := word, gr := gr, gw := gw, accept := acc, ahead := true } p = false := by
  have ho := h.other p hp
  unfold Use.touches
  split
  next r hd =>
    have hgr : r ∉ gr := fun hm => ho r (List.mem_append_left _ hm) hd
    have hgw : r ∉ gw := fun hm => ho r (List.mem_append_right _ hm) hd
    simp [hgr, hgw]
  all_goals simp

/-- An arithmetic instruction or a branch is no access, which a release-side FENCE would hold back (R274). -/
theorem passesRelease_of_major {word : Nat} (h : fld word 31 26 ≤ 0x11) (hmod : BitVec 24) :
    passesRelease word hmod = true := by
  have hf : field (BitVec.ofNat 32 word) 31 26 = fld word 31 26 := by
    rw [field, BitVec.toNat_ofNat]
    exact fld_mod (by decide) (by decide)
  have ha : majorApart (field (BitVec.ofNat 32 word) 31 26) = true := by
    rw [majorApart, hf, decide_eq_true h]; rfl
  unfold passesRelease
  simp only [ha, Bool.true_or]

/-- No check of the issue stage stops it. -/
theorem Untouched.precheck {s : State} {word : Nat} {gr gw : List Reg} {acc : Accept} (h : Untouched s (gr ++ gw))
    (hm : fld word 31 26 ≤ 0x11) :
    precheck { word := word, gr := gr, gw := gw, accept := acc, ahead := true } s = none := by
  have hgrp : s.thr.grp.legal acc = true := by rw [Thread.grp, h.main, h.unhinted]; rfl
  have hbody : s.thr.inBody = false := by rw [Thread.inBody, h.main]
  have hfind : s.thr.pending.find? (fun p => p.body == s.thr.inBody && decide (0 < p.window) &&
      Use.touches { word := word, gr := gr, gw := gw, accept := acc, ahead := true } p) = none :=
    List.find?_eq_none.2 fun p hp => by simp [h.touches hp]
  have hawait : Use.awaited { word := word, gr := gr, gw := gw, accept := acc, ahead := true } s.thr = [] := by
    rw [Use.awaited, List.filter_eq_nil_iff.2 fun p hp => by simp [h.touches hp]]; rfl
  simp only [Machine.precheck, hfind]
  simp [h.main, h.plain, hgrp, hbody, Use.scoreboard, hawait, passesRelease_of_major hm]

/-- The completion shortens every window of the stream (R44). -/
theorem Thread.retire_slides {t : Thread} (hr : t.rep = none) (hb : ∀ p ∈ t.pending, p.body = false) :
    t.retire = { t.wentOn with pending := t.pending.map (fun p => { p with window := p.window - 1 }) } := by
  have hmap : t.pending.map (fun p => if (p.body == false) = true then { p with window := p.window - 1 } else p) =
      t.pending.map (fun p => { p with window := p.window - 1 }) :=
    List.map_congr_left fun p hp => by simp [hb p hp]
  simp only [Thread.retire, Thread.retireTo, hr, Thread.slideWindows, hmap, Thread.wentOn, Thread.wentTo]

/-- The current slot's thread at its next word, with the result in g[d] and every window shorter by one. -/
def State.slid (s : State) (d : Reg) (r : Word) : Thread :=
  { (s.thr.wg d r).wentOn with pending := s.thr.pending.map (fun p => { p with window := p.window - 1 }) }

/-- The issue of an instruction that writes one general register. -/
theorem Untouched.issue {s : State} {word : Nat} {gr : List Reg} {acc : Accept} {d : Reg} (x : State → Word)
    (h : Untouched s (gr ++ [d])) (hm : fld word 31 26 ≤ 0x11) :
    issue { word := word, gr := gr, gw := [d], accept := acc, ahead := true } (fun s => .ok (retire (s.wg d (x s)))) s =
      .next (s.setThr (s.slid d (x s))) := by
  have hmain : (s.thr.wg d (x s)).rep = none := by simp [h.main]
  have hmine : ∀ p ∈ (s.thr.wg d (x s)).pending, p.body = false := by simpa using h.mine
  rw [Machine.issue, h.precheck hm]
  simp [setVx_false, consume, h.plain, State.wg_eq, retire_setThr, Thread.retire_slides hmain hmine, State.slid]

theorem Untouched.binary {s : State} {word : Nat} {d a b : Reg} {w : Bool} {f : Word → Word → Word}
    (h : Untouched s [a, b, d]) (hm : fld word 31 26 ≤ 0x11) :
    binary word d a b w f s = .next (s.setThr (s.slid d (wres w (f (s.rg a) (s.rg b))))) :=
  Untouched.issue (gr := [a, b]) (fun s => wres w (f (s.rg a) (s.rg b))) h hm

/-- With no hint group an immediate is as wide as its field (R47). -/
theorem Untouched.imm {s : State} {l : List Reg} {i : BitVec 18} (h : Untouched s l) : s.grp.imm i = i.signExtend 64 := by
  rw [State.grp, Thread.grp, h.main, h.unhinted]; rfl

theorem Untouched.immediate {s : State} {word : Nat} {d a : Reg} {i : BitVec 18} {f : Word → Word → Word}
    (h : Untouched s [a, d]) (hm : fld word 31 26 ≤ 0x11) :
    immediate word d a i f s = .next (s.setThr (s.slid d (f (s.rg a) (i.signExtend 64)))) := by
  rw [← h.imm]
  exact Untouched.issue (gr := [a]) (fun s => f (s.rg a) (s.grp.imm i)) h hm

theorem Untouched.li {s : State} {d : Reg} {i : BitVec 18} (h : Untouched s [d]) (hm : fld (wordLi d i) 31 26 ≤ 0x11) :
    execLi d i s = .next (s.setThr (s.slid d (i.signExtend 64))) := by
  rw [← h.imm]
  exact Untouched.issue (gr := []) (fun s => s.grp.imm i) h hm

/-- The words of the statement's instructions have the majors of arithmetic (R53). -/
theorem major_arithmetic (d a b : Reg) (w : Bool) (i : BitVec 18) :
    fld (wordAdd d a b w) 31 26 ≤ 0x11 ∧ fld (wordSub d a b w) 31 26 ≤ 0x11 ∧ fld (wordAnd d a b w) 31 26 ≤ 0x11 ∧
    fld (wordOr d a b w) 31 26 ≤ 0x11 ∧ fld (wordXor d a b w) 31 26 ≤ 0x11 ∧ fld (wordMul d a b w) 31 26 ≤ 0x11 ∧
    fld (wordAddi d a i) 31 26 ≤ 0x11 ∧ fld (wordXori d a i) 31 26 ≤ 0x11 ∧ fld (wordLi d i) 31 26 ≤ 0x11 := by
  simp only [wordAdd, wordSub, wordAnd, wordOr, wordXor, wordMul, wordAddi, wordXori, wordLi, toNat_bool, fld_add_above,
    gap_add, gap_literal, fld_literal, Nat.reduceLeDiff, Nat.reduceAdd, Nat.reduceSub, Nat.reduceMod,
    Nat.reduceShiftRight, Nat.reduceShiftLeft, and_true]

/-! ### The arrival of a result -/

/-- A result reaches its register, whatever stays pending. -/
theorem Thread.commit_settled (t : Thread) (p : Pending) :
    Thread.commit { t with pending := [] } p = { t.commit p with pending := [] } := by
  unfold Thread.commit
  split
  · unfold Thread.wg
    split <;> rfl
  · rfl
  · unfold Thread.wm
    split <;> rfl
  · rfl

/-- The only pending result of a slot, no queued divide, arrives, and the last wait for the scoreboard is over (R44). -/
theorem exec_longLatencyComplete {s : State} {k : Nat} {p : Pending} {u : Thread} (hp : (s.thread k).pending = [p])
    (hd : p.divide = false) (hr : p.register = true) (hu : (s.thread k).commit p = u) :
    exec (.longLatencyComplete k) s = .next (s.setThread k { u with pending := [] }) ∧
      ∀ l drain room, waitOver (s.setThread k { u with pending := [] }) k false (.scoreboard l drain room) = true := by
  subst hu
  have hdiv : completeDivides k (fun q => q == p) 8 s = s := by simp [completeDivides, hp, hd]
  have hcomplete : (s.thread k).complete (fun q => q == p) = { (s.thread k).commit p with pending := [] } := by
    simp [Thread.complete, hp, hr, Thread.commit_settled]
  refine ⟨?_, fun l drain room => by simp [waitOver]⟩
  change execLongLatencyComplete k s = _
  simp [execLongLatencyComplete, hp, hd, hr, completePending, hdiv, State.mapThread, hcomplete]

/-- Settles O16: a pending register that an instruction names decides its issue, and one that it does not name does not. -/
theorem pendingResults : Obligations.PendingResults := by
  refine ⟨?_, ?_, ?_⟩
  · intro s d a b c w v l i j k o m q f e g p hr hw hh hp hb _ hf
    have hpends (hreg : p.register = true) : Pends s p := ⟨hr, hw, hh, hp, hb, hreg⟩
    refine ⟨fun r hd h0 => ?_, fun r hd => ?_, fun r hd h0 => ?_⟩
    · have h := hpends (by rw [Pending.register, hd])
      exact ⟨h.gen_d_a hd h0, h.gen_d_a_b hd h0, h.gen_d_a_b_c hd h0, h.gen_a_b hd h0, h.gen_a hd h0, h.gen_d_b hd h0,
        h.gen_b hd h0, h.gen_d hd h0⟩
    · have h := hpends (by rw [Pending.register, hd])
      exact ⟨h.vec_d_a_b hd hf, h.vec_d_a_b_c hd hf, h.vec_d_a hd hf, h.vec_a hd, h.vec_a_b hd hf, h.vec_d hd⟩
    · have h := hpends (by rw [Pending.register, hd])
      exact ⟨h.mask_e_g_m hd h0, h.mask_e_m hd h0 hf, h.mask_m hd h0 hf⟩
  · intro s d a b w i hr hw hh hp
    have hother {l : List Reg} (hl : ∀ r ∈ l, r = d ∨ r = a ∨ r = b) : Untouched s l := by
      refine ⟨hr, hw, hh, fun p hm => (hp p hm).1, fun p hm r hr hd => ?_⟩
      obtain ⟨-, hpd, hpa, hpb⟩ := hp p hm
      rcases hl r hr with rfl | rfl | rfl
      · exact hpd hd
      · exact hpa hd
      · exact hpb hd
    have hbin : Untouched s [a, b, d] := hother (by simp)
    have himm : Untouched s [a, d] := hother (by simp)
    have hli : Untouched s [d] := hother (by simp)
    obtain ⟨hadd, hsub, hand, hor, hxor, hmul, haddi, hxori, hwli⟩ := major_arithmetic d a b w i
    exact ⟨hbin.binary hadd, hbin.binary hsub, hbin.binary hand, hbin.binary hor, hbin.binary hxor, hbin.binary hmul,
      himm.immediate haddi, himm.immediate hxori, hli.li hwli⟩
  · intro s k p hp hd
    refine ⟨fun r hr => ?_, fun r hr => ?_, fun r hr => ?_⟩
    all_goals exact exec_longLatencyComplete hp hd (by rw [Pending.register, hr]) (by rw [Thread.commit, hr])

end Sys2Proof.Machine
end

section
namespace Sys2Proof.Machine

/-! ## O19: hint words -/

/-- Outside a repetition a hint word adds to the stream's hint group (R46). -/
theorem Thread.addHint_main {t : Thread} (f : Hints → Hints) (hr : t.rep = none) :
    t.addHint f = { t with pc := t.pc + 4, hints := f t.hints } := by
  rw [Thread.addHint, hr]

/-- A hold of a count of cycles is the legal one (R51). -/
theorem hschedLegal_hold (q : BitVec 21) :
    hschedLegal ((1 : BitVec 3) ++ q) = true ↔ field q 5 0 ≠ 0 ∧ field q 20 6 = 0 := by
  have hq := q.isLt
  have hn : ((1 : BitVec 3) ++ q).toNat = 2 ^ 21 + q.toNat := by
    rw [BitVec.toNat_append, ← Nat.shiftLeft_add_eq_or_of_lt hq]; rfl
  have hform : field ((1 : BitVec 3) ++ q) 23 21 = 1 := by rw [field, hn]; omega
  have hcount : field ((1 : BitVec 3) ++ q) 5 0 = field q 5 0 := by rw [field, field, hn]; omega
  have hrest : field ((1 : BitVec 3) ++ q) 20 6 = field q 20 6 := by rw [field, field, hn]; omega
  simp only [hschedLegal, hform, hcount, hrest, Bool.and_eq_true, bne_iff_ne, beq_iff_eq]

/-- Settles O19: each hint word joins the group of the main stream; a legal hold parks the slot, and its expiry ends
the wait. -/
theorem hintsJoinTheirGroup : Obligations.HintsJoinTheirGroup := by
  intro s p q hr
  have hmain (f : Hints → Hints) :
      s.mapThr (fun t => t.addHint f) = s.setThr { s.thr with pc := s.thr.pc + 4, hints := f s.thr.hints } :=
    congrArg s.setThr (Thread.addHint_main f hr)
  refine ⟨?_, ?_, ?_, ?_, fun h0 h1 => ?_, fun h => ?_, fun k hk hkr => ?_⟩
  · exact congrArg Host.Outcome.next (hmain _)
  · exact congrArg Host.Outcome.next (hmain _)
  · exact congrArg Host.Outcome.next (hmain _)
  · exact congrArg Host.Outcome.next (hmain _)
  · change execHschedHold q s = _
    rw [execHschedHold]
    simp only [hmain, (hschedLegal_hold q).2 ⟨h0, h1⟩, State.mapThr_setThr, if_true, Thread.await, hr]
    rfl
  · change execHschedHold q s = _
    have hl : ¬ hschedLegal ((1 : BitVec 3) ++ q) = true := by rw [hschedLegal_hold]; tauto
    rw [execHschedHold]
    simp only [hmain, if_neg hl]
  · change execHoldExpiry k s = _
    simp only [execHoldExpiry, State.mapThread, hk, hkr]
    rfl
end Sys2Proof.Machine
end

section
namespace Sys2Proof.Machine

/-! ## O49: operand limits -/

/-- ILL with an instruction word: of the device nothing but the trap of the current slot (R54, R55, R336). -/
def illOf (w : Nat) (s : State) : Out := .next (trap s.cur { cause := 1, eaddr := BitVec.ofNat 64 w } s)

/-- An instruction of the main stream whose limits are broken takes ILL with its word (R54, R55). -/
theorem issue_illOf {s : State} {u : Use} {body : State → Except Stop State} (hr : s.thr.rep = none) (hh : s.Unheld)
    (hi : u.ill = true) : issue u body s = illOf u.word s := by
  rw [issue_ill body hr (.inl hi)]
  exact congrArg Host.Outcome.next (stopAt_trap _ hr hh)

/-- A copy takes its quad from four registers from g1 on (R249). -/
theorem copy_illOf {s : State} {w fn : Nat} {d a b l : Reg} (hr : s.thr.rep = none) (hh : s.Unheld)
    (ha : a = 0 ∨ 12 < a.toNat) : copy w fn d a b l s = illOf w s := by
  rw [copy]
  exact issue_illOf hr hh (by simpa using ha)

/-- GRET and GABT in window mode, while a reservation stands or outside a gate call (R273, R292, R326). -/
theorem gateReturn_illOf {s : State} {w : Nat} {gr : List Reg} {code : State → Option Word} (hr : s.thr.rep = none)
    (hh : s.Unheld) (h : (s.thr.winMode = true ∨ s.thr.rsv.isSome = true) ∨ s.thr.depth = 0) :
    gateReturn w gr code s = illOf w s := by
  rw [gateReturn]
  exact issue_illOf hr hh (by simpa using h)

theorem gateReturns_trap {s : State} (a : Reg) (hr : s.thr.rep = none)
    (h : (s.thr.winMode = true ∨ s.thr.rsv.isSome = true) ∨ s.thr.depth = 0) :
    Traps .gret s { cause := 1, eaddr := BitVec.ofNat 64 wordGret } ∧
      Traps (.gabt a) s { cause := 1, eaddr := BitVec.ofNat 64 (wordGabt a) } := by
  refine ⟨fun hh => ?_, fun hh => ?_⟩
  · change execGret s = _
    rw [execGret]
    exact gateReturn_illOf hr hh h
  · change execGabt a s = _
    rw [execGabt]
    exact gateReturn_illOf hr hh h

theorem floatUse_ill (w : Nat) (vr vw : List Reg) (m : BitVec 2) (rm : Bool) : (floatUse w vr vw m 3 rm).ill = true := rfl

/-- With nothing pending every general register is known. -/
theorem State.known_idle {s : State} (h : s.thr.pending = []) (l : List Reg) : s.known l = true := by
  rw [State.known, h]; rfl

theorem passes_four {r : Reg} (h : 12 < r.toNat) : passes r 4 = true := by
  rw [passes, decide_eq_true_eq]; omega

/-- A REPT whose body is in the fetch buffer or the cache: g0 for the count, or a word that no body may hold (R240, R241). -/
theorem execRept_illOf {s : State} {n : BitVec 3} {c st mk : Reg} {ws : List (BitVec 32)} (hr : s.thr.rep = none)
    (hh : s.Unheld) (hf : fetchBody false s.cur (s.thr.pc + 4) (n.toNat + 1) s = .ok (ws, s))
    (h : (c == 0 || badBody ws) = true) : execRept n c st mk s = illOf (wordRept n c st mk) s := by
  simp only [execRept, hr, hf]
  exact issue_illOf hr hh h

/-- Settles O49: each limit is the `ill` of the instruction, which the issue stage tests first. -/
theorem operandLimits : Obligations.OperandLimits := by
  intro s d a b c l st mk m q k o sc n tl hr
  refine ⟨fun h => ?_, fun h => ?_, fun h hh => ?_, fun h hh => ?_, fun h hh => ?_, fun h hh => ?_, fun ws hf => ?_,
    fun h => ?_, fun h hh => ?_, fun hh => ?_, fun hh => ?_, fun hh => ?_, fun hh => ?_, fun hh => ?_, fun h hh => ?_,
    fun h hh => ?_, fun h => ?_, fun h => ?_, fun h hh => ?_, fun hp => ⟨fun h hh => ?_, fun h hh => ?_⟩⟩
  · refine ⟨fun hh => copy_illOf hr hh h, fun hh => copy_illOf hr hh h, fun hh => copy_illOf hr hh h,
      fun hh => copy_illOf hr hh h, fun hh => copy_illOf hr hh h, fun hh => ?_⟩
    change execNpost d a s = _
    exact issue_illOf hr hh (by simpa using h)
  · refine ⟨fun hh => ?_, fun hh => ?_⟩
    · change execAcrd d tl b s = _
      exact issue_illOf hr hh (by simp [h])
    · change execQrecv d a b s = _
      exact issue_illOf hr hh (passes_four h)
  · change execAcwr tl a b s = _
    exact issue_illOf hr hh (by simp [h])
  · change execQsend d a b s = _
    rw [execQsend, send]
    exact issue_illOf hr hh (passes_four h)
  · change execRsvt d b o l s = _
    exact issue_illOf hr hh (by simp [h, passes])
  · change execDirq d a s = _
    exact issue_illOf hr hh (by simpa using h)
  · exact ⟨fun hh => execRept_illOf hr hh hf rfl, fun hb hh => execRept_illOf hr hh hf (by simp [hb])⟩
  · refine ⟨fun hh => ?_, fun hh => ?_⟩
    · change execIcinv a b sc s = _
      exact issue_illOf hr hh (by simpa using h)
    · change execFence true k sc s = _
      exact issue_illOf hr hh (by simpa using h.symm)
  · change execFence false k sc s = _
    exact issue_illOf hr hh (by simp [h])
  · change floatBinary _ d a b m 3 _ s = _
    exact issue_illOf hr hh (floatUse_ill ..)
  · change fused _ d a b c m 3 _ _ s = _
    exact issue_illOf hr hh (floatUse_ill ..)
  · change execVrcp d a l m 3 s = _
    rw [execVrcp, special1, special]
    exact issue_illOf hr hh rfl
  · change execVfradd d a m 3 s = _
    exact issue_illOf hr hh (floatUse_ill ..)
  · change execAcst tl a b 3 s = _
    exact issue_illOf hr hh (by simp)
  · change execVscale d a b c m s = _
    exact issue_illOf hr hh (by simp [h])
  · change execVcvtf d a b c m q s = _
    rw [execVcvtf, convert]
    refine issue_illOf hr hh ?_
    have hi : (isFloat b && isFloat c) = false ∨ widthRatio b c ≤ q.toNat := by
      rcases h with h | h | h
      · exact .inl (by rw [h, Bool.false_and])
      · exact .inl (by rw [h, Bool.and_false])
      · exact .inr h
    rcases hi with hi | hi <;> simp [hi]
  · refine ⟨fun hh => ?_, gateReturns_trap a hr (.inl h)⟩
    change execGcall a b c s = _
    exact issue_illOf hr hh (by simpa using h)
  · exact gateReturns_trap a hr (.inr h)
  · change execExit s = _
    exact issue_illOf hr hh (by simpa using h)
  · change execRqpush d a s = _
    exact issue_illOf hr hh (by simp [State.known_idle hp, h])
  · change execRqpop d a s = _
    exact issue_illOf hr hh (by simp [State.known_idle hp, h])
end Sys2Proof.Machine
end

section
namespace Sys2Proof.Machine

/-! ## O56: steps -/

/-! ### The word of a block -/

/-- The canonical addresses of a block of 64 bytes follow each other from a multiple of 64 on (R153, R154). -/
theorem State.key_block (s : State) (a : Nat) :
    s.key a = s.key (64 * (a / 64)) + a % 64 ∧ s.key (64 * (a / 64)) % 64 = 0 := by
  by_cases ha : a < 0x100000000000
  · rw [State.key, State.key, if_pos ha, if_pos (by omega)]
    omega
  · have hpart : (64 * (a / 64) - 0x100000000000) / 0x8000000000 = (a - 0x100000000000) / 0x8000000000 := by omega
    have hline : (64 * (a / 64) - 0x100000000000) % 0x8000000000 / 128 = (a - 0x100000000000) % 0x8000000000 / 128 := by
      omega
    have hlow : (64 * (a / 64) - 0x100000000000) % 0x8000000000 % 128 + a % 64 =
        (a - 0x100000000000) % 0x8000000000 % 128 := by
      omega
    have hzero : (64 * (a / 64) - 0x100000000000) % 0x8000000000 % 128 % 64 = 0 := by omega
    rw [State.key, State.key, if_neg ha, if_neg (by omega)]
    simp only [hpart, hline]
    omega

/-- A word of a block where the LLC does not hold its line: the four bytes of memory at its address. -/
theorem blockWords_memory {s : State} {a : Nat} (ha : a % 4 = 0) (h : s.coh.llc (s.key a / 128 * 128) = none) :
    (blockWords s (a / 64)).getD (a % 64 / 4) 0 = BitVec.ofNat 32 (s.readNat a 4) := by
  obtain ⟨hk, h0⟩ := s.key_block a
  have hline : s.key (64 * (a / 64)) / 128 * 128 = s.key a / 128 * 128 := by omega
  have ha' : 64 * (a / 64) + 4 * (a % 64 / 4) = a := by omega
  have hi : a % 64 / 4 < 16 := by omega
  simp [blockWords, hline, h, List.getD_eq_getElem?_getD, hi, ha']

/-- The same where the LLC holds it: the four bytes of the line. -/
theorem blockWords_line {s : State} {a : Nat} {l : LineData} (ha : a % 4 = 0)
    (h : s.coh.llc (s.key a / 128 * 128) = some l) :
    (blockWords s (a / 64)).getD (a % 64 / 4) 0 = BitVec.ofNat 32 (ofBytes ((l.bytes.drop (s.key a % 128)).take 4)) := by
  obtain ⟨hk, h0⟩ := s.key_block a
  have hline : s.key (64 * (a / 64)) / 128 * 128 = s.key a / 128 * 128 := by omega
  have ha' : s.key (64 * (a / 64)) % 128 + 4 * (a % 64 / 4) = s.key a % 128 := by omega
  have hi : a % 64 / 4 < 16 := by omega
  simp [blockWords, hline, h, List.getD_eq_getElem?_getD, hi, ha']

/-! ### The fetch of a word -/

section
variable {s u t : State} {k : Nat} {miss : Bool} {pc : Word} {q : Piece} {ws : List (BitVec 32)}

/-- A fetch of an aligned word is that of its block (R88). -/
theorem fetchAt_of_block (hpc : pc.toNat % 4 = 0) (ha : access s (ctxOf s k) pc.toNat 4 .fetch = .ok (u, [q]))
    (hq : q.pa % 4 = 0) (hb : fetchBlock k (q.pa / 64) miss u = some (ws, t)) :
    fetchAt miss k pc s = .ok (ws.getD (q.pa % 64 / 4) 0, t) := by
  simp [fetchAt, hpc, ha, hq, bind, Except.bind, hb]

theorem fetchAt_of_miss (hpc : pc.toNat % 4 = 0) (ha : access s (ctxOf s k) pc.toNat 4 .fetch = .ok (u, [q]))
    (hq : q.pa % 4 = 0) (hb : fetchBlock k (q.pa / 64) miss u = none) :
    fetchAt miss k pc s = .error (.wait (.fetch pc)) := by
  simp [fetchAt, hpc, ha, hq, bind, Except.bind, hb]

end

theorem fetchBlock_buffered {u : State} {k block : Nat} {miss : Bool} {ws : List (BitVec 32)}
    (h : (u.thread k).fetchBuf = some (block, ws)) : fetchBlock k block miss u = some (ws, u) := by
  simp [fetchBlock, h]

section
variable {u : State} {k block : Nat} (hb : ∀ ws, (u.thread k).fetchBuf ≠ some (block, ws))
include hb

/-- A block that is not in the fetch buffer of slot k comes from the cache of its core, or from memory where a miss is
served; the buffer is filled (R88). -/
theorem fetchBlock_unbuffered (miss : Bool) :
    fetchBlock k block miss u = if miss || (cachedBlock u (coreOf k) block).isSome then
      some ((cacheBlock (coreOf k) block u).1, (cacheBlock (coreOf k) block u).2.mapThread k
        (fun t => { t with fetchBuf := some (block, (cacheBlock (coreOf k) block u).1) }))
    else none := by
  unfold fetchBlock
  split
  next b ws hbuf =>
    have hne : ¬(b == block) = true := fun he => hb ws (by rw [hbuf, eq_of_beq he])
    rw [if_neg hne]
  next => rfl

theorem fetchBlock_cached {ws : List (BitVec 32)} (hc : cachedBlock u (coreOf k) block = some ws) (miss : Bool) :
    ∃ t, fetchBlock k block miss u = some (ws, t) := by
  have hws : (cacheBlock (coreOf k) block u).1 = ws := by simp only [cacheBlock, hc]
  rw [fetchBlock_unbuffered hb, hc, Option.isSome_some, Bool.or_true, if_pos rfl, hws]
  exact ⟨_, rfl⟩

theorem fetchBlock_missed (hc : cachedBlock u (coreOf k) block = none) : fetchBlock k block false u = none := by
  rw [fetchBlock_unbuffered hb, hc]; rfl

/-- A miss that is served changes the cache of the core and the fetch buffer of the slot, no byte and no register. -/
theorem fetchBlock_served (hc : cachedBlock u (coreOf k) block = none) :
    ∃ t, fetchBlock k block true u = some (blockWords u block, t) ∧ SameMemory u t ∧
      t.thread k = { u.thread k with fetchBuf := some (block, blockWords u block) } := by
  have hblock : cacheBlock (coreOf k) block u = (blockWords u block, u.setCore (coreOf k)
      ((u.core (coreOf k)).insertBlock (coreOf k)
        { block := block, part := u.partOf (coreOf k / 16), words := blockWords u block })) := by
    simp only [cacheBlock, hc]
  rw [fetchBlock_unbuffered hb, Bool.true_or, if_pos rfl, hblock]
  exact ⟨_, rfl, ⟨fun _ => rfl, fun _ => rfl⟩, State.thread_setThread ..⟩

end

theorem cachedBlock_none {u : State} {n block : Nat}
    (h : ∀ x ∈ (u.core n).icache, x.block = block → x.part ≠ u.partOf (n / 16)) : cachedBlock u n block = none := by
  rw [cachedBlock, List.find?_eq_none.2 (fun x hx => by simpa using h x hx), Option.map_none]

/-! ### Turns -/

theorem step_agenda {s : State} {t : Turn} {r : List Turn} (h : s.agenda = t :: r) :
    step s = runTurn t { s with agenda := r } := by
  rw [step, h]

/-- The turn of an event (R440, R444). -/
theorem runTurn_event (i : Instr) (s : State) : runTurn (.event i) s =
    if i.isEvent = true ∧ i.wellFormed = true then
      if s.stopped = true ∧ whileStopped i = false then .next s else exec i s
    else .refused .illFormedTurn := by
  rw [runTurn]
  by_cases hi : i.isEvent = true ∧ i.wellFormed = true
  · rw [if_neg (by simp [hi]), if_pos hi]
    by_cases hs : s.stopped = true ∧ whileStopped i = false
    · rw [if_pos (by simp [hs]), if_pos hs]
    · rw [if_neg (by simpa using hs), if_neg hs]
  · rw [if_pos (by simpa [imp_iff_not_or] using hi), if_neg hi]

/-- The turn of a slot with no unwinding due, no event to take and nothing restored: its next stream issues. -/
theorem slotTurn_stream {k : Nat} {s b : State} {body : Bool} (hb : noteIssue k { s with cur := k } = b)
    (hu : (b.thread k).unwindDue = false) (he : nextEvent (b.thread k) = none) (hr : (b.thread k).resumes = false)
    (hn : nextStream b k = some body) : slotTurn k s = resumeStream k body b := by
  simp [slotTurn, hb, hu, he, hr, hn]

/-- A stream that waits for no page request issues at once. -/
theorem resumeStream_issue {k : Nat} {body : Bool} {s : State}
    (h : ∀ n va, (s.thread k).waitOf body ≠ some (.page n va)) :
    resumeStream k body s = issueStream k body s := by
  unfold resumeStream
  split
  next n va hw => exact absurd hw (h n va)
  next => rfl

/-- A slot's thread as its fetched word begins: no longer at a vector's first instruction, and past its YIELD (R328, R337). -/
def Thread.fetched (t : Thread) : Thread :=
  { t with atVector := false, wait := match t.wait with | some (.yield _) => none | x => x }

theorem issueStream_main {k : Nat} {s u : State} {w : BitVec 32} (h : fetchAt false k (s.thread k).pc s = .ok (w, u)) :
    issueStream k false s = exec (decode w) (u.mapThread k Thread.fetched) := by
  unfold issueStream issueMain
  simp only [h]
  rfl

theorem issueStream_body {k : Nat} {s : State} {x : Rep} (h : (s.thread k).rep = some x) :
    issueStream k true s = exec (decode (stagger (x.words.getD x.j 0) x.smask x.off))
      (s.setThread k { s.thread k with rep := some { x with issuing := true } }) := by
  simp only [issueStream, h]
  rfl

/-- Settles O56: the turn of a core leads to `exec` of the decoded word, and a fetch to the four bytes at its address. -/
theorem stepRunsDecoded : Obligations.StepRunsDecoded := by
  refine ⟨fun s n k r hs hc => ?_, fun s u k pc q hpc ha hq => ⟨fun ws hb => ?_, fun hb =>
    ⟨fun ws hw => ?_, fun hx => ?_⟩⟩, fun s i r hs => ?_, fun s n r hs hc => ?_, fun s hs ht => ?_⟩
  · intro b hu he hr
    have hb : noteIssue k { ({ s with agenda := r } : State) with cur := k } = b := rfl
    clear_value b
    have hstep {body : Bool} (hn : nextStream b k = some body) : step s = resumeStream k body b := by
      rw [step_agenda hs, runTurn, coreTurn, hc]
      exact slotTurn_stream hb hu he hr hn
    refine ⟨fun w u hn hw hf => ?_, fun x hn hx hw => ?_⟩
    · rw [hstep hn, resumeStream_issue (body := false) hw]
      exact issueStream_main hf
    · have hwait : ∀ n va, (b.thread k).waitOf true ≠ some (.page n va) := by simpa [Thread.waitOf, hx] using hw
      rw [hstep hn, resumeStream_issue hwait, issueStream_body hx]
  · exact fetchAt_of_block hpc ha hq (fetchBlock_buffered hb)
  · obtain ⟨t, ht⟩ := fetchBlock_cached hb hw false
    exact ⟨t, fetchAt_of_block hpc ha hq ht⟩
  · have hnone := cachedBlock_none hx
    obtain ⟨t, ht, hmem, hthr⟩ := fetchBlock_served hb hnone
    refine ⟨fetchAt_of_miss hpc ha hq (fetchBlock_missed hb hnone), t, fetchAt_of_block hpc ha hq ht, blockWords_memory hq,
      fun l => blockWords_line hq, hmem, ?_⟩
    rw [hthr]
    exact ⟨rfl, rfl, rfl, rfl⟩
  · rw [step_agenda hs, runTurn_event]
  · rw [step_agenda hs, runTurn, coreTurn, hc]
  · rw [step, hs, ht]
    rfl

end Sys2Proof.Machine
end

section
namespace Sys2Proof.Machine

/-! ## O1: the instructions of major 0x01

R74-R76 say what an instruction does on N-bit operands; the model computes with 64-bit words. Each operation commutes with
taking the N low bits, N at most 64: one lemma per operation. -/

/-! ### Operands of N bits (R74) -/

theorem width_le (w : Bool) : width w ≤ 64 := by cases w <;> decide

theorem wres_eq (w : Bool) (x : Word) : wres w x = (x.setWidth (width w)).signExtend 64 := by
  cases w
  · simp [wres, width]
  · rfl

theorem natOp_eq (w : Bool) (x : Word) : natOp w x = (x.setWidth (width w)).setWidth 64 := by
  cases w
  · simp [natOp, width]
  · rfl

theorem intOp_eq (w : Bool) (x : Word) : intOp w x = (x.setWidth (width w)).signExtend 64 := wres_eq w x

theorem setWidth_natOp (w : Bool) (x : Word) : (natOp w x).setWidth (width w) = x.setWidth (width w) := by
  rw [natOp_eq, BitVec.setWidth_setWidth_of_le _ (width_le w), BitVec.setWidth_eq]

theorem toNat_natOp (w : Bool) (x : Word) : (natOp w x).toNat = (x.setWidth (width w)).toNat := by
  rw [natOp_eq, BitVec.toNat_setWidth_of_le (width_le w)]

theorem toInt_intOp (w : Bool) (x : Word) : (intOp w x).toInt = (x.setWidth (width w)).toInt := by
  rw [intOp_eq, BitVec.toInt_signExtend_of_le (width_le w)]

theorem natOp_inj {w : Bool} {x y : Word} : natOp w x = natOp w y ↔ x.setWidth (width w) = y.setWidth (width w) := by
  rw [← BitVec.toNat_inj, toNat_natOp, toNat_natOp, BitVec.toNat_inj]

theorem natOp_lt {w : Bool} {x y : Word} :
    natOp w x < natOp w y ↔ (x.setWidth (width w)).toNat < (y.setWidth (width w)).toNat := by
  rw [BitVec.lt_def, toNat_natOp, toNat_natOp]

theorem intOp_slt {w : Bool} {x y : Word} :
    (intOp w x).slt (intOp w y) = true ↔ (x.setWidth (width w)).toInt < (y.setWidth (width w)).toInt := by
  rw [BitVec.slt_iff_toInt_lt, toInt_intOp, toInt_intOp]

theorem natOp_eq_zero {w : Bool} {x : Word} : natOp w x = 0 ↔ x.setWidth (width w) = 0 := by
  rw [← BitVec.toNat_inj, toNat_natOp, ← BitVec.toNat_inj]
  rfl

/-- A shift amount is taken modulo the width, so only the N low bits of the operand count. -/
theorem amount_eq (w : Bool) (x : Word) : amount w x = (x.setWidth (width w)).toNat % width w := by
  have hdvd : width w ∣ 2 ^ width w := by cases w <;> decide
  rw [amount, BitVec.toNat_setWidth, Nat.mod_mod_of_dvd _ hdvd]

theorem fieldPos_eq (w : Bool) (x : Word) : fieldPos w x = (x.setWidth (width w)).toNat % width w := amount_eq w x

theorem fieldLen_eq (w : Bool) (y z : Word) : fieldLen w y z =
    min (min (z.setWidth (width w)).toNat (width w)) (width w - (y.setWidth (width w)).toNat % width w) := by
  rw [fieldLen, toNat_natOp, fieldPos_eq]

theorem fieldLen_le (w : Bool) (y z : Word) : fieldLen w y z ≤ width w := by
  rw [fieldLen]; omega

theorem setWidth_boolWord (w b : Bool) : (boolWord b).setWidth (width w) = if b = true then 1 else 0 := by
  cases w <;> cases b <;> rfl

/-! ### Counts of bits -/

/-- The first k of the numbers below m are those before the first that p refuses. -/
theorem length_takeWhile_range {p : Nat → Bool} {k m : Nat} (hk : k ≤ m) (ht : ∀ i < k, p i = true)
    (hf : k < m → p k = false) : ((List.range m).takeWhile p).length = k := by
  obtain ⟨r, rfl⟩ := Nat.exists_eq_add_of_le hk
  have htake : ∀ i ∈ List.range k, p i = true := fun i hi => ht i (List.mem_range.1 hi)
  rw [List.range_add, List.takeWhile_append_of_pos htake]
  cases r with
  | zero => simp
  | succ r => simp [List.range_succ_eq_map, hf (by omega)]

theorem leadingZeros_eq {n : Nat} (x : BitVec n) :
    leadingZeros n x.toNat = ((List.range n).takeWhile (fun i => !x.getMsbD i)).length := by
  rw [leadingZeros]
  split
  next hx =>
    obtain rfl : x = 0 := BitVec.eq_of_toNat_eq hx
    exact (length_takeWhile_range le_rfl (by simp) (by omega)).symm
  next hx =>
    have hlog : x.toNat.log2 < n := (Nat.log2_lt hx).2 x.isLt
    refine (length_takeWhile_range (by omega) (fun i hi => ?_) fun _ => ?_).symm
    · have : x.toNat < 2 ^ (n - 1 - i) := (Nat.log2_lt hx).1 (by omega)
      simp [BitVec.getMsbD_eq_getLsbD, BitVec.getLsbD, Nat.testBit_lt_two_pow this]
    · have hbit : x.toNat.testBit x.toNat.log2 = true := Nat.testBit_log2 hx
      have : n - 1 - (n - 1 - x.toNat.log2) = x.toNat.log2 := by omega
      simp [BitVec.getMsbD_eq_getLsbD, BitVec.getLsbD, this, hbit]
      omega

theorem getLsbD_setWidth_testBit {n i : Nat} (x : Word) (hi : i < n) : (x.setWidth n).getLsbD i = x.toNat.testBit i := by
  simp [hi, BitVec.getLsbD]

theorem trailingZeros_eq (n : Nat) (x : Word) :
    trailingZeros n x.toNat = ((List.range n).takeWhile (fun i => !(x.setWidth n).getLsbD i)).length := by
  rw [trailingZeros]
  cases hf : (List.range n).find? (fun i => x.toNat.testBit i) with
  | none =>
    have hall := List.find?_range_eq_none.1 hf
    refine (length_takeWhile_range le_rfl (fun i (hi : i < n) => ?_) (by omega)).symm
    rw [getLsbD_setWidth_testBit x hi]
    exact hall i hi
  | some k =>
    obtain ⟨hk, hmem, hbelow⟩ := List.find?_range_eq_some.1 hf
    have hlt : k < n := List.mem_range.1 hmem
    refine (length_takeWhile_range hlt.le (fun i hi => ?_) fun _ => ?_).symm
    · rw [getLsbD_setWidth_testBit x (hi.trans hlt)]
      exact hbelow i hi
    · rw [getLsbD_setWidth_testBit x hlt, hk]
      rfl

theorem popCount_eq (n : Nat) (x : Word) :
    popCount n x.toNat = ((List.range n).filter (fun i => (x.setWidth n).getLsbD i)).length :=
  congrArg List.length (List.filter_congr fun _ hi => (getLsbD_setWidth_testBit x (List.mem_range.1 hi)).symm)

theorem testBit_reverseBits (m x j : Nat) :
    (reverseBits m x).testBit j = (decide (j < m) && x.testBit (m - 1 - j)) := by
  induction m generalizing j with
  | zero => simp [reverseBits]
  | succ m ih =>
    have hstep : reverseBits (m + 1) x = 2 * reverseBits m x + (x.testBit m).toNat := by
      simp [reverseBits, List.range_succ]
    rw [hstep]
    cases j with
    | zero => cases hb : x.testBit m <;> simp [Nat.testBit_zero, hb]
    | succ j =>
      have : (2 * reverseBits m x + (x.testBit m).toNat) / 2 = reverseBits m x := by
        have := Bool.toNat_le (x.testBit m)
        omega
      rw [Nat.testBit_succ, this, ih]
      simp [Nat.sub_sub, Nat.add_comm]

/-- Only the 8 k low bits of a number stand in its k low bytes. -/
theorem toBytes_mod (k x : Nat) : toBytes k (x % 2 ^ (8 * k)) = toBytes k x := by
  induction k generalizing x with
  | zero => rfl
  | succ k ih =>
    have hbyte : BitVec.ofNat 8 (x % 2 ^ (8 * (k + 1))) = BitVec.ofNat 8 x := by
      apply BitVec.eq_of_toNat_eq
      rw [BitVec.toNat_ofNat, BitVec.toNat_ofNat, Nat.mod_mod_of_dvd _ (Nat.pow_dvd_pow 2 (by omega))]
    have hrest : x % 2 ^ (8 * (k + 1)) / 256 = x / 256 % 2 ^ (8 * k) := by
      rw [Nat.mul_succ, Nat.pow_add, Nat.mul_comm]
      exact Nat.mod_mul_right_div_self ..
    rw [toBytes, toBytes, hbyte, hrest, ih]

theorem toBytes_width (w : Bool) (x : Word) :
    toBytes (width w / 8) (x.setWidth (width w)).toNat = toBytes (width w / 8) x.toNat := by
  have hw : 2 ^ width w = 2 ^ (8 * (width w / 8)) := by cases w <;> rfl
  rw [BitVec.toNat_setWidth, hw, toBytes_mod]

/-! ### The N low bits of an operation -/

section
variable {n : Nat} (hn : n ≤ 64)
include hn

theorem setWidth_sub_of_le (x y : Word) : (x - y).setWidth n = x.setWidth n - y.setWidth n := by
  rw [BitVec.sub_eq_add_neg, BitVec.setWidth_add _ _ hn, BitVec.setWidth_neg_of_le hn, ← BitVec.sub_eq_add_neg]

theorem setWidth_ofInt_of_le (i : Int) : (BitVec.ofInt 64 i).setWidth n = BitVec.ofInt n i := by
  have hdvd : ((2 ^ n : Nat) : Int) ∣ ((2 ^ 64 : Nat) : Int) := Int.natCast_dvd_natCast.2 (Nat.pow_dvd_pow 2 hn)
  apply BitVec.eq_of_toInt_eq
  rw [BitVec.toInt_setWidth, BitVec.toNat_ofInt, BitVec.toInt_ofInt, Int.toNat_of_nonneg (Int.emod_nonneg _ (by decide)),
    Int.bmod_def, Int.bmod_def, Int.emod_emod_of_dvd _ hdvd]

theorem setWidth_allOnes_of_le : (BitVec.allOnes 64).setWidth n = BitVec.allOnes n := by
  apply BitVec.eq_of_getLsbD_eq
  intro i hi
  have hi64 : i < 64 := by omega
  rw [BitVec.getLsbD_setWidth, BitVec.getLsbD_allOnes, BitVec.getLsbD_allOnes, decide_eq_true hi, decide_eq_true hi64]
  rfl

theorem setWidth_signExtend_of_le {m : Nat} (x : BitVec m) : (x.signExtend 64).setWidth n = x.signExtend n := by
  ext i hi
  have : i < 64 := by omega
  simp only [BitVec.getElem_setWidth, BitVec.getLsbD_signExtend, BitVec.getElem_signExtend, this, decide_true, Bool.true_and]
  split
  · rw [BitVec.getLsbD_eq_getElem]
  · rfl

theorem setWidth_ushiftRight_of_le (x : BitVec n) (k : Nat) : (x.setWidth 64 >>> k).setWidth n = x >>> k := by
  rw [← BitVec.setWidth_ushiftRight hn, BitVec.setWidth_setWidth_of_le _ hn, BitVec.setWidth_eq]

theorem msb_signExtend_of_le (x : BitVec n) : (x.signExtend 64).msb = x.msb := by
  rw [BitVec.msb_eq_toInt, BitVec.msb_eq_toInt, BitVec.toInt_signExtend_of_le hn]

theorem setWidth_sshiftRight_of_le (x : BitVec n) (k : Nat) :
    ((x.signExtend 64).sshiftRight k).setWidth n = x.sshiftRight k := by
  ext i hi
  have hi64 : i < 64 := by omega
  rw [BitVec.getElem_setWidth, BitVec.getLsbD_sshiftRight, BitVec.getElem_sshiftRight, msb_signExtend_of_le hn,
    BitVec.getLsbD_signExtend]
  by_cases h : k + i < n
  · have hk64 : k + i < 64 := by omega
    simp [h, hk64, hi64, BitVec.getLsbD_eq_getElem]
  · simp only [h, if_false, dif_neg, not_false_eq_true]
    split <;> simp [*]

theorem reverseBits_eq (x : Word) : (BitVec.ofNat 64 (reverseBits n x.toNat)).setWidth n = (x.setWidth n).reverse := by
  rw [BitVec.setWidth_ofNat_of_le hn]
  apply BitVec.eq_of_getLsbD_eq
  intro i hi
  have hmirror : n - 1 - i < n := by omega
  rw [BitVec.getLsbD_ofNat, testBit_reverseBits, BitVec.getLsbD_reverse, BitVec.getMsbD_eq_getLsbD,
    getLsbD_setWidth_testBit x hmirror]
  simp [hi]

/-- A field of a zero-extended operand, of at most its width, is that of the operand. -/
theorem setWidth_ushiftRight_field (x : BitVec n) (k : Nat) {len : Nat} (hlen : len ≤ n) :
    (x.setWidth 64 >>> k).setWidth len = (x >>> k).setWidth len := by
  rw [← setWidth_ushiftRight_of_le hn, BitVec.setWidth_setWidth_of_le _ hlen]

theorem setWidth_sext (x : Word) (len : Nat) : (sext x len).setWidth n = (x.setWidth len).signExtend n :=
  setWidth_signExtend_of_le hn _

theorem setWidth_ones (len : Nat) : (ones len).setWidth n = BitVec.ofNat n (2 ^ len - 1) :=
  BitVec.setWidth_ofNat_of_le hn _

end

theorem setWidth_rotl (w : Bool) (x : Word) (k : Nat) :
    (rotl w x k).setWidth (width w) = (x.setWidth (width w)).rotateLeft k := by
  cases w
  · simp [rotl, width]
  · exact (BitVec.setWidth_setWidth_of_le _ (by decide)).trans (BitVec.setWidth_eq _)

theorem setWidth_rotr (w : Bool) (x : Word) (k : Nat) :
    (rotr w x k).setWidth (width w) = (x.setWidth (width w)).rotateRight k := by
  cases w
  · simp [rotr, width]
  · exact (BitVec.setWidth_setWidth_of_le _ (by decide)).trans (BitVec.setWidth_eq _)

/-! ### The outcome of an instruction by the N low bits of its result -/

section
variable {s : State} {d a b : Reg} {w : Bool} {word : Nat} (h : Clear {} s)
include h

theorem binary_low {f : Word → Word → Word} {r : BitVec (width w)}
    (hr : (f (s.rg a) (s.rg b)).setWidth (width w) = r) :
    binary word d a b w f s = .next (s.setThr (s.thr.wg d (r.signExtend 64)).wentOn) := by
  rw [binary_clear word d a b w f h, wres_eq, hr]

theorem unary_low {f : Word → Word} {r : BitVec (width w)} (hr : (f (s.rg a)).setWidth (width w) = r) :
    unary word d a w f s = .next (s.setThr (s.thr.wg d (r.signExtend 64)).wentOn) := by
  rw [unary_clear word d a w f h, wres_eq, hr]

/-- An instruction of major 0x01 with a form of its own: it writes the result of its body. -/
theorem scalar_low {gr : List Reg} {f : State → Word} {r : BitVec (width w)} (hr : (f s).setWidth (width w) = r) :
    issue { word := word, gr := gr, gw := [d], ahead := true } (fun s => .ok (retire (s.wg d (wres w (f s))))) s =
      .next (s.setThr (s.thr.wg d (r.signExtend 64)).wentOn) := by
  rw [issue_scalar _ h rfl rfl rfl]
  simp only [retire_wg h, wres_eq, hr]

end

/-- Settles O1: each result is the N low bits of the model's, extended by their sign. -/
theorem scalarResults : Obligations.ScalarResults := by
  intro s d a b c w h
  have hn : width w ≤ 64 := width_le w
  dsimp only
  and_intros
  · change execAdd d a b w s = _
    exact binary_low h (BitVec.setWidth_add _ _ hn)
  · change execSub d a b w s = _
    exact binary_low h (setWidth_sub_of_le hn _ _)
  · change execAnd d a b w s = _
    exact binary_low h BitVec.setWidth_and
  · change execOr d a b w s = _
    exact binary_low h BitVec.setWidth_or
  · change execXor d a b w s = _
    exact binary_low h BitVec.setWidth_xor
  · change execAndn d a b w s = _
    exact binary_low h (by rw [BitVec.setWidth_and, BitVec.setWidth_not hn])
  · change execOrn d a b w s = _
    exact binary_low h (by rw [BitVec.setWidth_or, BitVec.setWidth_not hn])
  · change execShl d a b w s = _
    exact binary_low h (by rw [amount_eq, BitVec.setWidth_shiftLeft_of_le hn])
  · change execShr d a b w s = _
    exact binary_low h (by rw [amount_eq, natOp_eq, setWidth_ushiftRight_of_le hn])
  · change execSra d a b w s = _
    exact binary_low h (by rw [amount_eq, intOp_eq, setWidth_sshiftRight_of_le hn])
  · change execRol d a b w s = _
    exact binary_low h (by rw [amount_eq, setWidth_rotl])
  · change execRor d a b w s = _
    exact binary_low h (by rw [amount_eq, setWidth_rotr])
  · change execMin d a b w s = _
    exact binary_low h (by simp only [intOp_slt, apply_ite (BitVec.setWidth (width w))])
  · change execMax d a b w s = _
    exact binary_low h (by simp only [intOp_slt, apply_ite (BitVec.setWidth (width w))])
  · change execMinn d a b w s = _
    exact binary_low h (by simp only [natOp_lt, apply_ite (BitVec.setWidth (width w))])
  · change execMaxn d a b w s = _
    exact binary_low h (by simp only [natOp_lt, apply_ite (BitVec.setWidth (width w))])
  · change execSlt d a b w s = _
    exact binary_low h (by simp only [setWidth_boolWord, intOp_slt])
  · change execSltn d a b w s = _
    exact binary_low h (by simp only [setWidth_boolWord, decide_eq_true_eq, natOp_lt])
  · change execSeq d a b w s = _
    exact binary_low h (by simp only [setWidth_boolWord, beq_iff_eq, natOp_inj])
  · change execSne d a b w s = _
    exact binary_low h (by simp only [setWidth_boolWord, bne_iff_ne, ne_eq, natOp_inj, ite_not])
  · change execMul d a b w s = _
    exact binary_low h (BitVec.setWidth_mul _ _ hn)
  · change execMulh d a b w s = _
    exact binary_low h (by rw [setWidth_ofInt_of_le hn, toInt_intOp, toInt_intOp, Int.natCast_pow]; rfl)
  · change execMulhn d a b w s = _
    exact binary_low h (by rw [BitVec.setWidth_ofNat_of_le hn, toNat_natOp, toNat_natOp])
  · change execClz d a w s = _
    exact unary_low h (by rw [BitVec.setWidth_ofNat_of_le hn, toNat_natOp, leadingZeros_eq])
  · change execCtz d a w s = _
    exact unary_low h (by rw [BitVec.setWidth_ofNat_of_le hn, trailingZeros_eq])
  · change execPopc d a w s = _
    exact unary_low h (by rw [BitVec.setWidth_ofNat_of_le hn, popCount_eq])
  · change execBrev d a w s = _
    exact unary_low h (reverseBits_eq hn _)
  · change execBswap d a w s = _
    exact unary_low h (by rw [BitVec.setWidth_ofNat_of_le hn, ← toBytes_width])
  · change execSel d a b c w s = _
    exact scalar_low h (by simp only [ne_eq, natOp_eq_zero, ite_not, apply_ite (BitVec.setWidth (width w))])
  · change execExtr d a b c w s = _
    exact scalar_low h (by
      rw [BitVec.setWidth_and, setWidth_ones hn, natOp_eq, fieldPos_eq, setWidth_ushiftRight_of_le hn, fieldLen_eq])
  · change execExtrs d a b c w s = _
    exact scalar_low h (by
      rw [setWidth_sext hn, natOp_eq, fieldPos_eq, setWidth_ushiftRight_field hn _ _ (fieldLen_le ..), fieldLen_eq])
  · change execInsb d a b c w s = _
    exact scalar_low h (by
      rw [BitVec.setWidth_or, BitVec.setWidth_and, BitVec.setWidth_not hn, BitVec.setWidth_shiftLeft_of_le hn,
        BitVec.setWidth_shiftLeft_of_le hn, BitVec.setWidth_and, setWidth_ones hn, setWidth_natOp, setWidth_natOp,
        fieldPos_eq, fieldLen_eq])

end Sys2Proof.Machine
end

section
namespace Sys2Proof.Machine

/-! ## O2: divides -/

section
variable {s : State} {d a b : Reg} {l : BitVec 4} {w : Bool} {word : Nat}

theorem setWidth_divSigned (rem : Bool) (x y : Word) : (divSigned rem w x y).setWidth (width w) =
    if y.setWidth (width w) = 0 then (if rem then x.setWidth (width w) else BitVec.allOnes (width w))
    else BitVec.ofInt (width w) (if rem then (x.setWidth (width w)).toInt.tmod (y.setWidth (width w)).toInt
      else (x.setWidth (width w)).toInt.tdiv (y.setWidth (width w)).toInt) := by
  have hn := width_le w
  have hzero : (y.setWidth (width w)).toInt = 0 ↔ y.setWidth (width w) = 0 := by
    rw [← BitVec.toInt_inj]; simp
  have hx : (intOp w x).setWidth (width w) = x.setWidth (width w) := by
    rw [intOp_eq, setWidth_signExtend_of_le hn, BitVec.signExtend_eq]
  simp only [divSigned, apply_ite (BitVec.setWidth (width w)), setWidth_ofInt_of_le hn,
    setWidth_allOnes_of_le hn, hx, toInt_intOp, hzero]

theorem setWidth_divNatural (rem : Bool) (x y : Word) : (divNatural rem w x y).setWidth (width w) =
    if y.setWidth (width w) = 0 then (if rem then x.setWidth (width w) else BitVec.allOnes (width w))
    else BitVec.ofNat (width w) (if rem then (x.setWidth (width w)).toNat % (y.setWidth (width w)).toNat
      else (x.setWidth (width w)).toNat / (y.setWidth (width w)).toNat) := by
  have hn := width_le w
  have hzero : (y.setWidth (width w)).toNat = 0 ↔ y.setWidth (width w) = 0 := by
    rw [← BitVec.toNat_inj]; rfl
  simp only [divNatural, apply_ite (BitVec.setWidth (width w)), BitVec.setWidth_ofNat_of_le hn,
    setWidth_allOnes_of_le hn, setWidth_natOp, toNat_natOp, hzero]

theorem divide_low {f : Word → Word → Word} {r : BitVec (width w)} (h : Clear {} s)
    (hd : (s.core (coreOf s.cur)).divides.length < 8) (hr : (f (s.rg a) (s.rg b)).setWidth (width w) = r) :
    divide word d a b l w f s = .next ((addDivide s).setThr
      (s.thr.owes (.gen d) ((r.signExtend 64).setWidth 128) l.toNat true)) := by
  rw [divide_clear word d a b l w f h hd, wres_eq, hr]

end

/-- A slot whose only pending result is a divide: its completion writes the register. -/
theorem Thread.completeDivide_single {t : Thread} {p : Pending} {d : Reg} (hp : t.pending = [p]) (hd : p.divide = true)
    (hr : p.dest = .gen d) : t.completeDivide = { t.wg d (p.value.setWidth 64) with pending := [] } := by
  simp [Thread.completeDivide, Thread.commit, hp, hd, hr]

/-- The oldest divide of a core leaves the queue, and its slot's thread has it completed (R78). -/
theorem divideComplete_cons {s : State} {n j : Nat} {rest : List Nat} (h : (s.core n).divides = j :: rest) :
    divideComplete n s = (s.setCore n { s.core n with divides := rest }).mapThread (8 * n + j) Thread.completeDivide := by
  rw [divideComplete, h]

/-- Settles O2: a divide joins its core's queue with its result owed, and the head of the queue writes it. -/
theorem divideResults : Obligations.DivideResults := by
  refine ⟨fun s d a b l w h hq => ?_, fun s n j rest p d hq hp hd hr => ?_⟩
  · dsimp only
    and_intros
    · change execDiv d a b l w s = _
      exact divide_low h hq (setWidth_divSigned false _ _)
    · change execDivn d a b l w s = _
      exact divide_low h hq (setWidth_divNatural false _ _)
    · change execRem d a b l w s = _
      exact divide_low h hq (setWidth_divSigned true _ _)
    · change execRemn d a b l w s = _
      exact divide_low h hq (setWidth_divNatural true _ _)
  · refine ⟨_, congrArg Host.Outcome.next (divideComplete_cons hq), ?_, ?_, fun _ => rfl, fun _ => rfl⟩
    · rw [State.mapThread, State.core_setThread, State.core_setCore]
    · rw [State.mapThread, State.thread_setThread, State.thread_setCore]
      exact Thread.completeDivide_single hp hd hr

end Sys2Proof.Machine
end

section
namespace Sys2Proof.Machine

/-! ## O3: immediate forms -/

/-- An instruction that accepts HIMM writes the result of its body. -/
theorem immediateForm_clear {s : State} {word : Nat} {gr : List Reg} {d : Reg} (f : State → Word)
    (h : Clear { himm := true } s) :
    issue { word := word, gr := gr, gw := [d], ahead := true, accept := { himm := true } }
      (fun s => .ok (retire (s.wg d (f s)))) s = .next (s.setThr (s.thr.wg d (f s)).wentOn) := by
  rw [issue_scalar _ h rfl rfl rfl]
  simp only [retire_wg h]

theorem boolWord_eq_ite (p : Prop) [Decidable p] {b : Bool} (h : b = true ↔ p) : boolWord b = if p then 1 else 0 := by
  simp only [boolWord, h]

/-- Settles O3: the immediate is the one that the hint group widens. -/
theorem immediateResults : Obligations.ImmediateResults := by
  intro s d a i k
  refine ⟨fun h => ?_, fun h => ?_⟩
  · have himm : s.grp.imm i = s.thr.hints.imm i := congrArg (·.imm i) h.grp
    dsimp only
    and_intros
    · exact immediate_clear _ d a i (fun x y => x + y) h
    · exact immediate_clear _ d a i (fun x y => x &&& y) h
    · exact immediate_clear _ d a i (fun x y => x ||| y) h
    · exact immediate_clear _ d a i (fun x y => x ^^^ y) h
    · rw [← boolWord_eq_ite _ BitVec.slt_iff_toInt_lt]
      exact immediate_clear _ d a i (fun x y => boolWord (x.slt y)) h
    · rw [← boolWord_eq_ite _ decide_eq_true_iff]
      exact immediate_clear _ d a i (fun x y => boolWord (decide (x < y))) h
    · change execLi d i s = _
      rw [execLi, immediateForm_clear _ h, himm]
      rfl
    · change execLpc d i s = _
      rw [execLpc, immediateForm_clear _ h, himm, h.ipc]
      rfl
    · exact immediate_clear _ d a i (fun x y => x * y) h
  · refine ⟨?_, ?_, ?_, ?_⟩
    · exact shiftImm_clear _ d a (fun x => x <<< k.toNat) h
    · exact shiftImm_clear _ d a (fun x => x >>> k.toNat) h
    · exact shiftImm_clear _ d a (fun x => x.sshiftRight k.toNat) h
    · exact shiftImm_clear _ d a (fun x => x.rotateLeft k.toNat) h

end Sys2Proof.Machine
end

section
namespace Sys2Proof.Machine

/-! ## O4: branches and jumps -/

/-- Where LIKELY has no effect no fetch is started (R86). -/
theorem likelyFetch_none {s : State} {acc : Accept} (h : Clear acc s) (hl : field s.thr.hints.hmod 8 7 = 0) (i : Word) :
    likelyFetch i s = s := by
  have hm : s.hmod = s.thr.hints.hmod := congrArg Hints.hmod h.grp
  rw [likelyFetch, hm, hl]
  rfl

theorem likelyFetch_cachedIn (i : Word) (s : State) : CachedIn (coreOf s.cur) s (likelyFetch i s) := by
  rcases likelyFetch_frame i s with h | ⟨c, h, hc⟩
  · exact .inl h
  · refine .inr ?_
    rw [h, State.core_setCore]
    exact congrArg _ hc

/-- The outcome of a branch with the condition p: to dst where p holds and to the next word otherwise; LIKELY alone may have
changed the cache of the core before (R81, R82, R86). -/
def BranchesTo (n : Instr) (s : State) (p : Prop) (dst : Word) : Prop :=
  ∃ t, CachedIn (coreOf s.cur) s t ∧ (field s.thr.hints.hmod 8 7 = 0 → t = s) ∧
    (p → exec n s = .next (t.setThr (s.thr.wentTo dst))) ∧ (¬p → exec n s = .next (t.setThr s.thr.wentOn))

section
variable {s : State} {n : Instr} {p : Prop} {a b : Reg} {word : Nat} (h : Clear { likely := true } s)
include h

theorem branchesTo_of_test {test : Bool} {dst : Word} (hp : test = true ↔ p)
    (he : exec n s = .next ((likelyFetch dst s).setThr (s.thr.wentTo (if test then dst else s.thr.pc + 4)))) :
    BranchesTo n s p dst := by
  refine ⟨likelyFetch dst s, likelyFetch_cachedIn dst s, fun hl => likelyFetch_none h hl dst, fun hc => ?_, fun hc => ?_⟩
  · rw [he, if_pos (hp.2 hc)]
  · rw [he, if_neg (fun ht => hc (hp.1 ht))]
    rfl

theorem compareBranch_branchesTo {i : BitVec 14} (c : Word → Word → Bool) (he : exec n = compareBranch word a b i c)
    (hp : c (s.rg a) (s.rg b) = true ↔ p) : BranchesTo n s p (target s.thr.pc i) :=
  branchesTo_of_test h hp ((congrFun he s).trans (compareBranch_clear word a b i c h))

theorem zeroBranch_branchesTo {i : BitVec 18} (c : Int → Bool) (he : exec n = zeroBranch word a i c)
    (hp : c (s.rg a).toInt = true ↔ p) : BranchesTo n s p (target s.thr.pc i) :=
  branchesTo_of_test h hp ((congrFun he s).trans (zeroBranch_clear word a i c h))

end

/-- A jump to g[a]: ALIGN where the target is not 4-aligned, and nothing else then; the effect f otherwise (R84). -/
def jumpRegister (word : Nat) (gr gw : List Reg) (a : Reg) (f : State → State) : State → Out :=
  issue { word := word, gr := gr, gw := gw, ahead := true }
    (fun s => if (s.rg a).toNat % 4 ≠ 0 then .error (.trap { cause := 3, eaddr := s.rg a }) else .ok (f s))

section
variable {s : State} {n : Instr} {word : Nat} {gr gw : List Reg} {a : Reg} {f : State → State} {t : Thread}
  (h : Clear {} s)
include h

theorem jump_gives (he : exec n = issue { word := word, gr := gr, gw := gw, ahead := true } (fun s => .ok (f s)))
    (hf : f s = s.setThr t) : Gives n s t := by
  rw [Gives, he, issue_scalar _ h rfl rfl rfl]
  simp only [hf]

theorem jumpRegister_gives (he : exec n = jumpRegister word gr gw a f) (ha : (s.rg a).toNat % 4 = 0)
    (hf : f s = s.setThr t) : Gives n s t := by
  rw [Gives, he, jumpRegister, issue_scalar _ h rfl rfl rfl]
  simp only [ha, ne_eq, not_true_eq_false, if_false, hf]

theorem jumpRegister_traps (he : exec n = jumpRegister word gr gw a f) (ha : (s.rg a).toNat % 4 ≠ 0) :
    Traps n s { cause := 3, eaddr := s.rg a } := by
  intro hu
  rw [he, jumpRegister, issue_scalar _ h rfl rfl rfl]
  simp only [if_pos ha, stopAt_trap _ h.main hu]

/-- A jump with its link (R83, R84). -/
theorem retireTo_wg (d : Reg) (x pc : Word) : retireTo pc (s.wg d x) = s.setThr ((s.thr.wg d x).wentTo pc) := by
  rw [State.wg_eq, retireTo_setThr, Thread.retireTo_main] <;> simp [h.main, h.idle]

end

theorem exec_jr (a : Reg) : exec (.jr a) = jumpRegister (wordJr a) [a] [] a (fun s => retireTo (s.rg a) s) := rfl

theorem exec_jlr (d a : Reg) : exec (.jlr d a) =
    jumpRegister (wordJlr d a) [a] [d] a (fun s => retireTo (s.rg a) (s.wg d (s.thr.pc + 4))) := rfl

/-- Settles O4: a branch goes by its test, a jump to its target. -/
theorem controlFlowResults : Obligations.ControlFlowResults := by
  refine ⟨fun s a b i j h => ?_, fun s d a i h => ?_⟩
  · dsimp only
    and_intros
    · exact compareBranch_branchesTo h (fun x y => x == y) rfl beq_iff_eq
    · exact compareBranch_branchesTo h (fun x y => x != y) rfl bne_iff_ne
    · exact compareBranch_branchesTo h (fun x y => x.slt y) rfl BitVec.slt_iff_toInt_lt
    · exact compareBranch_branchesTo h (fun x y => !x.slt y) rfl
        (by rw [Bool.not_eq_true', ← Bool.not_eq_true, BitVec.slt_iff_toInt_lt, not_lt])
    · exact compareBranch_branchesTo h (fun x y => decide (x < y)) rfl decide_eq_true_iff
    · exact compareBranch_branchesTo h (fun x y => !decide (x < y)) rfl (by simp [BitVec.lt_def])
    · exact zeroBranch_branchesTo h (fun x => x == 0) rfl beq_iff_eq
    · exact zeroBranch_branchesTo h (fun x => x != 0) rfl bne_iff_ne
    · exact zeroBranch_branchesTo h (fun x => decide (x < 0)) rfl decide_eq_true_iff
    · exact zeroBranch_branchesTo h (fun x => decide (0 ≤ x)) rfl decide_eq_true_iff
    · exact zeroBranch_branchesTo h (fun x => decide (0 < x)) rfl decide_eq_true_iff
    · exact zeroBranch_branchesTo h (fun x => decide (x ≤ 0)) rfl decide_eq_true_iff
  · refine ⟨?_, ?_, fun ha => ⟨?_, ?_⟩, fun ha => ⟨?_, ?_⟩⟩
    · exact jump_gives h (f := fun s => retireTo (target s.thr.pc i) s) rfl (retireTo_main h _)
    · exact jump_gives h (f := fun s => retireTo (target s.thr.pc i) (s.wg 15 (s.thr.pc + 4))) rfl (retireTo_wg h 15 _ _)
    · exact jumpRegister_gives h (exec_jr a) ha (retireTo_main h _)
    · exact jumpRegister_gives h (exec_jlr d a) ha (retireTo_wg h d _ _)
    · exact jumpRegister_traps h (exec_jr a) ha
    · exact jumpRegister_traps h (exec_jlr d a) ha

end Sys2Proof.Machine
end

section
namespace Sys2Proof.Machine

/-! ## O25: FENCE and ICINV -/

/-! ### ICINV (R90-R92) -/

/-- What a map answers once every listed entry is changed, by a change that keeps the default. -/
theorem SMap.get_mapVals {α : Type} {d : α} {f : Nat → α → α} {k : Nat} (hd : f k d = d) (m : SMap α) :
    (m.mapVals f).get d k = f k (m.get d k) := by
  induction m with
  | nil => exact hd.symm
  | cons e r ih =>
    obtain ⟨j, v⟩ := e
    change (if j = k then f j v else SMap.get d (SMap.mapVals r f) k) = f k (if j = k then v else SMap.get d r k)
    split
    next hj => rw [hj]
    next => exact ih

section
variable {p scope n : Nat} {q : Nat → Bool} {s : State}

/-- The loss of blocks leaves a thread all but its fetch buffer. -/
theorem dropBlocks_thread (k : Nat) :
    ∃ b, (dropBlocks p scope n q s).thread k = { s.thread k with fetchBuf := b } := by
  rw [State.thread, dropBlocks, SMap.get_mapVals (by split <;> rfl)]
  split
  · split
    · split
      · exact ⟨none, rfl⟩
      · exact ⟨_, rfl⟩
    · exact ⟨_, rfl⟩
  · exact ⟨_, rfl⟩

theorem dropBlocks_icache {m : Nat} {x : IBlock} (hx : x ∈ ((dropBlocks p scope n q s).core m).icache) :
    x ∈ (s.core m).icache := by
  rw [State.core, dropBlocks, SMap.get_mapVals (by split <;> rfl)] at hx
  split at hx
  · exact List.mem_of_mem_filter hx
  · exact hx

end

/-- Outside a repetition a wait is the slot's (R70). -/
theorem Thread.park_main {t : Thread} (w : Wait) (h : t.rep = none) : t.park w = { t with wait := some w } := by
  rw [Thread.park, h]

theorem icinv_legal {sc : BitVec 3} (hsc : sc ≠ 0) (hlt : sc.toNat < 6) :
    (sc == 0 || decide (6 ≤ sc.toNat)) = false := by
  rw [beq_false_of_ne hsc, decide_eq_false (Nat.not_le.2 hlt)]
  rfl

/-- ICINV of a range that is not empty: the cores lose blocks, and the slot waits for their acknowledgements (R90). -/
theorem execIcinv_drops {s : State} {a b : Reg} {sc : BitVec 3} (h : Clear {} s) (hsc : sc ≠ 0) (hlt : sc.toNat < 6)
    (hb : s.rg b ≠ 0) : ∃ q, execIcinv a b sc s =
      .next ((dropBlocks s.ctx.part sc.toNat (coreOf s.cur) q s).mapThr (fun t => t.park .icinv)) := by
  rw [execIcinv, issue_scalar _ h (icinv_legal hsc hlt) rfl rfl, if_neg hb]
  dsimp only
  split
  · exact ⟨_, rfl⟩
  · exact ⟨_, rfl⟩

theorem execIcinv_empty {s : State} {a b : Reg} {sc : BitVec 3} (h : Clear {} s) (hsc : sc ≠ 0) (hlt : sc.toNat < 6)
    (hb : s.rg b = 0) : execIcinv a b sc s = .next (s.setThr s.thr.wentOn) := by
  rw [execIcinv, issue_scalar _ h (icinv_legal hsc hlt) rfl rfl, if_pos hb]
  exact congrArg Host.Outcome.next (retire_main h)

/-- The end of an instruction of the main stream: the slot is at its next word with its registers as they were. -/
theorem resumes_retireSlot {s : State} {k : Nat} (h : (s.thread k).rep = none) : Resumes s (retireSlot k s) k := by
  rw [Resumes, retireSlot, State.mapThread, State.thread_setThread, Thread.retire, Thread.retireTo, h]
  exact ⟨rfl, rfl, rfl, rfl, rfl⟩

/-! ### FENCE (R273-R277) -/

/-- The slot has left an operation with the property q to a home (R200). -/
def HasPosted (s : State) (q : Held → Prop) : Prop :=
  ∃ l ∈ s.held, ∃ x ∈ l.2, (x.op.isSome = true ∧ x.slot = s.cur) ∧ q x

theorem Held.postedOf_iff {x : Held} {k : Nat} : x.postedOf k = true ↔ x.op.isSome = true ∧ x.slot = k := by
  rw [Held.postedOf, Bool.and_eq_true, beq_iff_eq]

theorem fenceAwaits_iff {s : State} {k : BitVec 2} :
    fenceAwaits s k = true ↔ HasPosted s (fun x => k = 3 ∨ k = 0 ∧ x.uo = false) := by
  simp [fenceAwaits, HasPosted, List.any_eq_true, Held.postedOf_iff]

theorem postedBy_iff {s : State} : postedBy s s.cur = true ↔ HasPosted s (fun _ => True) := by
  simp [postedBy, HasPosted, List.any_eq_true, Held.postedOf_iff]

theorem fencedBy_iff {s : State} : fencedBy s s.cur = true ↔ HasPosted s (fun x => x.fenced = true) := by
  simp [fencedBy, HasPosted, List.any_eq_true, Held.postedOf_iff]

/-- An operation before a release-side FENCE of slot k. -/
def Held.fencedFor (x : Held) (k : Nat) : Held := if x.postedOf k && !x.uo then { x with fenced := true } else x

theorem Held.fencedFor_unfenced (x : Held) (k : Nat) :
    { x.fencedFor k with fenced := false } = { x with fenced := false } := by
  rw [Held.fencedFor]; split <;> rfl

theorem Held.postedOf_fencedFor (x : Held) (k : Nat) : (x.fencedFor k).postedOf k = x.postedOf k := by
  rw [Held.fencedFor]; split <;> rfl

theorem Held.fencedFor_fenced {x : Held} {k : Nat} (h : x.postedOf k = true) :
    (x.fencedFor k).fenced = true ↔ x.fenced = true ∨ x.uo = false := by
  rw [Held.fencedFor, h]
  cases x.uo <;> simp

/-- The operations of every home as a release-side FENCE of the current slot marks them (R274). -/
def State.fencedHeld (s : State) : SMap (List Held) := s.held.map (fun l => (l.1, l.2.map (·.fencedFor s.cur)))

theorem fencePosted_eq (s : State) : fencePosted s = { s with held := s.fencedHeld } := rfl

/-- Marking changes nothing but marks. -/
theorem State.fencedHeld_unfenced (s : State) :
    s.fencedHeld.map (fun l => (l.1, l.2.map (fun x => { x with fenced := false }))) =
      s.held.map (fun l => (l.1, l.2.map (fun x => { x with fenced := false }))) := by
  simp only [State.fencedHeld, List.map_map, Function.comp_def, Held.fencedFor_unfenced]

/-- A release-side FENCE holds back what follows exactly where the slot has left an operation to an SO or RC page (R274). -/
theorem fencedBy_fencedHeld {s : State} : fencedBy { s with held := s.fencedHeld } s.cur = true ↔
    fencedBy s s.cur = true ∨ HasPosted s (fun x => x.uo = false) := by
  have hmarked : fencedBy { s with held := s.fencedHeld } s.cur = true ↔
      HasPosted s (fun x => x.fenced = true ∨ x.uo = false) := by
    simp only [fencedBy, State.fencedHeld, HasPosted, List.any_map, List.any_eq_true, Function.comp_apply, Bool.and_eq_true,
      Held.postedOf_fencedFor, ← Held.postedOf_iff]
    refine exists_congr fun l => and_congr_right fun _ => exists_congr fun x => and_congr_right fun _ => ?_
    exact and_congr_right fun hx => Held.fencedFor_fenced hx
  rw [hmarked, fencedBy_iff]
  simp only [HasPosted, and_or_left, exists_or]

section
variable {s : State} {e : Bool} {k : BitVec 2} {sc : BitVec 3}

/-- FENCE without a reserved operand: what its body answers (R273). -/
theorem execFence_clear (h : Clear {} s) (hlt : sc.toNat < 6) (he : e = false ∨ sc ≠ 0) :
    execFence e k sc s = .next
      (if sc = 0 then s.setThr s.thr.wentOn
      else if fenceAwaits s k then stopAt (.wait .posted) s
      else if e && engineWork s s.cur then stopAt (.wait .engines) s
      else if k = 2 && postedBy s s.cur then ({ s with held := s.fencedHeld } : State).setThr s.thr.wentOn
      else s.setThr s.thr.wentOn) := by
  have hill : (decide (6 ≤ sc.toNat) || (e && sc == 0)) = false := by
    rw [decide_eq_false (Nat.not_le.2 hlt)]
    rcases he with rfl | he
    · rfl
    · rw [beq_false_of_ne he, Bool.and_false, Bool.or_false]
  have hretire : retire s = s.setThr s.thr.wentOn := retire_main h
  have hfenced : retire (fencePosted s) = ({ s with held := s.fencedHeld } : State).setThr s.thr.wentOn := by
    rw [fencePosted_eq]
    exact congrArg _ (Thread.retire_main _ h.main h.idle)
  rw [execFence, issue_scalar _ h hill rfl rfl, ← hretire, ← hfenced]
  split_ifs
  · rfl
  · rfl
  · rfl
  · rfl
  · rfl

end

/-! ### Behind a release-side FENCE (R274) -/

/-- The main stream of the current slot, with nothing pending and no hint group, stands behind a release-side FENCE. -/
structure Fenced (s : State) : Prop where
  main : s.thr.rep = none
  idle : s.thr.pending = []
  plain : s.thr.winMode = false
  unhinted : s.thr.hints = {}
  fenced : fencedBy s s.cur = true

section
variable {s : State} {u : Use} {body : State → Except Stop State} (h : Fenced s)
include h

theorem Fenced.precheck (hi : u.ill = false) (hp : u.priv = false) :
    precheck u s = if passesRelease u.word 0#24 = true then none else some (.wait .posted) := by
  have hbody : s.thr.inBody = false := by rw [Thread.inBody, h.main]
  have hgrp : s.thr.grp = {} := by rw [Thread.grp, h.main, h.unhinted]
  have hmod : Hints.hmod {} = 0#24 := rfl
  cases hw : passesRelease u.word 0#24 <;>
    simp [Machine.precheck, h.main, h.idle, h.plain, h.fenced, hgrp, hbody, hmod, Hints.legal_empty, hi, hp, hw]

/-- What accesses no memory and ordinary loads issue. -/
theorem Fenced.issue_passes (hi : u.ill = false) (hp : u.priv = false) (hv : u.vx = false)
    (hw : passesRelease u.word 0#24 = true) :
    issue u body s = .next (match body s with | .ok t => t | .error e => stopAt e s) := by
  rw [issue, h.precheck hi hp, if_pos hw]
  cases body s <;> simp [consume, h.plain, setVx_false, hv]

/-- Any other instruction waits. -/
theorem Fenced.issue_waits (hi : u.ill = false) (hp : u.priv = false) (hw : passesRelease u.word 0#24 = false)
    (hh : s.Unheld) :
    issue u body s = .next (s.setThr (s.thr.waits .posted)) := by
  have hn : ¬ passesRelease u.word 0#24 = true := by rw [hw]; exact Bool.false_ne_true
  rw [issue, h.precheck hi hp, if_neg hn]
  exact congrArg Host.Outcome.next (stopAt_wait _ h.main hh rfl rfl rfl)

theorem Fenced.binary {word : Nat} {d a b : Reg} {w : Bool} {f : Word → Word → Word}
    (hw : passesRelease word 0#24 = true) :
    binary word d a b w f s = .next (s.setThr (s.thr.wg d (wres w (f (s.rg a) (s.rg b)))).wentOn) := by
  rw [Machine.binary, h.issue_passes (u := { word := word, gr := [a, b], gw := [d], ahead := true }) rfl rfl rfl hw]
  simp only [State.wg_eq, retire_setThr]
  rw [Thread.retire_main] <;> simp [h.main, h.idle]

end

/-! ### Which words a release-side FENCE lets pass -/

theorem field_ofNat {n hi lo : Nat} (hl : lo ≤ hi) (hk : hi < 32) : field (BitVec.ofNat 32 n) hi lo = fld n hi lo := by
  rw [field, BitVec.toNat_ofNat]
  exact fld_mod hl hk

/-- FENCE, stores, full/empty operations, near and far atomics and gates wait, whatever the operation. -/
theorem passesRelease_of_held {word m : Nat} (hm : fld word 31 26 = m) (h : m ∈ [0x13, 0x21, 0x26, 0x28, 0x29, 0x2E])
    (hmod : BitVec 24) : passesRelease word hmod = false := by
  have hf : field (BitVec.ofNat 32 word) 31 26 = m := (field_ofNat (by decide) (by decide)).trans hm
  unfold passesRelease
  simp only [hf]
  simp only [List.mem_cons, List.not_mem_nil, or_false] at h
  rcases h with rfl | rfl | rfl | rfl | rfl | rfl <;> exact Bool.and_false _

/-- ICINV is the one operation of its major that waits. -/
theorem passesRelease_of_icinv {word : Nat} (hm : fld word 31 26 = 0x12) (ho : fld word 9 4 = 4) (hmod : BitVec 24) :
    passesRelease word hmod = false := by
  have hf : field (BitVec.ofNat 32 word) 31 26 = 0x12 := (field_ofNat (by decide) (by decide)).trans hm
  have hfn : field (BitVec.ofNat 32 word) 9 4 = 4 := (field_ofNat (by decide) (by decide)).trans ho
  unfold passesRelease
  simp only [hf, hfn]
  exact Bool.and_false _

/-- A load of major 0x20 without ORD is an ordinary one. -/
theorem passesRelease_of_load {word : Nat} (hm : fld word 31 26 = 0x20) : passesRelease word 0#24 = true := by
  have hf : field (BitVec.ofNat 32 word) 31 26 = 0x20 := (field_ofNat (by decide) (by decide)).trans hm
  unfold passesRelease
  simp only [hf]
  rfl

/-- The codes of the words of the statement (R53). -/
theorem codes_fence (d a b : Reg) (o : BitVec 10) (l : BitVec 4) (w v e : Bool) (k r : BitVec 2) (sc : BitVec 3) :
    fld (wordStd d b o v) 31 26 = 0x21 ∧ fld (wordStf d b o) 31 26 = 0x26 ∧ fld (wordLdf d b o l) 31 26 = 0x26 ∧
    fld (wordRsv d b o l) 31 26 = 0x28 ∧ fld (wordFadd d a b l w r) 31 26 = 0x29 ∧ fld (wordFence e k sc) 31 26 = 0x13 ∧
    fld (wordIcinv a b sc) 31 26 = 0x12 ∧ fld (wordIcinv a b sc) 9 4 = 4 ∧ fld (wordGcall d a b) 31 26 = 0x2E ∧
    fld (wordLdd d b o v l) 31 26 = 0x20 := by
  simp only [wordStd, wordStf, wordLdf, wordRsv, wordFadd, wordFence, wordIcinv, wordGcall, wordLdd, toNat_bool, fld_add_above,
    fld_add_below, gap_add, gap_literal, fld_literal, Nat.reduceLeDiff, Nat.reduceLT, Nat.reduceAdd, Nat.reduceSub,
    Nat.reduceMod, Nat.reduceShiftRight, Nat.reduceShiftLeft, and_true]

/-! ### Loads in the local window (R152, R153, R170) -/

theorem State.readBytes_add (s : State) (a m n : Nat) :
    s.readBytes a (m + n) = s.readBytes a m ++ s.readBytes (a + m) n := by
  simp only [State.readBytes, List.range_add, List.map_append, List.map_map, Function.comp_def, Nat.add_assoc]

/-- The bytes of a range, line by line. -/
theorem State.readBytes_lines (s : State) (pa n : Nat) :
    (linesFrom pa n).flatMap (fun l => s.readBytes (within pa n l).1 (within pa n l).2) = s.readBytes pa n := by
  have hupto (k : Nat) (hk : k ≤ (pa + n - pa / 128 * 128 + (128 - 1)) / 128) :
      ((List.range k).map (fun i => pa / 128 * 128 + i * 128)).flatMap
        (fun l => s.readBytes (within pa n l).1 (within pa n l).2) =
      s.readBytes pa (min (pa + n) (pa / 128 * 128 + k * 128) - pa) := by
    induction k with
    | zero =>
      have : min (pa + n) (pa / 128 * 128 + 0 * 128) - pa = 0 := by omega
      rw [this]; rfl
    | succ k ih =>
      rw [List.range_succ, List.map_append, List.flatMap_append, ih (by omega)]
      simp only [List.map_cons, List.map_nil, List.flatMap_cons, List.flatMap_nil, List.append_nil, within]
      have hstart : max pa (pa / 128 * 128 + k * 128) = pa + (min (pa + n) (pa / 128 * 128 + k * 128) - pa) := by omega
      have hlen : min (pa + n) (pa / 128 * 128 + (k + 1) * 128) - pa = (min (pa + n) (pa / 128 * 128 + k * 128) - pa) +
          (min (pa + n) (pa / 128 * 128 + k * 128 + 128) - max pa (pa / 128 * 128 + k * 128)) := by omega
      rw [hlen, State.readBytes_add, ← hstart]
  rw [linesFrom, stepsFrom, hupto _ le_rfl]
  congr 1
  omega

/-- A message within one die crosses no bundle (R389). -/
theorem route_self (d : Nat) : route (.base d) (.base d) = [] := by
  simp [route, cubeRoute]

theorem enterBoth_self (part : Option Nat) (c : Nat) (s : State) : enterBoth part (clusterDie c) (clusterDie c) s = s := by
  simp [enterBoth, enterRoute, clusterDie, route_self]

/-- A read of a line of the requester's own scratchpad changes nothing (R156). -/
theorem lineAccess_scratch {c : Ctx} {s : State} {at_ : Nat} (hio : c.io = none) (hs : isScratch at_ = true)
    (hc : (at_ - 0xA0000000000) / 0x400000 = c.cluster) (pol : Policy) (va : Nat) (data : Payload) :
    lineAccess c pol at_ va mUREAD data s = .ok (s, none) := by
  have hdie : c.die = clusterDie c.cluster := by rw [Ctx.die, hio]
  rw [lineAccess, if_pos hs, hc, hdie, enterBoth_self]
  rfl

/-- A part in the scratchpad of the requester's cluster that no table and no stash stands behind. -/
structure LocalPiece (c : Ctx) (p : Piece) : Prop where
  leaf : p.leaf = none
  unstashed : p.stashed = false
  cls : p.cls = 1
  fixed : p.travel = false
  low : scratchBase c.cluster ≤ p.pa
  high : p.pa + p.len ≤ scratchBase c.cluster + 0x400000

theorem mem_stepsFrom {lo hi n x : Nat} (hn : 0 < n) : x ∈ stepsFrom lo hi n ↔ lo ≤ x ∧ x < hi ∧ (x - lo) % n = 0 := by
  simp only [stepsFrom, List.mem_map, List.mem_range, Nat.lt_div_iff_mul_lt hn]
  constructor
  · rintro ⟨i, hi, rfl⟩
    exact ⟨by omega, by omega, by simp⟩
  · rintro ⟨hlo, hhi, hx⟩
    have hmul : (x - lo) / n * n = x - lo := Nat.div_mul_cancel (Nat.dvd_of_mod_eq_zero hx)
    exact ⟨(x - lo) / n, by omega, by omega⟩

/-- The lines of such a part lie in the same scratchpad. -/
theorem LocalPiece.line {c : Ctx} {p : Piece} (h : LocalPiece c p) (hc : c.cluster < 128) {l : Nat}
    (hl : l ∈ linesFrom p.pa p.len) : isScratch l = true ∧ (l - 0xA0000000000) / 0x400000 = c.cluster := by
  obtain ⟨hlo, hhi, -⟩ := (mem_stepsFrom (by decide)).1 hl
  have hlow := h.low
  have hhigh := h.high
  rw [scratchBase] at hlow hhigh
  rw [isScratch, Bool.and_eq_true, decide_eq_true_eq, decide_eq_true_eq]
  omega

/-- A loop that leaves its state as it is in every round. -/
theorem foldlM_keeps {α ε : Type} {f : State → α → Except ε State} {s : State} {l : List α}
    (h : ∀ x ∈ l, f s x = .ok s) :
    l.foldlM f s = .ok s := by
  induction l with
  | nil => rfl
  | cons x l ih =>
    rw [List.foldlM_cons, h x List.mem_cons_self]
    exact ih fun y hy => h y (List.mem_cons_of_mem _ hy)

/-- The bytes of one line join those of the lines before it: the round of `loadPiece`. -/
def loadLine (c : Ctx) (pol : Policy) (p : Piece) (r : State × List Byte) (l : Nat) : Except Stop (State × List Byte) :=
  (lineAccess (partCtx c p) pol l p.va mUREAD (readsOf p.pa p.len l) r.1).bind fun x =>
    .ok (x.1, r.2 ++ x.2.bytes x.1 (within p.pa p.len l).1 (within p.pa p.len l).2)

theorem loadPiece_eq (c : Ctx) (pol : Policy) (p : Piece) (s : State) :
    loadPiece c pol p s = (linesFrom p.pa p.len).foldlM (loadLine c pol p) (s, []) := rfl

section
variable {c : Ctx} {s : State} (hc : c.cluster < 128) (hio : c.io = none)
include hc hio

theorem loadLines_local {p : Piece} (h : LocalPiece c p) (pol : Policy) {ls : List Nat} (hls : ls ⊆ linesFrom p.pa p.len)
    (acc : List Byte) : ls.foldlM (loadLine c pol p) (s, acc) =
      .ok (s, acc ++ ls.flatMap (fun l => s.readBytes (within p.pa p.len l).1 (within p.pa p.len l).2)) := by
  induction ls generalizing acc with
  | nil => rw [List.flatMap_nil, List.append_nil]; rfl
  | cons l ls ih =>
    obtain ⟨hs, hcl⟩ := h.line hc (hls List.mem_cons_self)
    have hctx : partCtx c p = c := by rw [partCtx, h.unstashed]; rfl
    have hline : loadLine c pol p (s, acc) l =
        .ok (s, acc ++ s.readBytes (within p.pa p.len l).1 (within p.pa p.len l).2) := by
      rw [loadLine, hctx, lineAccess_scratch hio hs hcl]; rfl
    rw [List.foldlM_cons, hline, List.flatMap_cons, ← List.append_assoc]
    exact ih (fun x hx => hls (List.mem_cons_of_mem _ hx)) _

theorem loadPiece_local {p : Piece} (h : LocalPiece c p) (pol : Policy) :
    loadPiece c pol p s = .ok (s, s.readBytes p.pa p.len) := by
  rw [loadPiece_eq, loadLines_local hc hio h pol (List.Subset.refl _), State.readBytes_lines, List.nil_append]

theorem loadPieces_local {ps : List (Policy × Piece)} (h : ∀ x ∈ ps, LocalPiece c x.2) :
    loadPieces c ps s = .ok (s, s.readPieces (ps.map (·.2))) := by
  induction ps with
  | nil => rfl
  | cons x ps ih =>
    have hrest := ih fun y hy => h y (List.mem_cons_of_mem _ hy)
    simp only [loadPieces, loadPiece_local hc hio (h x List.mem_cons_self), hrest, bind, Except.bind]
    rfl

end

theorem charge_local {c : Ctx} {k : Access} {s : State} {ps : List Piece} (h : ∀ p ∈ ps, LocalPiece c p) :
    charge c k ps s = .ok s := by
  have hlookup : ps.foldlM (fun s p => lookup c p s) s = .ok s :=
    foldlM_keeps fun p hp => by rw [lookup, (h p hp).leaf]; rfl
  have hstash : ps.foldlM (fun s p => if p.stashed then refreshEntry c p.entry s else .ok s) s = .ok s :=
    foldlM_keeps fun p hp => by rw [(h p hp).unstashed]; rfl
  have htouch : touchAll c k ps s = .ok s := by
    clear hlookup hstash
    induction ps with
    | nil => rfl
    | cons p ps ih =>
      rw [touchAll, touch, (h p List.mem_cons_self).leaf]
      exact ih fun q hq => h q (List.mem_cons_of_mem _ hq)
  rw [charge, hlookup]
  exact (congrArg (· >>= touchAll c k ps) hstash).trans htouch

theorem ordCheck_local {c : Ctx} {s : State} {ps : List Piece} (h : ∀ p ∈ ps, LocalPiece c p) :
    ordCheck s ps = .ok () := by
  induction ps with
  | nil => rfl
  | cons p ps ih =>
    rw [ordCheck, (h p List.mem_cons_self).cls]
    exact ih fun q hq => h q (List.mem_cons_of_mem _ hq)

/-- One part of n bytes at va in the local window of the current slot. -/
def State.localPiece (s : State) (va n : Nat) : Piece :=
  { va := va, len := n, pa := s.localPa va, cls := 1, cp := 0, travel := false, leaf := none, big := false, dom := s.thr.dom,
    tables := [] }

/-- The parts of n bytes at va in the local window: they are within the range, and their bytes are those of the range. -/
structure LocalParts (s : State) (va n : Nat) (ps : List Piece) : Prop where
  pieces : ∀ p ∈ ps, LocalPiece s.ctx p
  inside : ∀ p ∈ ps, s.localPa va ≤ p.pa ∧ p.pa + p.len ≤ s.localPa va + n
  bytes : s.readPieces ps = s.readBytes (s.localPa va) n

section
variable {s : State} {va n : Nat} (h : LocalRange s va n)
include h

theorem LocalRange.spbase : s.ctx.spbase = s.thr.spbase ∧ s.ctx.splen = s.thr.splen := by
  have hwhole : (localSlot s.cur == 7 && decide (s.thr.level ≥ 1)) = false := by
    rcases h.slot with h7 | hl
    · rw [beq_false_of_ne h7, Bool.false_and]
    · rw [hl]; exact Bool.and_false _
  constructor
  · change (if (localSlot s.cur == 7 && decide (s.thr.level ≥ 1)) = true then 0 else s.thr.spbase) = _
    rw [hwhole]; rfl
  · change (if (localSlot s.cur == 7 && decide (s.thr.level ≥ 1)) = true then 0x400000 else s.thr.splen) = _
    rw [hwhole]; rfl

theorem LocalRange.cluster_lt : clusterOf s.cur < 128 := by
  have := h.device
  rw [clusterOf]
  omega

theorem LocalRange.bounds :
    localBase ≤ va ∧ va + n ≤ localBase + s.thr.splen ∧ s.thr.spbase + s.thr.splen ≤ 0x400000 := by
  have hlow := h.low
  have hinside := h.inside
  exact ⟨hlow, by omega, h.room⟩

theorem LocalRange.localPa_add (o : Nat) : s.localPa (va + o) = s.localPa va + o := by
  have := h.low
  rw [State.localPa, State.localPa]
  omega

theorem LocalRange.localPiece {o len : Nat} (ho : o + len ≤ n) : LocalPiece s.ctx (s.localPiece (va + o) len) := by
  obtain ⟨hlow, hhigh, hroom⟩ := h.bounds
  refine ⟨rfl, rfl, rfl, rfl, ?_, ?_⟩
  · change scratchBase (clusterOf s.cur) ≤ s.localPa (va + o)
    rw [State.localPa]; omega
  · change s.localPa (va + o) + len ≤ scratchBase (clusterOf s.cur) + 0x400000
    rw [State.localPa]; omega

theorem LocalRange.piece {o len : Nat} (hpos : 0 < len) (ho : o + len ≤ n) {k : Access} (hk : k ≠ .fetch) :
    piece s s.ctx (va + o) len k = .ok (s.localPiece (va + o) len) := by
  obtain ⟨hlow, hhigh, hroom⟩ := h.bounds
  obtain ⟨hbase, hlen⟩ := h.spbase
  have hopen : s.ctx.localOpen = true := by
    change (s.thr.depth == 0 && s.thr.home == clusterOf s.cur) = true
    rw [h.depth, h.home, beq_self_eq_true, beq_self_eq_true]; rfl
  have harea (x : Nat) : stashOfArea (s.cluster s.ctx.cluster) x = none := by
    change ((s.cluster (clusterOf s.cur)).stash.find? _) = none
    rw [h.stash]; rfl
  have hconf : ¬ (s.ctx.level == 2 && s.confRefused (s.localPa (va + o))) = true := by
    rw [Bool.and_eq_true, beq_iff_eq]
    rintro ⟨hl, hr⟩
    rw [h.localPa_add] at hr
    exact Bool.false_ne_true ((h.conf hl o (by omega)).symm.trans hr)
  have hbounds : ¬ va + o < apertureBase ∧ ¬ va + o < apertureTop ∧ ¬ va + o < localBase ∧ va + o < 2 ^ 52 ∧
      ¬ va + o - localBase + len > s.thr.splen := by
    rw [apertureBase, apertureTop]
    rw [localBase] at *
    omega
  obtain ⟨h1, h2, h3, h4, h5⟩ := hbounds
  rw [Machine.piece, if_neg h1, if_neg h2, if_neg h3, if_pos h4]
  simp only [hopen, hlen, harea, hbase, h5, beq_false_of_ne hk, decide_false, Bool.not_true, Bool.or_false,
    Bool.false_eq_true, if_false]
  exact if_neg hconf

theorem LocalRange.cutOf : cutOf s s.ctx va = 65536 - va % 65536 := by
  obtain ⟨hlow, -, -⟩ := h.bounds
  have hlive : (s.cluster s.ctx.cluster).stash.isEmpty = true := by
    change (s.cluster (clusterOf s.cur)).stash.isEmpty = true
    rw [h.stash]; rfl
  have hspace : ¬ va < apertureBase ∧ ¬ va < apertureTop := by
    rw [apertureBase, apertureTop]
    rw [localBase] at hlow
    omega
  simp only [Machine.cutOf, hlive, if_neg hspace.1, if_neg hspace.2]
  rfl

theorem LocalRange.pastWindow : pastWindow s.ctx va n = false := by
  obtain ⟨hlow, hhigh, hroom⟩ := h.bounds
  have hspace : ¬ va < apertureTop ∧ ¬ va - localBase + n > s.thr.splen := by
    rw [apertureTop]
    rw [localBase] at *
    omega
  rw [Machine.pastWindow, decide_eq_false hspace.1, Bool.and_false, h.spbase.2, decide_eq_false hspace.2, Bool.and_false]
  rfl

/-- An access in the local window: one part, or two where it passes the end of a 64 KiB page (R170). -/
theorem LocalRange.pieces {k : Access} (hk : k ≠ .fetch) : ∃ ps, pieces s s.ctx va n k = .ok ps ∧ LocalParts s va n ps := by
  have hpos := h.pos
  rw [Machine.pieces, h.pastWindow, h.cutOf, if_neg Bool.false_ne_true]
  generalize hroom : 65536 - va % 65536 = room
  have hpage : 0 < room := by omega
  split
  next =>
    refine ⟨[s.localPiece va n], congrArg (Except.map _) (h.piece (o := 0) hpos (by omega) hk), ?_, ?_, ?_⟩
    · exact List.forall_mem_singleton.2 (h.localPiece (o := 0) (by omega))
    · exact List.forall_mem_singleton.2 ⟨le_rfl, le_rfl⟩
    · exact List.append_nil _
  next hn =>
    have hfirst : Machine.piece s s.ctx va room k = .ok (s.localPiece va room) := h.piece (o := 0) hpage (by omega) hk
    have hsecond := h.piece (o := room) (len := n - room) (by omega) (by omega) hk
    refine ⟨[s.localPiece va room, s.localPiece (va + room) (n - room)], ?_, ?_, ?_, ?_⟩
    · simp only [hfirst, hsecond]
      rfl
    · exact List.forall_mem_cons.2 ⟨h.localPiece (o := 0) (by omega), List.forall_mem_singleton.2 (h.localPiece (by omega))⟩
    · have hadd := h.localPa_add room
      refine List.forall_mem_cons.2 ⟨⟨le_rfl, ?_⟩, List.forall_mem_singleton.2 ?_⟩
      · change s.localPa va + room ≤ s.localPa va + n
        omega
      · change s.localPa va ≤ s.localPa (va + room) ∧ s.localPa (va + room) + (n - room) ≤ s.localPa va + n
        omega
    · have hsum : room + (n - room) = n := by omega
      change s.readBytes (s.localPa va) room ++ (s.readBytes (s.localPa (va + room)) (n - room) ++ []) = _
      rw [List.append_nil, h.localPa_add, ← State.readBytes_add, hsum]

/-- The bytes of the range (R153): its physical addresses are canonical. -/
theorem LocalRange.readBytes :
    s.readBytes (s.localPa va) n = (List.range n).map (fun i => Memory.get s.mem (s.localPa va + i)) := by
  obtain ⟨hlow, hhigh, hroom⟩ := h.bounds
  have hc := h.cluster_lt
  refine List.map_congr_left fun i hi => ?_
  have hi : i < n := List.mem_range.1 hi
  have hlt : s.localPa va + i < 0x100000000000 := by
    rw [State.localPa, scratchBase]; omega
  rw [State.key, if_pos hlt]

end

/-! ### Loads and what the slot has posted (R265, R267) -/

/-- What is posted to a part of a range is posted to the range. -/
theorem postedAt_mono {s : State} {k pa n pa' n' : Nat} (hlo : pa ≤ pa') (hhi : pa' + n' ≤ pa + n)
    (h : postedAt s k pa n = false) : postedAt s k pa' n' = false := by
  rw [Bool.eq_false_iff] at h ⊢
  intro hp
  apply h
  simp only [postedAt, Bool.and_eq_true, List.any_eq_true, List.mem_map] at hp ⊢
  obtain ⟨hheld, w, ⟨a, ha, rfl⟩, hx⟩ := hp
  obtain ⟨halo, hahi, hmod⟩ := (mem_stepsFrom (by decide)).1 ha
  exact ⟨hheld, s.key a, ⟨a, (mem_stepsFrom (by decide)).2 ⟨by omega, by omega, by omega⟩, rfl⟩, hx⟩

/-- A load without ORD in the local window, of words to which the slot has posted nothing, is granted at once. -/
theorem LocalRange.threadAccess {s : State} {va n : Nat} (h : LocalRange s va n) (hr : s.thr.rep = none)
    (hord : field s.hmod 18 17 = 0) (hp : postedAt s s.cur (s.localPa va) n = false) :
    ∃ ps, threadAccess .load [(va, n)] s = .ok (s, ps) ∧ LocalParts s va n ps := by
  obtain ⟨ps, hps, hparts⟩ := h.pieces (k := .load) (by decide)
  refine ⟨ps, ?_, hparts⟩
  have hsplit : splitAccess s.ctx .load [(va, n)] s = .ok (s, ps) := by
    have hflat : [ps].flatten = ps := by simp
    simp only [splitAccess, List.mapM_cons, List.mapM_nil, hps, bind, Except.bind, pure, Except.pure, hflat,
      ordCheck_local hparts.pieces, charge_local hparts.pieces]
  have hbehind : runsBehind s false ps = false := by
    rw [runsBehind, Thread.outstanding, hr]; rfl
  have hany : ps.any (fun p => p.cls == 0 || (true && postedAt s s.cur p.pa p.len)) = false := by
    rw [List.any_eq_false]
    intro p hmem
    obtain ⟨hlo, hhi⟩ := hparts.inside p hmem
    rw [(hparts.pieces p hmem).cls, postedAt_mono hlo hhi hp]
    decide
  have horder : programOrder false true ps s = .ok () := by
    rw [programOrder, hbehind, if_neg Bool.false_ne_true, hany]; rfl
  have hsync : (field s.hmod 18 17 != 0) = false := by rw [hord]; rfl
  simp only [Machine.threadAccess, Bool.false_eq_true, if_false, hsplit, hsync, beq_self_eq_true, horder, bind, Except.bind]

/-- Such a load leaves its result owed, and nothing else of the device changes (R44, R168). -/
theorem LocalRange.loadTo {s : State} {va : Word} {n : Nat} (h : LocalRange s va.toNat n) (hr : s.thr.rep = none)
    (hi : s.thr.pending = []) (hord : field s.hmod 18 17 = 0) (hp : postedAt s s.cur (s.localPa va.toNat) n = false)
    (nt : Bool) (dest : Dest) (f : Nat → Vec) (l : Nat) :
    loadTo va n nt dest f l s = .ok (s.setThr (s.thr.owes dest (f (s.byteNat (s.localPa va.toNat) n)) l false)) := by
  obtain ⟨ps, hps, hparts⟩ := h.threadAccess hr hord hp
  have htravel : travelTo s ps = none := by
    cases ps with
    | nil => rfl
    | cons p ps => rw [travelTo, (hparts.pieces p List.mem_cons_self).fixed, Bool.and_false]; rfl
  have hload : performLoads nt ps s = .ok (s, s.readBytes (s.localPa va.toNat) n) := by
    rw [performLoads, loadPieces_local h.cluster_lt rfl (by simpa using hparts.pieces), List.map_map]
    simp only [Function.comp_def, List.map_id', hparts.bytes]
  simp only [Machine.loadTo, hps, htravel, hload, bind, Except.bind]
  rw [retireLong_main _ _ _ _ _ hr hi, h.readBytes]
  rfl

theorem ofBytes_lt (l : List Byte) : ofBytes l < 2 ^ (8 * l.length) := by
  induction l with
  | nil => decide
  | cons b l ih =>
    have hb := b.isLt
    rw [ofBytes, List.length_cons, Nat.mul_succ, Nat.pow_add]
    omega

/-- A double word in a register of 128 bits. -/
theorem setWidth_byteNat (s : State) (pa : Nat) :
    (BitVec.ofNat 64 (s.byteNat pa 8)).setWidth 128 = BitVec.ofNat 128 (s.byteNat pa 8) := by
  refine BitVec.setWidth_ofNat_of_le_of_lt (by decide) ?_
  have := ofBytes_lt ((List.range 8).map (fun i => Memory.get s.mem (pa + i)))
  rw [List.length_map, List.length_range] at this
  exact this

/-- An ordinary load issues behind a release-side FENCE, where its word has nothing posted (R274). -/
theorem Fenced.ldd {s : State} {d b : Reg} {o : BitVec 10} {l : BitVec 4} {va : Nat} (h : Fenced s)
    (hva : (s.ea b o 8).toNat = va) (hl : LocalRange s va 8) (hp : postedAt s s.cur (s.localPa va) 8 = false)
    (hw : passesRelease (wordLdd d b o false l) 0#24 = true) :
    execLdd d b o false l s =
      .next (s.setThr (s.thr.owes (.gen d) (BitVec.ofNat 128 (s.byteNat (s.localPa va) 8)) l.toNat false)) := by
  subst hva
  have hord : field s.hmod 18 17 = 0 := by
    rw [State.hmod, State.grp, Thread.grp, h.main, h.unhinted]; rfl
  have hissue {body : State → Except Stop State} := h.issue_passes (body := body)
    (u := { word := wordLdd d b o false l, gr := [b], gw := [d], accept := loadAccept false, ahead := true, long := true })
    rfl rfl rfl hw
  rw [execLdd, load, hissue, hl.loadTo h.main h.idle hord hp]
  simp only [Bool.false_eq_true, if_false, setWidth_byteNat]

/-! ### The outcomes of the statement -/

/-- The cores lose blocks and no memory changes, and the slot waits at its ICINV (R90). -/
theorem icinv_outcomes {s : State} {a b : Reg} {sc : BitVec 3} (h : Clear {} s) (hsc : sc ≠ 0) (hlt : sc.toNat < 6)
    (hb : s.rg b ≠ 0) : ∃ t, exec (.icinv a b sc) s = .next t ∧ t.thr.wait = some .icinv ∧ t.thr.pc = s.thr.pc ∧
      t.thr.g = s.thr.g ∧ SameMemory s t ∧ ∀ n, ∀ x ∈ (t.core n).icache, x ∈ (s.core n).icache := by
  obtain ⟨q, hq⟩ := execIcinv_drops (a := a) h hsc hlt hb
  obtain ⟨f, hf⟩ := dropBlocks_thread (p := s.ctx.part) (scope := sc.toNat) (n := coreOf s.cur) (q := q) (s := s) s.cur
  have hthr : (dropBlocks s.ctx.part sc.toNat (coreOf s.cur) q s).thr = { s.thr with fetchBuf := f } := hf
  have hpark := Thread.park_main (t := { s.thr with fetchBuf := f }) .icinv h.main
  refine ⟨_, hq, ?_, ?_, ?_, ⟨fun _ => rfl, fun _ => rfl⟩, fun n x hx => dropBlocks_icache hx⟩
  all_goals rw [State.thr_mapThr, hthr, hpark]

/-- What issues behind a release-side FENCE, and what waits (R274). -/
theorem Fenced.waits {s : State} (h : Fenced s) (hrsv : s.thr.rsv = none) (d a b : Reg) (o : BitVec 10) (l : BitVec 4)
    (w : Bool) : ∀ i ∈ [Instr.std d b o false, .stf d b o, .ldf d b o l, .rsv d b o l, .fadd d a b l w 0,
      .fence false 0 2, .icinv a b 2, .gcall d a b], Waits i s .posted := by
  obtain ⟨hstd, hstf, hldf, hrsvw, hfadd, hfence, hicinv, hfn, hgcall, -⟩ := codes_fence d a b o l w false false 0 0 2
  simp only [List.forall_mem_cons]
  refine ⟨fun hh => ?_, fun hh => ?_, fun hh => ?_, fun hh => ?_, fun hh => ?_, fun hh => ?_, fun hh => ?_, fun hh => ?_,
    by simp⟩
  · change execStd d b o false s = _
    rw [execStd, store]
    exact h.issue_waits rfl rfl (passesRelease_of_held hstd (by decide) _) hh
  · change execStf d b o s = _
    rw [execStf, fullEmpty]
    exact h.issue_waits rfl rfl (passesRelease_of_held hstf (by decide) _) hh
  · change execLdf d b o l s = _
    rw [execLdf, fullEmpty]
    exact h.issue_waits rfl rfl (passesRelease_of_held hldf (by decide) _) hh
  · change execRsv d b o l s = _
    exact h.issue_waits (by rw [hrsv]; rfl) rfl (passesRelease_of_held hrsvw (by decide) _) hh
  · change execFadd d a b l w 0 s = _
    rw [execFadd, farOld, farAtomic]
    exact h.issue_waits rfl rfl (passesRelease_of_held hfadd (by decide) _) hh
  · change execFence false 0 2 s = _
    exact h.issue_waits rfl rfl (passesRelease_of_held hfence (by decide) _) hh
  · change execIcinv a b 2 s = _
    exact h.issue_waits rfl rfl (passesRelease_of_icinv hicinv hfn _) hh
  · change execGcall d a b s = _
    exact h.issue_waits (by rw [h.plain, hrsv]; rfl) rfl (passesRelease_of_held hgcall (by decide) _) hh

section
variable {s : State} {e : Bool} {k : BitVec 2} {sc : BitVec 3} (h : Clear {} s) (hlt : sc.toNat < 6) (hsc : sc ≠ 0)
include h hlt hsc

theorem fence_waits_posted (ha : fenceAwaits s k = true) : Waits (.fence e k sc) s .posted := by
  intro hh
  change execFence e k sc s = _
  rw [execFence_clear h hlt (.inr hsc), if_neg hsc, if_pos ha, stopAt_wait _ h.main hh rfl rfl rfl]

theorem fence_waits_engines (ha : ¬fenceAwaits s k = true) (he : e = true) (hw : engineWork s s.cur = true) :
    Waits (.fence e k sc) s .engines := by
  intro hh
  change execFence e k sc s = _
  rw [execFence_clear h hlt (.inr hsc), if_neg hsc, if_neg ha, if_pos (by rw [he, hw]; rfl),
    stopAt_wait _ h.main hh rfl rfl rfl]

/-- A FENCE that awaits nothing: a release-side one marks what the slot has posted (R274). -/
theorem fence_completes (ha : ¬fenceAwaits s k = true) (hw : e = false ∨ engineWork s s.cur = false) :
    exec (.fence e k sc) s = .next (if k = 2 && postedBy s s.cur then
      ({ s with held := s.fencedHeld } : State).setThr s.thr.wentOn else s.setThr s.thr.wentOn) := by
  have hn : ¬(e && engineWork s s.cur) = true := by
    rcases hw with hw | hw <;> simp [hw]
  change execFence e k sc s = _
  rw [execFence_clear h hlt (.inr hsc), if_neg hsc, if_neg ha, if_neg hn]

end

/-- Settles O25: ICINV and FENCE by what their bodies answer, and what follows a release-side FENCE by the issue stage. -/
theorem fenceAndInvalidate : Obligations.FenceAndInvalidate := by
  refine ⟨fun s a b sc h hsc hlt => ⟨fun hb => execIcinv_empty h hsc hlt hb, fun hb => icinv_outcomes h hsc hlt hb⟩,
    fun s k => ⟨fun hw hr => ?_, fun hw => ?_⟩, fun s e k sc h hlt => ?_, fun s d a b o l w hr hp hm hh hf => ?_⟩
  · refine ⟨retireSlot k s, ?_, resumes_retireSlot hr, fun _ => rfl, fun _ => rfl⟩
    change execIcinvComplete k s = _
    rw [execIcinvComplete, if_pos hw]
  · change execIcinvComplete k s = _
    rw [execIcinvComplete, if_neg hw]
  · refine ⟨fun hsc => ?_, fun hsc ha => ?_, fun hsc ha he hw => ?_, fun hsc ha hw => ⟨fun hk => ?_, fun hk hheld => ?_⟩⟩
    · change execFence false k sc s = _
      rw [execFence_clear h hlt (.inl rfl), if_pos hsc]
    · exact fence_waits_posted h hlt hsc (fenceAwaits_iff.2 ha)
    · exact fence_waits_engines h hlt hsc (fun hf => ha (fenceAwaits_iff.1 hf)) he hw
    · have hn : ¬(decide (k = 2) && postedBy s s.cur) = true := by
        rw [Bool.and_eq_true, decide_eq_true_eq, postedBy_iff]
        tauto
      rw [Gives, fence_completes h hlt hsc (fun hf => ha (fenceAwaits_iff.1 hf)) hw, if_neg hn]
    · have hpos : (decide (k = 2) && postedBy s s.cur) = true := by
        rw [Bool.and_eq_true, decide_eq_true_eq]
        exact ⟨hk, postedBy_iff.2 hheld⟩
      refine ⟨s.fencedHeld, ?_, s.fencedHeld_unfenced, fencedBy_fencedHeld⟩
      rw [fence_completes h hlt hsc (fun hf => ha (fenceAwaits_iff.1 hf)) hw, if_pos hpos]
  · have hfenced : Fenced s := ⟨hr, hp, hm, hh, hf⟩
    refine ⟨?_, fun hl hpost => ?_, fun i hi hrsv => hfenced.waits hrsv d a b o l w i hi⟩
    · exact hfenced.binary (passesRelease_of_major (major_arithmetic d a b w 0).1 _)
    · obtain ⟨-, -, -, -, -, -, -, -, -, hldd⟩ := codes_fence d a b o l w false false 0 0 2
      exact hfenced.ldd rfl hl hpost (passesRelease_of_load hldd)

end Sys2Proof.Machine
end

section
namespace Sys2Proof.Machine

/-! ## Vector instructions with nothing before them

What O5-O8 and O11-O13 share: elements as bit vectors, lists of element results as functions of the element's number, and
the outcome of the issue of an instruction that names a vector or mask register. -/

/-! ### Elements as bit vectors (R93) -/

theorem laneBits_pos (q : BitVec 2) : 0 < laneBits q := Nat.mul_pos (by decide : 0 < 8) (Nat.two_pow_pos _)

theorem laneBits_div (q : BitVec 2) : laneBits q / 8 = laneBytes q := Nat.mul_div_cancel_left _ (by decide : 0 < 8)

theorem lanes_count (w : Nat) : 128 / (8 * w) = 16 / w := Nat.mul_div_mul_left 16 w (by decide : 0 < 8)

theorem toNat_extractLsb' (x : Vec) (n e : Nat) : (x.extractLsb' (n * e) n).toNat = lane x n e := by
  rw [BitVec.extractLsb'_toNat, Nat.shiftRight_eq_div_pow, lane]

theorem ofNat_toNat_self {n : Nat} (x : BitVec n) : BitVec.ofNat n x.toNat = x := by
  rw [BitVec.ofNat_toNat, BitVec.setWidth_eq]

theorem ofNat_lane (x : Vec) (n e : Nat) : BitVec.ofNat n (lane x n e) = x.extractLsb' (n * e) n := by
  rw [← toNat_extractLsb', ofNat_toNat_self]

theorem extractLsb'_eq_ofNat {x : Vec} {n e k : Nat} (h : lane x n e = k % 2 ^ n) :
    x.extractLsb' (n * e) n = BitVec.ofNat n k :=
  BitVec.eq_of_toNat_eq (by rw [toNat_extractLsb', h, BitVec.toNat_ofNat])

theorem signed_toNat {n : Nat} (hn : 0 < n) (x : BitVec n) : signed n x.toNat = x.toInt := by
  obtain ⟨m, rfl⟩ := Nat.exists_eq_succ_of_ne_zero hn.ne'
  rw [BitVec.toInt_eq_toNat_cond, signed, Nat.succ_sub_one, Nat.pow_succ]
  congr 1
  exact propext ⟨fun _ => by omega, fun _ => by omega⟩

theorem signed_lane {n : Nat} (hn : 0 < n) (x : Vec) (e : Nat) : signed n (lane x n e) = (x.extractLsb' (n * e) n).toInt := by
  rw [← toNat_extractLsb', signed_toNat hn]

theorem ofNat_unsigned (n : Nat) (z : Int) : BitVec.ofNat n (unsigned n z) = BitVec.ofInt n z := by
  apply BitVec.eq_of_toNat_eq
  rw [BitVec.toNat_ofNat, BitVec.toNat_ofInt, unsigned, Nat.mod_eq_of_lt]
  have := Int.emod_lt_of_pos z (b := ((2 ^ n : Nat) : Int)) (by exact_mod_cast Nat.two_pow_pos n)
  omega

/-! ### Lists of element results -/

theorem lanes_eq_map (x : Vec) (w : Nat) : lanes x (8 * w) = (List.range (16 / w)).map (lane x (8 * w)) := by
  rw [lanes, lanes_count]

theorem zipWith_map_range {α β γ : Type} (f : α → β → γ) (g : Nat → α) (h : Nat → β) (k : Nat) :
    List.zipWith f ((List.range k).map g) ((List.range k).map h) = (List.range k).map (fun e => f (g e) (h e)) := by
  rw [List.zipWith_map, List.zipWith_self]

theorem getD_map_range {α : Type} (f : Nat → α) (d : α) {k e : Nat} (h : e < k) :
    ((List.range k).map f).getD e d = f e := by
  rw [List.getD_eq_getElem _ _ (by simpa using h), List.getElem_map, List.getElem_range]

/-- Past its elements a vector made of elements reads zero. -/
theorem lane_vecOf_past {n : Nat} {l : List Nat} {e : Nat} (h : l.length ≤ e) : lane (vecOf n l) n e = 0 := by
  have hlt : (vecOf n l).toNat < 2 ^ (n * e) := by
    refine lt_of_le_of_lt ?_ ((ofLanes_lt n l).trans_le (Nat.pow_le_pow_right (by decide) (Nat.mul_le_mul_left n h)))
    rw [vecOf, BitVec.toNat_ofNat]
    exact Nat.mod_le _ _
  rw [lane, Nat.div_eq_of_lt hlt, Nat.zero_mod]

/-- Element e of a vector made of at most 128 bits of elements. -/
theorem lane_vecOf_getD {n : Nat} {l : List Nat} (hl : n * l.length ≤ 128) (e : Nat) :
    lane (vecOf n l) n e = l.getD e 0 % 2 ^ n := by
  by_cases h : e < l.length
  · rw [lane_vecOf n l e h hl, List.getD_eq_getElem _ _ h]
  · rw [lane_vecOf_past (not_lt.1 h), List.getD_eq_default _ _ (not_lt.1 h), Nat.zero_mod]

/-! ### Masks (R94) -/

theorem testBit_ofLanes {n : Nat} (hn : 0 < n) (l : List Nat) (j : Nat) :
    (ofLanes n l).testBit j = (l.getD (j / n) 0).testBit (j % n) := by
  induction l generalizing j with
  | nil => simp [ofLanes]
  | cons x r ih =>
    rw [ofLanes, Nat.add_comm, Nat.testBit_two_pow_mul_add _ (Nat.mod_lt _ (Nat.two_pow_pos n))]
    split
    next h => simp [Nat.div_eq_of_lt h, Nat.mod_eq_of_lt h, h]
    next h =>
      have hle : n ≤ j := by omega
      rw [ih, Nat.div_eq_sub_div hn hle, List.getD_cons_succ, Nat.mod_eq_sub_mod hle]

/-- Bit j of a mask is that of its element j / w. -/
theorem getLsbD_maskOf {w j : Nat} (hw : w ∣ 16) (hj : j < 16) (f : Nat → Bool) :
    (maskOf w ((List.range (16 / w)).map f)).getLsbD j = f (j / w) := by
  have hpos : 0 < w := Nat.pos_of_dvd_of_pos hw (by decide)
  have he : j / w < 16 / w := Nat.div_lt_of_lt_mul (by rwa [Nat.mul_div_cancel' hw])
  have hr : j % w < w := Nat.mod_lt _ hpos
  rw [maskOf, BitVec.getLsbD_ofNat, decide_eq_true hj, Bool.true_and, testBit_ofLanes hpos, List.map_map,
    getD_map_range _ _ he, Function.comp_apply]
  cases f (j / w) <;> simp [hr]

theorem laneBytes_dvd (q : BitVec 2) : laneBytes q ∣ 16 :=
  Nat.pow_dvd_pow 2 (n := 4) (by have := q.isLt; omega)

theorem activity_eq (m : Mask) (w : Nat) : activity m w = (List.range (16 / w)).map (fun e => m.getLsbD (w * e)) :=
  List.map_congr_left fun e _ => by rw [active, bit, Nat.mul_comm]

/-! ### The outcome of the issue (R95, R96) -/

theorem Thread.withVx_wg (t : Thread) (b : Bool) (r : Reg) (x : Word) : (t.wg r x).withVx b = (t.withVx b).wg r x := by
  unfold Thread.wg; split <;> rfl

theorem Thread.withVx_wm (t : Thread) (b : Bool) (r : BitVec 2) (x : Mask) : (t.wm r x).withVx b = (t.withVx b).wm r x := by
  unfold Thread.wm; split <;> rfl

/-- An instruction that names a vector or mask register, whose body leaves the thread th of the current slot to complete. -/
theorem issue_vx {u : Use} {s t : State} {body : State → Except Stop State} {th : Thread} (h : Clear u.accept s)
    (hi : u.ill = false) (hp : u.priv = false) (hv : u.vx = true) (hr : th.rep = none) (hn : th.pending = [])
    (hb : body s = .ok (retire (t.setThr th))) :
    issue u body s = .next (t.setThr (th.withVx true).wentOn) := by
  rw [issue_clear body h hi hp, hb, retire_setThr, Thread.retire_main _ hr hn]
  exact congrArg Host.Outcome.next (setVx_setThr _ _ hv rfl)

section
variable {u : Use} {s : State} {body : State → Except Stop State} (h : Clear u.accept s) (hi : u.ill = false)
  (hp : u.priv = false) (hv : u.vx = true)
include h hi hp hv

/-- It writes a general register. -/
theorem issue_vx_wg {d : Reg} {x : Word} (hb : body s = .ok (retire (s.wg d x))) :
    issue u body s = .next (s.setThr ((s.thr.withVx true).wg d x).wentOn) := by
  rw [← Thread.withVx_wg]
  exact issue_vx h hi hp hv (by simp [h.main]) (by simp [h.idle]) hb

/-- It writes a mask register. -/
theorem issue_vx_wm {d : BitVec 2} {x : Mask} (hb : body s = .ok (retire (s.wm d x))) :
    issue u body s = .next (s.setThr ((s.thr.withVx true).wm d x).wentOn) := by
  rw [← Thread.withVx_wm]
  exact issue_vx h hi hp hv (by simp [h.main]) (by simp [h.idle]) hb

/-- It writes a vector register. -/
theorem issue_vx_wv {d : Reg} {x : Vec} (hb : body s = .ok (retire (s.wv d x))) :
    issue u body s = .next (s.setThr ((s.thr.withVx true).wv d x).wentOn) :=
  issue_vx (th := s.thr.wv d x) h hi hp hv (by simp [h.main]) (by simp [h.idle]) (by rw [hb, State.wv_eq _ _ _ h.plain])

end

/-- The outcome writes v[d], its active elements by f and the others as they were, and sets VX. -/
def WritesLanes (o : Out) (s : State) (d : Reg) (m q : BitVec 2) (f : Nat → BitVec (laneBits q)) : Prop :=
  ∃ x : Vec, o = .next (s.setThr ((s.thr.withVx true).wv d x).wentOn) ∧ ∀ e < 128 / laneBits q,
    x.extractLsb' (laneBits q * e) (laneBits q) = if (s.thr.rm m).getLsbD (laneBits q / 8 * e) then f e
      else (s.thr.rv d).extractLsb' (laneBits q * e) (laneBits q)

/-- The elements that a merge gives (R95). -/
theorem extractLsb'_merge (m : Mask) (q : BitVec 2) (old : Vec) (g : Nat → Nat) {e : Nat} (he : e < 128 / laneBits q) :
    (merge m (laneBytes q) old ((List.range (16 / laneBytes q)).map g)).extractLsb' (laneBits q * e) (laneBits q) =
      if m.getLsbD (laneBits q / 8 * e) then BitVec.ofNat (laneBits q) (g e)
      else old.extractLsb' (laneBits q * e) (laneBits q) := by
  have he' : e < 16 / laneBytes q := by rwa [← lanes_count]
  have hm := lane_merge m (laneBytes q) old ((List.range (16 / laneBytes q)).map g) e (by simp) he'
  rw [active, bit, getD_map_range _ _ he'] at hm
  rw [laneBits_div, Nat.mul_comm (laneBytes q) e]
  split
  next hon => exact extractLsb'_eq_ofNat (hm.trans (if_pos hon))
  next hon =>
    rw [← ofNat_lane old]
    exact extractLsb'_eq_ofNat ((hm.trans (if_neg hon)).trans (Nat.mod_eq_of_lt (lane_lt ..)).symm)

/-- An instruction whose body writes the active elements by a function of the element's number. -/
theorem issue_writesLanes {u : Use} {s : State} {body : State → Except Stop State} {d : Reg} {m q : BitVec 2}
    {g : Nat → Nat} {f : Nat → BitVec (laneBits q)} (h : Clear u.accept s) (hi : u.ill = false) (hp : u.priv = false)
    (hv : u.vx = true)
    (hb : body s = .ok (retire (writeLanes d m (laneBytes q) ((List.range (16 / laneBytes q)).map g) s)))
    (hf : ∀ e < 128 / laneBits q, BitVec.ofNat (laneBits q) (g e) = f e) :
    WritesLanes (issue u body s) s d m q f := by
  refine ⟨merge (s.thr.rm m) (laneBytes q) (s.thr.rv d) ((List.range (16 / laneBytes q)).map g), ?_, fun e he => ?_⟩
  · refine issue_vx_wv h hi hp hv ?_
    rw [hb, writeLanes_eq _ _ _ _ _ h.plain, State.wv_eq _ _ _ h.plain]
  · rw [extractLsb'_merge _ _ _ _ he, hf e he]

end Sys2Proof.Machine
end

section
namespace Sys2Proof.Machine

/-! ## O5: elementwise integer instructions and byte dot products -/

/-! ### Clamped results (R101) -/

theorem ofNat_clampSigned (n : Nat) (z : Int) :
    BitVec.ofNat n (clampSigned n z) = BitVec.ofInt n (max (-2 ^ (n - 1)) (min (2 ^ (n - 1) - 1) z)) := by
  rw [clampSigned, ofNat_unsigned, Nat.cast_pow]; rfl

theorem ofNat_clampNatural (n : Nat) (z : Int) :
    BitVec.ofNat n (clampNatural n z) = BitVec.ofInt n (max 0 (min (2 ^ n - 1) z)) := by
  rw [clampNatural, ← BitVec.ofInt_natCast, Int.toNat_of_nonneg (le_max_left _ _), Nat.cast_pow]
  rfl

theorem ofInt_toNat {n : Nat} (x : BitVec n) : BitVec.ofInt n (x.toNat : Int) = x := by
  rw [BitVec.ofInt_natCast, ofNat_toNat_self]

theorem ofInt_sub (n : Nat) (x y : Int) : BitVec.ofInt n (x - y) = BitVec.ofInt n x - BitVec.ofInt n y := by
  rw [Int.sub_eq_add_neg, BitVec.ofInt_add, BitVec.ofInt_neg, BitVec.sub_eq_add_neg]

theorem ofNat_mul_two_pow {n : Nat} (x : BitVec n) (k : Nat) : BitVec.ofNat n (x.toNat * 2 ^ k % 2 ^ n) = x <<< k :=
  BitVec.eq_of_toNat_eq (by simp [BitVec.toNat_shiftLeft, Nat.shiftLeft_eq])

/-- Where equal images come from equal values, a tie may go to either. -/
theorem ite_lt_eq_ite_le {α : Type} {f : α → Int} {x y : α} (h : f x = f y → x = y) :
    (if f x < f y then y else x) = if f x ≤ f y then y else x := by
  split
  next hlt => rw [if_pos hlt.le]
  next hlt =>
    split
    next hle => exact h (le_antisymm hle (not_lt.1 hlt))
    next => rfl

theorem ofNat_wrapOrSat {n : Nat} (hn : 0 < n) (x y : BitVec n) (op : Int → Int → Int) (sat : Bool) :
    BitVec.ofNat n (wrapOrSat op sat n x.toNat y.toNat) =
      if sat then BitVec.ofInt n (max (-2 ^ (n - 1)) (min (2 ^ (n - 1) - 1) (op x.toInt y.toInt)))
      else BitVec.ofInt n (op x.toNat y.toNat) := by
  rw [wrapOrSat, apply_ite (BitVec.ofNat n), ofNat_clampSigned, ofNat_unsigned, signed_toNat hn, signed_toNat hn]

/-! ### The elementwise form -/

theorem Clear.satHint {acc : Accept} {s : State} (h : Clear acc s) : s.satHint = s.thr.hints.hmod.getLsbD 20 := by
  rw [State.satHint, State.hmod, State.grp, h.grp, bit]

/-- An elementwise instruction by what it does with an element of each source. -/
theorem elementwise_lanes {s : State} {word : Nat} {d a b : Reg} {m q : BitVec 2} {takesSat : Bool}
    {f : Bool → Nat → Nat → Nat → Nat} (g : BitVec (laneBits q) → BitVec (laneBits q) → BitVec (laneBits q))
    (h : Clear { sat := takesSat } s)
    (hf : ∀ x y : BitVec (laneBits q),
      BitVec.ofNat (laneBits q) (f (s.thr.hints.hmod.getLsbD 20) (laneBits q) x.toNat y.toNat) = g x y) :
    WritesLanes (elementwise word d a b m q takesSat f s) s d m q
      (fun e => g ((s.thr.rv a).extractLsb' (laneBits q * e) (laneBits q))
        ((s.thr.rv b).extractLsb' (laneBits q * e) (laneBits q))) := by
  refine issue_writesLanes (g := fun e => f (s.thr.hints.hmod.getLsbD 20) (laneBits q) (lane (s.thr.rv a) (laneBits q) e)
    (lane (s.thr.rv b) (laneBits q) e)) h rfl rfl rfl ?_ fun e _ => ?_
  · simp only [State.rv_eq _ _ h.plain, h.satHint, laneBits, lanes_eq_map, zipWith_map_range]
  · rw [← hf, toNat_extractLsb', toNat_extractLsb']

theorem vabs_lanes {s : State} {d a : Reg} {m q : BitVec 2} (h : Clear { sat := true } s) :
    WritesLanes (execVabs d a m q s) s d m q (fun e =>
      let x : BitVec (laneBits q) := (s.thr.rv a).extractLsb' (laneBits q * e) (laneBits q)
      if s.thr.hints.hmod.getLsbD 20 then
        BitVec.ofInt (laneBits q) (max (-2 ^ (laneBits q - 1)) (min (2 ^ (laneBits q - 1) - 1) x.toInt.natAbs))
      else BitVec.ofInt (laneBits q) x.toInt.natAbs) := by
  refine issue_writesLanes (g := fun e =>
    let y : Int := ((signed (laneBits q) (lane (s.thr.rv a) (laneBits q) e)).natAbs : Int)
    if s.thr.hints.hmod.getLsbD 20 then clampSigned (laneBits q) y else unsigned (laneBits q) y)
    h rfl rfl rfl ?_ fun e _ => ?_
  · simp only [State.rv_eq _ _ h.plain, h.satHint, laneBits, lanes_eq_map, List.map_map, Function.comp_def]
  · rw [apply_ite (BitVec.ofNat _), ofNat_clampSigned, ofNat_unsigned, signed_lane (laneBits_pos q)]

/-! ### Byte dot products (R102) -/

/-- Byte j of a 32-bit element. -/
theorem lane_byte (x : Vec) (e : Nat) {j : Nat} (hj : j < 4) : lane x 32 e / 256 ^ j % 256 = lane x 8 (4 * e + j) := by
  have hsplit : 2 ^ 32 = 2 ^ (8 * j) * 2 ^ (32 - 8 * j) := by rw [← Nat.pow_add]; congr 1; omega
  have hdvd : 256 ∣ 2 ^ (32 - 8 * j) := Nat.pow_dvd_pow 2 (m := 8) (by omega)
  rw [lane, lane, show 256 ^ j = 2 ^ (8 * j) from (Nat.pow_mul 2 8 j).symm, hsplit, Nat.mod_mul_right_div_self,
    Nat.mod_mod_of_dvd _ hdvd, Nat.div_div_eq_div_mul, ← Nat.pow_add]
  congr 3
  omega

section
variable (sat : Bool) (acc x y : Vec) (e : Nat)

theorem dot4_signed : BitVec.ofNat 32 (dot4 false sat (lane acc 32 e) (lane x 32 e) (lane y 32 e)) =
    let byte (x : Vec) (k : Nat) : BitVec 8 := x.extractLsb' (8 * k) 8
    let sum := (acc.extractLsb' (32 * e) 32).toInt +
      (byte x (4 * e)).toInt * (byte y (4 * e)).toInt + (byte x (4 * e + 1)).toInt * (byte y (4 * e + 1)).toInt +
      (byte x (4 * e + 2)).toInt * (byte y (4 * e + 2)).toInt + (byte x (4 * e + 3)).toInt * (byte y (4 * e + 3)).toInt
    BitVec.ofInt 32 (if sat then max (-2 ^ 31) (min (2 ^ 31 - 1) sum) else sum) := by
  have hr : List.range 4 = [0, 1, 2, 3] := rfl
  simp only [dot4, hr, List.foldl_cons, List.foldl_nil, lane_byte, signed_lane, Nat.add_zero, Nat.reduceLT,
    Bool.false_eq_true, if_false, apply_ite (BitVec.ofNat 32), apply_ite (BitVec.ofInt 32), ofNat_clampSigned, ofNat_unsigned]

theorem dot4_natural : BitVec.ofNat 32 (dot4 true sat (lane acc 32 e) (lane x 32 e) (lane y 32 e)) =
    let byte (x : Vec) (k : Nat) : BitVec 8 := x.extractLsb' (8 * k) 8
    let sum : Nat := (acc.extractLsb' (32 * e) 32).toNat +
      (byte x (4 * e)).toNat * (byte y (4 * e)).toNat + (byte x (4 * e + 1)).toNat * (byte y (4 * e + 1)).toNat +
      (byte x (4 * e + 2)).toNat * (byte y (4 * e + 2)).toNat + (byte x (4 * e + 3)).toNat * (byte y (4 * e + 3)).toNat
    BitVec.ofInt 32 (if sat then max 0 (min (2 ^ 32 - 1) sum) else sum) := by
  have hr : List.range 4 = [0, 1, 2, 3] := rfl
  simp only [dot4, hr, List.foldl_cons, List.foldl_nil, lane_byte, toNat_extractLsb', Nat.add_zero, Nat.reduceLT,
    if_true, Nat.cast_add, Nat.cast_mul, apply_ite (BitVec.ofNat 32), apply_ite (BitVec.ofInt 32), ofNat_clampNatural,
    ofNat_unsigned]

end

/-- A byte dot product by what it makes of the accumulator and its sources, element by element. -/
theorem dotProduct_lanes {s : State} {word : Nat} {d a b : Reg} {m : BitVec 2} {natural : Bool} {f : Nat → BitVec 32}
    (h : Clear { sat := true } s)
    (hf : ∀ e < 4, BitVec.ofNat 32 (dot4 natural (s.thr.hints.hmod.getLsbD 20) (lane (s.thr.rv d) 32 e)
      (lane (s.thr.rv a) 32 e) (lane (s.thr.rv b) 32 e)) = f e) :
    WritesLanes (dotProduct word d a b m natural s) s d m 2 f := by
  have hlanes (x : Vec) : lanes x 32 = (List.range 4).map (lane x 32) := rfl
  refine issue_writesLanes (g := fun e => dot4 natural (s.thr.hints.hmod.getLsbD 20) (lane (s.thr.rv d) 32 e)
      (lane (s.thr.rv a) 32 e) (lane (s.thr.rv b) 32 e)) h rfl rfl rfl ?_ hf
  simp only [State.rv_eq _ _ h.plain, h.satHint, hlanes, List.zip_map', zipWith_map_range]
  rfl

/-- Settles O5: the number that the model computes of two elements is the code of the statement's result. What `done` says is
used once, in `lanes`, and then kept opaque, so that each operation is found by its name alone. -/
theorem vectorIntegerResults : Obligations.VectorIntegerResults := by
  refine ⟨?_, ?_⟩
  · intro s d a b m w n el on done clamp clampN
    have hn : 0 < n := laneBits_pos w
    have lanes (o : State → Out) {i : Instr} {word : Nat} {sat : Bool} {f : Bool → Nat → Nat → Nat → Nat}
        {g : BitVec n → BitVec n → BitVec n} (h : Clear { sat := sat } s) (hi : exec i s = o s)
        (ho : o = elementwise word d a b m w sat f)
        (hf : ∀ x y : BitVec n, BitVec.ofNat n (f (s.thr.hints.hmod.getLsbD 20) n x.toNat y.toNat) = g x y) : done i g :=
      show WritesLanes (exec i s) s d m w _ from hi ▸ ho ▸ elementwise_lanes g h hf
    have abs (h : Clear { sat := true } s) : done (.vabs d a m w) (fun x _ => if s.thr.hints.hmod.getLsbD 20 then
        clamp x.toInt.natAbs else BitVec.ofInt n x.toInt.natAbs) := vabs_lanes h
    clear_value done
    refine ⟨fun h => ⟨?_, ?_, ?_, ?_, ?_⟩, fun h => ?_⟩
    · refine lanes (execVadd d a b m w) h rfl rfl fun x y => ?_
      rw [ofNat_wrapOrSat hn, BitVec.ofInt_add, ofInt_toNat, ofInt_toNat]
    · refine lanes (execVsub d a b m w) h rfl rfl fun x y => ?_
      rw [ofNat_wrapOrSat hn, ofInt_sub, ofInt_toNat, ofInt_toNat]
    · refine lanes (execVmul d a b m w) h rfl rfl fun x y => ?_
      rw [ofNat_wrapOrSat hn, BitVec.ofInt_mul, ofInt_toNat, ofInt_toNat]
    · refine lanes (execVshl d a b m w) h rfl rfl fun x y => ?_
      rw [apply_ite (BitVec.ofNat n), ofNat_clampSigned, signed_toNat hn, Nat.cast_pow, ofNat_mul_two_pow]
      rfl
    · exact abs h
    · refine ⟨?_, ?_, ?_, ?_, ?_, ?_, ?_, ?_, ?_, ?_, ?_, ?_, ?_, ?_, ?_, ?_, ?_, ?_⟩
      · refine lanes (execVadds d a b m w) h rfl rfl fun x y => ?_
        rw [ofNat_clampSigned, signed_toNat hn, signed_toNat hn]
      · exact lanes (execVaddsn d a b m w) h rfl rfl fun x y => ofNat_clampNatural n _
      · refine lanes (execVsubs d a b m w) h rfl rfl fun x y => ?_
        rw [ofNat_clampSigned, signed_toNat hn, signed_toNat hn]
      · exact lanes (execVsubsn d a b m w) h rfl rfl fun x y => ofNat_clampNatural n _
      · refine lanes (execVmulh d a b m w) h rfl rfl fun x y => ?_
        rw [ofNat_unsigned, signed_toNat hn, signed_toNat hn, Nat.cast_pow]
        rfl
      · exact lanes (execVmulhn d a b m w) h rfl rfl fun x y => rfl
      · refine lanes (execVmin d a b m w) h rfl rfl fun x y => ?_
        simp only [signed_toNat hn, apply_ite (BitVec.ofNat n), ofNat_toNat_self, ← Int.not_le, ite_not]
      · refine lanes (execVmax d a b m w) h rfl rfl fun x y => ?_
        rw [signed_toNat hn, signed_toNat hn, apply_ite (BitVec.ofNat n), ofNat_toNat_self, ofNat_toNat_self]
        exact ite_lt_eq_ite_le BitVec.toInt_inj.1
      · refine lanes (execVminn d a b m w) h rfl rfl fun x y => ?_
        rw [Nat.min_def, apply_ite (BitVec.ofNat n), ofNat_toNat_self, ofNat_toNat_self]
      · refine lanes (execVmaxn d a b m w) h rfl rfl fun x y => ?_
        rw [Nat.max_def, apply_ite (BitVec.ofNat n), ofNat_toNat_self, ofNat_toNat_self]
      · refine lanes (execVand d a b m w) h rfl rfl fun x y => ?_
        rw [← BitVec.toNat_and, ofNat_toNat_self]
      · refine lanes (execVor d a b m w) h rfl rfl fun x y => ?_
        rw [← BitVec.toNat_or, ofNat_toNat_self]
      · refine lanes (execVxor d a b m w) h rfl rfl fun x y => ?_
        rw [← BitVec.toNat_xor, ofNat_toNat_self]
      · refine lanes (execVandn d a b m w) h rfl rfl fun x y => ?_
        rw [← BitVec.toNat_not, ← BitVec.toNat_and, ofNat_toNat_self]
      · refine lanes (execVshr d a b m w) h rfl rfl fun x y => ?_
        rw [← Nat.shiftRight_eq_div_pow, ← BitVec.toNat_ushiftRight, ofNat_toNat_self]
      · refine lanes (execVsra d a b m w) h rfl rfl fun x y => ?_
        rw [ofNat_unsigned, signed_toNat hn, ← Int.shiftRight_eq_div_pow, ← BitVec.toInt_sshiftRight, BitVec.ofInt_toInt]
      · refine lanes (execVavg d a b m w) h rfl rfl fun x y => ?_
        rw [ofNat_unsigned, signed_toNat hn, signed_toNat hn]
      · exact lanes (execVavgn d a b m w) h rfl rfl fun x y => rfl
  · intro s d a b m h el byte sat x y done
    refine ⟨?_, ?_⟩
    · show WritesLanes (execVdot4 d a b m s) s d m 2 _
      exact dotProduct_lanes h fun e _ => dot4_signed ..
    · show WritesLanes (execVdot4n d a b m s) s d m 2 _
      exact dotProduct_lanes h fun e _ => dot4_natural ..

end Sys2Proof.Machine
end

section
namespace Sys2Proof.Machine

/-! ## O6: vector compares -/

/-- A compare by what it tests of an element of each source (R103). -/
theorem compare_mask {s : State} {word : Nat} {d : BitVec 2} {a b : Reg} {m q : BitVec 2} {f : Nat → Nat → Nat → Bool}
    {c : BitVec (laneBits q) → BitVec (laneBits q) → Prop} (h : Clear {} s)
    (hf : ∀ x y : BitVec (laneBits q), f (laneBits q) x.toNat y.toNat = true ↔ c x y) :
    ∃ x : Mask, compare word d a b m q f s = .next (s.setThr ((s.thr.withVx true).wm d x).wentOn) ∧
      ∀ j < 16, x.getLsbD j = true ↔ ((s.thr.rm m).getLsbD (laneBits q / 8 * (j / (laneBits q / 8))) = true ∧
        c ((s.thr.rv a).extractLsb' (laneBits q * (j / (laneBits q / 8))) (laneBits q))
          ((s.thr.rv b).extractLsb' (laneBits q * (j / (laneBits q / 8))) (laneBits q))) := by
  refine ⟨maskOf (laneBytes q) ((List.range (16 / laneBytes q)).map fun e => (s.thr.rm m).getLsbD (laneBytes q * e) &&
    f (laneBits q) (lane (s.thr.rv a) (laneBits q) e) (lane (s.thr.rv b) (laneBits q) e)), ?_, fun j hj => ?_⟩
  · refine issue_vx_wm h rfl rfl rfl ?_
    simp only [State.rv_eq _ _ h.plain, State.rm, activity_eq, laneBits, lanes_eq_map, zipWith_map_range]
  · rw [getLsbD_maskOf (laneBytes_dvd q) hj, Bool.and_eq_true, laneBits_div, ← hf, toNat_extractLsb', toNat_extractLsb']

/-- Settles O6: a compare's test of two elements is the statement's. -/
theorem vectorCompareResults : Obligations.VectorCompareResults := by
  intro s d a b m w h n el done
  have hn : 0 < n := laneBits_pos w
  have compares (o : State → Out) {i : Instr} {word : Nat} {f : Nat → Nat → Nat → Bool}
      {c : BitVec n → BitVec n → Prop} (hi : exec i s = o s) (ho : o = compare word d a b m w f)
      (hf : ∀ x y : BitVec n, f n x.toNat y.toNat = true ↔ c x y) : done i c :=
    (compare_mask (q := w) h hf).imp fun _ hx => ⟨hi.trans (ho ▸ hx.1), hx.2⟩
  clear_value done
  refine ⟨?_, ?_, ?_⟩
  · exact compares (execVcmpeq d a b m w) rfl rfl fun x y => beq_iff_eq.trans BitVec.toNat_inj
  · refine compares (execVcmplt d a b m w) rfl rfl fun x y => ?_
    rw [decide_eq_true_iff, signed_toNat hn, signed_toNat hn]
  · exact compares (execVcmpltn d a b m w) rfl rfl fun x y => decide_eq_true_iff

end Sys2Proof.Machine
end

section
namespace Sys2Proof.Machine

/-! ## O7: selects, permutes and moves -/

/-- A permute by the element that it gives to each place (R116). -/
theorem permute_lanes {u : Use} {s : State} {d : Reg} {m q : BitVec 2} {f : State → Nat → Nat → Nat}
    {g : Nat → BitVec (laneBits q)} (h : Clear u.accept s) (hi : u.ill = false) (hp : u.priv = false) (hv : u.vx = true)
    (hf : ∀ e < 128 / laneBits q, BitVec.ofNat (laneBits q) (f s (laneBits q) e) = g e) :
    WritesLanes (permute u d m q f s) s d m q g :=
  issue_writesLanes h hi hp hv rfl hf

theorem vsel_lanes {s : State} {d a b c : Reg} {m q : BitVec 2} (h : Clear {} s) :
    WritesLanes (execVsel d a b c m q s) s d m q (fun e =>
      if (s.thr.rv c).extractLsb' (laneBits q * e) (laneBits q) = 0 then
        (s.thr.rv b).extractLsb' (laneBits q * e) (laneBits q)
      else (s.thr.rv a).extractLsb' (laneBits q * e) (laneBits q)) := by
  refine issue_writesLanes (g := fun e => if lane (s.thr.rv c) (laneBits q) e = 0 then lane (s.thr.rv b) (laneBits q) e
    else lane (s.thr.rv a) (laneBits q) e) h rfl rfl rfl ?_ fun e _ => ?_
  · simp only [State.rv_eq _ _ h.plain, laneBits, lanes_eq_map, List.zip_map', zipWith_map_range, ne_eq, ite_not]
    rfl
  · have hz : (s.thr.rv c).extractLsb' (laneBits q * e) (laneBits q) = 0 ↔ lane (s.thr.rv c) (laneBits q) e = 0 := by
      rw [← toNat_extractLsb', ← BitVec.toNat_inj]; rfl
    simp only [hz, apply_ite (BitVec.ofNat (laneBits q)), ofNat_lane]

/-- The element that stands at place e once the elements of a vector of k have moved up by g places around it. -/
theorem rotated_place {k g e : Nat} (hg : g < k) (he : e < k) : (e + k - g) % k = if g ≤ e then e - g else e + k - g := by
  split
  next hle => rw [show e + k - g = e - g + k by omega, Nat.add_mod_right, Nat.mod_eq_of_lt (by omega)]
  next hlt => exact Nat.mod_eq_of_lt (by omega)

theorem ofNat_pairLane (x y : Vec) (n j : Nat) : BitVec.ofNat n (pairLane x y n j) =
    if j < 128 / n then x.extractLsb' (n * j) n else y.extractLsb' (n * (j - 128 / n)) n := by
  rw [pairLane, apply_ite (BitVec.ofNat n), ofNat_lane, ofNat_lane]

theorem ofNat_mod_two_pow (n : Nat) (x : Word) : BitVec.ofNat n (x.toNat % 2 ^ n) = x.setWidth n :=
  BitVec.eq_of_toNat_eq (by rw [BitVec.toNat_ofNat, Nat.mod_mod, BitVec.toNat_setWidth])

theorem vcompress_lanes {s : State} {d a : Reg} {m q : BitVec 2} (h : Clear {} s) :
    let kept := (List.range (128 / laneBits q)).filter (fun e => (s.thr.rm m).getLsbD (laneBits q / 8 * e))
    ∃ r : Vec, execVcompress d a m q s = .next (s.setThr ((s.thr.withVx true).wv d r).wentOn) ∧
      ∀ e < 128 / laneBits q, r.extractLsb' (laneBits q * e) (laneBits q) =
        (kept.map (fun e => (s.thr.rv a).extractLsb' (laneBits q * e) (laneBits q))).getD e 0 := by
  intro kept
  have hkept : (List.range (128 / laneBits q)).filter (active (s.thr.rm m) (laneBytes q)) = kept :=
    List.filter_congr fun e _ => by rw [active, bit, laneBits_div, Nat.mul_comm]
  refine ⟨vecOf (laneBits q) (kept.map (lane (s.thr.rv a) (laneBits q))), ?_, fun e _ => ?_⟩
  · refine issue_vx_wv h rfl rfl rfl ?_
    simp only [State.rv_eq _ _ h.plain, State.rm, hkept]
  · have hlen : kept.length ≤ 128 / laneBits q := (List.length_filter_le _ _).trans_eq List.length_range
    have hfit : laneBits q * (kept.map (lane (s.thr.rv a) (laneBits q))).length ≤ 128 := by
      rw [List.length_map]
      exact (Nat.mul_le_mul_left _ hlen).trans (Nat.mul_div_le _ _)
    rw [extractLsb'_eq_ofNat (lane_vecOf_getD hfit e), ← List.getD_map _ _ (BitVec.ofNat (laneBits q)), List.map_map]
    simp only [Function.comp_def, ofNat_lane]
    rfl

/-- Settles O7: each permute names the element that the statement's table names. -/
theorem vectorMoveResults : Obligations.VectorMoveResults := by
  refine ⟨fun s d a b c u m w h => ?_, fun s d a m w h => vcompress_lanes h⟩
  have hk : 0 < 128 / laneBits w := by
    rw [laneBits, lanes_count]
    exact Nat.div_pos (Nat.le_of_dvd (by decide) (laneBytes_dvd w)) (Nat.two_pow_pos _)
  refine ⟨?_, ?_, ?_, ?_, ?_, ?_, ?_, ?_, ?_⟩
  · exact vsel_lanes h
  · show WritesLanes (execVshuf d a b c m w s) s d m w _
    refine permute_lanes h rfl rfl rfl fun e _ => ?_
    rw [ofNat_pairLane, State.rv_eq _ _ h.plain, State.rv_eq _ _ h.plain, State.rv_eq _ _ h.plain, ← toNat_extractLsb']
    rfl
  · show WritesLanes (execVzip d a b u m w s) s d m w _
    refine permute_lanes h rfl rfl rfl fun e _ => ?_
    have hu : (if u = true then 128 / laneBits w / 2 else 0) = u.toNat * (128 / laneBits w / 2) := by cases u <;> simp
    dsimp only
    rw [apply_ite (BitVec.ofNat _), ofNat_lane, ofNat_lane, State.rv_eq _ _ h.plain, State.rv_eq _ _ h.plain, ← hu]
    rfl
  · show WritesLanes (execVunzip d a b u m w s) s d m w _
    refine permute_lanes h rfl rfl rfl fun e _ => ?_
    rw [ofNat_pairLane, State.rv_eq _ _ h.plain, State.rv_eq _ _ h.plain]
    cases u <;> rfl
  · show WritesLanes (execVrotl d a b m w s) s d m w _
    refine permute_lanes h rfl rfl rfl fun e he => ?_
    rw [ofNat_lane, State.rv_eq _ _ h.plain, rotated_place (Nat.mod_lt _ hk) he]
    rfl
  · show WritesLanes (execVbcst d a b m w s) s d m w _
    refine permute_lanes h rfl rfl rfl fun e _ => ?_
    rw [ofNat_lane, State.rv_eq _ _ h.plain]
    rfl
  · show WritesLanes (execVsplat d a m w s) s d m w _
    exact permute_lanes h rfl rfl rfl fun e _ => ofNat_mod_two_pow _ _
  · show WritesLanes (execVins d a b m w s) s d m w _
    refine permute_lanes h rfl rfl rfl fun e _ => ?_
    rw [apply_ite (BitVec.ofNat _), ofNat_mod_two_pow, ofNat_lane, State.rv_eq _ _ h.plain]
    rfl
  · show WritesLanes (execVmov d a m w s) s d m w _
    refine permute_lanes h rfl rfl rfl fun e _ => ?_
    rw [ofNat_lane, State.rv_eq _ _ h.plain]
    rfl

end Sys2Proof.Machine
end

section
namespace Sys2Proof.Machine

/-! ## O8: masks, extracts and reductions -/

theorem maskOp_clear {s : State} (word : Nat) (d a b : BitVec 2) (f : Mask → Mask → Mask) (h : Clear {} s) :
    maskOp word d a b f s = .next (s.setThr ((s.thr.withVx true).wm d (f (s.thr.rm a) (s.thr.rm b))).wentOn) := by
  rw [maskOp]
  exact issue_vx_wm h rfl rfl rfl rfl

theorem maskToGeneral_clear {s : State} (word : Nat) (d : Reg) (a : BitVec 2) (f : Mask → Nat) (h : Clear {} s) :
    maskToGeneral word d a f s =
      .next (s.setThr ((s.thr.withVx true).wg d (BitVec.ofNat 64 (f (s.thr.rm a)))).wentOn) := by
  rw [maskToGeneral]
  exact issue_vx_wg h rfl rfl rfl rfl

/-- A reduction works on the active elements in ascending order, as signed. -/
theorem reduce_clear {s : State} (word : Nat) (d a : Reg) (m q : BitVec 2) (f : Nat → List Int → Int) (h : Clear {} s) :
    reduce word d a m q f s = .next (s.setThr ((s.thr.withVx true).wg d (BitVec.ofInt 64 (f (laneBits q)
      (((List.range (128 / laneBits q)).filter (fun e => (s.thr.rm m).getLsbD (laneBits q / 8 * e))).map
        (fun e => ((s.thr.rv a).extractLsb' (laneBits q * e) (laneBits q)).toInt))))).wentOn) := by
  have hactive : active (s.thr.rm m) (laneBytes q) = fun e => (s.thr.rm m).getLsbD (laneBits q / 8 * e) :=
    funext fun e => by rw [active, bit, laneBits_div, Nat.mul_comm]
  rw [reduce]
  refine issue_vx_wg h rfl rfl rfl ?_
  simp only [State.rv_eq _ _ h.plain, State.rm, hactive, signed_lane (laneBits_pos q)]

theorem popCount_mask (x : Mask) : popCount 16 x.toNat = ((List.range 16).filter (fun i => x.getLsbD i)).length := by
  have := popCount_eq 16 (x.setWidth 64)
  rwa [BitVec.toNat_setWidth_of_le (by decide), BitVec.setWidth_setWidth_of_le _ (by decide), BitVec.setWidth_eq] at this

theorem trailingZeros_mask (x : Mask) :
    trailingZeros 16 x.toNat = ((List.range 16).takeWhile (fun i => !x.getLsbD i)).length := by
  have := trailingZeros_eq 16 (x.setWidth 64)
  rwa [BitVec.toNat_setWidth_of_le (by decide), BitVec.setWidth_setWidth_of_le _ (by decide), BitVec.setWidth_eq] at this

/-- From a start below a list, the fold by max is the greatest of the list. -/
theorem foldl_max_greatest {l : List Int} {x : Int} (hl : l ≠ []) (hx : ∀ u ∈ l, x ≤ u) :
    l.foldl max x ∈ l ∧ ∀ u ∈ l, u ≤ l.foldl max x := by
  obtain ⟨z, hz⟩ := Option.ne_none_iff_exists'.1 (mt List.max?_eq_none_iff.1 hl)
  have hg := List.max?_eq_some_iff.1 hz
  rwa [List.foldl_max, hz, Option.getD_some, max_eq_right (hx z hg.1)]

/-- From a start above a list, the fold by min is the least of the list. -/
theorem foldl_min_least {l : List Int} {x : Int} (hl : l ≠ []) (hx : ∀ u ∈ l, u ≤ x) :
    l.foldl min x ∈ l ∧ ∀ u ∈ l, l.foldl min x ≤ u := by
  obtain ⟨z, hz⟩ := Option.ne_none_iff_exists'.1 (mt List.min?_eq_none_iff.1 hl)
  have hg := List.min?_eq_some_iff.1 hz
  rwa [List.foldl_min, hz, Option.getD_some, min_eq_right (hx z hg.1)]

/-- Settles O8: counts and reductions are folds over the bits and the active elements. -/
theorem maskResults : Obligations.MaskResults := by
  intro s d a b r q m w h t x y n el active zs
  have hn : 0 < n := laneBits_pos w
  refine ⟨?_, ?_, ?_, ?_, ?_, ?_, ?_, ?_, fun p => ?_, ?_, ?_, ?_⟩
  · exact maskOp_clear _ d a b (fun x y => x &&& y) h
  · exact maskOp_clear _ d a b (fun x y => x ||| y) h
  · exact maskOp_clear _ d a b (fun x y => x ^^^ y) h
  · exact maskOp_clear _ d a a (fun x _ => ~~~x) h
  · rw [← popCount_mask]
    exact maskToGeneral_clear _ r a (fun x => popCount 16 x.toNat) h
  · rw [← trailingZeros_mask]
    exact maskToGeneral_clear _ r a (fun x => trailingZeros 16 x.toNat) h
  · change execMfromg d q s = _
    rw [execMfromg]
    exact issue_vx_wm h rfl rfl rfl rfl
  · rw [← BitVec.ofNat_toNat]
    exact maskToGeneral_clear _ r a (fun x => x.toNat) h
  · change execVext r q p w s = _
    rw [execVext, ← BitVec.ofNat_toNat, toNat_extractLsb']
    refine issue_vx_wg h rfl rfl rfl ?_
    rw [State.rv_eq _ _ h.plain]
    rfl
  · rw [List.sum_eq_foldl]
    exact reduce_clear _ r q m w (fun _ l => l.foldl (fun x y => x + y) 0) h
  · refine ⟨zs.foldl max (-(2 ^ (n - 1) : Nat)), ?_, fun hnil => ?_, fun hne => ?_⟩
    · exact reduce_clear _ r q m w (fun n l => l.foldl max (-(2 ^ (n - 1) : Nat))) h
    · rw [show zs = [] from List.map_eq_nil_iff.2 hnil, List.foldl_nil, Nat.cast_pow]
      rfl
    · refine foldl_max_greatest (mt List.map_eq_nil_iff.1 hne) fun u hu => ?_
      obtain ⟨e, -, rfl⟩ := List.mem_map.1 hu
      rw [Nat.cast_pow]
      exact BitVec.le_toInt _
  · refine ⟨zs.foldl min ((2 ^ (n - 1) : Nat) - 1), ?_, fun hnil => ?_, fun hne => ?_⟩
    · exact reduce_clear _ r q m w (fun n l => l.foldl min ((2 ^ (n - 1) : Nat) - 1)) h
    · rw [show zs = [] from List.map_eq_nil_iff.2 hnil, List.foldl_nil, Nat.cast_pow]
      rfl
    · refine foldl_min_least (mt List.map_eq_nil_iff.1 hne) fun u hu => ?_
      obtain ⟨e, -, rfl⟩ := List.mem_map.1 hu
      rw [Nat.cast_pow]
      exact Int.le_sub_one_of_lt (BitVec.toInt_lt)

end Sys2Proof.Machine
end

section
namespace Sys2Proof.Machine

/-! ## O11-O13: float vectors

The element results of a float instruction are a function `op` of the element's number: its code with its flags. -/

/-! ### Formats and flags (R93, R99) -/

theorem formatOf_bits (q : BitVec 2) : (formatOf q).bits = 8 * ((formatOf q).bits / 8) := by
  unfold formatOf
  split
  · rfl
  · split <;> rfl

theorem formatOf_bytes_dvd (q : BitVec 2) : (formatOf q).bits / 8 ∣ 16 := by
  unfold formatOf
  split
  · exact ⟨8, rfl⟩
  · split
    · exact ⟨4, rfl⟩
    · exact ⟨8, rfl⟩

theorem formatOf_lanes (q : BitVec 2) : 128 / (formatOf q).bits = 16 / ((formatOf q).bits / 8) := by
  conv_lhs => rw [formatOf_bits q, lanes_count]

theorem lanes_formatOf (x : Vec) (q : BitVec 2) :
    lanes x (formatOf q).bits = (List.range (16 / ((formatOf q).bits / 8))).map (lane x (formatOf q).bits) := by
  rw [lanes, formatOf_lanes]

theorem vals_formatOf (x : Vec) (q : BitVec 2) : (formatOf q).vals x =
    (List.range (16 / ((formatOf q).bits / 8))).map (fun e => (formatOf q).val (lane x (formatOf q).bits e)) := by
  rw [Fmt.vals, lanes_formatOf, List.map_map]; rfl

/-- The thread with flags raised in fstat. -/
def Thread.raised (t : Thread) (fl : Word) : Thread := { t with fstat := t.fstat ||| fl }

@[simp] theorem Thread.raised_rep (t : Thread) (fl : Word) : (t.raised fl).rep = t.rep := rfl
@[simp] theorem Thread.raised_pending (t : Thread) (fl : Word) : (t.raised fl).pending = t.pending := rfl

theorem raise_setThr (f : Nat) (s : State) (t : Thread) : raise f (s.setThr t) = s.setThr (t.raised (BitVec.ofNat 64 f)) :=
  State.mapThr_setThr s t _

/-- The flags that the active elements raise together. -/
def activeFlags (m : Mask) (w : Nat) (op : Nat → Nat × Nat) : Nat :=
  ((List.range (16 / w)).map (fun e => if m.getLsbD (w * e) then (op e).2 else 0)).foldl (fun a b => a ||| b) 0

theorem testBit_foldl_or (l : List Nat) (x k : Nat) :
    (l.foldl (fun a b => a ||| b) x).testBit k = true ↔ x.testBit k = true ∨ ∃ y ∈ l, y.testBit k = true := by
  induction l generalizing x with
  | nil => simp
  | cons y l ih => rw [List.foldl_cons, ih, Nat.testBit_or, Bool.or_eq_true, or_assoc]; simp

theorem testBit_activeFlags (m : Mask) (w : Nat) (op : Nat → Nat × Nat) (k : Nat) :
    (activeFlags m w op).testBit k = true ↔ ∃ e < 16 / w, m.getLsbD (w * e) = true ∧ (op e).2.testBit k = true := by
  have hon (e : Nat) : (if m.getLsbD (w * e) then (op e).2 else 0).testBit k = true ↔
      m.getLsbD (w * e) = true ∧ (op e).2.testBit k = true := by
    split
    next h => simp [h]
    next h => simp [h]
  simp [activeFlags, testBit_foldl_or, hon]

/-! ### Results with their flags (R95, R99) -/

/-- A vector and flags as a float instruction leaves them: the active elements by op with their flags, the others as in
v[d]. -/
def FloatLanes (s : State) (d : Reg) (m q : BitVec 2) (op : Nat → Nat × Nat) (r : Vec) (fl : Word) : Prop :=
  (∀ e < 128 / (formatOf q).bits, lane r (formatOf q).bits e =
    if (s.thr.rm m).getLsbD ((formatOf q).bits / 8 * e) then (op e).1 % 2 ^ (formatOf q).bits
    else lane (s.thr.rv d) (formatOf q).bits e) ∧
  ∀ k, fl.getLsbD k = true ↔ k < 64 ∧ ∃ e < 128 / (formatOf q).bits,
    (s.thr.rm m).getLsbD ((formatOf q).bits / 8 * e) = true ∧ (op e).2.testBit k = true

/-- The vector that a float instruction leaves. -/
def floatMerge (s : State) (d : Reg) (m q : BitVec 2) (op : Nat → Nat × Nat) : Vec :=
  merge (s.thr.rm m) ((formatOf q).bits / 8) (s.thr.rv d) ((List.range (16 / ((formatOf q).bits / 8))).map fun e => (op e).1)

/-- The flags that a float instruction raises. -/
def floatFlags (s : State) (m q : BitVec 2) (op : Nat → Nat × Nat) : Word :=
  BitVec.ofNat 64 (activeFlags (s.thr.rm m) ((formatOf q).bits / 8) op)

theorem floatLanes (s : State) (d : Reg) (m q : BitVec 2) (op : Nat → Nat × Nat) :
    FloatLanes s d m q op (floatMerge s d m q op) (floatFlags s m q op) := by
  refine ⟨fun e he => ?_, fun k => ?_⟩
  · rw [formatOf_lanes] at he
    have hm := lane_merge (s.thr.rm m) ((formatOf q).bits / 8) (s.thr.rv d)
      ((List.range (16 / ((formatOf q).bits / 8))).map fun e => (op e).1) e (by simp) he
    rwa [active, bit, getD_map_range _ _ he, ← formatOf_bits, Nat.mul_comm e] at hm
  · rw [floatFlags, BitVec.getLsbD_ofNat, Bool.and_eq_true, decide_eq_true_iff, testBit_activeFlags, formatOf_lanes]

theorem zipWith_activity (s : State) (m q : BitVec 2) (op : Nat → Nat × Nat) :
    (List.zipWith (fun on p => if on then p.2 else 0) (activity (s.rm m) ((formatOf q).bits / 8))
      ((List.range (16 / ((formatOf q).bits / 8))).map op)).foldl (fun a b => a ||| b) 0 =
      activeFlags (s.thr.rm m) ((formatOf q).bits / 8) op := by
  rw [activity_eq, zipWith_map_range]; rfl

theorem floatWrite_eq {s : State} (d : Reg) (m q : BitVec 2) (op : Nat → Nat × Nat) (h : s.thr.winMode = false) :
    floatWrite d m (formatOf q) ((List.range (16 / ((formatOf q).bits / 8))).map op) s =
      s.setThr ((s.thr.wv d (floatMerge s d m q op)).raised (floatFlags s m q op)) := by
  rw [floatWrite, zipWith_activity, writeLanes_eq _ _ _ _ _ h, raise_setThr, List.map_map]
  rfl

/-- A write of elements without flags is one with no flag raised. -/
theorem writeLanes_eq_floatWrite {s : State} (d : Reg) (m q : BitVec 2) (g : Nat → Nat) (h : s.thr.winMode = false) :
    writeLanes d m ((formatOf q).bits / 8) ((List.range (16 / ((formatOf q).bits / 8))).map g) s =
      floatWrite d m (formatOf q) ((List.range (16 / ((formatOf q).bits / 8))).map fun e => (g e, 0)) s := by
  have hnone : activeFlags (s.thr.rm m) ((formatOf q).bits / 8) (fun e => (g e, 0)) = 0 := Nat.eq_of_testBit_eq fun k => by
    rw [Bool.eq_iff_iff, testBit_activeFlags]; simp
  have hflags : floatFlags s m q (fun e => (g e, 0)) = 0#64 := by rw [floatFlags, hnone]
  rw [floatWrite_eq _ _ _ _ h, hflags, writeLanes_eq _ _ _ _ _ h, Thread.raised, BitVec.or_zero]
  rfl

/-- The outcome writes v[d] and raises flags in fstat as a float instruction does, and sets VX. -/
def WritesFloats (o : Out) (s : State) (d : Reg) (m q : BitVec 2) (op : Nat → Nat × Nat) : Prop :=
  ∃ (r : Vec) (fl : Word),
    o = .next (s.setThr (((s.thr.withVx true).raised fl).wv d r).wentOn) ∧ FloatLanes s d m q op r fl

theorem issue_writesFloats {u : Use} {s : State} {body : State → Except Stop State} {d : Reg} {m q : BitVec 2}
    {op : Nat → Nat × Nat} (h : Clear u.accept s) (hi : u.ill = false) (hp : u.priv = false) (hv : u.vx = true)
    (hb : body s = .ok (retire (floatWrite d m (formatOf q) ((List.range (16 / ((formatOf q).bits / 8))).map op) s))) :
    WritesFloats (issue u body s) s d m q op := by
  refine ⟨floatMerge s d m q op, floatFlags s m q op, ?_, floatLanes ..⟩
  rw [floatWrite_eq _ _ _ _ h.plain] at hb
  exact issue_vx (th := (s.thr.wv d (floatMerge s d m q op)).raised (floatFlags s m q op)) h hi hp hv h.main h.idle hb

/-! ### The forms of majors 0x15 and 0x16 (R112, R113) -/

theorem Clear.rounding {acc : Accept} {s : State} (h : Clear acc s) :
    s.rounding = if s.thr.hints.hmod.getLsbD 23 then field s.thr.hints.hmod 22 21 else 0 := by
  rw [State.rounding, State.hmod, State.grp, h.grp, bit]

section
variable {s : State} {word : Nat} {d a b c : Reg} {m q : BitVec 2} (hq : q ≠ 3)
include hq

theorem floatBinary_floats (op : Fmt → Nat → FVal → FVal → Nat × Nat) (h : Clear { rm := true } s) :
    WritesFloats (floatBinary word d a b m q op s) s d m q (fun e => op (formatOf q) s.rounding
      ((formatOf q).val (lane (s.thr.rv a) (formatOf q).bits e))
      ((formatOf q).val (lane (s.thr.rv b) (formatOf q).bits e))) := by
  refine issue_writesFloats h (beq_false_of_ne hq) rfl rfl ?_
  simp only [State.rv_eq _ _ h.plain, vals_formatOf, zipWith_map_range]

theorem fused_floats (np nc : Bool) (h : Clear { rm := true } s) :
    WritesFloats (fused word d a b c m q np nc s) s d m q (fun e =>
      let x := (formatOf q).val (lane (s.thr.rv a) (formatOf q).bits e)
      let z := (formatOf q).val (lane (s.thr.rv c) (formatOf q).bits e)
      (formatOf q).fma s.rounding (if np then x.negate else x) ((formatOf q).val (lane (s.thr.rv b) (formatOf q).bits e))
        (if nc then z.negate else z)) := by
  refine issue_writesFloats h (beq_false_of_ne hq) rfl rfl ?_
  simp only [State.rv_eq _ _ h.plain, vals_formatOf, List.zip_map', zipWith_map_range]

theorem floatPick_floats (second : FVal → FVal → Bool) (h : Clear {} s) :
    WritesFloats (floatPick word d a b m q (fun u v => !second u v) s) s d m q (fun e =>
      let x := lane (s.thr.rv a) (formatOf q).bits e
      let y := lane (s.thr.rv b) (formatOf q).bits e
      let u := (formatOf q).val x
      let v := (formatOf q).val y
      if u.isNan || v.isNan then (formatOf q).invalid (u.isSignalling || v.isSignalling)
      else (if second u v then y else x, 0)) := by
  refine issue_writesFloats h (beq_false_of_ne hq) rfl rfl ?_
  simp only [State.rv_eq _ _ h.plain, lanes_formatOf, zipWith_map_range, Bool.not_eq_true', ← Bool.not_eq_true, ite_not]

theorem floatSign_floats (g : Fmt → Nat → Nat) (h : Clear {} s) :
    WritesFloats (floatSign word d a m q g s) s d m q
      (fun e => (g (formatOf q) (lane (s.thr.rv a) (formatOf q).bits e), 0)) := by
  refine issue_writesFloats h (beq_false_of_ne hq) rfl rfl ?_
  simp only [State.rv_eq _ _ h.plain, lanes_formatOf, List.map_map, Function.comp_def,
    writeLanes_eq_floatWrite _ _ _ _ h.plain]

end

theorem signBit_formatOf (q : BitVec 2) : (formatOf q).signBit = 2 ^ ((formatOf q).bits - 1) := by
  rw [Fmt.signBit, Fmt.bits, Nat.add_assoc, Nat.add_sub_cancel_left]

/-- Adding the sign bit flips it. -/
theorem signBit_flip (q : BitVec 2) {x : Nat} (hx : x < 2 ^ (formatOf q).bits) :
    (if x < (formatOf q).signBit then x + (formatOf q).signBit else x - (formatOf q).signBit) =
      (x + 2 ^ ((formatOf q).bits - 1)) % 2 ^ (formatOf q).bits := by
  have hb : 2 ^ (formatOf q).bits = 2 * 2 ^ ((formatOf q).bits - 1) := by
    rw [← Nat.pow_succ']; congr 1; rw [Fmt.bits]; omega
  rw [signBit_formatOf]
  rw [hb] at hx ⊢
  split
  next hlt => rw [Nat.mod_eq_of_lt (by omega)]
  next hge => rw [Nat.mod_eq_sub_mod (by omega), Nat.mod_eq_of_lt (by omega)]; omega

/-- Settles O11: the results of a float instruction, with their flags, are a function of the element's number. -/
theorem floatResults : Obligations.FloatResults := by
  intro s d a b c m q hq f n on x y z done nan quiet
  refine ⟨fun h => ?_, fun h => ?_⟩
  · rw [← h.rounding]
    refine ⟨?_, ?_, ?_, ?_, ?_, ?_⟩
    · exact floatBinary_floats hq Fmt.add h
    · exact floatBinary_floats hq (fun f rm x y => f.add rm x y.negate) h
    · exact floatBinary_floats hq Fmt.mul h
    · exact fused_floats hq false false h
    · exact fused_floats hq false true h
    · exact fused_floats hq true false h
  · refine ⟨?_, ?_, ?_, ?_⟩
    · exact floatPick_floats hq (fun u v => v.below u) h
    · exact floatPick_floats hq (fun u v => u.below v) h
    · have hsign := floatSign_floats (word := wordVfabs d a m q) (d := d) (a := a) (m := m) hq (fun f x => x % f.signBit) h
      rwa [signBit_formatOf] at hsign
    · have hsign := floatSign_floats (word := wordVfneg d a m q) (d := d) (a := a) (m := m) hq
        (fun f x => if x < f.signBit then x + f.signBit else x - f.signBit) h
      simp only [signBit_flip q (lane_lt _ _ _)] at hsign
      exact hsign

/-! ## O12: float compares -/

theorem Thread.withVx_raised_wm (t : Thread) (d : BitVec 2) (x : Mask) (fl : Word) :
    ((t.wm d x).raised fl).withVx true = ((t.withVx true).raised fl).wm d x := by
  unfold Thread.wm; split <;> rfl

/-- The outcome writes the mask m[d], its active elements by c, raises NV where nv says so of an active element, and sets
VX. -/
def WritesFloatMask (o : Out) (s : State) (d : BitVec 2) (m q : BitVec 2) (c nv : Nat → Bool) : Prop :=
  ∃ (r : Mask) (fl : Word), o = .next (s.setThr (((s.thr.withVx true).raised fl).wm d r).wentOn) ∧
    (∀ j < 16, r.getLsbD j = ((s.thr.rm m).getLsbD ((formatOf q).bits / 8 * (j / ((formatOf q).bits / 8))) &&
      c (j / ((formatOf q).bits / 8)))) ∧
    fl = if (List.range (128 / (formatOf q).bits)).any
      (fun e => (s.thr.rm m).getLsbD ((formatOf q).bits / 8 * e) && nv e) then 16 else 0

/-- A float compare by what holds of the elements and by what raises NV. -/
theorem floatCompare_mask {s : State} {word : Nat} {d : BitVec 2} {a b : Reg} {m q : BitVec 2} {quiet : Bool}
    {test : FVal → FVal → Bool} {c nv : Nat → Bool} (hq : q ≠ 3) (h : Clear {} s)
    (hc : ∀ e, test ((formatOf q).val (lane (s.thr.rv a) (formatOf q).bits e))
      ((formatOf q).val (lane (s.thr.rv b) (formatOf q).bits e)) = c e)
    (hnv : ∀ e, (let x := (formatOf q).val (lane (s.thr.rv a) (formatOf q).bits e)
      let y := (formatOf q).val (lane (s.thr.rv b) (formatOf q).bits e)
      if quiet then x.isSignalling || y.isSignalling else x.isNan || y.isNan) = nv e) :
    WritesFloatMask (floatCompare word d a b m q quiet test s) s d m q c nv := by
  refine ⟨maskOf ((formatOf q).bits / 8) ((List.range (16 / ((formatOf q).bits / 8))).map fun e =>
    (s.thr.rm m).getLsbD ((formatOf q).bits / 8 * e) && c e), _, ?_, fun j hj => ?_, rfl⟩
  · rw [← Thread.withVx_raised_wm]
    refine issue_vx h (beq_false_of_ne hq) rfl rfl ?_ ?_ ?_
    · exact (Thread.wm_rep ..).trans h.main
    · exact (Thread.wm_pending ..).trans h.idle
    · simp only [State.rv_eq _ _ h.plain, State.rm, vals_formatOf, activity_eq, List.zip_map', zipWith_map_range,
        formatOf_lanes, State.wm_eq, raise_setThr, List.any_map, Function.comp_def, hc, hnv,
        apply_ite (BitVec.ofNat 64)]
      rfl
  · exact getLsbD_maskOf (formatOf_bytes_dvd q) hj _

/-- Settles O12: the tests of the model hold of no NaN but VFCMPUN's. -/
theorem floatCompareResults : Obligations.FloatCompareResults := by
  intro s d a b m q h hq f n on x y nan sig done
  have compares (o : State → Out) {i : Instr} {word : Nat} {quiet : Bool} {test : FVal → FVal → Bool}
      {c nv : Nat → Bool} (hi : exec i s = o s) (ho : o = floatCompare word d a b m q quiet test) (hc : ∀ e, test (x e) (y e) = c e)
      (hnv : ∀ e, (if quiet then (x e).isSignalling || (y e).isSignalling else (x e).isNan || (y e).isNan) = nv e) :
      done i c nv :=
    show WritesFloatMask (exec i s) s d m q c nv from hi ▸ ho ▸ floatCompare_mask hq h hc hnv
  clear_value done
  have hordered (e : Nat) : ordered (x e) (y e) = !nan e := (Bool.not_or ..).symm
  refine ⟨?_, ?_, ?_, ?_⟩
  · exact compares (execVfcmpeq d a b m q) rfl rfl (fun e => by rw [hordered]) fun _ => rfl
  · exact compares (execVfcmplt d a b m q) rfl rfl (fun e => by rw [hordered]) fun _ => rfl
  · exact compares (execVfcmple d a b m q) rfl rfl (fun e => by rw [hordered]) fun _ => rfl
  · exact compares (execVfcmpun d a b m q) rfl rfl (fun e => by rw [hordered, Bool.not_not]) fun _ => rfl

/-! ## O13: special functions -/

/-- The outcome leaves v[d] owed, with results and flags as a float instruction has them, and sets VX. -/
def OwesFloats (o : Out) (s : State) (d : Reg) (l : BitVec 4) (m q : BitVec 2) (op : Nat → Nat × Nat) : Prop :=
  ∃ (r : Vec) (fl : Word),
    o = .next (s.setThr (((s.thr.withVx true).raised fl).owes (.vec d) r l.toNat false)) ∧ FloatLanes s d m q op r fl

/-- A special function by the results of its elements (R115). -/
theorem special_floats {s : State} {word : Nat} {d : Reg} {rs : List Reg} {l : BitVec 4} {m q : BitVec 2} {rm : Bool}
    {results : State → Fmt → List (Nat × Nat)} {op : Nat → Nat × Nat} (hq : q ≠ 3) (h : Clear { rm := rm } s)
    (hr : results s (formatOf q) = (List.range (16 / ((formatOf q).bits / 8))).map op) :
    OwesFloats (special word d rs l m q rm results s) s d l m q op := by
  refine ⟨floatMerge s d m q op, floatFlags s m q op, ?_, floatLanes ..⟩
  have hraise : raise (activeFlags (s.thr.rm m) ((formatOf q).bits / 8) op) s =
      s.setThr (s.thr.raised (floatFlags s m q op)) := rfl
  rw [special, issue_clear _ h (beq_false_of_ne hq) rfl]
  simp only [hr, zipWith_activity, hraise, List.map_map, State.oldv_eq _ _ h.plain]
  rw [retireLong_main _ _ _ _ _ (by simpa using h.main) (by simpa using h.idle), State.setThr_setThr,
    setVx_setThr _ _ rfl rfl, State.thr_setThr]
  rfl

theorem special1_floats {s : State} {word : Nat} {d a : Reg} {l : BitVec 4} {m q : BitVec 2} {rm : Bool}
    (op : Nat → Fmt → FVal → Nat × Nat) (hq : q ≠ 3) (h : Clear { rm := rm } s) :
    OwesFloats (special1 word d a l m q rm op s) s d l m q
      (fun e => op s.rounding (formatOf q) ((formatOf q).val (lane (s.thr.rv a) (formatOf q).bits e))) := by
  refine special_floats hq h ?_
  rw [State.rv_eq _ _ h.plain, vals_formatOf, List.map_map]
  rfl

/-- Settles O13. -/
theorem specialFunctionResults : Obligations.SpecialFunctionResults := by
  intro s d a b l m q hq f n on x y done
  refine ⟨fun h => ?_, fun h => ?_⟩
  · rw [← h.rounding]
    refine ⟨?_, ?_, ?_, ?_⟩
    · exact special1_floats (fun rm f x => f.div rm (.fin false 1 0) x) hq h
    · exact special1_floats (fun rm f x => f.rsqrt rm x) hq h
    · exact special1_floats (fun rm f x => f.sqrt rm x) hq h
    · show OwesFloats (execVdiv d a b l m q s) s d l m q _
      refine special_floats hq h ?_
      simp only [State.rv_eq _ _ h.plain, vals_formatOf, zipWith_map_range]
      rfl
  · refine ⟨?_, ?_, ?_⟩
    · exact special1_floats (fun _ f x => exp2 f x) hq h
    · exact special1_floats (fun _ f x => log2 f x) hq h
    · exact special1_floats (fun _ f x => tanh f x) hq h

end Sys2Proof.Machine
end

section
namespace Sys2Proof.Machine

/-! ## O9: neighbour sends and receives -/

theorem State.core_setCore_ne (s : State) {n j : Nat} (c : CoreState) (h : j ≠ n) : (s.setCore n c).core j = s.core j :=
  SMap.get_set_ne _ _ _ _ _ h

@[simp] theorem State.neighbour_setThr (s : State) (t : Thread) (n k : Nat) (r : Bool) :
    (s.setThr t).neighbour n k r = s.neighbour n k r := rfl

@[simp] theorem State.neighbour_setNeighbour (s : State) (n k : Nat) (r : Bool) (x : Neighbour) :
    (s.setNeighbour n k r x).neighbour n k r = x := by
  rw [State.neighbour, State.setNeighbour, State.core_setCore, SMap.get_set_self]

theorem State.neighbour_setNeighbour_ne (s : State) {n j : Nat} (k : Nat) (r : Bool) (x : Neighbour) (h : j ≠ n) :
    (s.setNeighbour n k r x).neighbour j k r = s.neighbour j k r := by
  rw [State.neighbour, State.setNeighbour, State.core_setCore_ne _ _ h, State.neighbour]

/-- The next core around the ring is another one. -/
theorem downstream_ne (n : Nat) (r : Bool) : downstream n r ≠ n := by
  unfold downstream
  cases r
  · simp only [Bool.false_eq_true, if_false]; omega
  · simp only [if_true]; omega

/-- An instruction with nothing before it whose body answers a wait (R70). -/
theorem issue_clear_waits {u : Use} {s : State} {body : State → Except Stop State} (w : Wait) (h : Clear u.accept s)
    (hi : u.ill = false) (hp : u.priv = false) (hh : s.Unheld) (hb : body s = .error (.wait w))
    (he : enterWait w s = (w, s)) (hm : waitMarks w s = s) (hn : w.isWord = false) :
    issue u body s = .next (s.setThr (s.thr.waits w)) := by
  rw [issue_clear body h hi hp, hb]
  exact congrArg Host.Outcome.next (stopAt_wait w h.main hh he hm hn)

/-- An instruction with nothing before it that names no vector or mask register, whose body completes. -/
theorem issue_scalar_ok {u : Use} {s t : State} {body : State → Except Stop State} (h : Clear u.accept s)
    (hi : u.ill = false) (hp : u.priv = false) (hv : u.vx = false) (hb : body s = .ok t) : issue u body s = .next t := by
  rw [issue_scalar body h hi hp hv, hb]

/-- The state with new neighbour states of slot k in two cores, n and then j, and a new thread of the current slot: what a
send or a receive leaves. -/
def State.passed (s : State) (n j k : Nat) (r : Bool) (x y : Neighbour) (t : Thread) : State :=
  ((s.setNeighbour n k r x).setNeighbour j k r y).setThr t

section
variable (s : State) {n j : Nat} (k : Nat) (r : Bool) (x y : Neighbour) (t : Thread)

theorem State.passed_near (h : j ≠ n) : (s.passed n j k r x y t).neighbour n k r = x := by
  rw [State.passed, State.neighbour_setThr, State.neighbour_setNeighbour_ne _ _ _ _ h.symm, State.neighbour_setNeighbour]

theorem State.passed_far : (s.passed n j k r x y t).neighbour j k r = y := by
  rw [State.passed, State.neighbour_setThr, State.neighbour_setNeighbour]

theorem State.passed_thr : (s.passed n j k r x y t).thr = t := State.thr_setThr ..

theorem State.passed_memory : SameMemory s (s.passed n j k r x y t) := ⟨fun _ => rfl, fun _ => rfl⟩

theorem State.passed_others : SameOthers s (s.passed n j k r x y t) := fun i hi =>
  State.thread_setThr_ne ((s.setNeighbour n k r x).setNeighbour j k r y) i t hi

end

section
variable {s : State} (h : Clear {} s)
include h

theorem execNsend_clear (a : Reg) (r : Bool) :
    let n := coreOf s.cur
    let k := localSlot s.cur
    let me := s.neighbour n k r
    let next := s.neighbour (downstream n r) k r
    me.count < me.limit → execNsend a r s = .next (s.passed n (downstream n r) k r { me with count := me.count + 1 }
      { next with queue := next.queue ++ [s.thr.rv a] } (s.thr.withVx true).wentOn) := by
  intro n k me next hlt
  refine issue_vx (th := s.thr) h rfl rfl rfl h.main h.idle ?_
  have hfar := s.neighbour_setNeighbour_ne k r { me with count := me.count + 1 } (downstream_ne n r)
  dsimp only
  rw [if_neg (not_le.2 hlt), hfar, State.rv_eq _ _ h.plain, retire_setThr]
  rfl

theorem execNrecv_clear (d : Reg) (r : Bool) {x : Vec} {q : List Vec} :
    let n := coreOf s.cur
    let k := localSlot s.cur
    let me := s.neighbour n k r
    let sender := s.neighbour (downstream n (!r)) k r
    me.queue = x :: q → execNrecv d r s = .next (s.passed n (downstream n (!r)) k r { me with queue := q }
      { sender with count := sender.count - 1 } ((s.thr.withVx true).wv d x).wentOn) := by
  intro n k me sender hq
  refine issue_vx (th := s.thr.wv d x) h rfl rfl rfl h.main h.idle ?_
  have hfar := s.neighbour_setNeighbour_ne k r { me with queue := q } (downstream_ne n (!r))
  dsimp only
  rw [hq]
  dsimp only
  rw [hfar]
  exact congrArg (fun t => Except.ok (retire t)) (State.wv_eq _ d x h.plain)

end

/-- Settles O9: a send and a receive change the neighbour states of two different cores. -/
theorem neighbourResults : Obligations.NeighbourResults := by
  intro s d a r h n k down up me
  have hup : up = downstream n (!r) := by cases r <;> rfl
  refine ⟨fun hlt => ?_, fun hle hh => ?_, fun x q hq => ?_, fun hq hh => ?_, fun hx => ?_, fun h1 h4 => ?_, fun hx => ?_⟩
  · exact ⟨_, execNsend_clear h a r hlt, State.passed_thr .., State.passed_far ..,
      s.passed_near _ _ _ _ _ (downstream_ne n r), State.passed_memory .., s.passed_others _ _ _ _ _⟩
  · change execNsend a r s = _
    exact issue_clear_waits (.nsend r) h rfl rfl hh (if_pos hle) rfl rfl rfl
  · rw [hup]
    exact ⟨_, execNrecv_clear h d r hq, State.passed_thr .., s.passed_near _ _ _ _ _ (downstream_ne n _),
      State.passed_far .., State.passed_memory .., s.passed_others _ _ _ _ _⟩
  · change execNrecv d r s = _
    refine issue_clear_waits (.nrecv r) h rfl rfl hh ?_ rfl rfl rfl
    dsimp only
    rw [show (s.neighbour (coreOf s.cur) (localSlot s.cur) r).queue = [] from hq]
  · change execNwin d a r s = _
    refine issue_scalar_ok h rfl rfl rfl ?_
    dsimp only
    rw [if_pos hx, retire_wg h]
  · change execNwin d a r s = _
    refine issue_scalar_ok h rfl rfl rfl ?_
    have hthr : (s.thr.wg d (BitVec.ofNat 64 me.limit)).retire = (s.thr.wg d (BitVec.ofNat 64 me.limit)).wentOn :=
      Thread.retire_main _ (by simp [h.main]) (by simp [h.idle])
    dsimp only
    rw [if_neg (by omega), if_pos h4, State.wg_eq, retire_setThr]
    exact congrArg (fun t => Except.ok (State.setThr _ t)) hthr
  · change execNwin d a r s = _
    refine issue_scalar_ok h rfl rfl rfl ?_
    dsimp only
    rw [if_neg (by omega), if_neg (by omega), retire_wg h]
    rfl

end Sys2Proof.Machine
end

section
namespace Sys2Proof.Machine

/-! ## O17: VADD in window mode -/

/-! ### Window buffers (R104) -/

/-- The buffer x of a slot with new content. -/
def State.setWindow (s : State) (n slot x : Nat) (v : Option Vec) : State :=
  s.setCore n { s.core n with windows := (s.core n).windows.set (4 * slot + x - 12) v }

theorem State.windowBuf_setWindow (s : State) (n slot x j y : Nat) (v : Option Vec) :
    (s.setWindow n slot x v).windowBuf n j y = if 4 * j + y - 12 = 4 * slot + x - 12 then v else s.windowBuf n j y := by
  rw [State.windowBuf, State.setWindow, State.core_setCore, SMap.get_set, State.windowBuf]

/-- The state once the buffers l of a slot have been emptied. -/
def State.emptied (s : State) (n slot : Nat) (l : List Nat) : State := l.foldl (fun s x => s.setWindow n slot x none) s

theorem State.windowBuf_emptied (s : State) (n slot j y : Nat) (l : List Nat) :
    (s.emptied n slot l).windowBuf n j y =
      if ∃ x ∈ l, 4 * j + y - 12 = 4 * slot + x - 12 then none else s.windowBuf n j y := by
  unfold State.emptied
  induction l generalizing s with
  | nil => simp
  | cons x l ih =>
    rw [List.foldl_cons, ih, State.windowBuf_setWindow]
    by_cases hx : 4 * j + y - 12 = 4 * slot + x - 12 <;> simp [hx]

/-- Emptying buffers changes the cores alone. -/
theorem State.emptied_frame (s : State) (n slot : Nat) (l : List Nat) :
    ∃ c, s.emptied n slot l = { s with cores := c } := by
  unfold State.emptied
  induction l generalizing s with
  | nil => exact ⟨s.cores, rfl⟩
  | cons x l ih =>
    obtain ⟨c, hc⟩ := ih (s.setWindow n slot x none)
    exact ⟨c, hc⟩

theorem State.emptied_thread (s : State) (n slot k : Nat) (l : List Nat) : (s.emptied n slot l).thread k = s.thread k := by
  obtain ⟨c, hc⟩ := s.emptied_frame n slot l
  rw [hc]; rfl

theorem State.emptied_thr (s : State) (n slot : Nat) (l : List Nat) : (s.emptied n slot l).thr = s.thr := by
  obtain ⟨c, hc⟩ := s.emptied_frame n slot l
  rw [hc]; rfl

theorem State.emptied_memory (s : State) (n slot : Nat) (l : List Nat) : SameMemory s (s.emptied n slot l) := by
  obtain ⟨c, hc⟩ := s.emptied_frame n slot l
  rw [hc]
  exact ⟨fun _ => rfl, fun _ => rfl⟩

theorem State.windowBuf_emptied_self (s : State) (n slot : Nat) {x : Nat} {l : List Nat} (h : x ∈ l) :
    (s.emptied n slot l).windowBuf n slot x = none := by
  rw [State.windowBuf_emptied, if_pos ⟨x, h, rfl⟩]

theorem consume_window {u : Use} {s t : State} (h : s.thr.winMode = true) :
    consume u s t = t.emptied (coreOf s.cur) ((localSlot s.cur + 7) % 8) u.consumes := by
  rw [consume, if_pos h]; rfl

section
variable {s : State} {r : Reg}

theorem State.rv_window (hw : s.thr.winMode = true) (hr : 12 ≤ r.toNat) :
    s.rv r = (s.windowBuf (coreOf s.cur) ((localSlot s.cur + 7) % 8) r.toNat).getD 0 := by
  simp [State.rv, hw, hr]

theorem State.wv_window (hw : s.thr.winMode = true) (hr : 12 ≤ r.toNat) (x : Vec) :
    s.wv r x = s.setWindow (coreOf s.cur) (localSlot s.cur) r.toNat (some x) := by
  simp [State.wv, hw, hr, State.setWindow]

theorem State.oldv_window (hw : s.thr.winMode = true) (hr : 12 ≤ r.toNat) : s.oldv r = 0 := by
  simp [State.oldv, hw, hr]

end

/-! ### The issue in window mode -/

/-- The main stream of the current slot is in window mode, with nothing pending and no hint group. -/
structure Windowed (s : State) : Prop where
  main : s.thr.rep = none
  idle : s.thr.pending = []
  window : s.thr.winMode = true
  unhinted : s.thr.hints = {}

/-- In window mode an instruction that a release-side FENCE lets pass waits for its buffers alone (R104). -/
theorem Windowed.precheck {s : State} {u : Use} (h : Windowed s) (hi : u.ill = false) (hp : u.priv = false)
    (hl : u.long = false) (hf : passesRelease u.word 0#24 = true) :
    precheck u s = if s.windowsReady s.cur u.consumes u.fills then none else some (.wait (.windows u.consumes u.fills)) := by
  have hbody : s.thr.inBody = false := by rw [Thread.inBody, h.main]
  have hgrp : s.thr.grp = {} := by rw [Thread.grp, h.main, h.unhinted]
  have hhmod : Hints.hmod {} = 0#24 := rfl
  by_cases hr : s.windowsReady s.cur u.consumes u.fills
  · simp [Machine.precheck, h.main, h.idle, h.window, hbody, hgrp, Hints.legal_empty, hi, hp, hl, hf, hr, hhmod]
  · simp [Machine.precheck, h.main, h.idle, h.window, hbody, hgrp, Hints.legal_empty, hi, hp, hl, hr]

section
variable {s : State} {u : Use} {body : State → Except Stop State} (h : Windowed s) (hi : u.ill = false)
  (hp : u.priv = false) (hl : u.long = false) (hf : passesRelease u.word 0#24 = true)
include h hi hp hl hf

theorem Windowed.issue_ready {t : State} (hr : s.windowsReady s.cur u.consumes u.fills = true) (hb : body s = .ok t) :
    issue u body s = .next ((setVx u t).emptied (coreOf s.cur) ((localSlot s.cur + 7) % 8) u.consumes) := by
  rw [issue, h.precheck hi hp hl hf, if_pos hr]
  dsimp only
  rw [hb, ← consume_window h.window]

theorem Windowed.issue_waits (hr : ¬s.windowsReady s.cur u.consumes u.fills = true) (hh : s.Unheld) :
    issue u body s = .next (s.setThr (s.thr.waits (.windows u.consumes u.fills))) := by
  rw [issue, h.precheck hi hp hl hf, if_neg hr]
  exact congrArg Host.Outcome.next (stopAt_wait _ h.main hh rfl rfl rfl)

end

/-- A vector instruction of majors 0x14 to 0x1C accesses no memory, so a release-side FENCE lets it pass (R274). -/
theorem passesRelease_of_vector {word : Nat} (hlo : 0x14 ≤ fld word 31 26) (hhi : fld word 31 26 ≤ 0x1C)
    (hmod : BitVec 24) : passesRelease word hmod = true := by
  have ha : majorApart (field (BitVec.ofNat 32 word) 31 26) = true := by
    rw [field_ofNat (by decide) (by decide)]
    simp [majorApart, hlo, hhi]
  unfold passesRelease
  simp only [ha, Bool.true_or]

theorem major_vadd (d a b : Reg) (m w : BitVec 2) : fld (wordVadd d a b m w) 31 26 = 0x14 := by
  simp only [wordVadd, fld_add_above, gap_add, gap_literal, fld_literal, Nat.reduceLeDiff, Nat.reduceAdd,
    Nat.reduceSub, Nat.reduceMod, Nat.reduceShiftRight, Nat.reduceShiftLeft]

/-! ### VADD -/

theorem passesRelease_vadd (d a b : Reg) (m w : BitVec 2) (hmod : BitVec 24) :
    passesRelease (wordVadd d a b m w) hmod = true := by
  have hmajor := major_vadd d a b m w
  exact passesRelease_of_vector (by omega) (by omega) hmod

/-- What VADD is to the issue stage. -/
def vaddUse (d a b : Reg) (m w : BitVec 2) : Use :=
  { vecUse (wordVadd d a b m w) [a, b] [d] m with accept := { sat := true } }

theorem mem_consumes_vadd {d a b : Reg} {m w : BitVec 2} (ha : 12 ≤ a.toNat) (hb : 12 ≤ b.toNat) {x : Nat} :
    x ∈ (vaddUse d a b m w).consumes ↔ x = a.toNat ∨ x = b.toNat := by
  simp [Use.consumes, vaddUse, vecUse, ha, hb]

theorem fills_vadd {d a b : Reg} {m w : BitVec 2} (hd : 12 ≤ d.toNat) : (vaddUse d a b m w).fills = [d.toNat] := by
  simp [Use.fills, vaddUse, vecUse, hd, List.eraseDups_cons]

theorem windowsReady_vadd {s : State} {d a b : Reg} {m w : BitVec 2} (ha : 12 ≤ a.toNat) (hb : 12 ≤ b.toNat)
    (hd : 12 ≤ d.toNat) :
    s.windowsReady s.cur (vaddUse d a b m w).consumes (vaddUse d a b m w).fills = true ↔
      (s.windowBuf (coreOf s.cur) ((localSlot s.cur + 7) % 8) a.toNat).isSome = true ∧
      (s.windowBuf (coreOf s.cur) ((localSlot s.cur + 7) % 8) b.toNat).isSome = true ∧
      s.windowBuf (coreOf s.cur) (localSlot s.cur) d.toNat = none := by
  simp only [State.windowsReady, fills_vadd hd, Bool.and_eq_true, List.all_eq_true, mem_consumes_vadd ha hb,
    forall_eq_or_imp, forall_eq, List.mem_singleton, Option.isNone_iff_eq_none, and_assoc]

/-- A buffer of the slot itself is none of its neighbour's. -/
theorem windowBuf_apart {k x y : Nat} (hk : k < 8) (hx : 12 ≤ x) (hx' : x < 16) (hy : 12 ≤ y) (hy' : y < 16) :
    4 * k + y - 12 ≠ 4 * ((k + 7) % 8) + x - 12 := by
  omega

theorem unsigned_add (n x y : Nat) : unsigned n ((x : Int) + y) = (x + y) % 2 ^ n := by
  rw [unsigned, ← Nat.cast_add, ← Int.natCast_mod, Int.toNat_natCast]

/-- The sum that VADD leaves in its buffer (R105). -/
def State.windowSum (s : State) (a b : Reg) (m w : BitVec 2) : Vec :=
  merge (s.thr.rm m) (laneBytes w) 0 (List.zipWith (wrapOrSat (fun x y => x + y) false (laneBits w))
    (lanes (s.rv a) (laneBits w)) (lanes (s.rv b) (laneBits w)))

theorem State.lane_windowSum (s : State) (a b : Reg) (m w : BitVec 2) {e : Nat} (he : e < 128 / laneBits w) :
    lane (s.windowSum a b m w) (laneBits w) e = if (s.thr.rm m).getLsbD (laneBytes w * e) then
      (lane (s.rv a) (laneBits w) e + lane (s.rv b) (laneBits w) e) % 2 ^ laneBits w else 0 := by
  rw [laneBits, lanes_count] at he
  rw [State.windowSum, laneBits, lane_merge _ _ _ _ _ (by simp [lanes_count]) he, active, bit, Nat.mul_comm e, lanes_eq_map,
    lanes_eq_map, zipWith_map_range, getD_map_range _ _ he]
  split
  · rw [wrapOrSat, if_neg Bool.false_ne_true, unsigned_add, Nat.mod_mod]
  · simp [lane]

/-- VADD once its buffers are ready. -/
theorem execVadd_windowed {s : State} {d a b : Reg} {m w : BitVec 2} (h : Windowed s) (hd : 12 ≤ d.toNat)
    (hr : s.windowsReady s.cur (vaddUse d a b m w).consumes (vaddUse d a b m w).fills = true) :
    execVadd d a b m w s = .next (((s.setWindow (coreOf s.cur) (localSlot s.cur) d.toNat (some (s.windowSum a b m w))).setThr
      (s.thr.withVx true).wentOn).emptied (coreOf s.cur) ((localSlot s.cur + 7) % 8) (vaddUse d a b m w).consumes) := by
  have hsat : s.satHint = false := by
    rw [State.satHint, State.hmod, State.grp, Thread.grp, h.main, h.unhinted]; rfl
  have hbody : writeLanes d m (laneBytes w) (List.zipWith (wrapOrSat (fun x y => x + y) s.satHint (laneBits w))
      (lanes (s.rv a) (laneBits w)) (lanes (s.rv b) (laneBits w))) s =
      s.setWindow (coreOf s.cur) (localSlot s.cur) d.toNat (some (s.windowSum a b m w)) := by
    rw [writeLanes, State.wv_window h.window hd, State.oldv_window h.window hd, hsat]; rfl
  rw [execVadd, elementwise]
  refine (h.issue_ready (u := vaddUse d a b m w) rfl rfl rfl (passesRelease_vadd d a b m w _) hr
    (congrArg (fun t => Except.ok (retire t)) hbody)).trans ?_
  rw [show retire (s.setWindow (coreOf s.cur) (localSlot s.cur) d.toNat (some (s.windowSum a b m w))) = _ from
    congrArg (State.setThr _) (Thread.retire_main s.thr h.main h.idle), setVx_setThr _ _ rfl rfl]
  rfl

/-- Settles O17: the buffer that VADD fills is none of those that it empties. -/
theorem windowModeVadd : Obligations.WindowModeVadd := by
  intro s d a b m w hr hp hw hh ha hb hd n mine left ready
  have h : Windowed s := ⟨hr, hp, hw, hh⟩
  have hready : s.windowsReady s.cur (vaddUse d a b m w).consumes (vaddUse d a b m w).fills = true ↔ ready :=
    windowsReady_vadd ha hb hd
  have hmem (x : Nat) : x ∈ (vaddUse d a b m w).consumes ↔ x = a.toNat ∨ x = b.toNat := mem_consumes_vadd ha hb
  have hslot : mine < 8 := Nat.mod_lt _ (by decide)
  refine ⟨fun hok => ?_, fun hno => ⟨(vaddUse d a b m w).consumes, (vaddUse d a b m w).fills, fun hheld => ?_⟩⟩
  · refine ⟨_, s.windowSum a b m w, execVadd_windowed h hd (hready.2 hok), ?_, ?_, ?_, ?_, fun e he => ?_, ?_,
      fun k hk => ?_⟩
    · rw [State.emptied_thr, State.thr_setThr]
    · have hmine : ¬∃ x ∈ (vaddUse d a b m w).consumes, 4 * mine + d.toNat - 12 = 4 * left + x - 12 := by
        rintro ⟨x, hx, he⟩
        have hx16 : 12 ≤ x ∧ x < 16 := by rcases (hmem x).1 hx with rfl | rfl <;> omega
        exact windowBuf_apart hslot hx16.1 hx16.2 hd d.isLt he
      rw [State.windowBuf_emptied, if_neg hmine]
      exact (State.windowBuf_setWindow ..).trans (if_pos rfl)
    · exact State.windowBuf_emptied_self _ _ _ ((hmem _).2 (.inl rfl))
    · exact State.windowBuf_emptied_self _ _ _ ((hmem _).2 (.inr rfl))
    · rw [s.lane_windowSum a b m w he, State.rv_window hw ha, State.rv_window hw hb]
    · exact State.emptied_memory ..
    · rw [State.emptied_thread]
      exact State.thread_setThr_ne (s.setWindow ..) k _ hk
  · change execVadd d a b m w s = _
    rw [execVadd, elementwise]
    exact h.issue_waits (u := vaddUse d a b m w) rfl rfl rfl (passesRelease_vadd d a b m w _)
      (mt hready.1 hno) hheld

end Sys2Proof.Machine
end

section
namespace Sys2Proof.Machine

/-! ## O10: rounding

The finite codes of an IEEE format are k * 2^frac + n for a binade k and a significand n, with the value n * 2^(least + k).
Values are compared as rationals. -/

/-! ### Values as rationals -/

theorem two_zpow_natCast_add (n : Nat) (q : Int) : (2 : ℚ) ^ ((n : Int) + q) = 2 ^ n * 2 ^ q := by
  rw [zpow_add₀ two_ne_zero, zpow_natCast]

theorem two_zpow_of_le {q e : Int} (h : q ≤ e) : (2 : ℚ) ^ e = 2 ^ (e - q).toNat * 2 ^ q := by
  rw [← two_zpow_natCast_add, Int.toNat_of_nonneg (by omega), Int.sub_add_cancel]

/-- The order of magnitudes is that of the numbers they stand for. -/
theorem FVal.lt_fin_iff (m₁ m₂ : Nat) (e₁ e₂ : Int) :
    (FVal.fin false m₁ e₁).lt (.fin false m₂ e₂) = true ↔ (m₁ : ℚ) * 2 ^ e₁ < m₂ * 2 ^ e₂ := by
  rw [two_zpow_of_le (min_le_left e₁ e₂), two_zpow_of_le (min_le_right e₁ e₂), ← mul_assoc, ← mul_assoc,
    mul_lt_mul_iff_of_pos_right (zpow_pos two_pos _)]
  simp only [FVal.lt, Bool.false_eq_true, if_false, decide_eq_true_iff, Nat.cast_lt]
  exact_mod_cast Iff.rfl

/-- A magnitude lies between the powers of two around it. -/
theorem log2_value_bounds {m : Nat} (hm : m ≠ 0) (e : Int) :
    (2 : ℚ) ^ (m.log2 + e) ≤ m * 2 ^ e ∧ (m : ℚ) * 2 ^ e < 2 ^ (m.log2 + e + 1) := by
  have hpos : (0 : ℚ) < 2 ^ e := zpow_pos two_pos e
  rw [show (m.log2 : Int) + e + 1 = ((m.log2 + 1 : Nat) : Int) + e by push_cast; ring,
    two_zpow_natCast_add, two_zpow_natCast_add]
  refine ⟨mul_le_mul_of_nonneg_right ?_ hpos.le, mul_lt_mul_of_pos_right ?_ hpos⟩
  · exact_mod_cast Nat.log2_self_le hm
  · exact_mod_cast Nat.lt_log2_self

/-! ### Codes of an IEEE format (R120, R121) -/

/-- A format with infinities, whose largest finite code is the last below them. -/
structure Fmt.Ieee (f : Fmt) : Prop where
  hasInf : f.hasInf = true
  exp : 2 ≤ f.exp
  maxCode : f.maxCode + 1 = (2 ^ f.exp - 1) * 2 ^ f.frac

theorem ieee_of_mem {f : Fmt} (h : f ∈ [fp16, fp32, bf16]) : f.Ieee := by
  simp only [List.mem_cons, List.not_mem_nil, or_false] at h
  rcases h with rfl | rfl | rfl <;> exact ⟨rfl, by decide, by decide⟩

/-- The exponent of the smallest subnormal. -/
def Fmt.least (f : Fmt) : Int := 1 - f.bias - f.frac

/-- A significand n stands in binade k of a format: below twice 2^frac, and not below it but in the lowest binade. -/
def Fmt.InBinade (f : Fmt) (k n : Nat) : Prop := n < 2 * 2 ^ f.frac ∧ (k = 0 ∨ 2 ^ f.frac ≤ n)

section
variable {f : Fmt} (hf : f.Ieee)
include hf

theorem Fmt.Ieee.maxCode_lt_signBit : f.maxCode < f.signBit := by
  have h := hf.maxCode
  have hle : (2 ^ f.exp - 1) * 2 ^ f.frac ≤ 2 ^ f.exp * 2 ^ f.frac := Nat.mul_le_mul_right _ (Nat.sub_le ..)
  rw [Fmt.signBit, pow_add]
  omega

/-- The value of a magnitude's code by its binade and significand. -/
theorem Fmt.Ieee.val_binade {k n : Nat} (h : f.InBinade k n) (hc : k * 2 ^ f.frac + n ≤ f.maxCode) :
    f.val (k * 2 ^ f.frac + n) = .fin false n (f.least + k) := by
  obtain ⟨hn, hk⟩ := h
  have hpos : 0 < 2 ^ f.frac := Nat.two_pow_pos _
  have hlt : k * 2 ^ f.frac + n < f.signBit := hc.trans_lt hf.maxCode_lt_signBit
  have hmax := hf.maxCode
  unfold Fmt.val
  simp only [hf.hasInf, Bool.not_true, Bool.false_and, Bool.true_and, Bool.false_eq_true, if_false, Nat.mod_eq_of_lt hlt,
    decide_eq_false (not_le.2 hlt), beq_iff_eq]
  by_cases hsub : n < 2 ^ f.frac
  · obtain rfl : k = 0 := hk.resolve_right (not_le.2 hsub)
    have hexp : 0 ≠ 2 ^ f.exp - 1 := by
      have := Nat.pow_le_pow_right (n := 2) (by decide) hf.exp
      omega
    simp [Nat.div_eq_of_lt hsub, Nat.mod_eq_of_lt hsub, hexp, Fmt.least]
  · obtain ⟨r, rfl⟩ : ∃ r, n = 2 ^ f.frac + r := ⟨n - 2 ^ f.frac, by omega⟩
    have hr : r < 2 ^ f.frac := by omega
    have hsplit : k * 2 ^ f.frac + (2 ^ f.frac + r) = r + 2 ^ f.frac * (k + 1) := by ring
    have hdiv : (k * 2 ^ f.frac + (2 ^ f.frac + r)) / 2 ^ f.frac = k + 1 := by
      rw [hsplit, Nat.add_mul_div_left _ _ hpos, Nat.div_eq_of_lt hr, Nat.zero_add]
    have hmod : (k * 2 ^ f.frac + (2 ^ f.frac + r)) % 2 ^ f.frac = r := by
      rw [hsplit, Nat.add_mul_mod_self_left, Nat.mod_eq_of_lt hr]
    have hfinite : k + 1 ≠ 2 ^ f.exp - 1 := by
      intro heq
      rw [← heq, Nat.add_mul] at hmax
      omega
    rw [hdiv, hmod, if_neg hfinite, if_neg (Nat.succ_ne_zero k), Fmt.least]
    congr 1
    push_cast
    ring

/-- The next code's value is that of the next significand, which may be the first of the next binade. -/
theorem Fmt.Ieee.val_succ {k n : Nat} (h : f.InBinade k n) (hc : k * 2 ^ f.frac + n < f.maxCode) :
    ∃ (m : Nat) (e : Int), f.val (k * 2 ^ f.frac + n + 1) = .fin false m e ∧
      (m : ℚ) * 2 ^ e = (n + 1) * 2 ^ (f.least + k) := by
  obtain ⟨hn, hk⟩ := h
  have hpos : 0 < 2 ^ f.frac := Nat.two_pow_pos _
  by_cases hlast : n + 1 = 2 * 2 ^ f.frac
  · have hcode : k * 2 ^ f.frac + n + 1 = (k + 1) * 2 ^ f.frac + 2 ^ f.frac := by rw [Nat.add_mul]; omega
    refine ⟨2 ^ f.frac, f.least + (k + 1 : Nat), ?_, ?_⟩
    · rw [hcode]
      exact hf.val_binade ⟨by omega, .inr le_rfl⟩ (by omega)
    · rw [show f.least + ((k + 1 : Nat) : Int) = f.least + k + 1 by push_cast; ring, zpow_add_one₀ two_ne_zero,
        show (n : ℚ) + 1 = 2 * 2 ^ f.frac by exact_mod_cast hlast]
      push_cast
      ring
  · exact ⟨n + 1, f.least + k, hf.val_binade (n := n + 1) ⟨by omega, by omega⟩ (by omega), by push_cast; ring⟩

/-- The largest finite code is the last of the last binade. -/
theorem Fmt.Ieee.maxCode_binade : ∃ k n, f.InBinade k n ∧ f.maxCode = k * 2 ^ f.frac + n ∧ n + 1 = 2 * 2 ^ f.frac := by
  have hpos : 0 < 2 ^ f.frac := Nat.two_pow_pos _
  have hexp := Nat.pow_le_pow_right (n := 2) (by decide) hf.exp
  obtain ⟨k, hk⟩ : ∃ k, 2 ^ f.exp = k + 3 := ⟨2 ^ f.exp - 3, by omega⟩
  have hmax := hf.maxCode
  rw [hk, Nat.add_sub_assoc (by decide), Nat.add_mul] at hmax
  exact ⟨k, 2 * 2 ^ f.frac - 1, ⟨by omega, by omega⟩, by omega, by omega⟩

/-- A code with a finite value is its sign with a magnitude of that value's binade and significand. -/
theorem Fmt.Ieee.code_of_val {code m : Nat} {e : Int} {neg : Bool} (hcode : code < 2 ^ f.bits)
    (hv : f.val code = .fin neg m e) :
    ∃ k, f.InBinade k m ∧ e = f.least + k ∧ k * 2 ^ f.frac + m ≤ f.maxCode ∧ code = f.signed neg (k * 2 ^ f.frac + m) := by
  have hpos : 0 < 2 ^ f.frac := Nat.two_pow_pos _
  have hbits : 2 ^ f.bits = 2 * f.signBit := by
    rw [Fmt.bits, Fmt.signBit, ← Nat.pow_succ']
    congr 1
    omega
  have hsign : code = f.signed (decide (f.signBit ≤ code)) (code % f.signBit) := by
    by_cases hs : f.signBit ≤ code
    · rw [decide_eq_true hs, Fmt.signed, if_pos rfl, Nat.mod_eq_sub_mod hs, Nat.mod_eq_of_lt (by omega)]
      omega
    · rw [decide_eq_false hs, Fmt.signed, if_neg (by simp), Nat.mod_eq_of_lt (not_le.1 hs)]
  have hfr := Nat.mod_lt (code % f.signBit) hpos
  have hmag := Nat.div_add_mod' (code % f.signBit) (2 ^ f.frac)
  have hmaglt : code % f.signBit < f.signBit := Nat.mod_lt _ (Nat.two_pow_pos _)
  have hexlt : code % f.signBit / 2 ^ f.frac < 2 ^ f.exp := by
    rwa [Nat.div_lt_iff_lt_mul hpos, ← pow_add]
  have hmax := hf.maxCode
  unfold Fmt.val at hv
  simp only [hf.hasInf, Bool.not_true, Bool.false_and, Bool.true_and, Bool.false_eq_true, if_false, beq_iff_eq] at hv
  generalize code % f.signBit / 2 ^ f.frac = ex at hv hmag hexlt
  generalize code % f.signBit % 2 ^ f.frac = fr at hv hmag hfr
  have hle (h : ex ≠ 2 ^ f.exp - 1) : ex * 2 ^ f.frac + fr ≤ f.maxCode := by
    have := Nat.mul_le_mul_right (2 ^ f.frac) (show ex + 1 ≤ 2 ^ f.exp - 1 by omega)
    rw [Nat.add_mul] at this
    omega
  split at hv
  next => split at hv <;> cases hv
  next hfin =>
    have hle := hle hfin
    split at hv
    next hzero =>
      obtain ⟨rfl, rfl, rfl⟩ := FVal.fin.inj hv
      subst hzero
      refine ⟨0, ⟨by omega, .inl rfl⟩, by simp [Fmt.least], by omega, ?_⟩
      rwa [← hmag] at hsign
    next hnz =>
      obtain ⟨rfl, rfl, rfl⟩ := FVal.fin.inj hv
      obtain ⟨k, rfl⟩ : ∃ k, ex = k + 1 := ⟨ex - 1, by omega⟩
      have hsum : (k + 1) * 2 ^ f.frac + fr = k * 2 ^ f.frac + (2 ^ f.frac + fr) := by ring
      refine ⟨k, ⟨by omega, .inr (by omega)⟩, by rw [Fmt.least]; push_cast; ring, by omega, ?_⟩
      rw [← hsum]
      rwa [← hmag] at hsign

end

/-! ### The place of the last digit (R132) -/

/-- The exponent to which a magnitude m * 2^e is rounded. -/
def Fmt.lastPlace (f : Fmt) (m : Nat) (e : Int) : Int := max (m.log2 + e) (1 - f.bias) - f.frac

theorem Fmt.least_le_lastPlace (f : Fmt) (m : Nat) (e : Int) : f.least ≤ f.lastPlace m e := by
  have := le_max_right ((m.log2 : Int) + e) (1 - f.bias)
  rw [Fmt.least, Fmt.lastPlace]
  omega

/-- A significand's own exponent is where it is rounded. -/
theorem Fmt.lastPlace_binade {f : Fmt} {k m : Nat} (h : f.InBinade k m) (hm : m ≠ 0) :
    f.lastPlace m (f.least + k) = f.least + k := by
  obtain ⟨hlt, hk⟩ := h
  have hlo := Nat.log2_self_le hm
  have hhi : m < 2 ^ (m.log2 + 1) := Nat.lt_log2_self
  have hle : m.log2 ≤ f.frac := by
    have : 2 ^ m.log2 < 2 ^ (f.frac + 1) := by rw [Nat.pow_succ']; omega
    have := (Nat.pow_lt_pow_iff_right (by decide)).1 this
    omega
  rw [Fmt.lastPlace, Fmt.least]
  rcases hk with rfl | hge
  · rw [max_eq_right (by push_cast; omega)]
    push_cast
    ring
  · have hge : f.frac ≤ m.log2 := by
      have := (Nat.pow_lt_pow_iff_right (by decide)).1 (hge.trans_lt hhi)
      omega
    rw [max_eq_left (by omega)]
    omega

/-! ### Representable values -/

theorem roundAt_le (rm : Nat) (neg : Bool) (m : Nat) {e q : Int} (h : q ≤ e) (sticky : Bool) :
    roundAt rm neg m e q sticky = (m * 2 ^ (e - q).toNat, sticky) := if_pos h

/-- A significand at its own exponent keeps its code. -/
theorem Fmt.pack_binade {f : Fmt} {k m : Nat} (h : f.InBinade k m) (hm : m ≠ 0)
    (hc : k * 2 ^ f.frac + m ≤ f.maxCode) (rm : Nat) (sat neg : Bool) :
    f.pack rm sat neg m (f.least + k) false = (f.signed neg (k * 2 ^ f.frac + m), 0) := by
  have hq : max ((m.log2 : Int) + (f.least + k)) (1 - f.bias) - f.frac = f.least + k := Fmt.lastPlace_binade h hm
  have hk : (f.least + k - (1 - f.bias - f.frac)).toNat = k := by rw [Fmt.least]; omega
  unfold Fmt.pack
  simp only [hq, roundAt_le _ _ _ le_rfl, sub_self, Int.toNat_zero, pow_zero, Nat.mul_one, hk, if_neg (not_lt.2 hc),
    Bool.false_eq_true, if_false]

theorem Fmt.Ieee.round_representable {f : Fmt} (hf : f.Ieee) {code m : Nat} {e : Int} {neg : Bool}
    (hcode : code < 2 ^ f.bits) (hv : f.val code = .fin neg m e) (rm : Nat) (sat : Bool) :
    f.round rm sat (.fin neg m e) = (code, 0) := by
  obtain ⟨k, hb, rfl, hmax, rfl⟩ := hf.code_of_val hcode hv
  rw [Fmt.round]
  split
  next hzero =>
    subst hzero
    obtain rfl : k = 0 := hb.2.resolve_right (not_le.2 (Nat.two_pow_pos _))
    simp
  next hm => exact Fmt.pack_binade hb hm hmax rm sat neg

/-! ### Truncation -/

/-- Under RZ the shift drops the low bits. -/
theorem roundAt_rz_of_lt (neg : Bool) (m : Nat) {e q : Int} (h : e < q) :
    roundAt 1 neg m e q false = (m / 2 ^ (q - e).toNat, decide (m % 2 ^ (q - e).toNat ≠ 0)) := by
  simp only [roundAt, if_neg (not_le.2 h)]
  split
  next hfar =>
    obtain ⟨hm, hfar⟩ := hfar
    have hlt : m < 2 ^ (q - e).toNat :=
      Nat.lt_log2_self.trans_le (Nat.pow_le_pow_right (by decide) (by omega))
    simp [Nat.div_eq_of_lt hlt, Nat.mod_eq_of_lt hlt, hm]
  next => simp

/-- Under RZ the multiple is the largest not above the magnitude, and it is inexact exactly when it is below. -/
theorem roundAt_rz (neg : Bool) (m : Nat) (e q : Int) :
    ((roundAt 1 neg m e q false).1 : ℚ) * 2 ^ q ≤ m * 2 ^ e ∧
      (m : ℚ) * 2 ^ e < ((roundAt 1 neg m e q false).1 + 1) * 2 ^ q ∧
      ((roundAt 1 neg m e q false).2 = true ↔ ((roundAt 1 neg m e q false).1 : ℚ) * 2 ^ q < m * 2 ^ e) := by
  rcases le_or_gt q e with h | h
  · rw [roundAt_le _ _ _ h, two_zpow_of_le h]
    have hp : (0 : ℚ) < 2 ^ q := zpow_pos two_pos q
    push_cast
    refine ⟨by linarith, by linarith, ?_⟩
    simp [mul_assoc]
  · rw [roundAt_rz_of_lt neg m h, two_zpow_of_le h.le, ← mul_assoc, ← mul_assoc]
    have hsplit := Nat.div_add_mod' m (2 ^ (q - e).toNat)
    have hlt := Nat.mod_lt m (Nat.two_pow_pos (q - e).toNat)
    generalize m / 2 ^ (q - e).toNat = n at *
    generalize m % 2 ^ (q - e).toNat = r at *
    have hp : (0 : ℚ) < 2 ^ e := zpow_pos two_pos e
    refine ⟨mul_le_mul_of_nonneg_right ?_ hp.le, mul_lt_mul_of_pos_right ?_ hp, ?_⟩
    · exact_mod_cast (by omega : n * 2 ^ (q - e).toNat ≤ m)
    · exact_mod_cast (by rw [Nat.add_mul]; omega : m < (n + 1) * 2 ^ (q - e).toNat)
    · rw [mul_lt_mul_iff_of_pos_right hp, decide_eq_true_iff]
      have : n * 2 ^ (q - e).toNat < m ↔ r ≠ 0 := by omega
      exact_mod_cast this.symm

/-- Under RZ a magnitude is cut to a significand of some binade, which is its code unless that is past the largest. -/
theorem Fmt.pack_rz (f : Fmt) (sat neg : Bool) {m : Nat} (hm : m ≠ 0) (e : Int) :
    ∃ k n, f.InBinade k n ∧ (n : ℚ) * 2 ^ (f.least + k) ≤ m * 2 ^ e ∧ (m : ℚ) * 2 ^ e < (n + 1) * 2 ^ (f.least + k) ∧
      (f.maxCode < k * 2 ^ f.frac + n → f.pack 1 sat neg m e false = (f.signed neg f.maxCode, 5)) ∧
      (k * 2 ^ f.frac + n ≤ f.maxCode → ∃ fl, f.pack 1 sat neg m e false = (f.signed neg (k * 2 ^ f.frac + n), fl) ∧
        (fl % 2 = 1 ↔ (n : ℚ) * 2 ^ (f.least + k) < m * 2 ^ e)) := by
  obtain ⟨k, hk⟩ := Int.eq_ofNat_of_zero_le (Int.sub_nonneg_of_le (f.least_le_lastPlace m e))
  have hq : f.lastPlace m e = f.least + k := by omega
  obtain ⟨hle, hlt, hix⟩ := roundAt_rz neg m e (f.least + k)
  obtain ⟨hlo, hhi⟩ := log2_value_bounds hm e
  have hround : max ((m.log2 : Int) + e) (1 - f.bias) - f.frac = f.least + k := hq
  have hkNat : (f.least + k - (1 - f.bias - f.frac)).toNat = k := by rw [Fmt.least]; omega
  have hp : (0 : ℚ) < 2 ^ (f.least + k) := zpow_pos two_pos _
  refine ⟨k, (roundAt 1 neg m e (f.least + k) false).1, ⟨?_, ?_⟩, hle, hlt, fun hover => ?_, fun hfits => ?_⟩
  · have htop : (m.log2 : Int) + e + 1 ≤ (f.frac + 1 : Nat) + (f.least + k) := by
      have := le_max_left ((m.log2 : Int) + e) (1 - f.bias)
      push_cast
      omega
    have := hle.trans_lt (hhi.trans_le (zpow_le_zpow_right₀ one_le_two htop))
    rw [two_zpow_natCast_add, mul_lt_mul_iff_of_pos_right hp, pow_succ'] at this
    exact_mod_cast this
  · rcases Nat.eq_zero_or_pos k with h0 | h0
    · exact .inl h0
    · have htop : (m.log2 : Int) + e = (f.frac : Nat) + (f.least + k) := by
        rw [Fmt.least] at hround ⊢
        rcases max_choice ((m.log2 : Int) + e) (1 - f.bias) with hmax | hmax <;> rw [hmax] at hround <;> omega
      have := (htop ▸ hlo).trans_lt hlt
      rw [two_zpow_natCast_add, mul_lt_mul_iff_of_pos_right hp] at this
      exact .inr (Nat.lt_succ_iff.1 (by exact_mod_cast this))
  · simp only [Fmt.pack, hround, hkNat, if_pos hover]
    simp [flagOF, flagNX]
  · refine ⟨_, by simp only [Fmt.pack, hround, hkNat, if_neg (not_lt.2 hfits)]; rfl, ?_⟩
    rw [← hix]
    cases (roundAt 1 neg m e (f.least + k) false).2
    · simp
    · simp only [if_true, iff_true]
      split <;> rfl

/-- What the statement says of the code c that a magnitude is cut to, and of the flags. -/
def Fmt.CutTo (f : Fmt) (m : Nat) (e : Int) (c fl : Nat) : Prop :=
  c ≤ f.maxCode ∧ (FVal.fin false m e).lt (f.val c) = false ∧
    (c < f.maxCode → (FVal.fin false m e).lt (f.val (c + 1)) = true) ∧
    (fl % 2 = 1 ↔ (f.val c).lt (.fin false m e) = true)

theorem Fmt.Ieee.pack_rz_cutTo {f : Fmt} (hf : f.Ieee) (sat neg : Bool) {m : Nat} (hm : m ≠ 0) (e : Int) :
    ∃ c fl, f.pack 1 sat neg m e false = (f.signed neg c, fl) ∧ f.CutTo m e c fl := by
  obtain ⟨k, n, hb, hle, hlt, hover, hfits⟩ := f.pack_rz sat neg hm e
  rcases le_or_gt (k * 2 ^ f.frac + n) f.maxCode with hc | hc
  · obtain ⟨fl, hpack, hfl⟩ := hfits hc
    refine ⟨_, fl, hpack, hc, ?_, fun hlast => ?_, ?_⟩
    · rw [hf.val_binade hb hc, Bool.eq_false_iff, Ne, FVal.lt_fin_iff, not_lt]
      exact hle
    · obtain ⟨m', e', hv, hval⟩ := hf.val_succ hb hlast
      rw [hv, FVal.lt_fin_iff, hval]
      exact hlt
    · rw [hf.val_binade hb hc, FVal.lt_fin_iff]
      exact hfl
  · obtain ⟨k', n', hb', hmax, hn'⟩ := hf.maxCode_binade
    have hpos : 0 < 2 ^ f.frac := Nat.two_pow_pos _
    have hkk : k' + 1 ≤ k := by
      by_contra hk
      have := Nat.mul_le_mul_right (2 ^ f.frac) (show k ≤ k' by omega)
      have := hb.1
      omega
    have hn : 2 ^ f.frac ≤ n := hb.2.resolve_left (by omega)
    have hbelow : (n' : ℚ) * 2 ^ (f.least + k') < m * 2 ^ e := calc
      (n' : ℚ) * 2 ^ (f.least + k') < (2 * 2 ^ f.frac) * 2 ^ (f.least + k') :=
        mul_lt_mul_of_pos_right (by exact_mod_cast (by omega : n' < 2 * 2 ^ f.frac)) (zpow_pos two_pos _)
      _ = 2 ^ f.frac * 2 ^ (f.least + k' + 1) := by rw [zpow_add_one₀ two_ne_zero]; ring
      _ ≤ n * 2 ^ (f.least + k) := by
        refine mul_le_mul (by exact_mod_cast hn) (zpow_le_zpow_right₀ one_le_two (by omega)) (zpow_pos two_pos _).le
          (Nat.cast_nonneg _)
      _ ≤ m * 2 ^ e := hle
    have hv : f.val f.maxCode = .fin false n' (f.least + k') := by
      rw [hmax]
      exact hf.val_binade hb' hmax.ge
    refine ⟨_, _, hover hc, le_rfl, ?_, fun h => absurd h (lt_irrefl _), ?_⟩
    · rw [hv, Bool.eq_false_iff, Ne, FVal.lt_fin_iff, not_lt]
      exact hbelow.le
    · rw [hv, FVal.lt_fin_iff]
      exact iff_of_true rfl hbelow

theorem Fmt.Ieee.signed_mod {f : Fmt} (hf : f.Ieee) (neg : Bool) {c : Nat} (hc : c ≤ f.maxCode) :
    f.signed neg c % f.signBit = c := by
  have hlt := hc.trans_lt hf.maxCode_lt_signBit
  rw [Fmt.signed]
  split
  · rw [Nat.add_mod_left, Nat.mod_eq_of_lt hlt]
  · exact Nat.mod_eq_of_lt hlt

/-- Settles O10, for every IEEE format. -/
theorem roundingIsCorrect : Obligations.RoundingIsCorrect := by
  intro f hmem
  have hf := ieee_of_mem hmem
  refine ⟨fun rm sat neg code m e hcode hv => hf.round_representable hcode hv rm sat, ?_⟩
  intro sat neg m e hm r c
  obtain ⟨c', fl, hpack, hcut⟩ := hf.pack_rz_cutTo sat neg hm e
  have hr : r = (f.signed neg c', fl) := (if_neg hm).trans hpack
  have hc : c = c' := by
    change r.1 % f.signBit = c'
    rw [hr, hf.signed_mod neg hcut.1]
  rw [hr, hc]
  exact ⟨rfl, hcut⟩

end Sys2Proof.Machine
end

section
namespace Sys2Proof.Machine

/-! ## O14: conversions -/

/-! ### The vector and the flags of a conversion (R143) -/

/-- What destination element j becomes, with the flags it raises. -/
def convertLane (m : Mask) (old : Vec) (sb db p : Nat) (conv : Nat → Nat × Nat) (j : Nat) : Nat × Nat :=
  match sourceOf sb db p j with
  | some k => if bit m (j * db / 8) then conv k else (lane old db j, 0)
  | none => (lane old db j, 0)

theorem convertVec_eq (m : Mask) (old : Vec) (sb db p : Nat) (conv : Nat → Nat × Nat) :
    convertVec m old sb db p conv =
      (vecOf db ((List.range (128 / db)).map fun j => (convertLane m old sb db p conv j).1),
        ((List.range (128 / db)).map fun j => (convertLane m old sb db p conv j).2).foldl (fun a b => a ||| b) 0) := by
  rw [convertVec, List.map_map, List.map_map]
  rfl

theorem lane_convertVec (m : Mask) (old : Vec) (sb db p : Nat) (conv : Nat → Nat × Nat) {j : Nat} (hj : j < 128 / db) :
    lane (convertVec m old sb db p conv).1 db j =
      match sourceOf sb db p j with
      | some k => if m.getLsbD (j * db / 8) then (conv k).1 % 2 ^ db else lane old db j
      | none => lane old db j := by
  rw [convertVec_eq, lane_vecOf_getD (by simpa using Nat.mul_div_le 128 db), getD_map_range _ _ hj, convertLane]
  split
  next k _ =>
    rw [bit]
    split
    next => rfl
    next => exact Nat.mod_eq_of_lt (lane_lt ..)
  next => exact Nat.mod_eq_of_lt (lane_lt ..)

theorem testBit_convertLane (m : Mask) (old : Vec) (sb db p : Nat) (conv : Nat → Nat × Nat) (j b : Nat) :
    (convertLane m old sb db p conv j).2.testBit b = true ↔
      ∃ k, sourceOf sb db p j = some k ∧ m.getLsbD (j * db / 8) = true ∧ (conv k).2.testBit b = true := by
  rw [convertLane]
  split
  next k hk =>
    rw [bit]
    split
    next hon => simp [hk, hon]
    next hoff => simp [hoff]
  next hnone => simp [hnone]

theorem testBit_convertVec (m : Mask) (old : Vec) (sb db p : Nat) (conv : Nat → Nat × Nat) (b : Nat) :
    (convertVec m old sb db p conv).2.testBit b = true ↔ ∃ j < 128 / db, ∃ k, sourceOf sb db p j = some k ∧
      m.getLsbD (j * db / 8) = true ∧ (conv k).2.testBit b = true := by
  simp [convertVec_eq, testBit_foldl_or, testBit_convertLane]

/-! ### The form of major 0x1C (R141, R145) -/

/-- The outcome writes v[d] and raises flags in fstat as a conversion does, and sets VX. -/
def WritesConverted (o : Out) (s : State) (d src t : Reg) (m p : BitVec 2) (conv : Nat → Nat × Nat) : Prop :=
  ∃ (r : Vec) (fl : Word),
    o = .next (s.setThr (((s.thr.withVx true).raised fl).wv d r).wentOn) ∧
    (∀ j < 128 / typeBits t, lane r (typeBits t) j =
      match sourceOf (typeBits src) (typeBits t) p.toNat j with
      | some k => if (s.thr.rm m).getLsbD (j * typeBits t / 8) then (conv k).1 % 2 ^ typeBits t
        else lane (s.thr.rv d) (typeBits t) j
      | none => lane (s.thr.rv d) (typeBits t) j) ∧
    ∀ b, fl.getLsbD b = true ↔ b < 64 ∧ ∃ j < 128 / typeBits t, ∃ k,
      sourceOf (typeBits src) (typeBits t) p.toNat j = some k ∧ (s.thr.rm m).getLsbD (j * typeBits t / 8) = true ∧
        (conv k).2.testBit b = true

/-- A conversion of a permitted pair of types with a part below the ratio of their widths. -/
theorem convert_converted {s : State} {word : Nat} {d a src t : Reg} {m p : BitVec 2} {types rm sat : Bool}
    {conv : Nat → Bool → Vec → Nat → Nat × Nat} (h : Clear { rm := rm, sat := sat } s) (htypes : types = true)
    (hp : p.toNat < widthRatio src t) (hs : typeBits src ≠ 0) (ht : typeBits t ≠ 0) :
    WritesConverted (convert word d a src t m p types rm sat conv s) s d src t m p
      (conv s.rounding (s.thr.hints.hmod.getLsbD 20) (s.thr.rv a)) := by
  rw [← h.satHint]
  let x := convertVec (s.thr.rm m) (s.thr.rv d) (typeBits src) (typeBits t) p.toNat
    (conv s.rounding s.satHint (s.thr.rv a))
  refine ⟨x.1, BitVec.ofNat 64 x.2, ?_, fun j hj => lane_convertVec _ _ _ _ _ _ hj, fun b => ?_⟩
  · refine issue_vx (th := (s.thr.wv d x.1).raised (BitVec.ofNat 64 x.2)) h ?_ rfl rfl h.main h.idle ?_
    · simp [htypes, hs, ht, hp]
    · simp only [State.rv_eq _ _ h.plain, State.oldv_eq _ _ h.plain, State.wv_eq _ _ _ h.plain, raise_setThr]
      rfl
  · rw [BitVec.getLsbD_ofNat, Bool.and_eq_true, decide_eq_true_iff, testBit_convertVec]

/-- Settles O14: each conversion has the form, with the element function of its meaning. -/
theorem conversionResults : Obligations.ConversionResults := by
  intro s d a src t m p hp hs ht sb db x done rm sat ratio
  have converts {i : Instr} {conv : Nat → Nat × Nat} (o : Out) (hi : exec i s = o)
      (ho : WritesConverted o s d src t m p conv) : done i conv :=
    show WritesConverted (exec i s) s d src t m p conv from hi ▸ ho
  clear_value done
  refine ⟨fun h hsrc htyp => ?_, fun h hsrc htyp hr => ?_, fun h hsrc htyp hr => ?_, fun h hsrc htyp => ?_,
    fun h htypes => ?_, fun h hsrc htyp => ?_, fun h hsrc htyp => ?_⟩
  · rw [show rm = s.rounding from h.rounding.symm]
    exact converts (execVcvtf d a src t m p s) rfl (convert_converted h (by simp [hsrc, htyp]) hp hs ht)
  · rw [show rm = s.rounding from h.rounding.symm]
    exact converts (execVcvtfi d a src t m p s) rfl (convert_converted h (by simpa [hsrc, htyp] using hr) hp hs ht)
  · rw [show rm = s.rounding from h.rounding.symm]
    exact converts (execVcvtif d a src t m p s) rfl (convert_converted h (by simpa [hsrc, htyp] using hr) hp hs ht)
  · simp only [List.mem_cons, List.not_mem_nil, or_false] at hsrc htyp
    exact converts (execVpack8 d a src t m p s) rfl
      (convert_converted h (by simpa [isPackSource, or_assoc] using ⟨hsrc, htyp⟩) hp hs ht)
  · have hx : x = lane (s.thr.rv a) 8 := by rcases htypes with ⟨rfl, -⟩ | ⟨rfl, -⟩ <;> rfl
    simp only [List.mem_cons, List.not_mem_nil, or_false] at htypes
    rw [hx]
    exact converts (execVunpk8 d a src t m p s) rfl (convert_converted h (by simpa using htypes) hp hs ht)
  · simp only [List.mem_cons, List.not_mem_nil, or_false] at hsrc
    exact converts (execVpack4 d a src t m p s) rfl
      (convert_converted h (by simpa [or_assoc, htyp] using hsrc) hp hs ht)
  · simp only [List.mem_cons, List.not_mem_nil, or_false] at htyp
    exact converts (execVunpk4 d a src t m p s) rfl
      (convert_converted h (by simpa [or_assoc, hsrc] using htyp) hp hs ht)

end Sys2Proof.Machine
end

section
namespace Sys2Proof.Machine

/-! ## O15: VSCALE and VFRADD -/

/-! ### Results in any format of whole bytes (R95, R99, R120) -/

theorem typeFmt_bits (t : Reg) : (typeFmt t).bits = 8 * ((typeFmt t).bits / 8) := by
  revert t; decide

section
variable {f : Fmt} (hf : f.bits = 8 * (f.bits / 8))
include hf

theorem Fmt.lanes_of_bytes : 128 / f.bits = 16 / (f.bits / 8) := by
  conv_lhs => rw [hf, lanes_count]

theorem Fmt.vals_of_bytes (x : Vec) :
    f.vals x = (List.range (16 / (f.bits / 8))).map (fun e => f.val (lane x f.bits e)) := by
  rw [Fmt.vals, lanes, Fmt.lanes_of_bytes hf, List.map_map]; rfl

/-- The elements that a merge gives, active ones by op (R95). -/
theorem lane_merge_format (m : Mask) (old : Vec) (op : Nat → Nat × Nat) {e : Nat} (he : e < 128 / f.bits) :
    lane (merge m (f.bits / 8) old ((List.range (16 / (f.bits / 8))).map fun e => (op e).1)) f.bits e =
      if m.getLsbD (f.bits / 8 * e) then (op e).1 % 2 ^ f.bits else lane old f.bits e := by
  rw [Fmt.lanes_of_bytes hf] at he
  have hm := lane_merge m (f.bits / 8) old ((List.range (16 / (f.bits / 8))).map fun e => (op e).1) e (by simp) he
  rwa [active, bit, getD_map_range _ _ he, ← hf, Nat.mul_comm e] at hm

/-- The flags of the active elements as a word (R99). -/
theorem getLsbD_activeFlags (m : Mask) (op : Nat → Nat × Nat) (k : Nat) :
    (BitVec.ofNat 64 (activeFlags m (f.bits / 8) op)).getLsbD k = true ↔
      k < 64 ∧ ∃ e < 128 / f.bits, m.getLsbD (f.bits / 8 * e) = true ∧ (op e).2.testBit k = true := by
  rw [BitVec.getLsbD_ofNat, Bool.and_eq_true, decide_eq_true_iff, testBit_activeFlags, Fmt.lanes_of_bytes hf]

end

/-- A write of element results with their flags, in any format. -/
theorem floatWrite_format {s : State} (d : Reg) (m : BitVec 2) (f : Fmt) (op : Nat → Nat × Nat)
    (h : s.thr.winMode = false) :
    floatWrite d m f ((List.range (16 / (f.bits / 8))).map op) s =
      s.setThr ((s.thr.wv d (merge (s.thr.rm m) (f.bits / 8) (s.thr.rv d)
        ((List.range (16 / (f.bits / 8))).map fun e => (op e).1))).raised
          (BitVec.ofNat 64 (activeFlags (s.thr.rm m) (f.bits / 8) op))) := by
  rw [floatWrite, activity_eq, zipWith_map_range, writeLanes_eq _ _ _ _ _ h, raise_setThr, List.map_map]
  rfl

/-! ### VSCALE (R148) -/

theorem knownFormat_iff (n : Nat) :
    knownFormat n = true ↔ n ∈ [0x01, 0x10, 0x11, 0x20, 0x21, 0x30, 0x31, 0x40] := by
  rw [knownFormat, List.contains_iff_mem]

/-- What VSCALE makes of an element's value under a descriptor. -/
def scaleLane (f : Fmt) (rm desc : Nat) (x : FVal) : Nat × Nat :=
  if desc / 256 = 255 then (f.nan, 0)
  else if desc % 256 = 0x01 then (0, 0)
  else f.round rm false (x.scale ((desc / 256 : Nat) - 127 : Int))

section
variable {s : State} {d a b t : Reg} {m : BitVec 2} (h : Clear { rm := true } s) (ht : isFloat t = true)
include h ht

theorem execVscale_known (hk : knownFormat ((s.rg b).toNat % 65536 % 256) = true) :
    let n := (typeFmt t).bits
    let op (e : Nat) : Nat × Nat :=
      scaleLane (typeFmt t) s.rounding ((s.rg b).toNat % 65536) ((typeFmt t).val (lane (s.thr.rv a) n e))
    execVscale d a b t m s = .next (s.setThr (((s.thr.withVx true).raised
      (BitVec.ofNat 64 (activeFlags (s.thr.rm m) (n / 8) op))).wv d
        (merge (s.thr.rm m) (n / 8) (s.thr.rv d) ((List.range (16 / (n / 8))).map fun e => (op e).1))).wentOn) := by
  intro n op
  refine issue_vx (th := (s.thr.wv d (merge (s.thr.rm m) (n / 8) (s.thr.rv d)
    ((List.range (16 / (n / 8))).map fun e => (op e).1))).raised
      (BitVec.ofNat 64 (activeFlags (s.thr.rm m) (n / 8) op))) h (by simp [ht]) rfl rfl h.main h.idle ?_
  simp only [hk, Bool.not_true, Bool.false_eq_true, if_false, State.rv_eq _ _ h.plain, Fmt.vals_of_bytes (typeFmt_bits t),
    List.map_map]
  rw [← floatWrite_format d m (typeFmt t) op h.plain]
  rfl

theorem vscale_traps (hk : knownFormat ((s.rg b).toNat % 65536 % 256) = false) :
    Traps (.vscale d a b t m) s { cause := 0x0B, eaddr := BitVec.ofNat 64 ((s.rg b).toNat % 65536) } := by
  intro hh
  change execVscale d a b t m s = _
  rw [execVscale, issue_clear _ h (by simp [ht]) rfl]
  simp only [hk, Bool.not_false, if_true, stopAt_trap _ h.main hh]

end

/-! ### VFRADD (R119) -/

/-- An element of the fixed tree: an active element's code, with NV for a signalling NaN. -/
def treeLeaf (f : Fmt) (m : Mask) (x : Vec) (e : Nat) : Option (Nat × Nat) :=
  if m.getLsbD (f.bits / 8 * e) then
    some (lane x f.bits e, if (f.val (lane x f.bits e)).isSignalling then flagNV else 0)
  else none

/-- Four neighbouring elements of the fixed tree. -/
def treeFour (f : Fmt) (rm : Nat) (leaf : Nat → Option (Nat × Nat)) (e : Nat) : Option (Nat × Nat) :=
  treeAdd f rm (treeAdd f rm (leaf e) (leaf (e + 1))) (treeAdd f rm (leaf (e + 2)) (leaf (e + 3)))

theorem tree_four (f : Fmt) (rm : Nat) (leaf : Nat → Option (Nat × Nat)) :
    tree f rm 2 ((List.range 4).map leaf) = treeFour f rm leaf 0 := rfl

theorem tree_eight (f : Fmt) (rm : Nat) (leaf : Nat → Option (Nat × Nat)) :
    tree f rm 3 ((List.range 8).map leaf) = treeAdd f rm (treeFour f rm leaf 0) (treeFour f rm leaf 4) := rfl

/-- The sum that VFRADD writes, with its flags: over four elements of fp32, over eight of the narrow formats. -/
def treeSum (s : State) (a : Reg) (m q : BitVec 2) : Nat × Nat :=
  let f := formatOf q
  let four := treeFour f s.rounding (treeLeaf f (s.thr.rm m) (s.thr.rv a))
  (if q = 1 then four 0 else treeAdd f s.rounding (four 0) (four 4)).getD (0, 0)

theorem tree_lanes (f : Fmt) (hf : f.bits = 8 * (f.bits / 8)) (rm k : Nat) (m : Mask) (x : Vec) :
    tree f rm k (List.zipWith (fun on x => if on then some (x, if (f.val x).isSignalling then flagNV else 0) else none)
      (activity m (f.bits / 8)) (lanes x f.bits)) =
      tree f rm k ((List.range (16 / (f.bits / 8))).map (treeLeaf f m x)) := by
  rw [lanes, activity_eq, Fmt.lanes_of_bytes hf, zipWith_map_range]
  rfl

theorem tree_formatOf (s : State) (a : Reg) (m q : BitVec 2) :
    (tree (formatOf q) s.rounding (if (formatOf q).bits = 32 then 2 else 3)
      ((List.range (16 / ((formatOf q).bits / 8))).map
        (treeLeaf (formatOf q) (s.thr.rm m) (s.thr.rv a)))).getD (0, 0) = treeSum s a m q := by
  rw [treeSum]
  congr 1
  by_cases h1 : q = 1
  · subst h1
    exact tree_four ..
  · have hbits : (formatOf q).bits = 16 := by
      rw [formatOf, if_neg h1]
      split <;> rfl
    rw [if_neg h1, hbits]
    exact tree_eight ..

theorem execVfradd_eq {s : State} {d a : Reg} {m q : BitVec 2} (h : Clear { rm := true } s) (hq : q ≠ 3) :
    execVfradd d a m q s = .next (s.setThr (((s.thr.withVx true).raised (BitVec.ofNat 64 (treeSum s a m q).2)).wv d
      (BitVec.ofNat 128 (if ((formatOf q).val (treeSum s a m q).1).isNan then (formatOf q).nan
        else (treeSum s a m q).1))).wentOn) := by
  refine issue_vx (th := (s.thr.wv d (BitVec.ofNat 128 (if ((formatOf q).val (treeSum s a m q).1).isNan
    then (formatOf q).nan else (treeSum s a m q).1))).raised (BitVec.ofNat 64 (treeSum s a m q).2)) h
      (beq_false_of_ne hq) rfl rfl h.main h.idle ?_
  simp only [State.rv_eq _ _ h.plain, State.wv_eq _ _ _ h.plain, State.rm, tree_lanes _ (formatOf_bits q),
    tree_formatOf, raise_setThr]

/-- Settles O15. -/
theorem scaleAndSumResults : Obligations.ScaleAndSumResults := by
  refine ⟨?_, ?_⟩
  · intro s d a b t m h ht f n desc known rm op on
    have hop : op = fun e => scaleLane f s.rounding desc (f.val (lane (s.thr.rv a) n e)) := by
      rw [h.rounding]
      rfl
    refine ⟨fun hknown => ?_, fun hknown => vscale_traps h ht ?_⟩
    · rw [hop]
      exact ⟨_, _, execVscale_known h ht ((knownFormat_iff _).2 hknown),
        fun e he => lane_merge_format (typeFmt_bits t) _ _ _ he, fun k => getLsbD_activeFlags (typeFmt_bits t) _ _ k⟩
    · rwa [Bool.eq_false_iff, Ne, knownFormat_iff]
  · intro s d a m q h hq f n rm leaf add four sum
    have hadd : add = treeAdd f s.rounding := by
      funext x y
      rw [h.rounding]
      rcases x with - | ⟨x, fx⟩
      · rfl
      · rcases y with - | ⟨y, fy⟩ <;> rfl
    have hfour : four = treeFour f s.rounding (treeLeaf f (s.thr.rm m) (s.thr.rv a)) := by
      change (fun e => add (add (leaf e) (leaf (e + 1))) (add (leaf (e + 2)) (leaf (e + 3)))) = _
      rw [hadd]
      rfl
    have hsum : sum = treeSum s a m q := by
      change (if q = 1 then four 0 else add (four 0) (four 4)).getD (0, 0) = _
      rw [hadd, hfour]
      rfl
    rw [hsum]
    exact execVfradd_eq h hq

end Sys2Proof.Machine
end

section
namespace Sys2Proof.Machine

/-! ## O42: descriptors, stash entries and registered tensors -/

/-! ### Computations in sequence -/

theorem bind_of_ok {ε α β : Type} {x : Except ε α} {a : α} {f : α → Except ε β} (h : x = .ok a) : x >>= f = f a := by
  rw [h]; rfl

/-! ### What the exchange of messages about a line leaves of a thread

A prefetch runs the accesses of a slot to lines (R186). They may set monitors, post events and take tokens; no thread
loses a register to them. One lemma a function, as for the canonical form (O59). -/

/-- From t to u a thread keeps its pc and its general and vector registers, and outside a repetition it stays outside. -/
structure Thread.SameRegs (t u : Thread) : Prop where
  pc : u.pc = t.pc
  g : u.g = t.g
  v : u.v = t.v
  main : t.rep = none → u.rep = none

theorem Thread.SameRegs.refl (t : Thread) : t.SameRegs t := ⟨rfl, rfl, rfl, id⟩

theorem Thread.SameRegs.trans {t u w : Thread} (h : t.SameRegs u) (h' : u.SameRegs w) : t.SameRegs w :=
  ⟨h'.pc.trans h.pc, h'.g.trans h.g, h'.v.trans h.v, fun hm => h'.main (h.main hm)⟩

theorem Thread.sameRegs_lineWritten (line : Nat) (t : Thread) : t.SameRegs (t.lineWritten line) := by
  rw [Thread.lineWritten]
  split
  · exact ⟨rfl, rfl, rfl, id⟩
  · exact .refl t

theorem Thread.sameRegs_lineEvicted (line : Nat) (trans : Bool) (t : Thread) : t.SameRegs (t.lineEvicted line trans) := by
  rw [Thread.lineEvicted]
  split
  · exact ⟨rfl, rfl, rfl, id⟩
  · exact .refl t

theorem Thread.sameRegs_withCredit (t : Thread) (body : Bool) (m : SMap Nat) : t.SameRegs (t.withCredit body m) := by
  rw [Thread.withCredit]
  split
  next r hr =>
    split
    · exact ⟨rfl, rfl, rfl, fun hm => absurd (hr.symm.trans hm) nofun⟩
    · exact ⟨rfl, rfl, rfl, id⟩
  next => exact ⟨rfl, rfl, rfl, id⟩

/-- From r to s the current slot stays the same, and every thread keeps its registers. -/
structure State.SameRegs (r s : State) : Prop where
  cur : s.cur = r.cur
  threads : ∀ k, (r.thread k).SameRegs (s.thread k)

theorem State.SameRegs.refl (r : State) : r.SameRegs r := ⟨rfl, fun _ => .refl _⟩

section
variable {r s : State} (h : r.SameRegs s)
include h

/-- An update of fields other than the threads and the current slot. -/
theorem State.SameRegs.update {t : State} (hc : t.cur = s.cur := by rfl) (ht : t.threads = s.threads := by rfl) :
    r.SameRegs t := by
  refine ⟨hc.trans h.cur, fun k => ?_⟩
  have hk : t.thread k = s.thread k := by rw [State.thread, State.thread, ht]
  exact hk ▸ h.threads k

theorem State.SameRegs.mapThread {k : Nat} {f : Thread → Thread} (hf : (s.thread k).SameRegs (f (s.thread k))) :
    r.SameRegs (s.mapThread k f) := by
  refine ⟨h.cur, fun j => ?_⟩
  by_cases hj : j = k
  · subst hj
    rw [State.mapThread, State.thread_setThread]
    exact (h.threads j).trans hf
  · rw [State.mapThread, State.thread_setThread_ne _ _ _ _ hj]
    exact h.threads j

/-- Every listed thread is changed by f, which keeps its registers. -/
theorem State.SameRegs.mapVals {t : State} {f : Thread → Thread} (hf : ∀ x : Thread, x.SameRegs (f x)) (hd : f {} = {})
    (hc : t.cur = s.cur) (ht : t.threads = s.threads.mapVals (fun _ x => f x)) : r.SameRegs t := by
  refine ⟨hc.trans h.cur, fun k => ?_⟩
  have hk : t.thread k = f (s.thread k) := by rw [State.thread, State.thread, ht, SMap.get_mapVals hd]
  exact hk ▸ (h.threads k).trans (hf _)

theorem State.SameRegs.ite {c : Prop} [Decidable c] {t : State} (ht : r.SameRegs t) :
    r.SameRegs (if c then s else t) := by
  split
  · exact h
  · exact ht

/-- A loop over states: what every round keeps holds at its end. -/
theorem State.SameRegs.foldl {α : Type} {f : State → α → State} {l : List α}
    (hf : ∀ s a, r.SameRegs s → r.SameRegs (f s a)) : r.SameRegs (l.foldl f s) :=
  List.foldlRecOn l f h fun _ hs a _ => hf _ a hs

theorem State.SameRegs.lineWritten (line : Nat) : r.SameRegs (lineWritten line s) :=
  h.mapVals (Thread.sameRegs_lineWritten line) (if_neg (by simp)) rfl rfl

theorem State.SameRegs.lineEvicted (line : Nat) (trans : Bool) : r.SameRegs (lineEvicted line trans s) := by
  unfold Machine.lineEvicted
  extract_lets s1
  have h1 : r.SameRegs s1 := h.mapVals (Thread.sameRegs_lineEvicted line trans) (if_neg (by simp)) rfl rfl
  clear_value s1
  split
  · exact h1.update
  · exact h1

theorem State.SameRegs.touchPage (a : Nat) : r.SameRegs (touchPage a s) := by
  unfold Machine.touchPage
  split
  · exact h.update
  · exact h.update

theorem State.SameRegs.writeBytes (a : Nat) (l : List Byte) : r.SameRegs (s.writeBytes a l) :=
  (State.SameRegs.update h).foldl fun _ _ h2 => (h2.touchPage _).lineWritten _

theorem State.SameRegs.setSideband (a : Nat) (x : BitVec 32) : r.SameRegs (s.setSideband a x) :=
  (State.SameRegs.touchPage h.update _).lineWritten _

theorem State.SameRegs.tellFirmware (x : Report) : r.SameRegs (tellFirmware x s) := by
  unfold Machine.tellFirmware
  extract_lets n s1
  have h1 : r.SameRegs s1 := h.update
  clear_value s1 n
  split
  · refine h1.mapThread ?_
    split
    · exact .refl _
    · exact ⟨rfl, rfl, rfl, id⟩
  · exact h1

theorem State.SameRegs.enterRoute {part : Option Nat} {cls : Nat} {a b : Die} : r.SameRegs (enterRoute part cls a b s) :=
  h.foldl fun _ _ h2 => h2.update

theorem State.SameRegs.enterBoth {part : Option Nat} {a b : Die} : r.SameRegs (enterBoth part a b s) :=
  h.enterRoute.enterRoute

theorem State.SameRegs.enterSent {fw : Bool} {l : List Msg} : r.SameRegs (enterSent fw l s) := by
  refine h.foldl fun _ _ h2 => ?_
  split
  · exact h2.enterRoute
  · exact h2

theorem State.SameRegs.startCheck {p line : Nat} : r.SameRegs (startCheck p line s) := h.update

theorem State.SameRegs.putPlane {line : Nat} {p : Plane} : r.SameRegs (s.putPlane line p) := by
  unfold State.putPlane
  extract_lets s1
  have h1 : r.SameRegs s1 := h.update
  clear_value s1
  split
  · exact ((h1.writeBytes _ _).setSideband _ _).setSideband _ _
  · exact h1.foldl fun _ _ h3 => h3.writeBytes _ _

theorem State.SameRegs.writeBackStash {line : Nat} : r.SameRegs (writeBackStash line s) :=
  h.foldl fun _ _ h2 => h2.foldl fun _ _ h4 => h4.foldl fun _ _ h6 => h6.putPlane

theorem State.SameRegs.exchange {line : Nat} {f : Plane → Plane} {fw : Bool} : r.SameRegs (exchange line f s fw) := by
  unfold Machine.exchange
  extract_lets p s1 t1 t2 d t3
  have h1 : r.SameRegs t1 := h.update.ite (State.SameRegs.putPlane h.writeBackStash)
  clear_value t1
  have h2 : r.SameRegs t2 := h1.enterSent
  clear_value t2 d
  have h3 : r.SameRegs t3 := h2.enterBoth.startCheck.ite h2
  clear_value t3
  exact h3.foldl fun _ _ h4 => h4.tellFirmware _

theorem State.SameRegs.demote {p : Nat} {i : Option Nat} {b : Bool} : r.SameRegs (demote p i b s) := by
  unfold Machine.demote
  split
  · exact h
  · exact h.update.ite h

theorem State.SameRegs.evictLine {line : Nat} : r.SameRegs (evictLine line s) := by
  unfold Machine.evictLine
  extract_lets d s1 written s2
  have h1 : r.SameRegs s1 := h.exchange
  clear_value s1
  have h2 : r.SameRegs s2 := h1.writeBackStash.ite h1
  clear_value s2
  split
  · exact h1
  · exact State.SameRegs.lineEvicted (h2.enterRoute.ite h2) _ _

omit h in
theorem State.SameRegs.makeRoom {fuel p slice line : Nat} (h : r.SameRegs s) :
    Yields r.SameRegs (makeRoom fuel p slice line s) := by
  induction fuel generalizing s with
  | zero => exact .error
  | succ _ ih =>
    unfold Machine.makeRoom
    split
    · exact .ok h
    · extract_lets l
      clear_value l
      split
      · exact .ok h
      · split
        · exact .error
        · extract_lets s1
          have h1 : r.SameRegs s1 := h.demote.evictLine
          clear_value s1
          split
          · exact .error
          · split
            · exact .error
            · exact ih h1

theorem State.SameRegs.startClear {line : Nat} : r.SameRegs (startClear line s) := by
  unfold Machine.startClear
  exact h.ite h.update

theorem State.SameRegs.fillLine {c : Ctx} {at0 line : Nat} {low : Bool} :
    Yields r.SameRegs (fillLine c at0 line low s) := by
  unfold Machine.fillLine
  split
  · exact .ok h
  · refine h.makeRoom.bind fun _ h2 => .ok ?_
    exact .startCheck (.startClear (.enterBoth h2.update))

theorem State.SameRegs.takeToken {c : Ctx} {slice : Nat} : Yields r.SameRegs (takeToken c slice s) := by
  unfold Machine.takeToken
  extract_lets i credit
  clear_value credit
  split
  · exact .ok h
  · split
    · refine .ok ?_
      split
      · exact h.mapThread (Thread.sameRegs_withCredit _ _ _)
      · exact h.update
      · exact h
    · split
      · exact .error
      · split
        · exact .ok h.update
        · split
          next s1 he =>
            refine .ok ?_
            unfold Machine.borrowToken at he
            extract_lets at he
            split at he
            · exact absurd he nofun
            · obtain ⟨q, -, rfl⟩ := Option.map_eq_some_iff.1 he
              exact h.update
          next => exact .error

theorem State.SameRegs.agentAccess {a line ev : Nat} {runs : List (Nat × List Byte)} {fw : Bool} :
    r.SameRegs (agentAccess a line ev runs s fw).1 := by
  unfold Machine.agentAccess
  extract_lets x s1 s2 x2
  have h1 : r.SameRegs s1 := h.update
  clear_value s1
  have h2 : r.SameRegs s2 := h1.exchange
  clear_value s2
  split
  · exact h
  · split
    · exact h2.update
    · split
      · exact h2.update
      · split
        · exact h2
        · exact h2

theorem State.SameRegs.uncached {c : Ctx} {code line : Nat} {data : Payload} :
    Yields (fun x => r.SameRegs x.1) (uncached c code line data s) := by
  unfold Machine.uncached
  extract_lets slice
  clear_value slice
  split
  · exact .error
  · extract_lets i s1 s2
    have h1 : r.SameRegs s1 := h.update
    clear_value s1
    have h2 : r.SameRegs s2 := h1.exchange
    clear_value s2 i
    split
    · exact .ok h2
    · exact .ok h2.update

omit h in
theorem State.SameRegs.makeWay {fuel a line : Nat} (h : r.SameRegs s) : Yields r.SameRegs (makeWay fuel a line s) := by
  induction fuel generalizing s with
  | zero => exact .error
  | succ _ ih =>
    unfold Machine.makeWay
    split
    · exact .ok h
    · extract_lets l
      clear_value l
      split
      · exact .ok h
      · split
        · exact .ok h
        · extract_lets prot s1
          have h1 : r.SameRegs s1 := h.exchange
          clear_value s1
          split
          · exact ih h1
          · exact .error

theorem State.SameRegs.takeWay {a at0 line : Nat} : Yields r.SameRegs (takeWay a at0 line s) := by
  unfold Machine.takeWay
  split
  · exact .ok h
  · exact State.SameRegs.makeWay (h.update.ite h)

theorem State.SameRegs.lineAccess {c : Ctx} {pol : Policy} {at0 va code : Nat} {data : Payload} :
    Yields (fun x => r.SameRegs x.1) (lineAccess c pol at0 va code data s) := by
  unfold Machine.lineAccess
  extract_lets line s1 prot ev agent request reach
  have h1 : r.SameRegs s1 := h.enterBoth
  clear_value s1
  have hreach : ∀ x, r.SameRegs x → Yields (fun x => r.SameRegs x.1) (reach x) := by
    intro _ h2
    dsimp -zeta only [reach]
    refine h2.fillLine.bind fun _ h3 => ?_
    extract_lets s4
    have h4 : r.SameRegs s4 := h3.demote
    clear_value s4 agent
    split
    · extract_lets had run
      have hrun : ∀ x, r.SameRegs x → Yields (fun x => r.SameRegs x.1) (run x) := by
        intro _ h5
        dsimp -zeta only [run]
        clear_value line ev
        split
        · exact .ok (h5.agentAccess.update.ite h5.agentAccess)
        · exact .error
        · exact .error
      clear_value run
      split
      · exact h4.takeWay.bind fun _ h6 => hrun _ h6
      · exact .ok_bind (hrun _ h4)
    · refine h4.uncached.bind fun _ h5 => ?_
      split
      · exact .ok (h5.writeBackStash.ite h5)
      · exact .error
      · exact .error
  clear_value reach
  split
  · exact .ok ((h1.foldl fun _ _ h2 => h2.writeBytes _ _).ite h1)
  · split
    · exact .ok_bind (hreach _ h)
    · exact h.takeToken.bind fun _ h2 => hreach _ h2

theorem State.SameRegs.prefetchLine {llcOnly : Bool} {p : Piece} {at0 : Nat} :
    r.SameRegs (prefetchLine llcOnly p at0 s) := by
  unfold Machine.prefetchLine
  extract_lets c x
  have hx : Yields r.SameRegs x := by
    unfold x
    split
    · split
      · exact .ok h
      · split
        · exact .ok h
        · exact h.takeToken.bind fun _ h2 => h2.fillLine
    · exact h.lineAccess.map fun _ h3 => h3
  clear_value x
  split
  next s1 => exact hx _ rfl
  next => exact h

end

/-! ### PREF (R186) -/

/-- The end of an instruction outside a repetition: at the next word, with its registers. -/
theorem Thread.retire_regs {t : Thread} (h : t.rep = none) :
    t.retire.pc = t.pc + 4 ∧ t.retire.g = t.g ∧ t.retire.v = t.v := by
  rw [Thread.retire, Thread.retireTo, h]
  exact ⟨rfl, rfl, rfl⟩

section
variable {s : State} {a b : Reg} {f : Bool} (h : Clear { cp := true } s)
include h

/-- The registers of the thread after a prefetch, whatever the lines it met. -/
theorem execPref_regs : ∃ t, execPref a b f s = .next t ∧ t.thr.pc = s.thr.pc + 4 ∧ t.thr.g = s.thr.g ∧ t.thr.v = s.thr.v := by
  rw [execPref, issue_scalar _ h rfl rfl rfl]
  dsimp only
  refine ⟨_, rfl, ?_⟩
  generalize List.filter _ _ = ps
  have hs : s.SameRegs (ps.foldl (fun s p => (linesFrom p.pa p.len).foldl (fun s l => prefetchLine f p l s) s) s) :=
    (State.SameRegs.refl s).foldl fun _ _ h2 => h2.foldl fun _ _ h3 => h3.prefetchLine
  generalize ps.foldl _ s = t at hs
  have ht : s.thr.SameRegs t.thr := by
    rw [State.thr, State.thr, hs.cur]
    exact hs.threads _
  obtain ⟨hpc, hg, hv⟩ := Thread.retire_regs (ht.main h.main)
  rw [retire, State.thr_mapThr]
  exact ⟨hpc.trans (by rw [ht.pc]), hg.trans ht.g, hv.trans ht.v⟩

theorem execPref_unmapped (hm : mappedPieces s s.ctx (s.rg a).toNat (min (s.rg b).toNat 65536) .load = []) :
    execPref a b f s = .next (s.setThr s.thr.wentOn) := by
  rw [execPref, issue_scalar _ h rfl rfl rfl]
  simp only [hm, List.filter_nil, List.foldl_nil, retire_main h]

end

/-! ### Descriptors of blocks in the local window (R149, R150) -/

/-- A group without an HMOD governs an instruction that accepts none (R49). -/
theorem Clear.hmod {s : State} (h : Clear {} s) : s.hmod = 0 := by
  have hg := h.group
  simp only [Hints.legal, Bool.and_eq_true, Bool.or_eq_true, List.isEmpty_iff] at hg
  obtain ⟨⟨⟨-, hmods⟩, -⟩, -⟩ := hg
  rw [State.hmod, State.grp, h.grp, Hints.hmod, hmods.resolve_right (by decide)]
  rfl

/-- What a listed or default answer of a map of lists holds stands in one of its entries. -/
theorem SMap.exists_of_mem_get {α : Type} {m : SMap (List α)} {k : Nat} {x : α} (h : x ∈ m.get [] k) :
    ∃ e ∈ m, x ∈ e.2 := by
  induction m with
  | nil => exact absurd h List.not_mem_nil
  | cons e m ih =>
    obtain ⟨j, l⟩ := e
    rw [SMap.get] at h
    split at h
    · exact ⟨_, List.mem_cons_self, h⟩
    · obtain ⟨e, he, hx⟩ := ih h
      exact ⟨e, List.mem_cons_of_mem _ he, hx⟩

theorem postedAt_of_postedBy {s : State} {k : Nat} (h : postedBy s k = false) (pa n : Nat) : postedAt s k pa n = false := by
  rw [Bool.eq_false_iff] at h ⊢
  intro hp
  apply h
  simp only [postedAt, Bool.and_eq_true, List.any_eq_true] at hp
  obtain ⟨-, w, -, x, hx, hpost⟩ := hp
  obtain ⟨e, he, hx⟩ := SMap.exists_of_mem_get hx
  exact List.any_eq_true.2 ⟨e, he, List.any_eq_true.2 ⟨x, hx, hpost⟩⟩

theorem aligned_of_mod {x : Word} {n : Nat} (h : x.toNat % n = 0) : aligned x n = .ok () := if_neg (not_not.2 h)

/-- A canonical address stands for itself (R153). -/
theorem State.key_of_lt (s : State) {a : Nat} (h : a < 2 ^ 44) : s.key a = a := if_pos h

section
variable {s : State} {va n : Nat} (h : LocalRange s va n)
include h

theorem LocalRange.localPa_lt : s.localPa va < 2 ^ 44 := by
  obtain ⟨hlow, hhigh, hroom⟩ := h.bounds
  have hc := h.cluster_lt
  have hpos := h.pos
  rw [State.localPa, scratchBase]
  omega

theorem LocalRange.localOpen : s.ctx.localOpen = true := by
  change (s.thr.depth == 0 && s.thr.home == clusterOf s.cur) = true
  rw [h.depth, h.home, beq_self_eq_true, beq_self_eq_true]
  rfl

/-- Within a 64 KiB page an access in the local window is of one part, granted at once (R55, R170). -/
theorem LocalRange.threadAccess_page {k : Access} (hk : k ≠ .fetch) (hpage : n ≤ 65536 - va % 65536)
    (hr : s.thr.rep = none) (hm : s.hmod = 0) (hp : postedBy s s.cur = false) :
    Machine.threadAccess k [(va, n)] s = .ok (s, [s.localPiece va n]) := by
  have hpieces : Machine.pieces s s.ctx va n k = .ok [s.localPiece va n] := by
    rw [Machine.pieces, h.pastWindow, h.cutOf, if_neg Bool.false_ne_true, if_pos hpage]
    exact congrArg (Except.map _) (h.piece (o := 0) h.pos (by omega) hk)
  have hlocal : ∀ p ∈ [s.localPiece va n], LocalPiece s.ctx p :=
    List.forall_mem_singleton.2 (h.localPiece (o := 0) (by omega))
  have hsplit : splitAccess s.ctx k [(va, n)] s = .ok (s, [s.localPiece va n]) := by
    have hflat : [[s.localPiece va n]].flatten = [s.localPiece va n] := by simp
    simp only [splitAccess, List.mapM_cons, List.mapM_nil, hpieces, bind, Except.bind, pure, Except.pure, hflat,
      ordCheck_local hlocal, charge_local hlocal]
  have hbehind : runsBehind s false [s.localPiece va n] = false := by
    rw [runsBehind, Thread.outstanding, hr]; rfl
  have horder : programOrder false (k == .load) [s.localPiece va n] s = .ok () := by
    rw [programOrder, hbehind, if_neg Bool.false_ne_true]
    simp only [List.any_cons, postedAt_of_postedBy hp]
    simp [State.localPiece]
  have hsync : (field s.hmod 18 17 != 0) = false := by rw [hm]; rfl
  simp only [Machine.threadAccess, Bool.false_eq_true, if_false, hsplit, hsync, horder, bind, Except.bind]

end

/-- A part of one byte lies in one line, and in one block. -/
theorem linesFrom_one (pa : Nat) : linesFrom pa 1 = [pa / 128 * 128] := by
  have hcount : (pa + 1 - pa / 128 * 128 + (128 - 1)) / 128 = 1 := by omega
  rw [linesFrom, stepsFrom, hcount]
  simp

theorem blocksFrom_one (pa : Nat) : stepsFrom (pa / 64 * 64) (pa + 1) 64 = [pa / 64 * 64] := by
  have hcount : (pa + 1 - pa / 64 * 64 + (64 - 1)) / 64 = 1 := by omega
  rw [stepsFrom, hcount]
  simp

theorem within_one (pa : Nat) : within pa 1 (pa / 128 * 128) = (pa, 1) := by
  rw [within, max_eq_left (by omega), min_eq_left (by omega), Nat.add_sub_cancel_left]

theorem State.sideband_block (s : State) {a b : Nat} (ha : a < 2 ^ 44) (hb : b < 2 ^ 44) (h : a / 64 = b / 64) :
    s.sideband a = s.sideband b := by
  rw [State.sideband, State.sideband, s.key_of_lt ha, s.key_of_lt hb, h]

section
variable {c : Ctx} {s : State} {p : Piece} (hc : c.cluster < 128) (hio : c.io = none) (h : LocalPiece c p) (hn : p.len = 1)
include hc hio h hn

/-- The sideband of the block of a byte in the requester's own scratchpad (R22). -/
theorem loadSides_local (pol : Policy) : loadSides c pol p s = .ok (s, [s.sideband p.pa]) := by
  obtain ⟨hs, hcl⟩ := h.line hc (l := p.pa / 128 * 128) (by rw [hn, linesFrom_one]; exact List.mem_singleton_self _)
  have hlt : p.pa < 2 ^ 44 := by
    have hhigh := h.high
    rw [scratchBase] at hhigh
    omega
  have hctx : partCtx c p = c := by rw [partCtx, h.unstashed]; rfl
  have hblock : s.sideband (p.pa / 64 * 64) = s.sideband p.pa := s.sideband_block (by omega) hlt (by omega)
  simp only [loadSides, hn, linesFrom_one, List.foldlM_cons, List.foldlM_nil, hctx, lineAccess_scratch hio hs hcl,
    within_one, blocksFrom_one, bind, Except.bind, pure, Except.pure, List.map_cons, List.map_nil, View.sideband, hblock,
    List.nil_append]

/-- A store of no bytes there changes nothing. -/
theorem storePiece_local_nil (pol : Policy) : storePiece c pol p [] s = .ok s := by
  obtain ⟨hs, hcl⟩ := h.line hc (l := p.pa / 128 * 128) (by rw [hn, linesFrom_one]; exact List.mem_singleton_self _)
  have hctx : partCtx c p = c := by rw [partCtx, h.unstashed]; rfl
  have hdie : c.die = clusterDie c.cluster := by rw [Ctx.die, hio]
  have hline (data : Payload) (o : Nat) (hd : data.bytes = [(o, [])]) :
      lineAccess c pol (p.pa / 128 * 128) p.va mUWRITE data s = .ok (s, none) := by
    rw [lineAccess, if_pos hs, hcl, hdie, enterBoth_self, hd]
    rfl
  simp only [storePiece, hn, linesFrom_one, List.foldlM_cons, List.foldlM_nil, hctx, within_one, List.drop_nil,
    List.take_nil, bind, Except.bind, pure, Except.pure]
  rw [hline _ _ rfl]

/-- Where nothing is reserved, the checked store of no bytes changes nothing either. -/
theorem performStores_local_nil (hctx : s.ctx = c) (hu : s.Unreserved) : performStores false [p] [] s = .ok s := by
  obtain ⟨hrsv, hheld⟩ := hu
  have hback : [p].findSome? (fun p => heldBack s (some (s.cur, s.thr.inBody)) p.pa p.len) = none := by
    simp [heldBack, hrsv, hheld]
  have hstore : storePieces s.ctx ([p].map (fun p => (policyOf s false p, p))) [] s = .ok s := by
    simp only [List.map_cons, List.map_nil, storePieces, List.take_nil, hctx, storePiece_local_nil hc hio h hn, bind,
      Except.bind]
  have hdone : performedAt (s.cur, s.thr.inBody) p.pa p.len s = s := by
    rw [performedAt, hheld]; rfl
  simp only [performStores, hback, hstore, bind, Except.bind, List.foldl_cons, List.foldl_nil, hdone]

end

/-! ### A descriptor replaced (R126, R204) -/

/-- The low 16 bits of a sideband replaced. -/
theorem getLsbD_setField_low (x : BitVec 32) (v : Nat) {i : Nat} (hi : i < 32) :
    (setField x 15 0 v).getLsbD i = if i < 16 then v.testBit i else x.getLsbD i := by
  have hmask : (65535 : Nat).testBit i = decide (i < 16) := Nat.testBit_two_pow_sub_one 16 i
  have hlow : (v % 65536).testBit i = (decide (i < 16) && v.testBit i) := Nat.testBit_mod_two_pow v 16 i
  simp only [setField, BitVec.getLsbD_or, BitVec.getLsbD_and, BitVec.getLsbD_not, BitVec.getLsbD_ofNat, Nat.reduceSub,
    Nat.reduceAdd, Nat.reducePow, Nat.mul_one, hmask, hlow, hi]
  by_cases h16 : i < 16
  · simp [h16]
  · simp [h16]

theorem setWidth_setField_low (x : BitVec 32) (d : BitVec 16) : (setField x 15 0 d.toNat).setWidth 16 = d := by
  refine BitVec.eq_of_getLsbD_eq fun i hi => ?_
  rw [BitVec.getLsbD_setWidth, getLsbD_setField_low x _ (by omega), if_pos hi, BitVec.testBit_toNat]
  simp [hi]

theorem extractLsb'_setField_low (x : BitVec 32) (v : Nat) {k : Nat} (hk : k < 8) :
    (setField x 15 0 v).extractLsb' (16 + 2 * k) 2 = x.extractLsb' (16 + 2 * k) 2 := by
  refine BitVec.eq_of_getLsbD_eq fun i hi => ?_
  rw [BitVec.getLsbD_extractLsb', BitVec.getLsbD_extractLsb', getLsbD_setField_low x _ (by omega), if_neg (by omega)]

@[simp] theorem lineWritten_thr (line : Nat) (s : State) : (lineWritten line s).thr = s.thr.lineWritten line := by
  have hd : Thread.lineWritten line {} = {} := if_neg (by simp)
  exact SMap.get_mapVals (f := fun _ (t : Thread) => t.lineWritten line) hd _

@[simp] theorem touchPage_thr (a : Nat) (s : State) : (touchPage a s).thr = s.thr := by
  unfold touchPage; split <;> rfl

@[simp] theorem sideband_retire (s : State) (a : Nat) : (retire s).sideband a = s.sideband a := rfl
@[simp] theorem desc_retire (s : State) (a : Nat) : (retire s).desc a = s.desc a := rfl
@[simp] theorem fe_retire (s : State) (a : Nat) : (retire s).fe a = s.fe a := rfl

theorem State.setDesc_thr (s : State) (a : Nat) (d : BitVec 16) :
    (s.setDesc a d).thr = s.thr.lineWritten (s.key a / 128 * 128) := by
  rw [State.setDesc, State.setSideband, lineWritten_thr, touchPage_thr]
  rfl

/-- A write of a line changes monitor flags alone (R204). -/
theorem Thread.lineWritten_watched (line : Nat) (t : Thread) : t.lineWritten line = t.watched (t.lineWritten line) := by
  rw [Thread.lineWritten]
  split <;> rfl

section
variable (s : State) {a : Nat} (ha : a < 2 ^ 44) (d : BitVec 16)
include ha

theorem State.sideband_setDesc {x : Nat} (hx : x < 2 ^ 44) :
    (s.setDesc a d).sideband x = if x / 64 = a / 64 then setField (s.sideband a) 15 0 d.toNat else s.sideband x := by
  rw [State.sideband, State.setDesc, State.setSideband_side, SMap.get_set, State.key_of_lt _ hx, State.key_of_lt _ ha]
  simp only [State.sideband, State.key_of_lt _ hx]

theorem State.desc_setDesc : (s.setDesc a d).desc a = d := by
  rw [State.desc, s.sideband_setDesc ha d ha, if_pos rfl, setWidth_setField_low]

theorem State.fe_setDesc {x : Nat} (hx : x < 2 ^ 44) : (s.setDesc a d).fe x = s.fe x := by
  rw [State.fe, State.fe, s.sideband_setDesc ha d hx, State.key_of_lt _ hx, State.key_of_lt _ hx]
  split
  next hb => rw [extractLsb'_setField_low _ _ (by omega), s.sideband_block hx ha hb]
  next => rfl

end

section
variable {s : State} (h : Clear {} s)
include h

/-- BDST's last step: the descriptor is replaced, and the thread goes on with what its monitors saw. -/
theorem retire_setDesc_thr (a : Nat) (d : BitVec 16) :
    (retire (s.setDesc a d)).thr = s.thr.wentOn.watched (retire (s.setDesc a d)).thr := by
  have hw := s.thr.lineWritten_watched (s.key a / 128 * 128)
  have hmain (u : Thread) : (s.thr.watched u).retire = (s.thr.watched u).wentOn := Thread.retire_main _ h.main h.idle
  rw [retire, State.thr_mapThr, State.setDesc_thr, hw, hmain]
  rfl

variable {d a b : Reg} (ha : (s.rg a).toNat % 64 = 0) (hl : LocalRange s (s.rg a).toNat 64) (hu : s.Unreserved)
include ha hl hu

theorem threadAccess_block {k : Access} (hk : k ≠ .fetch) :
    threadAccess k [((s.rg a).toNat, 64)] s = .ok (s, [s.localPiece (s.rg a).toNat 64]) :=
  hl.threadAccess_page hk (by omega) h.main h.hmod (by rw [postedBy, hu.2]; rfl)

omit h ha hu in
theorem localPiece_byte : LocalPiece s.ctx (s.localPiece (s.rg a).toNat 1) :=
  hl.localPiece (o := 0) (len := 1) (by omega)

theorem execBdld_local : execBdld d a s =
    .next (s.setThr (s.thr.wg d ((s.desc (s.localPa (s.rg a).toNat)).setWidth 64)).wentOn) := by
  refine issue_scalar_ok h rfl rfl rfl ?_
  refine (bind_of_ok (aligned_of_mod ha)).trans ?_
  refine (bind_of_ok (threadAccess_block h ha hl hu (k := .load) (by decide))).trans ?_
  refine (bind_of_ok (loadSides_local hl.cluster_lt rfl (localPiece_byte hl) rfl _)).trans ?_
  exact congrArg Except.ok (retire_wg h _ _)

theorem execBdst_local : execBdst a b s =
    .next (retire (s.setDesc (s.localPa (s.rg a).toNat) ((s.rg b).setWidth 16))) := by
  refine issue_scalar_ok h rfl rfl rfl ?_
  refine (bind_of_ok (aligned_of_mod ha)).trans ?_
  refine (bind_of_ok (threadAccess_block h ha hl hu (k := .store) (by decide))).trans ?_
  exact bind_of_ok (performStores_local_nil hl.cluster_lt rfl (localPiece_byte hl) rfl rfl hu)

end

/-! ### Stash entries (R177-R179) -/

section
variable {s : State} (h : Clear {} s) {d a b e : Reg}
include h

/-- The completion of an instruction that changes one cluster and writes one general register. -/
theorem retire_setCluster_wg (c : Nat) (x : Cluster) (w : Word) :
    retire ((s.setCluster c x).wg d w) = (s.setCluster c x).setThr (s.thr.wg d w).wentOn :=
  retire_wg (s := s.setCluster c x) ⟨h.main, h.idle, h.plain, h.group, h.free⟩ d w

theorem retire_setPart_wg (p : Nat) (x : Partition) (w : Word) :
    retire ((s.setPart p x).wg d w) = (s.setPart p x).setThr (s.thr.wg d w).wentOn :=
  retire_wg (s := s.setPart p x) ⟨h.main, h.idle, h.plain, h.group, h.free⟩ d w

/-- Without an entry of the domain STWB finds no line. -/
theorem execStwb_none
    (hn : (s.cluster (clusterOf s.cur)).stash.all (fun x => !(x.2.live && x.2.dom == s.thr.dom)) = true) :
    execStwb a b s = .next (s.setThr s.thr.wentOn) := by
  have hfilter : (s.cluster (clusterOf s.cur)).stash.filter (fun e => e.2.live && e.2.dom == s.thr.dom) = [] :=
    List.filter_eq_nil_iff.2 fun x hx => by
      simpa only [Bool.not_eq_true', Bool.not_eq_true] using List.all_eq_true.1 hn x hx
  refine issue_scalar_ok h rfl rfl rfl ?_
  simp only [hfilter, List.map_nil, List.flatten_nil, List.filter_nil, heldLines, List.any_nil, List.filter_false,
    List.foldlM_nil, pure, Except.pure, bind, Except.bind, retire_main h]

theorem execStunmap_none (hn : ((s.cluster (clusterOf s.cur)).stash.get {} (s.rg a).toNat).live = false ∨
    ((s.cluster (clusterOf s.cur)).stash.get {} (s.rg a).toNat).dom ≠ s.thr.dom) :
    execStunmap d a s = .next (s.setThr (s.thr.wg d (-1)).wentOn) := by
  have hown : ¬(((s.cluster (clusterOf s.cur)).stash.get {} (s.rg a).toNat).live &&
      ((s.cluster (clusterOf s.cur)).stash.get {} (s.rg a).toNat).dom == s.thr.dom) = true := by
    rw [Bool.and_eq_true, beq_iff_eq]
    rcases hn with hn | hn
    · exact fun hc => Bool.false_ne_true (hn.symm.trans hc.1)
    · exact fun hc => hn hc.2
  refine issue_scalar_ok h rfl rfl rfl ?_
  dsimp only
  rw [if_neg hown, retire_wg h]
  rfl

/-- An entry of whose pages the stash holds no line is freed alone. -/
theorem execStunmap_frees (hlive : ((s.cluster (clusterOf s.cur)).stash.get {} (s.rg a).toNat).live = true)
    (hdom : ((s.cluster (clusterOf s.cur)).stash.get {} (s.rg a).toNat).dom = s.thr.dom)
    (hheld : heldLines s (2048 + clusterOf s.cur) (fun _ _ => true)
      (((s.cluster (clusterOf s.cur)).stash.get {} (s.rg a).toNat).pages.map (fun q => (q.pa, q.len))) = []) :
    execStunmap d a s = .next ((s.setCluster (clusterOf s.cur) { s.cluster (clusterOf s.cur) with
      stash := (s.cluster (clusterOf s.cur)).stash.erase (s.rg a).toNat }).setThr (s.thr.wg d 0).wentOn) := by
  have hunmap : unmapEntry (clusterOf s.cur) (s.rg a).toNat s = s.setCluster (clusterOf s.cur)
      { s.cluster (clusterOf s.cur) with stash := (s.cluster (clusterOf s.cur)).stash.erase (s.rg a).toNat } := by
    rw [unmapEntry, if_pos hlive, dropLines, hheld]
    rfl
  have hown : (((s.cluster (clusterOf s.cur)).stash.get {} (s.rg a).toNat).live &&
      ((s.cluster (clusterOf s.cur)).stash.get {} (s.rg a).toNat).dom == s.thr.dom) = true := by
    rw [Bool.and_eq_true, beq_iff_eq]
    exact ⟨hlive, hdom⟩
  refine issue_scalar_ok h rfl rfl rfl ?_
  dsimp only
  rw [if_pos hown, hunmap, retire_setCluster_wg h]

/-- The entry that STMAP makes of an area in the local window (R177). -/
def stashEntry (s : State) (a b e : Reg) : StashEntry :=
  { live := true, area := s.thr.spbase + ((s.rg a).toNat - localBase), va := (s.rg b).toNat, len := field (s.rg e) 22 0,
    writable := (s.rg e).getLsbD 32, dom := s.thr.dom, unit := s.thr.unit,
    task := s.thr.task.map (fun x => (coreOf s.cur, x)) }

/-- Where the cluster has no entry, a range whose pages pass takes entry 0. -/
theorem execStmap_first (hz : field (s.rg e) 31 23 = 0) (hz' : field (s.rg e) 63 33 = 0)
    (hlen : field (s.rg e) 22 0 % 4096 = 0) (ha : (s.rg a).toNat % 4096 = 0) (hb : (s.rg b).toNat % 4096 = 0)
    (hpos : 0 < field (s.rg e) 22 0) (hmax : field (s.rg e) 22 0 ≤ 0x400000)
    (hl : LocalRange s (s.rg a).toNat (field (s.rg e) 22 0)) {ps : List Piece}
    (hps : (stashEntry s a b e).translate s s.ctx = .ok ps) (hord : ordCheck s ps = .ok ())
    (hcharge : charge s.ctx .load ps s = .ok s) :
    execStmap d a b e s = .next ((s.setCluster (clusterOf s.cur) { s.cluster (clusterOf s.cur) with
      stash := (s.cluster (clusterOf s.cur)).stash.set 0 { stashEntry s a b e with pages := ps.map stashPage } }).setThr
        (s.thr.wg d 0).wentOn) := by
  have hfirst : (List.range 64).find? (fun i => !((s.cluster s.ctx.cluster).stash.get {} i).live) = some 0 := by
    change (List.range 64).find? (fun i => !((s.cluster (clusterOf s.cur)).stash.get {} i).live) = some 0
    rw [hl.stash]
    rfl
  have hover (x : StashEntry) : overlaps (s.cluster s.ctx.cluster) x = false := by
    change (s.cluster (clusterOf s.cur)).stash.any _ = false
    rw [hl.stash]
    rfl
  refine issue_scalar_ok h rfl rfl rfl ?_
  refine (bind_of_ok (aligned_of_mod ha)).trans ?_
  refine (bind_of_ok (aligned_of_mod hb)).trans ?_
  dsimp only
  rw [hl.spbase.1, hl.spbase.2]
  rw [if_neg, if_neg]
  · refine (bind_of_ok hps).trans ((bind_of_ok hord).trans ?_)
    rw [hfirst]
    dsimp only
    rw [if_neg (by rw [hover]; exact Bool.false_ne_true)]
    exact (bind_of_ok hcharge).trans (congrArg Except.ok (retire_setCluster_wg h ..))
  · simp [hz, hz', hlen, hpos.ne', not_lt.2 hmax]
  · obtain ⟨hlow, hhigh, hroom⟩ := hl.bounds
    rw [localBase] at *
    simp only [hl.localOpen, Bool.not_true, Bool.or_false, Bool.or_eq_true, decide_eq_true_eq]
    omega

end

/-! ### Registered tensors (R182-R185) -/

/-- The tensors of the current slot's partition. -/
def State.tensors (s : State) : SMap Tensor := (s.part (s.partOf (clusterOf s.cur))).tensors

/-- The current slot's partition with other tensors. -/
def State.withTensors (s : State) (x : SMap Tensor) : State :=
  s.setPart (s.partOf (clusterOf s.cur)) { s.part (s.partOf (clusterOf s.cur)) with tensors := x }

/-- The tensor of an id that the current thread may name (R183). -/
def State.namedTensor (s : State) (id : Nat) : Option (Nat × Tensor) :=
  s.tensors.find? (fun e => e.1 == id && (e.2.dom == s.thr.dom || decide (1 ≤ s.thr.level)))

theorem State.namedTensor_none {s : State} {id : Nat} (h : ∀ e ∈ s.tensors, e.1 ≠ id) : s.namedTensor id = none :=
  List.find?_eq_none.2 fun e he => by simp [h e he]

section
variable {s : State} (h : Clear {} s) {d a b : Reg}
include h

theorem retire_withTensors_wg (x : SMap Tensor) (w : Word) :
    retire ((s.withTensors x).wg d w) = (s.withTensors x).setThr (s.thr.wg d w).wentOn :=
  retire_setPart_wg h ..

theorem execTres_none (hn : s.namedTensor (s.rg a).toNat = none) :
    execTres d a b s = .next (s.setThr (s.thr.wg d (-1)).wentOn) := by
  refine issue_scalar_ok h rfl rfl rfl ?_
  change (match s.namedTensor (s.rg a).toNat with | none => _ | some (i, t) => _) = _
  rw [hn]
  exact congrArg Except.ok (retire_wg h ..)

theorem execTres_refuses {i : Nat} {t : Tensor} (hn : s.namedTensor (s.rg a).toNat = some (i, t)) (hb : 7 < (s.rg b).toNat) :
    execTres d a b s = .next (s.setThr (s.thr.wg d (-2)).wentOn) := by
  refine issue_scalar_ok h rfl rfl rfl ?_
  change (match s.namedTensor (s.rg a).toNat with | none => _ | some (i, t) => _) = _
  rw [hn]
  exact (if_pos hb).trans (congrArg Except.ok (retire_wg h ..))

theorem execTres_sets {i : Nat} {t : Tensor} (hn : s.namedTensor (s.rg a).toNat = some (i, t)) (hb : (s.rg b).toNat ≤ 7) :
    execTres d a b s = .next ((s.withTensors (s.tensors.set i { t with prio := (s.rg b).toNat })).setThr
      (s.thr.wg d (BitVec.ofNat 64 t.prio)).wentOn) := by
  refine issue_scalar_ok h rfl rfl rfl ?_
  change (match s.namedTensor (s.rg a).toNat with | none => _ | some (i, t) => _) = _
  rw [hn]
  exact (if_neg (not_lt.2 hb)).trans (congrArg Except.ok (retire_withTensors_wg h ..))

end

/-- A tensor record of bad form (R183; log entry 55 for the base). -/
def BadTensor (w0 w1 w2 : Nat) : Prop :=
  w2 % 2 ^ 32 = 0 ∨ w2 / 2 ^ 32 % 2 ^ 16 = 0 ∨ w1 = 0 ∨ w1 % 128 ≠ 0 ∨ w2 / 2 ^ 48 = 0 ∨ w2 / 2 ^ 48 % 128 ≠ 0 ∨
    w1 % (w2 / 2 ^ 48) ≠ 0 ∨ w0 % 128 ≠ 0

/-- The tensor that a record makes at a physical address. -/
def tensorOf (s : State) (w0 w1 w2 pa : Nat) : Tensor :=
  { base := w0, pa := pa, pitch := w1, rows := w2 % 2 ^ 32, tileRows := w2 / 2 ^ 32 % 2 ^ 16, tileWidth := w2 / 2 ^ 48
    dom := s.thr.dom }

theorem cleanRange_none {s : State} {pa n : Nat} (h : linesHeld s pa n = []) : cleanRange pa n s = s := by
  rw [cleanRange, h]
  rfl

section
variable {s : State} {w0 w1 w2 w3 : Nat}

theorem tensorRecord_reserved (h : 512 ≤ w3) : tensorRecord w0 w1 w2 w3 s = .ok (s, -4) := by
  rw [tensorRecord]
  exact if_pos (by omega)

theorem tensorRecord_removal (h : 256 ≤ w3) (h' : w3 < 512) : tensorRecord w0 w1 w2 w3 s =
    match s.namedTensor (w3 % 256) with
    | some (_, t) => .ok ((cleanRange t.pa (t.rows * t.pitch) s).setTensors s.ctx.part (s.tensors.erase (w3 % 256)),
        BitVec.ofNat 64 (w3 % 256))
    | none => .ok (s, -5) := by
  rw [tensorRecord]
  exact (if_neg (by omega)).trans (if_pos (by omega))

theorem tensorRecord_unknown (h : 256 ≤ w3) (h' : w3 < 512) (hn : ∀ e ∈ s.tensors, e.1 ≠ w3 % 256) :
    tensorRecord w0 w1 w2 w3 s = .ok (s, -5) := by
  rw [tensorRecord_removal h h', State.namedTensor_none hn]

theorem tensorRecord_releases (h : 256 ≤ w3) (h' : w3 < 512) {i : Nat} {t : Tensor}
    (hn : s.namedTensor (w3 % 256) = some (i, t)) (hheld : linesHeld s t.pa (t.rows * t.pitch) = []) :
    tensorRecord w0 w1 w2 w3 s = .ok (s.withTensors (s.tensors.erase (w3 % 256)), BitVec.ofNat 64 (w3 % 256)) := by
  rw [tensorRecord_removal h h', hn]
  dsimp only
  rw [cleanRange_none hheld]
  rfl

theorem tensorRecord_badForm (h : w3 < 256) (hbad : BadTensor w0 w1 w2) : tensorRecord w0 w1 w2 w3 s = .ok (s, -4) := by
  rw [tensorRecord]
  refine (if_neg (by omega)).trans ((if_neg (by omega)).trans (if_pos ?_))
  simpa [BadTensor, or_assoc] using hbad

/-- The first tensor of a partition takes id 0 where its range passes. -/
theorem tensorRecord_first (h : w3 < 256) (hform : ¬BadTensor w0 w1 w2) (hts : s.tensors = []) {ps : List Piece}
    {q : Piece} (hps : rangeOf s s.ctx w0 (w2 % 2 ^ 32 * w1) .load = .ok ps) (hq : ps.head? = some q)
    (hord : ordCheck s ps = .ok ()) (hcont : contiguous ps = true) (hcharge : charge s.ctx .load ps s = .ok s)
    (hheld : linesHeld s q.pa (w2 % 2 ^ 32 * w1) = []) :
    tensorRecord w0 w1 w2 w3 s = .ok (s.withTensors [(0, tensorOf s w0 w1 w2 q.pa)], 0) := by
  obtain ⟨r, rfl⟩ : ∃ r, ps = q :: r := by
    cases ps with
    | nil => exact absurd hq nofun
    | cons p r => exact ⟨r, by rw [Option.some.inj hq]⟩
  have hts' : (s.part s.ctx.part).tensors = [] := hts
  rw [tensorRecord]
  refine (if_neg (by omega)).trans ((if_neg (by omega)).trans ((if_neg ?_).trans ?_))
  · simpa [BadTensor, or_assoc] using hform
  · dsimp only
    rw [hts']
    refine (bind_of_ok hps).trans ((bind_of_ok hord).trans ?_)
    dsimp only
    rw [hcont]
    refine (bind_of_ok hcharge).trans ?_
    rw [cleanRange_none hheld, hts']
    rfl

end

/-! ### The record of TILEREG -/

theorem take_drop_map_range {α : Type} (f : Nat → α) {k m n : Nat} (h : k + m ≤ n) :
    (((List.range n).map f).drop k).take m = (List.range m).map (fun i => f (k + i)) := by
  refine List.ext_getElem (by simp; omega) fun i h₁ h₂ => ?_
  simp

/-- Word i of the record in the local window. -/
theorem LocalRange.recordWord {s : State} {va : Nat} (h : LocalRange s va 32) {i : Nat} (hi : i < 4) :
    ofBytes (((s.readBytes (s.localPa va) 32).drop (8 * i)).take 8) = s.byteNat (s.localPa va + 8 * i) 8 := by
  rw [h.readBytes, take_drop_map_range _ (by omega), State.byteNat]
  simp only [Nat.add_assoc]

/-- The bytes of an access that nothing before it holds back. -/
theorem LocalRange.loadRanges {s : State} {va n : Nat} (h : LocalRange s va n) (hr : s.thr.rep = none)
    (hm : s.hmod = 0) (hp : postedBy s s.cur = false) :
    Machine.loadRanges s false [(va, n)] = .ok (s, s.readBytes (s.localPa va) n) := by
  obtain ⟨ps, hps, hparts⟩ := h.threadAccess hr (by rw [hm]; rfl) (postedAt_of_postedBy hp _ _)
  refine (bind_of_ok hps).trans ?_
  change performLoads false ps s = _
  rw [performLoads, loadPieces_local h.cluster_lt rfl (by simpa using hparts.pieces), List.map_map]
  simp only [Function.comp_def, List.map_id', hparts.bytes]

/-- TILEREG by what the record in the local window asks for. -/
theorem execTilereg_record {s u : State} {d a : Reg} {x : Word} (h : Clear {} s) (ha : (s.rg a).toNat % 32 = 0)
    (hl : LocalRange s (s.rg a).toNat 32) (hp : postedBy s s.cur = false)
    (hrec : tensorRecord (s.byteNat (s.localPa (s.rg a).toNat + 8 * 0) 8) (s.byteNat (s.localPa (s.rg a).toNat + 8 * 1) 8)
      (s.byteNat (s.localPa (s.rg a).toNat + 8 * 2) 8) (s.byteNat (s.localPa (s.rg a).toNat + 8 * 3) 8) s = .ok (u, x)) :
    execTilereg d a s = .next (retire (u.wg d x)) := by
  refine issue_scalar_ok h rfl rfl rfl ?_
  refine (bind_of_ok (aligned_of_mod ha)).trans ((bind_of_ok (hl.loadRanges h.main h.hmod hp)).trans ?_)
  rw [← hl.recordWord (i := 0) (by decide), ← hl.recordWord (i := 1) (by decide), ← hl.recordWord (i := 2) (by decide),
    ← hl.recordWord (i := 3) (by decide)] at hrec
  exact bind_of_ok hrec

/-! ### The statement -/

/-- What BDST leaves (R149): the descriptor alone, and what the thread's monitors saw of it. -/
theorem bdst_outcome {s : State} {a b : Reg} (h : Clear {} s) (ha : (s.rg a).toNat % 64 = 0)
    (hl : LocalRange s (s.rg a).toNat 64) (hu : s.Unreserved) :
    ∃ t, exec (.bdst a b) s = .next t ∧ t.desc (s.localPa (s.rg a).toNat) = (s.rg b).setWidth 16 ∧
      t.thr = s.thr.wentOn.watched t.thr ∧
      (∀ x, x < 2 ^ 44 → x / 64 ≠ s.localPa (s.rg a).toNat / 64 → t.sideband x = s.sideband x) ∧
      (∀ x, x < 2 ^ 44 → t.fe x = s.fe x) ∧ ∀ x, Memory.get t.mem x = Memory.get s.mem x := by
  have hlt := hl.localPa_lt
  refine ⟨_, execBdst_local h ha hl hu, ?_, retire_setDesc_thr h .., fun x hx hne => ?_, fun x hx => ?_, fun x => ?_⟩
  · rw [desc_retire, s.desc_setDesc hlt]
  · rw [sideband_retire, s.sideband_setDesc hlt _ hx, if_neg hne]
  · rw [fe_retire, s.fe_setDesc hlt _ hx]
  · rw [retire, State.mapThr_mem, State.setDesc_mem]

/-- Settles O42. -/
theorem descriptorStashTensorResults : Obligations.DescriptorStashTensorResults := by
  intro s d a b e f c cl p ts gives
  refine ⟨fun h => ⟨execPref_regs h, execPref_unmapped h⟩, fun h => ⟨fun ha hl hu => ?_, execStwb_none h, ?_, ?_, ?_, ?_, ?_⟩⟩
  · exact ⟨execBdld_local h ha hl hu, bdst_outcome h ha hl hu⟩
  · exact ⟨execStunmap_none h, execStunmap_frees h⟩
  · exact fun hz hz' hlen ha hb hpos hmax hl ps hps hord hcharge =>
      execStmap_first h hz hz' hlen ha hb hpos hmax hl hps hord hcharge
  · exact fun i t ht => ⟨execTres_refuses h ht, execTres_sets h ht⟩
  · exact fun hn => execTres_none h (State.namedTensor_none hn)
  · intro ha hl hp w rows tileRows tileWidth bad
    have keeps {x : Word} (hrec : tensorRecord (w 0) (w 1) (w 2) (w 3) s = .ok (s, x)) : gives (.tilereg d a) x :=
      (execTilereg_record h ha hl hp hrec).trans (congrArg Host.Outcome.next (retire_wg h d x))
    have changes {y : SMap Tensor} {x : Word} (hrec : tensorRecord (w 0) (w 1) (w 2) (w 3) s = .ok (s.withTensors y, x)) :
        exec (.tilereg d a) s = .next ((s.withTensors y).setThr (s.thr.wg d x).wentOn) :=
      (execTilereg_record h ha hl hp hrec).trans (congrArg Host.Outcome.next (retire_withTensors_wg h y x))
    refine ⟨fun hbad => keeps ?_, fun hlo hhi hn => keeps (tensorRecord_unknown hlo hhi hn), fun i t hlo hhi hi ht hheld => ?_,
      fun hw hform hts ps q hps hq hord hcont hcharge hheld =>
        changes (tensorRecord_first hw hform hts hps hq hord hcont hcharge hheld)⟩
    · rcases hbad with h512 | ⟨h256, hbad⟩
      · exact tensorRecord_reserved h512
      · exact tensorRecord_badForm h256 hbad
    · rw [hi] at ht ⊢
      exact changes (tensorRecord_releases hlo hhi ht hheld)

end Sys2Proof.Machine
end

section
namespace Sys2Proof.Machine

/-! ## O26-O28: accesses in the local window

The parts of an access of the open local window are an equation, `State.localParts`, whatever the access is for. What the checks
answer to a list of ranges follows from that, and loads and stores of O26-O28 are performed on these parts. -/

/-! ### The parts of a range (R152, R170) -/

/-- The parts of n bytes at va in the local window: one, or two where they pass the end of a 64 KiB page. -/
def State.localParts (s : State) (va n : Nat) : List Piece :=
  if n ≤ 65536 - va % 65536 then [s.localPiece va n]
  else [s.localPiece va (65536 - va % 65536), s.localPiece (va + (65536 - va % 65536)) (n - (65536 - va % 65536))]

/-- The parts of several ranges, in order. -/
def State.localPartsOf (s : State) (rs : List (Nat × Nat)) : List Piece := rs.flatMap (fun r => s.localParts r.1 r.2)

theorem State.localParts_one (s : State) (va : Nat) : s.localParts va 1 = [s.localPiece va 1] := if_pos (by omega)

theorem State.length_localParts (s : State) (va n : Nat) : ((s.localParts va n).map (fun p => p.len)).sum = n := by
  rw [State.localParts]
  split
  next => exact Nat.add_zero n
  next hn =>
    change 65536 - va % 65536 + (n - (65536 - va % 65536) + 0) = n
    omega

section
variable {s : State} {va n : Nat} (h : LocalRange s va n)
include h

theorem LocalRange.pieces_eq {k : Access} (hk : k ≠ .fetch) : Machine.pieces s s.ctx va n k = .ok (s.localParts va n) := by
  have hpos := h.pos
  rw [Machine.pieces, h.pastWindow, h.cutOf, if_neg Bool.false_ne_true, State.localParts]
  split
  next => exact congrArg (Except.map _) (h.piece (o := 0) hpos (by omega) hk)
  next hn =>
    have hfirst : Machine.piece s s.ctx va (65536 - va % 65536) k = .ok (s.localPiece va (65536 - va % 65536)) :=
      h.piece (o := 0) (by omega) (by omega) hk
    exact (bind_of_ok hfirst).trans (bind_of_ok (h.piece (by omega) (by omega) hk))

theorem LocalRange.localParts_sound : LocalParts s va n (s.localParts va n) := by
  obtain ⟨ps, hps, hparts⟩ := h.pieces (k := .load) (by decide)
  rw [h.pieces_eq (by decide)] at hps
  exact Except.ok.inj hps ▸ hparts

/-- A part is some of the range. -/
theorem LocalRange.mem_localParts {p : Piece} (hp : p ∈ s.localParts va n) :
    ∃ o len, p = s.localPiece (va + o) len ∧ 0 < len ∧ o + len ≤ n := by
  have hpos := h.pos
  rw [State.localParts] at hp
  split at hp
  next => exact ⟨0, n, List.mem_singleton.1 hp, hpos, by omega⟩
  next hn =>
    rcases List.mem_pair.1 hp with rfl | rfl
    · exact ⟨0, _, rfl, by omega, by omega⟩
    · exact ⟨_, _, rfl, by omega, by omega⟩

theorem LocalRange.isScratch {p : Piece} (hp : p ∈ s.localParts va n) : isScratch p.pa = true := by
  obtain ⟨o, len, rfl, hlen, ho⟩ := h.mem_localParts hp
  have hlocal := h.localPiece ho
  have hlow : scratchBase (clusterOf s.cur) ≤ s.localPa (va + o) := hlocal.low
  have hhigh : s.localPa (va + o) + len ≤ scratchBase (clusterOf s.cur) + 0x400000 := hlocal.high
  have hc := h.cluster_lt
  change Machine.isScratch (s.localPa (va + o)) = true
  rw [scratchBase] at hlow hhigh
  rw [Machine.isScratch, Bool.and_eq_true, decide_eq_true_eq, decide_eq_true_eq]
  omega

end

/-! ### The checks (R55, R170, R174, R175) -/

section
variable {s : State} {rs : List (Nat × Nat)} (h : ∀ r ∈ rs, LocalRange s r.1 r.2)
include h

theorem localPartsOf_local : ∀ p ∈ s.localPartsOf rs, LocalPiece s.ctx p := by
  intro p hp
  obtain ⟨r, hr, hp⟩ := List.mem_flatMap.1 hp
  exact (h r hr).localParts_sound.pieces p hp

/-- The bytes of the ranges, in order. -/
theorem readPieces_localPartsOf :
    s.readPieces (s.localPartsOf rs) = rs.flatMap (fun r => s.readBytes (s.localPa r.1) r.2) := by
  rw [State.readPieces, State.localPartsOf, List.map_flatMap, List.flatten_eq_flatMap, List.flatMap_assoc]
  refine List.flatMap_congr fun r hr => ?_
  rw [← (h r hr).localParts_sound.bytes, State.readPieces, List.flatten_eq_flatMap]

theorem access_local {c : Ctx} (hc : s.ctx = c) {r : Nat × Nat} (hr : r ∈ rs) {k : Access} (hk : k ≠ .fetch) :
    access s c r.1 r.2 k = .ok (s, s.localParts r.1 r.2) := by
  subst hc
  have hlocal := (h r hr).localParts_sound.pieces
  refine (bind_of_ok ((h r hr).pieces_eq hk)).trans ?_
  exact (bind_of_ok (ordCheck_local hlocal)).trans (bind_of_ok (charge_local hlocal))

theorem accesses_local {k : Access} (hk : k ≠ .fetch) : accesses s.ctx k rs s = .ok (s, s.localPartsOf rs) := by
  induction rs with
  | nil => rfl
  | cons r rs ih =>
    have hhead := access_local h rfl List.mem_cons_self hk
    have hrest := ih fun q hq => h q (List.mem_cons_of_mem _ hq)
    rw [accesses, hhead]
    exact bind_of_ok hrest

theorem splitAccess_local {k : Access} (hk : k ≠ .fetch) : splitAccess s.ctx k rs s = .ok (s, s.localPartsOf rs) := by
  have hpieces : rs.mapM (fun r => Machine.pieces s s.ctx r.1 r.2 k) = .ok (rs.map (fun r => s.localParts r.1 r.2)) := by
    induction rs with
    | nil => rfl
    | cons r rs ih =>
      rw [List.mapM_cons]
      exact (bind_of_ok ((h r List.mem_cons_self).pieces_eq hk)).trans
        (bind_of_ok (ih fun q hq => h q (List.mem_cons_of_mem _ hq)))
  have hlocal := localPartsOf_local h
  refine (bind_of_ok hpieces).trans ?_
  rw [← List.flatMap_def]
  exact (bind_of_ok (ordCheck_local hlocal)).trans (bind_of_ok (charge_local hlocal))

/-- An access in the local window takes its place in the program order, and nothing else (R152). -/
theorem threadAccess_local {k : Access} (hk : k ≠ .fetch) (each : Bool) : threadAccess k rs s each =
    (programOrder (field s.hmod 18 17 != 0) (k == .load) (s.localPartsOf rs) s).map (fun _ => (s, s.localPartsOf rs)) := by
  have horder : ((programOrder (field s.hmod 18 17 != 0) (k == .load) (s.localPartsOf rs) s) >>=
      fun _ => .ok (s, s.localPartsOf rs)) = (programOrder (field s.hmod 18 17 != 0) (k == .load) (s.localPartsOf rs) s).map
        (fun _ => (s, s.localPartsOf rs)) := by
    cases programOrder (field s.hmod 18 17 != 0) (k == .load) (s.localPartsOf rs) s <;> rfl
  rw [← horder]
  cases each
  · exact bind_of_ok (splitAccess_local h hk)
  · exact bind_of_ok (accesses_local h hk)

theorem travelTo_local : travelTo s (s.localPartsOf rs) = none := by
  have hlocal := localPartsOf_local h
  cases hps : s.localPartsOf rs with
  | nil => rfl
  | cons p ps =>
    rw [hps] at hlocal
    rw [travelTo, (hlocal p List.mem_cons_self).fixed, Bool.and_false]
    rfl

/-- A load of the ranges reads their bytes and changes nothing, under any policy. -/
theorem performLoads_local (nt : Bool) : performLoads nt (s.localPartsOf rs) s =
    .ok (s, rs.flatMap (fun r => s.readBytes (s.localPa r.1) r.2)) := by
  cases rs with
  | nil => rfl
  | cons r rs =>
    rw [performLoads, loadPieces_local (h r List.mem_cons_self).cluster_lt rfl (by simpa using localPartsOf_local h),
      List.map_map]
    simp only [Function.comp_def, List.map_id', readPieces_localPartsOf h]

end

theorem localPartsOf_one (s : State) (va n : Nat) : s.localPartsOf [(va, n)] = s.localParts va n := List.append_nil _

theorem LocalRange.singleton {s : State} {va n : Nat} (h : LocalRange s va n) :
    ∀ r ∈ [(va, n)], LocalRange s r.1 r.2 := List.forall_mem_singleton.2 h

/-- Settles O26. -/
theorem localWindowIsDirect : Obligations.LocalWindowIsDirect := by
  intro s va n h _ k hk
  refine ⟨s.localParts va n, access_local h.singleton rfl List.mem_cons_self hk, s.length_localParts va n,
    fun p hp => h.isScratch hp, fun nt => ?_⟩
  have hload := performLoads_local h.singleton nt
  rw [localPartsOf_one] at hload
  rw [hload, ← h.readBytes]
  exact congrArg (fun l => Except.ok (s, l)) (List.append_nil _)

end Sys2Proof.Machine
end

section
namespace Sys2Proof.Machine

/-! ## O27: loads -/

/-! ### What a load waits for (R265, R267) -/

theorem postedAt_iff {s : State} {k pa n : Nat} : postedAt s k pa n = true ↔
    ∃ a, (pa / 8 * 8 ≤ a ∧ a < pa + n ∧ a % 8 = 0) ∧ (s.held.get [] (s.key a)).any (fun x => x.postedOf k) = true := by
  have hmem (a : Nat) : a ∈ stepsFrom (pa / 8 * 8) (pa + n) 8 ↔ pa / 8 * 8 ≤ a ∧ a < pa + n ∧ a % 8 = 0 := by
    rw [mem_stepsFrom (by decide)]
    omega
  simp only [postedAt, Bool.and_eq_true, List.any_map, List.any_eq_true (l := stepsFrom _ _ _), hmem, Function.comp_apply]
  refine ⟨fun h => h.2, fun h => ⟨?_, h⟩⟩
  obtain ⟨a, -, ha⟩ := h
  cases hheld : s.held with
  | nil => rw [hheld] at ha; exact absurd ha Bool.false_ne_true
  | cons => rfl

/-- What is posted to a range is posted to one of the two ranges that make it up. -/
theorem postedAt_add {s : State} {k pa m n : Nat} :
    postedAt s k pa (m + n) = (postedAt s k pa m || postedAt s k (pa + m) n) := by
  rw [Bool.eq_iff_iff, Bool.or_eq_true, postedAt_iff, postedAt_iff, postedAt_iff]
  constructor
  · rintro ⟨a, ⟨hlo, hhi, hmod⟩, ha⟩
    by_cases hm : a < pa + m
    · exact .inl ⟨a, ⟨hlo, hm, hmod⟩, ha⟩
    · exact .inr ⟨a, ⟨by omega, by omega, hmod⟩, ha⟩
  · rintro (⟨a, ⟨hlo, hhi, hmod⟩, ha⟩ | ⟨a, ⟨hlo, hhi, hmod⟩, ha⟩)
    · exact ⟨a, ⟨hlo, by omega, hmod⟩, ha⟩
    · exact ⟨a, ⟨by omega, by omega, hmod⟩, ha⟩

theorem LocalRange.postedAt_localParts {s : State} {va n : Nat} (h : LocalRange s va n) (k : Nat) :
    (s.localParts va n).any (fun p => postedAt s k p.pa p.len) = postedAt s k (s.localPa va) n := by
  rw [State.localParts]
  split
  next => exact Bool.or_false _
  next hn =>
    change (postedAt s k (s.localPa va) (65536 - va % 65536) ||
      (postedAt s k (s.localPa (va + (65536 - va % 65536))) (n - (65536 - va % 65536)) || false)) = _
    rw [Bool.or_false, h.localPa_add, ← postedAt_add, Nat.add_sub_of_le (by omega)]

/-- The slot has an operation of its own behind a grant that a load of the range has to wait for: one to a word of the
range, or with ORD any. -/
def LoadWaits (s : State) (va n : Nat) : Prop :=
  postedAt s s.cur (s.localPa va) n = true ∨ (field s.thr.hints.hmod 18 17 ≠ 0 ∧ postedBy s s.cur = true)

section
variable {s : State} (hr : s.thr.rep = none)
include hr

theorem programOrder_main {ps : List Piece} (hcls : ∀ p ∈ ps, p.cls = 1) (sync reads : Bool) : programOrder sync reads ps s =
    if (sync || reads && ps.any (fun p => postedAt s s.cur p.pa p.len)) = true then afterPosted s else .ok () := by
  have hbehind : runsBehind s sync ps = false := by rw [runsBehind, Thread.outstanding, hr]; rfl
  have hany : ps.any (fun p => p.cls == 0 || (reads && postedAt s s.cur p.pa p.len)) =
      (reads && ps.any (fun p => postedAt s s.cur p.pa p.len)) := by
    have hpart : ∀ p ∈ ps, (p.cls == 0) = false := fun p hp => by rw [hcls p hp]; rfl
    rw [Bool.eq_iff_iff, Bool.and_eq_true, List.any_eq_true, List.any_eq_true]
    constructor
    · rintro ⟨p, hp, hx⟩
      rw [hpart p hp, Bool.false_or, Bool.and_eq_true] at hx
      exact ⟨hx.1, p, hp, hx.2⟩
    · rintro ⟨hreads, p, hp, hx⟩
      exact ⟨p, hp, by rw [hreads, hx, Bool.true_and, Bool.or_true]⟩
  rw [programOrder, hbehind, if_neg Bool.false_ne_true, hany]

/-- Where the slot has left nothing with a home, no access waits for it. -/
theorem programOrder_unposted {ps : List Piece} (hcls : ∀ p ∈ ps, p.cls = 1) (hp : postedBy s s.cur = false)
    (sync reads : Bool) : programOrder sync reads ps s = .ok () := by
  have hafter : afterPosted s = .ok () := by rw [afterPosted, hp]; rfl
  rw [programOrder_main hr hcls, hafter, ite_self]

variable {va n : Nat} (h : LocalRange s va n)
include h

theorem programOrder_load : programOrder (field s.hmod 18 17 != 0) true (s.localParts va n) s =
    if (field s.hmod 18 17 != 0 || postedAt s s.cur (s.localPa va) n) = true then afterPosted s else .ok () := by
  rw [programOrder_main hr fun p hp => (h.localParts_sound.pieces p hp).cls, h.postedAt_localParts, Bool.true_and]

theorem programOrder_waits (hw : LoadWaits s va n) :
    programOrder (field s.hmod 18 17 != 0) true (s.localParts va n) s = .error (.wait .posted) := by
  have hhmod : s.hmod = s.thr.hints.hmod := by rw [State.hmod, State.grp, Thread.grp, hr]
  have hposted : postedBy s s.cur = true := by
    rcases hw with hat | ⟨-, hby⟩
    · by_contra hn
      exact Bool.false_ne_true ((postedAt_of_postedBy (Bool.eq_false_iff.2 hn) _ _).symm.trans hat)
    · exact hby
  have hcond : (field s.hmod 18 17 != 0 || postedAt s s.cur (s.localPa va) n) = true := by
    rw [Bool.or_eq_true, bne_iff_ne, hhmod]
    exact hw.symm.imp_left And.left
  rw [programOrder_load hr h, if_pos hcond, afterPosted, if_pos hposted]

theorem programOrder_free (hw : ¬LoadWaits s va n) :
    programOrder (field s.hmod 18 17 != 0) true (s.localParts va n) s = .ok () := by
  have hhmod : s.hmod = s.thr.hints.hmod := by rw [State.hmod, State.grp, Thread.grp, hr]
  rw [programOrder_load hr h]
  split
  next hcond =>
    rw [Bool.or_eq_true, bne_iff_ne, hhmod] at hcond
    rw [afterPosted, if_neg]
    rcases hcond with hord | hat
    · exact fun hby => hw (.inr ⟨hord, hby⟩)
    · exact absurd (.inl hat) hw
  next => rfl

end

/-! ### A load of one range -/

section
variable {s : State} {va : Word} {n : Nat} (h : LocalRange s va.toNat n) (hr : s.thr.rep = none)
include h hr

theorem loadTo_waits (hw : LoadWaits s va.toNat n) (nt : Bool) (dest : Dest) (f : Nat → Vec) (l : Nat) :
    loadTo va n nt dest f l s = .error (.wait .posted) := by
  have haccess := threadAccess_local h.singleton (k := .load) (by decide) false
  rw [localPartsOf_one, beq_self_eq_true, programOrder_waits hr h hw] at haccess
  rw [loadTo, haccess]
  rfl

/-- A load that waits for nothing leaves its result owed, and nothing else of the device changes (R44, R168). -/
theorem loadTo_owes (hi : s.thr.pending = [])
    (hord : programOrder (field s.hmod 18 17 != 0) true (s.localParts va.toNat n) s = .ok ()) (nt : Bool) (dest : Dest)
    (f : Nat → Vec) (l : Nat) :
    loadTo va n nt dest f l s = .ok (s.setThr (s.thr.owes dest (f (s.byteNat (s.localPa va.toNat) n)) l false)) := by
  have haccess := threadAccess_local h.singleton (k := .load) (by decide) false
  have hload := performLoads_local h.singleton nt
  have htravel := travelTo_local h.singleton
  have hbytes : [(va.toNat, n)].flatMap (fun r => s.readBytes (s.localPa r.1) r.2) =
      (List.range n).map (fun i => Memory.get s.mem (s.localPa va.toNat + i)) :=
    (List.append_nil _).trans h.readBytes
  rw [localPartsOf_one] at haccess htravel hload
  rw [beq_self_eq_true, hord] at haccess
  rw [hbytes] at hload
  refine (bind_of_ok haccess).trans ?_
  dsimp only
  rw [htravel]
  exact (bind_of_ok hload).trans (congrArg Except.ok (retireLong_main _ _ _ _ _ hr hi))

end

/-! ### The value of a scalar load (R168) -/

theorem byteNat_lt (s : State) (pa n : Nat) : s.byteNat pa n < 2 ^ (8 * n) := by
  have hlt := ofBytes_lt ((List.range n).map (fun i => Memory.get s.mem (pa + i)))
  rwa [List.length_map, List.length_range] at hlt

/-- An n-bit number extended by its sign. -/
theorem sext_ofNat {n x : Nat} (hn : n ≤ 64) (hpos : 0 < n) (hx : x < 2 ^ n) : sext (BitVec.ofNat 64 x) n =
    if 2 ^ (n - 1) ≤ x then BitVec.ofInt 64 ((x : Int) - 2 ^ n) else BitVec.ofNat 64 x := by
  have hpow : 2 ^ n = 2 * 2 ^ (n - 1) := by rw [← pow_succ', Nat.sub_add_cancel hpos]
  have hint : (BitVec.ofNat n x).toInt = if 2 ^ (n - 1) ≤ x then (x : Int) - 2 ^ n else x := by
    rw [BitVec.toInt_eq_toNat_cond, BitVec.toNat_ofNat, Nat.mod_eq_of_lt hx]
    split_ifs
    · omega
    · rfl
    · push_cast; rfl
    · omega
  rw [sext, BitVec.setWidth_ofNat_of_le hn, BitVec.signExtend, hint]
  split
  · rfl
  · exact BitVec.ofInt_natCast _ _

/-- What a load of n bytes takes from its bytes, with the sign or without. -/
theorem loadValue_eq (sx : Bool) {n x : Nat} (hn : 8 * n ≤ 64) (hpos : 0 < n) (hx : x < 2 ^ (8 * n)) :
    (if sx then sext (BitVec.ofNat 64 x) (8 * n) else BitVec.ofNat 64 x) =
      if sx ∧ 2 ^ (8 * n - 1) ≤ x then BitVec.ofInt 64 ((x : Int) - 2 ^ (8 * n)) else BitVec.ofNat 64 x := by
  cases sx
  · simp
  · rw [if_pos rfl, sext_ofNat hn (by omega) hx]
    simp

/-! ### Instructions with one range -/

/-- The outcome of a scalar load: it waits for what the slot has posted, or leaves the value owed. -/
def LoadsGeneral (s : State) (d : Reg) (va n : Nat) (r : Vec) (l : Nat) (o : Out) : Prop :=
  (LoadWaits s va n → s.Unheld → o = .next (s.setThr (s.thr.waits .posted))) ∧
    (¬LoadWaits s va n → o = .next (s.setThr (s.thr.owes (.gen d) r l false)))

theorem issue_loadsGeneral {u : Use} {s : State} {body : State → Except Stop State} {va : Word} {n l : Nat} {nt : Bool}
    {d : Reg} {f : Nat → Vec} (h : Clear u.accept s) (hi : u.ill = false) (hp : u.priv = false) (hv : u.vx = false)
    (hb : body s = loadTo va n nt (.gen d) f l s) (hl : LocalRange s va.toNat n) :
    LoadsGeneral s d va.toNat n (f (s.byteNat (s.localPa va.toNat) n)) l (issue u body s) := by
  refine ⟨fun hw hh => ?_, fun hw => ?_⟩
  · exact issue_clear_waits .posted h hi hp hh (hb.trans (loadTo_waits hl h.main hw ..)) rfl rfl rfl
  · exact issue_scalar_ok h hi hp hv (hb.trans (loadTo_owes hl h.main h.idle (programOrder_free h.main hl hw) ..))

/-- A load of major 0x20 (R168, R170). -/
theorem load_loadsGeneral {s : State} {word : Nat} {d b : Reg} {o : BitVec 10} {v : Bool} {l : BitVec 4} {n : Nat}
    (sx : Bool) (hn : 8 * n ≤ 64) (h : Clear (loadAccept v) s) (hl : LocalRange s (s.ea b o n).toNat n) :
    LoadsGeneral s d (s.ea b o n).toNat n
      ((if sx ∧ 2 ^ (8 * n - 1) ≤ s.byteNat (s.localPa (s.ea b o n).toNat) n
        then BitVec.ofInt 64 ((s.byteNat (s.localPa (s.ea b o n).toNat) n : Int) - 2 ^ (8 * n))
        else BitVec.ofNat 64 (s.byteNat (s.localPa (s.ea b o n).toNat) n)).setWidth 128) l.toNat
      (load word d b o v l n sx s) := by
  rw [← loadValue_eq sx hn hl.pos (byteNat_lt s _ n), load]
  exact issue_loadsGeneral (f := fun x => (if sx then sext (BitVec.ofNat 64 x) (8 * n) else BitVec.ofNat 64 x).setWidth 128)
    h rfl rfl rfl rfl hl

/-- An instruction that names a vector register and leaves its result owed (R44, R96). -/
theorem issue_vx_owes {u : Use} {s : State} {body : State → Except Stop State} {d : Reg} {x : Vec} {l : Nat}
    (h : Clear u.accept s) (hi : u.ill = false) (hp : u.priv = false) (hv : u.vx = true)
    (hb : body s = .ok (s.setThr (s.thr.owes (.vec d) x l false))) :
    issue u body s = .next (s.setThr ((s.thr.withVx true).owes (.vec d) x l false)) := by
  rw [issue_clear body h hi hp, hb]
  exact congrArg Host.Outcome.next (setVx_setThr s _ hv rfl)

/-- A vector load of 16 bytes, in order (R171, R173). -/
theorem issue_loadsVector {u : Use} {s : State} {body : State → Except Stop State} {va : Word} {l : Nat} {nt : Bool}
    {d : Reg} (h : Clear u.accept s) (hi : u.ill = false) (hp : u.priv = false) (hv : u.vx = true)
    (hb : body s = loadTo va 16 nt (.vec d) (fun x => BitVec.ofNat 128 x) l s) (hl : LocalRange s va.toNat 16)
    (hposted : postedBy s s.cur = false) :
    issue u body s =
      .next (s.setThr ((s.thr.withVx true).owes (.vec d) (BitVec.ofNat 128 (s.byteNat (s.localPa va.toNat) 16)) l false)) := by
  have hcls : ∀ p ∈ s.localParts va.toNat 16, p.cls = 1 := fun p hp => (hl.localParts_sound.pieces p hp).cls
  exact issue_vx_owes h hi hp hv (hb.trans (loadTo_owes hl h.main h.idle (programOrder_unposted h.main hcls hposted ..) ..))

/-! ### Elements gathered from their addresses (R174, R175) -/

/-- Equal chunks of a list, one for each element. -/
theorem map_chunks {α β γ : Type} {f : α → List β} {n : Nat} (hf : ∀ a, (f a).length = n) (g : List β → γ) (es : List α) :
    (List.range es.length).map (fun i => g (((es.flatMap f).drop (n * i)).take n)) = es.map (fun a => g (f a)) := by
  induction es with
  | nil => rfl
  | cons a es ih =>
    rw [List.length_cons, List.range_succ_eq_map, List.map_cons, List.map_map, List.map_cons, ← ih, List.flatMap_cons]
    congr 1
    · rw [Nat.mul_zero, List.drop_zero, List.take_left' (hf a)]
    · refine List.map_congr_left fun i _ => ?_
      rw [Function.comp_apply, Nat.mul_succ, Nat.add_comm, ← List.drop_drop, List.drop_left' (hf a)]

theorem find?_zip_map {β : Type} (val : Nat → β) (es : List Nat) (e : Nat) :
    (es.zip (es.map val)).find? (fun p => p.1 == e) = if e ∈ es then some (e, val e) else none := by
  induction es with
  | nil => rfl
  | cons a es ih =>
    rw [List.map_cons, List.zip_cons_cons, List.find?_cons, ih]
    by_cases ha : a = e
    · simp [ha]
    · simp only [List.mem_cons, Ne.symm ha, false_or, beq_false_of_ne ha]

/-- The elements listed are new, the others old. -/
theorem lane_putLanes {n e : Nat} (old : Vec) (es : List Nat) (val : Nat → Nat) (he : e < 128 / n) :
    lane (putLanes old n es (es.map val)) n e = if e ∈ es then val e % 2 ^ n else lane old n e := by
  rw [putLanes, lane_vecOf_getD (by simpa using Nat.mul_div_le 128 n), getD_map_range _ _ he, find?_zip_map]
  by_cases hmem : e ∈ es
  · rw [if_pos hmem, if_pos hmem]
  · rw [if_neg hmem, if_neg hmem]
    exact Nat.mod_eq_of_lt (lane_lt old n e)

section
variable {s : State} {n : Nat} {es : List Nat} {addr : Nat → Word} (h : ∀ e ∈ es, LocalRange s (addr e).toNat n)
include h

theorem gatherRanges_local : ∀ r ∈ es.map (fun e => ((addr e).toNat, n)), LocalRange s r.1 r.2 :=
  List.forall_mem_map.2 h

theorem loadRanges_gather (hr : s.thr.rep = none) (hp : postedBy s s.cur = false) (each : Bool) :
    loadRanges s false (es.map (fun e => ((addr e).toNat, n))) each =
      .ok (s, es.flatMap (fun e => s.readBytes (s.localPa (addr e).toNat) n)) := by
  have hranges := gatherRanges_local h
  have hcls : ∀ p ∈ s.localPartsOf (es.map (fun e => ((addr e).toNat, n))), p.cls = 1 :=
    fun p hp => (localPartsOf_local hranges p hp).cls
  have haccess := threadAccess_local hranges (k := .load) (by decide) each
  rw [programOrder_unposted hr hcls hp] at haccess
  have hload := performLoads_local hranges false
  rw [List.flatMap_map] at hload
  exact (bind_of_ok haccess).trans hload

theorem gatherTo_local (hr : s.thr.rep = none) (hi : s.thr.pending = []) (hw : s.thr.winMode = false)
    (hp : postedBy s s.cur = false) (each : Bool) (d : Reg) (l : Nat) :
    gatherTo each d n es addr l s = .ok (s.setThr (s.thr.owes (.vec d)
      (putLanes (s.thr.rv d) (8 * n) es (es.map (fun e => s.byteNat (s.localPa (addr e).toNat) n))) l false)) := by
  have hchunks : (List.range es.length).map (fun i => ofBytes
      (((es.flatMap (fun e => s.readBytes (s.localPa (addr e).toNat) n)).drop (n * i)).take n)) =
      es.map (fun e => s.byteNat (s.localPa (addr e).toNat) n) := by
    rw [map_chunks (fun e => by rw [State.readBytes, List.length_map, List.length_range])]
    refine List.map_congr_left fun e he => ?_
    rw [(h e he).readBytes]
    rfl
  refine (bind_of_ok (loadRanges_gather h hr hp each)).trans ?_
  dsimp only
  rw [hchunks, State.oldv_eq _ _ hw, retireLong_main _ _ _ _ _ hr hi]

end

theorem mem_activeBytes {m : Mask} {e : Nat} (he : e < 16) : e ∈ activeBytes m ↔ m.getLsbD e = true := by
  rw [activeBytes, List.mem_filter, List.mem_range]
  exact and_iff_right he

theorem mem_activeLanes {m : Mask} {n e : Nat} (he : e < 16 / n) : e ∈ activeLanes m n ↔ m.getLsbD (n * e) = true := by
  rw [activeLanes, List.mem_filter, List.mem_range, active, bit, Nat.mul_comm]
  exact and_iff_right he

/-- The outcome of a gather: of the elements of n bytes those listed are the bytes at their addresses, the others stay. -/
def Gathers (s : State) (d : Reg) (n l : Nat) (es : List Nat) (addr : Nat → Word) (o : Out) : Prop :=
  ∃ r, o = .next (s.setThr ((s.thr.withVx true).owes (.vec d) r l false)) ∧ ∀ e < 16 / n, lane r (8 * n) e =
    if e ∈ es then s.byteNat (s.localPa (addr e).toNat) n else lane (s.thr.rv d) (8 * n) e

theorem issue_gathers {u : Use} {s : State} {body : State → Except Stop State} {n l : Nat} {each : Bool} {d : Reg}
    {es : List Nat} {addr : Nat → Word} (h : Clear u.accept s) (hi : u.ill = false) (hp : u.priv = false) (hv : u.vx = true)
    (hb : body s = gatherTo each d n es addr l s) (hl : ∀ e ∈ es, LocalRange s (addr e).toNat n)
    (hposted : postedBy s s.cur = false) : Gathers s d n l es addr (issue u body s) := by
  refine ⟨_, issue_vx_owes h hi hp hv (hb.trans (gatherTo_local hl h.main h.idle h.plain hposted each d l)),
    fun e he => ?_⟩
  rw [lane_putLanes _ _ _ (by rwa [lanes_count]), Nat.mod_eq_of_lt (byteNat_lt s _ n)]

/-! ### The instructions of major 0x24 -/

section
variable {s : State} {d a b : Reg} {l : BitVec 4}

theorem execLdxd_loadsGeneral (h : Clear (loadAccept false) s) (hl : LocalRange s (s.rg a + s.rg b).toNat 8) :
    LoadsGeneral s d (s.rg a + s.rg b).toNat 8 (BitVec.ofNat 128 (s.byteNat (s.localPa (s.rg a + s.rg b).toNat) 8)) l.toNat
      (execLdxd d a b l s) :=
  issue_loadsGeneral (f := fun x => BitVec.ofNat 128 x) h rfl rfl rfl rfl hl

theorem execVldm_gathers {m : BitVec 2} (h : Clear { cp := true } s) (hposted : postedBy s s.cur = false)
    (hl : ∀ e < 16, (s.thr.rm m).getLsbD e = true → LocalRange s (s.rg a + s.rg b + BitVec.ofNat 64 e).toNat 1) :
    Gathers s d 1 l.toNat (activeBytes (s.rm m)) (fun e => s.rg a + s.rg b + BitVec.ofNat 64 e)
      (execVldm d a b l m s) := by
  refine issue_gathers h rfl rfl rfl rfl (fun e he => ?_) hposted
  have hlt : e < 16 := List.mem_range.1 (List.mem_of_mem_filter he)
  exact hl e hlt ((mem_activeBytes hlt).1 he)

theorem execVgath_gathers {m w : BitVec 2} (h : Clear { cp := true } s) (hposted : postedBy s s.cur = false)
    (hl : ∀ e < 16 / laneBytes w, (s.thr.rm m).getLsbD (laneBytes w * e) = true →
      LocalRange s (s.rg a + BitVec.ofNat 64 (lane (s.rv b) (8 * laneBytes w) e * laneBytes w)).toNat (laneBytes w)) :
    Gathers s d (laneBytes w) l.toNat (activeLanes (s.rm m) (laneBytes w))
      (fun e => s.rg a + BitVec.ofNat 64 (lane (s.rv b) (8 * laneBytes w) e * laneBytes w)) (execVgath d a b l m w s) := by
  refine issue_gathers h rfl rfl rfl rfl (fun e he => ?_) hposted
  have hlt : e < 16 / laneBytes w := List.mem_range.1 (List.mem_of_mem_filter he)
  exact hl e hlt ((mem_activeLanes hlt).1 he)

end

/-- Settles O27: every load is the issue of one access, or of one for each active element. -/
theorem loadResults : Obligations.LoadResults := by
  refine ⟨fun s d a b o v l => ?_, fun s d a b o v l m w hposted => ?_⟩
  · dsimp only
    refine ⟨fun h => ?_, fun h hl => ?_⟩
    · and_intros
      · exact fun hl => load_loadsGeneral (word := wordLdb d b o v l) false (by decide) h hl
      · exact fun hl => load_loadsGeneral (word := wordLdbs d b o v l) true (by decide) h hl
      · exact fun hl => load_loadsGeneral (word := wordLdh d b o v l) false (by decide) h hl
      · exact fun hl => load_loadsGeneral (word := wordLdhs d b o v l) true (by decide) h hl
      · exact fun hl => load_loadsGeneral (word := wordLdw d b o v l) false (by decide) h hl
      · exact fun hl => load_loadsGeneral (word := wordLdws d b o v l) true (by decide) h hl
      · exact fun hl => load_loadsGeneral (word := wordLdd d b o v l) false (by decide) h hl
    · rw [if_neg (fun hc => Bool.false_ne_true hc.1), setWidth_byteNat]
      exact execLdxd_loadsGeneral h hl
  · dsimp only
    refine ⟨fun h hl => ?_, fun h hl => ?_, fun h hl => ?_, fun h hl => ?_⟩
    · change execVld d b o v l s = _
      exact issue_loadsVector h rfl rfl rfl rfl hl hposted
    · change execVldx d a b l s = _
      exact issue_loadsVector h rfl rfl rfl rfl hl hposted
    · obtain ⟨r, hr, hlanes⟩ := execVldm_gathers (d := d) (l := l) h hposted hl
      refine ⟨r, hr, fun e he => ?_⟩
      rw [hlanes e he]
      simp only [mem_activeBytes he]
      rfl
    · rw [← State.rv_eq _ b h.plain] at hl ⊢
      obtain ⟨r, hr, hlanes⟩ := execVgath_gathers (d := d) (l := l) h hposted hl
      refine ⟨r, hr, fun e he => ?_⟩
      rw [hlanes e he]
      simp only [mem_activeLanes he]
      rfl

end Sys2Proof.Machine
end

section
namespace Sys2Proof.Machine

/-! ## O28: stores -/

/-! ### Bytes written at consecutive addresses -/

/-- The bytes of a list at the addresses from a on. -/
def cellsAt (a : Nat) (l : List Byte) : List (Nat × Byte) := (List.range l.length).map (fun i => (a + i, l.getD i 0))

theorem cellsAt_append (a : Nat) (l r : List Byte) : cellsAt a (l ++ r) = cellsAt a l ++ cellsAt (a + l.length) r := by
  rw [cellsAt, List.length_append, List.range_add, List.map_append, List.map_map]
  congr 1
  · refine List.map_congr_left fun i hi => ?_
    rw [List.getD_append _ _ _ _ (List.mem_range.1 hi)]
  · refine List.map_congr_left fun i _ => ?_
    rw [Function.comp_apply, List.getD_append_right _ _ _ _ (Nat.le_add_right ..), Nat.add_sub_cancel_left, Nat.add_assoc]

/-- What memory holds after bytes, given by a function of the address, are stored at the addresses of a list. -/
theorem Memory.get_setAll_map (m : List Host.Cell) (f : Nat → Byte) (as : List Nat) (x : Nat) :
    Memory.get (Memory.setAll m (as.map (fun a => (a, f a)))) x = if x ∈ as then f x else Memory.get m x := by
  induction as generalizing m with
  | nil => rfl
  | cons a as ih =>
    rw [List.map_cons, Memory.setAll, List.foldl_cons, ← Memory.setAll, ih, Memory.get_set]
    by_cases hx : x = a
    · simp [hx]
    · simp [hx]

theorem Memory.get_setAll_cellsAt (m : List Host.Cell) (a : Nat) (l : List Byte) (x : Nat) :
    Memory.get (Memory.setAll m (cellsAt a l)) x =
      if a ≤ x ∧ x < a + l.length then l.getD (x - a) 0 else Memory.get m x := by
  have hcells : cellsAt a l = ((List.range l.length).map (a + ·)).map (fun y => (y, l.getD (y - a) 0)) := by
    rw [cellsAt, List.map_map]
    refine List.map_congr_left fun i _ => ?_
    rw [Function.comp_apply, Nat.add_sub_cancel_left]
  have hmem : x ∈ (List.range l.length).map (a + ·) ↔ a ≤ x ∧ x < a + l.length := by
    rw [List.mem_map]
    refine ⟨?_, fun hx => ⟨x - a, List.mem_range.2 (by omega), by omega⟩⟩
    rintro ⟨i, hi, rfl⟩
    have := List.mem_range.1 hi
    omega
  rw [hcells, Memory.get_setAll_map m (fun y => l.getD (y - a) 0)]
  simp only [hmem]

/-! ### What a store leaves (R168, R204) -/

theorem Thread.watched_refl (t : Thread) : t = t.watched t := rfl

theorem Thread.watched_trans {t u w : Thread} (h : u = t.watched u) (h' : w = u.watched w) : w = t.watched w := by
  rw [h] at h'
  exact h'

/-- From s to t the cells are written to memory in order, and of the threads only monitor flags change; what waits behind
grants and the sideband stay. -/
structure State.Writes (s t : State) (cells : List (Nat × Byte)) : Prop where
  mem : t.mem = Memory.setAll s.mem cells
  side : t.side = s.side
  cur : t.cur = s.cur
  held : t.held = s.held
  threads : ∀ k, t.thread k = (s.thread k).watched (t.thread k)

theorem State.Writes.refl (s : State) : s.Writes s [] := ⟨rfl, rfl, rfl, rfl, fun k => (s.thread k).watched_refl⟩

theorem State.Writes.trans {s t u : State} {c d : List (Nat × Byte)} (h : s.Writes t c) (h' : t.Writes u d) :
    s.Writes u (c ++ d) where
  mem := by rw [h'.mem, h.mem, Memory.setAll, Memory.setAll, Memory.setAll, List.foldl_append]
  side := h'.side.trans h.side
  cur := h'.cur.trans h.cur
  held := h'.held.trans h.held
  threads k := Thread.watched_trans (h.threads k) (h'.threads k)

/-- What follows a write of memory, a loop over its lines, changes only what rests on the lines. -/
theorem State.Writes.lineWritten {s t : State} {c : List (Nat × Byte)} (h : s.Writes t c) (n : Nat) :
    s.Writes (lineWritten n (touchPage n t)) c where
  mem := by rw [lineWritten_mem, touchPage_mem, h.mem]
  side := by rw [lineWritten_side, touchPage_side, h.side]
  cur := by
    refine Eq.trans ?_ h.cur
    rw [touchPage]
    split <;> rfl
  held := by
    refine Eq.trans ?_ h.held
    rw [touchPage]
    split <;> rfl
  threads k := by
    have hd : Thread.lineWritten n {} = {} := if_neg (by simp)
    have hthread : (Machine.lineWritten n (touchPage n t)).thread k = (t.thread k).lineWritten n := by
      refine (SMap.get_mapVals (f := fun _ (t : Thread) => t.lineWritten n) hd _).trans ?_
      rw [touchPage]
      split <;> rfl
    rw [hthread]
    exact Thread.watched_trans (h.threads k) ((t.thread k).lineWritten_watched n)

theorem State.writes_writeBytes (s : State) {a : Nat} {l : List Byte} (ha : a + l.length ≤ 2 ^ 44) :
    s.Writes (s.writeBytes a l) (cellsAt a l) := by
  have hkeys : ((List.range l.length).map (fun i => s.key (a + i))).zip l = cellsAt a l := by
    refine List.ext_getElem (by simp [cellsAt]) fun i h₁ h₂ => ?_
    have hi : i < l.length := by simpa [cellsAt] using h₂
    simp [cellsAt, s.key_of_lt (a := a + i) (by omega), hi]
  have hbytes : s.Writes { s with mem := Memory.setAll s.mem (cellsAt a l) } (cellsAt a l) :=
    ⟨rfl, rfl, rfl, rfl, fun k => (s.thread k).watched_refl⟩
  rw [State.writeBytes, hkeys]
  exact List.foldlRecOn (motive := fun t => s.Writes t (cellsAt a l)) (s.linesOf a l.length)
    (fun t n => Machine.lineWritten n (touchPage n t)) hbytes fun _ h n _ => h.lineWritten n

/-! ### A store to parts in the local window -/

/-- The cells of the bytes that a store writes over parts, each part taking its own. -/
def partCells : List Piece → List Byte → List (Nat × Byte)
  | [], _ => []
  | p :: r, l => cellsAt p.pa (l.take p.len) ++ partCells r (l.drop p.len)

/-- A write of a line of the requester's own scratchpad is one of its bytes, and nothing else (R156). -/
theorem lineAccess_scratch_write {c : Ctx} {s : State} {line a : Nat} (hio : c.io = none) (hs : isScratch line = true)
    (hc : (line - 0xA0000000000) / 0x400000 = c.cluster) (hline : line % 128 = 0) (ha : line ≤ a) (pol : Policy) (va : Nat)
    (l : List Byte) (side : List (BitVec 32)) :
    lineAccess c pol line va mUWRITE { bytes := [(a - line, l)], side := side } s = .ok (s.writeBytes a l, none) := by
  have hdie : c.die = clusterDie c.cluster := by rw [Ctx.die, hio]
  have hplace : line / 128 * 128 + (a - line) = a := by omega
  rw [lineAccess, if_pos hs, hc, hdie, enterBoth_self]
  dsimp only
  rw [if_pos rfl, List.foldl_cons, List.foldl_nil, hplace]

/-- One line of a store to a part: the round of `storePiece`. -/
def storeLine (c : Ctx) (pol : Policy) (p : Piece) (l : List Byte) (s : State) (x : Nat) : Except Stop State :=
  (lineAccess (partCtx c p) pol x p.va mUWRITE
    { bytes := [((within p.pa p.len x).1 - x, (l.drop ((within p.pa p.len x).1 - p.pa)).take (within p.pa p.len x).2)]
      side := (stepsFrom ((within p.pa p.len x).1 / 64 * 64) ((within p.pa p.len x).1 + (within p.pa p.len x).2) 64).map
        s.sideband } s).bind fun r => .ok r.1

theorem storePiece_eq (c : Ctx) (pol : Policy) (p : Piece) (l : List Byte) (s : State) :
    storePiece c pol p l s = (linesFrom p.pa p.len).foldlM (storeLine c pol p l) s := rfl

/-- How many lines a part meets, the address of the one of number k, and how many bytes of the part come before it. -/
def Piece.lineCount (p : Piece) : Nat := (p.pa + p.len - p.pa / 128 * 128 + (128 - 1)) / 128
def Piece.lineAt (p : Piece) (k : Nat) : Nat := p.pa / 128 * 128 + k * 128
def Piece.upto (p : Piece) (k : Nat) : Nat := min (p.pa + p.len) (p.lineAt k) - p.pa

theorem Piece.upto_zero (p : Piece) : p.upto 0 = 0 := by
  rw [Piece.upto, Piece.lineAt]; omega

theorem Piece.upto_lineCount (p : Piece) : p.upto p.lineCount = p.len := by
  rw [Piece.upto, Piece.lineAt, Piece.lineCount]; omega

/-- Line k of a part holds its bytes from `upto k` to `upto (k + 1)`. -/
theorem Piece.upto_succ (p : Piece) {k : Nat} (hk : k < p.lineCount) :
    within p.pa p.len (p.lineAt k) = (p.pa + p.upto k, p.upto (k + 1) - p.upto k) ∧
      p.upto (k + 1) = p.upto k + (p.upto (k + 1) - p.upto k) ∧ p.upto (k + 1) ≤ p.len := by
  rw [Piece.lineCount] at hk
  rw [within, Piece.upto, Piece.upto, Piece.lineAt, Piece.lineAt, Prod.mk.injEq]
  omega

section
variable {c : Ctx} (hc : c.cluster < 128) (hio : c.io = none)
include hc hio

theorem storeLine_local {p : Piece} (h : LocalPiece c p) (pol : Policy) (l : List Byte) (s : State) {x : Nat}
    (hx : x ∈ linesFrom p.pa p.len) : storeLine c pol p l s x =
      .ok (s.writeBytes (within p.pa p.len x).1 ((l.drop ((within p.pa p.len x).1 - p.pa)).take (within p.pa p.len x).2)) := by
  obtain ⟨hs, hcl⟩ := h.line hc hx
  obtain ⟨hlo, -, hmod⟩ := (mem_stepsFrom (by decide)).1 hx
  have hctx : partCtx c p = c := by rw [partCtx, h.unstashed]; rfl
  rw [storeLine, hctx, lineAccess_scratch_write (a := (within p.pa p.len x).1) hio hs hcl (by omega) (le_max_right _ _)]
  rfl

/-- A store to the first k lines of a part writes the bytes before line k. -/
theorem storeLines_local {p : Piece} (h : LocalPiece c p) (pol : Policy) {l : List Byte} (hl : l.length = p.len) (s : State)
    {k : Nat} (hk : k ≤ p.lineCount) : ∃ t, ((List.range k).map p.lineAt).foldlM (storeLine c pol p l) s = .ok t ∧
      s.Writes t (cellsAt p.pa (l.take (p.upto k))) := by
  induction k with
  | zero => exact ⟨s, rfl, by rw [p.upto_zero]; exact .refl s⟩
  | succ k ih =>
    obtain ⟨t, ht, hw⟩ := ih (by omega)
    have hmem : p.lineAt k ∈ linesFrom p.pa p.len := List.mem_map.2 ⟨k, List.mem_range.2 hk, rfl⟩
    have hline := storeLine_local hc hio h pol l t hmem
    obtain ⟨hwithin, hstep, hlen⟩ := p.upto_succ hk
    rw [hwithin] at hline
    dsimp only at hline
    rw [Nat.add_sub_cancel_left] at hline
    have htake : (l.take (p.upto k)).length = p.upto k := by rw [List.length_take]; omega
    rw [List.range_succ, List.map_append, List.foldlM_append, ht]
    refine ⟨_, bind_of_ok hline, ?_⟩
    have hcells : cellsAt p.pa (l.take (p.upto (k + 1))) = cellsAt p.pa (l.take (p.upto k)) ++
        cellsAt (p.pa + p.upto k) ((l.drop (p.upto k)).take (p.upto (k + 1) - p.upto k)) := by
      conv_lhs => rw [hstep, List.take_add, cellsAt_append, htake]
    rw [hcells]
    refine hw.trans (t.writes_writeBytes ?_)
    have hhigh := h.high
    rw [scratchBase] at hhigh
    rw [List.length_take, List.length_drop]
    omega

/-- A store to a part writes its bytes in order. -/
theorem storePiece_local {p : Piece} (h : LocalPiece c p) (pol : Policy) {l : List Byte} (hl : l.length = p.len)
    (s : State) : ∃ t, storePiece c pol p l s = .ok t ∧ s.Writes t (cellsAt p.pa l) := by
  obtain ⟨t, ht, hw⟩ := storeLines_local hc hio h pol hl s le_rfl
  rw [p.upto_lineCount, ← hl, List.take_length] at hw
  exact ⟨t, ht, hw⟩

theorem storePieces_local {ps : List (Policy × Piece)} (h : ∀ x ∈ ps, LocalPiece c x.2) {l : List Byte}
    (hl : l.length = ((ps.map (·.2)).map (fun p => p.len)).sum) (s : State) :
    ∃ t, storePieces c ps l s = .ok t ∧ s.Writes t (partCells (ps.map (·.2)) l) := by
  induction ps generalizing l s with
  | nil => exact ⟨s, rfl, .refl s⟩
  | cons x ps ih =>
    rw [List.map_cons, List.map_cons, List.sum_cons] at hl
    obtain ⟨t, ht, hw⟩ := storePiece_local hc hio (h x List.mem_cons_self) x.1 (l := l.take x.2.len)
      (by rw [List.length_take]; omega) s
    obtain ⟨u, hu, hw'⟩ := ih (fun y hy => h y (List.mem_cons_of_mem _ hy)) (l := l.drop x.2.len)
      (by rw [List.length_drop]; omega) t
    exact ⟨u, (bind_of_ok ht).trans hu, hw.trans hw'⟩

end

/-- Where nothing is reserved, a checked store to parts in the local window writes its bytes over them. -/
theorem performStores_local {s : State} {ps : List Piece} (hc : clusterOf s.cur < 128) (h : ∀ p ∈ ps, LocalPiece s.ctx p)
    (hu : s.Unreserved) (nt : Bool) {l : List Byte} (hl : l.length = (ps.map (fun p => p.len)).sum) :
    ∃ t, performStores nt ps l s = .ok t ∧ s.Writes t (partCells ps l) := by
  obtain ⟨hrsv, hheld⟩ := hu
  have hback : ps.findSome? (fun p => heldBack s (some (s.cur, s.thr.inBody)) p.pa p.len) = none :=
    List.findSome?_eq_none_iff.2 fun p _ => by rw [heldBack, hrsv, hheld]; rfl
  have hparts : (ps.map (fun p => (policyOf s nt p, p))).map (·.2) = ps := by
    rw [List.map_map]
    exact List.map_id ps
  obtain ⟨t, ht, hw⟩ := storePieces_local (c := s.ctx) (ps := ps.map (fun p => (policyOf s nt p, p))) hc rfl
    (by simpa using h) (by rwa [hparts]) s
  rw [hparts] at hw
  have hdone : ps.foldl (fun u p => performedAt (s.cur, s.thr.inBody) p.pa p.len u) t = t := by
    have hidle (p : Piece) : performedAt (s.cur, s.thr.inBody) p.pa p.len t = t := by
      rw [performedAt, hw.held, hheld]; rfl
    clear * - hidle
    induction ps with
    | nil => rfl
    | cons p ps ih => rw [List.foldl_cons, hidle, ih]
  refine ⟨t, ?_, hw⟩
  rw [performStores, hback]
  exact (bind_of_ok ht).trans (congrArg Except.ok hdone)

/-! ### A store of one range -/

theorem LocalRange.partCells_localParts {s : State} {va n : Nat} (h : LocalRange s va n) {l : List Byte}
    (hl : l.length = n) : partCells (s.localParts va n) l = cellsAt (s.localPa va) l := by
  rw [State.localParts]
  split
  next =>
    change cellsAt (s.localPa va) (l.take n) ++ [] = _
    rw [List.append_nil, List.take_of_length_le hl.le]
  next hn =>
    change cellsAt (s.localPa va) (l.take (65536 - va % 65536)) ++ (cellsAt (s.localPa (va + (65536 - va % 65536)))
      ((l.drop (65536 - va % 65536)).take (n - (65536 - va % 65536))) ++ []) = _
    have hfirst : (l.take (65536 - va % 65536)).length = 65536 - va % 65536 := by
      rw [List.length_take]; omega
    have hrest : (l.drop (65536 - va % 65536)).length ≤ n - (65536 - va % 65536) := by
      rw [List.length_drop]; omega
    conv_rhs => rw [← List.take_append_drop (65536 - va % 65536) l, cellsAt_append, hfirst, ← h.localPa_add]
    rw [List.append_nil, List.take_of_length_le hrest]

theorem Unreserved.postedBy {s : State} (hu : s.Unreserved) : postedBy s s.cur = false := by
  rw [Machine.postedBy, hu.2]
  rfl

/-- The checks grant stores to ranges in the local window at once. -/
theorem threadAccess_store {s : State} {rs : List (Nat × Nat)} (h : ∀ r ∈ rs, LocalRange s r.1 r.2) (hr : s.thr.rep = none)
    (hu : s.Unreserved) : threadAccess .store rs s = .ok (s, s.localPartsOf rs) := by
  rw [threadAccess_local h (by decide), programOrder_unposted hr (fun p hp => (localPartsOf_local h p hp).cls)
    (Unreserved.postedBy hu)]
  rfl

theorem storeFrom_local {s : State} {va : Word} {l : List Byte} (h : LocalRange s va.toNat l.length) (hr : s.thr.rep = none)
    (hu : s.Unreserved) (nt : Bool) :
    ∃ t, storeFrom va l nt s = .ok (retire t) ∧ s.Writes t (cellsAt (s.localPa va.toNat) l) := by
  have htravel := travelTo_local h.singleton
  have hparts : ∀ p ∈ s.localPartsOf [(va.toNat, l.length)], LocalPiece s.ctx p := localPartsOf_local h.singleton
  obtain ⟨t, ht, hw⟩ := performStores_local h.cluster_lt hparts hu nt (l := l)
    (by rw [localPartsOf_one]; exact (s.length_localParts ..).symm)
  rw [localPartsOf_one, h.partCells_localParts rfl] at hw
  refine ⟨t, (bind_of_ok (threadAccess_store h.singleton hr hu)).trans ?_, hw⟩
  dsimp only
  rw [htravel]
  exact bind_of_ok ht

/-- The thread of an instruction as it completes: VX is set where it names a vector or mask register (R96). -/
def Use.completes (u : Use) (t : Thread) : Thread := cond u.vx (t.withVx true) t

/-- What is left of a store that has written its cells: the thread at its next word, with what its monitors saw. -/
theorem issue_writes {u : Use} {s t : State} {body : State → Except Stop State} {c : List (Nat × Byte)}
    (h : Clear u.accept s) (hi : u.ill = false) (hp : u.priv = false) (hb : body s = .ok (retire t)) (hw : s.Writes t c) :
    issue u body s = .next (t.setThr ((u.completes s.thr).wentOn.watched t.thr)) := by
  have hthr : t.thr = s.thr.watched t.thr := by
    rw [State.thr, hw.cur]
    exact hw.threads s.cur
  have hretire : retire t = t.setThr (s.thr.wentOn.watched t.thr) := by
    have hmain : t.thr.retire = t.thr.wentOn :=
      Thread.retire_main _ (by rw [hthr]; exact h.main) (by rw [hthr]; exact h.idle)
    change t.setThr t.thr.retire = _
    rw [hmain]
    exact congrArg (fun x => t.setThr x.wentOn) hthr
  rw [issue_clear body h hi hp, hb, hretire, Use.completes]
  cases hv : u.vx
  · exact congrArg Host.Outcome.next (setVx_false _ hv)
  · exact congrArg Host.Outcome.next (setVx_setThr t _ hv rfl)

/-- The threads after such a store. -/
theorem State.Writes.others {s t : State} {c : List (Nat × Byte)} (hw : s.Writes t c) (x : Thread) {k : Nat}
    (hk : k ≠ s.cur) : (t.setThr x).thread k = (s.thread k).watched ((t.setThr x).thread k) := by
  rw [State.thread_setThr_ne _ _ _ (hw.cur ▸ hk)]
  exact hw.threads k

theorem State.Writes.stored {s t : State} {pa : Nat} {l : List Byte} (hw : s.Writes t (cellsAt pa l)) (th : Thread) :
    Stored s (t.setThr (th.watched t.thr)) pa l th where
  bytes i hi := by
    rw [State.setThr_mem, hw.mem, Memory.get_setAll_cellsAt, if_pos (by omega), Nat.add_sub_cancel_left]
  others x hx := by rw [State.setThr_mem, hw.mem, Memory.get_setAll_cellsAt, if_neg (by omega)]
  side b := by rw [State.setThr_side, hw.side]
  mine := by rw [State.thr_setThr]; rfl
  threads _ hk := hw.others _ hk

/-- The outcome stores the bytes at va, and leaves th of the thread. -/
def StoresBytes (s : State) (va : Nat) (l : List Byte) (th : Thread) (o : Out) : Prop :=
  ∃ t, o = .next t ∧ Stored s t (s.localPa va) l th.wentOn

theorem issue_storesBytes {u : Use} {s : State} {body : State → Except Stop State} {va : Word} {l : List Byte} {nt : Bool}
    (h : Clear u.accept s) (hi : u.ill = false) (hp : u.priv = false) (hb : body s = storeFrom va l nt s)
    (hl : LocalRange s va.toNat l.length) (hu : s.Unreserved) :
    StoresBytes s va.toNat l (u.completes s.thr) (issue u body s) := by
  obtain ⟨t, ht, hw⟩ := storeFrom_local hl h.main hu nt
  exact ⟨_, issue_writes h hi hp (hb.trans ht) hw, hw.stored _⟩

/-! ### The instructions of majors 0x21, 0x23 and 0x24 -/

/-- The n low bytes of a number, lowest first. -/
theorem toBytes_toNat {w : Nat} (n : Nat) (x : BitVec w) :
    toBytes n x.toNat = (List.range n).map (fun i => x.extractLsb' (8 * i) 8) := by
  have hbytes (y : Nat) : toBytes n y = (List.range n).map (fun i => BitVec.ofNat 8 (y / 2 ^ (8 * i))) := by
    induction n generalizing y with
    | zero => rfl
    | succ n ih =>
      rw [toBytes, ih, List.range_succ_eq_map, List.map_cons, List.map_map, Nat.mul_zero, Nat.pow_zero, Nat.div_one]
      refine congrArg _ (List.map_congr_left fun i _ => ?_)
      rw [Function.comp_apply, Nat.div_div_eq_div_mul, Nat.mul_succ, Nat.add_comm, Nat.pow_add]
  rw [hbytes]
  refine List.map_congr_left fun i _ => BitVec.eq_of_toNat_eq ?_
  rw [BitVec.toNat_ofNat, BitVec.extractLsb'_toNat, Nat.shiftRight_eq_div_pow]

section
variable {s : State} {d a b : Reg} {o : BitVec 10} {v : Bool} (hu : s.Unreserved)
include hu

/-- A store of major 0x21 (R168, R170). -/
theorem store_storesBytes {word n : Nat} (h : Clear (storeAccept v) s)
    (hl : LocalRange s (s.ea b o n).toNat (toBytes n (s.rg d).toNat).length) :
    StoresBytes s (s.ea b o n).toNat (toBytes n (s.rg d).toNat) s.thr (store word d b o v n s) := by
  rw [store]
  exact issue_storesBytes h rfl rfl rfl hl hu

theorem execVst_storesBytes (h : Clear (storeAccept v) s)
    (hl : LocalRange s (s.ea b o 16).toNat (toBytes 16 (s.rv d).toNat).length) :
    StoresBytes s (s.ea b o 16).toNat (toBytes 16 (s.rv d).toNat) (s.thr.withVx true) (execVst d b o v s) :=
  issue_storesBytes h rfl rfl rfl hl hu

theorem execStxd_storesBytes (h : Clear (storeAccept false) s)
    (hl : LocalRange s (s.rg a + s.rg b).toNat (toBytes 8 (s.rg d).toNat).length) :
    StoresBytes s (s.rg a + s.rg b).toNat (toBytes 8 (s.rg d).toNat) s.thr (execStxd d a b s) :=
  issue_storesBytes h rfl rfl rfl hl hu

theorem execVstx_storesBytes (h : Clear (storeAccept false) s)
    (hl : LocalRange s (s.rg a + s.rg b).toNat (toBytes 16 (s.rv d).toNat).length) :
    StoresBytes s (s.rg a + s.rg b).toNat (toBytes 16 (s.rv d).toNat) (s.thr.withVx true) (execVstx d a b s) :=
  issue_storesBytes h rfl rfl rfl hl hu

end

/-! ### VSTM (R174) -/

/-- A range within a range of the local window. -/
theorem LocalRange.within {s : State} {va n : Nat} (h : LocalRange s va n) {o len : Nat} (hpos : 0 < len) (ho : o + len ≤ n) :
    LocalRange s (va + o) len where
  low := h.low.trans (Nat.le_add_right ..)
  inside := by
    have hlow := h.low
    have hinside := h.inside
    omega
  pos := hpos
  device := h.device
  room := h.room
  depth := h.depth
  home := h.home
  slot := h.slot
  stash := h.stash
  conf hlevel i hi := by
    have hlow := h.low
    have hconf := h.conf hlevel (o + i) (by omega)
    rwa [show scratchBase (clusterOf s.cur) + s.thr.spbase + (va - localBase) + (o + i) =
      scratchBase (clusterOf s.cur) + s.thr.spbase + (va + o - localBase) + i by omega] at hconf

theorem LocalRange.add_toNat {s : State} {x : Word} {n : Nat} (h : LocalRange s x.toNat n) {e : Nat} (he : e ≤ n) :
    (x + BitVec.ofNat 64 e).toNat = x.toNat + e := by
  obtain ⟨hlow, hhigh, hroom⟩ := h.bounds
  rw [localBase] at *
  rw [BitVec.toNat_add, BitVec.toNat_ofNat]
  omega

theorem State.localPartsOf_bytes (s : State) (va : Nat) (es : List Nat) :
    s.localPartsOf (es.map (fun e => (va + e, 1))) = es.map (fun e => s.localPiece (va + e) 1) := by
  rw [State.localPartsOf, List.flatMap_map, List.map_eq_flatMap]
  exact List.flatMap_congr fun e _ => s.localParts_one _

section
variable {s : State} {va n : Nat} (h : LocalRange s va n) {es : List Nat} (hes : ∀ e ∈ es, e < n)
include h hes

theorem byteRanges_local : ∀ r ∈ es.map (fun e => (va + e, 1)), LocalRange s r.1 r.2 :=
  List.forall_mem_map.2 fun e he => h.within Nat.one_pos (hes e he)

/-- Single bytes of a range are written each to its own address. -/
theorem partCells_bytes (f : Nat → Byte) : partCells (es.map (fun e => s.localPiece (va + e) 1)) (es.map f) =
    (es.map (s.localPa va + ·)).map (fun y => (y, f (y - s.localPa va))) := by
  induction es with
  | nil => rfl
  | cons e es ih =>
    change (s.localPa (va + e) + 0, f e) :: partCells (es.map (fun e => s.localPiece (va + e) 1)) (es.map f) = _
    rw [ih fun x hx => hes x (List.mem_cons_of_mem _ hx), h.localPa_add, List.map_cons, List.map_cons, Nat.add_sub_cancel_left,
      Nat.add_zero]

theorem storeRanges_bytes (hr : s.thr.rep = none) (hu : s.Unreserved) (f : Nat → Byte) :
    ∃ t, storeRanges s false (es.map (fun e => (va + e, [f e]))) = .ok t ∧
      s.Writes t ((es.map (s.localPa va + ·)).map (fun y => (y, f (y - s.localPa va)))) := by
  have hranges := byteRanges_local h hes
  have hsizes : (es.map (fun e => (va + e, [f e]))).map (fun r => (r.1, r.2.length)) = es.map (fun e => (va + e, 1)) := by
    rw [List.map_map]; rfl
  have hbytes : ((es.map (fun e => (va + e, [f e]))).map (fun r => r.2)).flatten = es.map f := by
    rw [List.map_map, ← List.flatMap_def, List.map_eq_flatMap]; rfl
  have hlen : (es.map f).length = ((s.localPartsOf (es.map (fun e => (va + e, 1)))).map (fun p => p.len)).sum := by
    rw [s.localPartsOf_bytes, List.map_map, List.length_map]
    simp [Function.comp_def, State.localPiece]
  obtain ⟨t, ht, hw⟩ := performStores_local h.cluster_lt (localPartsOf_local hranges) hu false hlen
  rw [s.localPartsOf_bytes, partCells_bytes h hes] at hw
  refine ⟨t, ?_, hw⟩
  rw [storeRanges, hsizes, hbytes]
  exact (bind_of_ok (threadAccess_store hranges hr hu)).trans ht

end

/-- VSTM writes the active bytes of its vector, each to its own address. -/
theorem execVstm_writes {s : State} {d a b : Reg} {m : BitVec 2} (h : Clear { cp := true } s) (hu : s.Unreserved)
    (hl : LocalRange s (s.rg a + s.rg b).toNat 16) :
    ∃ t, execVstm d a b m s = .next (t.setThr ((s.thr.withVx true).wentOn.watched t.thr)) ∧
      s.Writes t (((activeBytes (s.thr.rm m)).map (s.localPa (s.rg a + s.rg b).toNat + ·)).map
        (fun y => (y, (s.thr.rv d).extractLsb' (8 * (y - s.localPa (s.rg a + s.rg b).toNat)) 8))) := by
  have hes : ∀ e ∈ activeBytes (s.thr.rm m), e < 16 := fun e he => List.mem_range.1 (List.mem_of_mem_filter he)
  have hranges : (activeBytes (s.rm m)).map (fun e =>
      ((s.rg a + s.rg b + BitVec.ofNat 64 e).toNat, toBytes 1 (lane (s.rv d) 8 e))) =
      (activeBytes (s.thr.rm m)).map (fun e => ((s.rg a + s.rg b).toNat + e, [(s.thr.rv d).extractLsb' (8 * e) 8])) := by
    refine List.map_congr_left fun e he => ?_
    rw [hl.add_toNat (hes e he).le, State.rv_eq _ _ h.plain, ← ofNat_lane]
    rfl
  obtain ⟨t, ht, hw⟩ := storeRanges_bytes hl hes h.main hu (fun e => (s.thr.rv d).extractLsb' (8 * e) 8)
  refine ⟨t, ?_, hw⟩
  rw [execVstm]
  refine issue_writes (u := { word := wordVstm d a b m, gr := [a, b], vr := [d], mr := [m], accept := { cp := true }
                              body := true, vx := true }) h rfl rfl ?_ hw
  rw [hranges]
  exact bind_of_ok ht

theorem vstm_outcome {s : State} {d a b : Reg} {m : BitVec 2} (h : Clear { cp := true } s) (hu : s.Unreserved)
    (hl : LocalRange s (s.rg a + s.rg b).toNat 16) : ∃ u, exec (.vstm d a b m) s = .next u ∧
      u.thr = (s.thr.withVx true).wentOn.watched u.thr ∧
      (∀ e < 16, Memory.get u.mem (s.localPa (s.rg a + s.rg b).toNat + e) =
        if (s.thr.rm m).getLsbD e then (s.thr.rv d).extractLsb' (8 * e) 8
        else Memory.get s.mem (s.localPa (s.rg a + s.rg b).toNat + e)) ∧
      (∀ x, x < s.localPa (s.rg a + s.rg b).toNat ∨ s.localPa (s.rg a + s.rg b).toNat + 16 ≤ x →
        Memory.get u.mem x = Memory.get s.mem x) ∧
      ∀ k, k ≠ s.cur → u.thread k = (s.thread k).watched (u.thread k) := by
  obtain ⟨t, ht, hw⟩ := execVstm_writes (d := d) (m := m) h hu hl
  refine ⟨_, ht, by rw [State.thr_setThr]; rfl, fun e he => ?_, fun x hx => ?_, fun k hk => hw.others _ hk⟩
  · have hmem : s.localPa (s.rg a + s.rg b).toNat + e ∈
        (activeBytes (s.thr.rm m)).map (s.localPa (s.rg a + s.rg b).toNat + ·) ↔ (s.thr.rm m).getLsbD e = true := by
      rw [← mem_activeBytes he, List.mem_map]
      simp
    rw [State.setThr_mem, hw.mem, Memory.get_setAll_map _ (fun y => (s.thr.rv d).extractLsb' (8 * (y - _)) 8),
      Nat.add_sub_cancel_left]
    simp only [hmem]
  · have hmem : x ∉ (activeBytes (s.thr.rm m)).map (s.localPa (s.rg a + s.rg b).toNat + ·) := by
      rw [List.mem_map]
      rintro ⟨e, he, rfl⟩
      have hlt : e < 16 := List.mem_range.1 (List.mem_of_mem_filter he)
      omega
    rw [State.setThr_mem, hw.mem, Memory.get_setAll_map _ (fun y => (s.thr.rv d).extractLsb' (8 * (y - _)) 8), if_neg hmem]

/-- Settles O28: a store writes the bytes of its register, one after the other, and VSTM the active ones. -/
theorem storeResults : Obligations.StoreResults := by
  intro s d a b o v m hu
  dsimp only
  simp only [← toBytes_toNat]
  refine ⟨fun h => ?_, fun h => ?_, fun h hl => ?_⟩
  · and_intros
    · exact fun hl => store_storesBytes (word := wordStb d b o v) hu h hl
    · exact fun hl => store_storesBytes (word := wordSth d b o v) hu h hl
    · exact fun hl => store_storesBytes (word := wordStw d b o v) hu h hl
    · exact fun hl => store_storesBytes (word := wordStd d b o v) hu h hl
    · rw [← State.rv_eq _ d h.plain]
      exact fun hl => execVst_storesBytes hu h hl
  · rw [← State.rv_eq _ d h.plain]
    exact ⟨fun hl => execStxd_storesBytes hu h hl, fun hl => execVstx_storesBytes hu h hl⟩
  · obtain ⟨u, hexec, hthr, hin, hout, hothers⟩ := vstm_outcome (d := d) (m := m) h hu hl
    refine ⟨u, hexec, hthr, fun e he => ?_, hout, hothers⟩
    rw [hin e he, toBytes_toNat, getD_map_range _ _ he]

end Sys2Proof.Machine
end

section
namespace Sys2Proof.Machine

/-! ## O29: the frame of loads and stores

The frame fails for a load. Its first touch of a page writes qused of the domain's record (R162), and with that access the slot
gives up its place behind the grant of that word (R211): the word is granted to the head of its queue, whose RSV completes
(R209). The part of the statement about loads does not ask, as that about stores does, that nothing waits behind a grant, and so
leaves open that this head is the slot of the load itself: it then retires twice. -/

/-- The device with the load of log entry 6, its page not yet touched. Slot 0 has its place behind the grant of qused of domain
0, and is also the head of that word's queue. -/
def touchingBehindGrant : State :=
  let s := State.reset.loaded
  { s.setThread 0 { loadThread.wg 4 (BitVec.ofNat 64 loadAddress) with
      rsv := some { word := 0x1038, va := 0, granted := false, d := 5 } } with
    mem := placeBytes s.mem 0x40000 8 0x21F
    rsvQueues := [(0x1038, [0])]
    held := [(0x1038, [{ slot := 0, body := false }])] }

/-- A load of 8 bytes at va is granted, stays in its slot and is performed. -/
def loadGranted (s : State) (va : Nat) : Bool :=
  match threadAccess .load [(va, 8)] s with
  | .ok (s1, ps) => decide (travelTo s ps = none) && (performLoads false ps s1).toOption.isSome
  | .error _ => false

theorem exists_of_loadGranted {s : State} {va : Nat} (h : loadGranted s va = true) : ∃ s1 ps s2 x,
    threadAccess .load [(va, 8)] s = .ok (s1, ps) ∧ travelTo s ps = none ∧ performLoads false ps s1 = .ok (s2, x) := by
  rw [loadGranted] at h
  split at h
  next s1 ps ha =>
    obtain ⟨ht, hp⟩ := Bool.and_eq_true_iff.1 h
    cases hx : performLoads false ps s1 with
    | error e => rw [hx] at hp; exact absurd hp Bool.false_ne_true
    | ok r => exact ⟨s1, ps, r.1, r.2, ha, of_decide_eq_true ht, hx⟩
  next => exact absurd h Bool.false_ne_true

/-- The pc of the current slot after an outcome. -/
def nextPc : Out → Option Word
  | .next t => some t.thr.pc
  | _ => none

theorem touchingBehindGrant_clear : Clear { tv := true, acq := true, cp := true } touchingBehindGrant :=
  ⟨by decide +kernel, by decide +kernel, by decide +kernel, by decide +kernel, by decide +kernel⟩

theorem touchingBehindGrant_granted : loadGranted touchingBehindGrant loadAddress = true := by decide +kernel

/-- The load and the RSV have both completed: the slot is two words on. -/
theorem touchingBehindGrant_nextPc :
    touchingBehindGrant.thr.pc = 0x50000 ∧ nextPc (execLdd 1 4 0 false 0 touchingBehindGrant) = some 0x50008 := by
  decide +kernel

/-- Refutes O29: the load of slot 0 in `touchingBehindGrant` leaves its thread two words on, not one. -/
theorem not_memoryFrame : ¬ Obligations.MemoryFrame := by
  intro h
  have hva : loadAddress = (touchingBehindGrant.rg 4 + (0 : BitVec 10).signExtend 64 * 8).toNat := by decide +kernel
  obtain ⟨s1, ps, s2, x, ha, ht, hp⟩ := exists_of_loadGranted touchingBehindGrant_granted
  obtain ⟨hpc, htwo⟩ := touchingBehindGrant_nextPc
  obtain ⟨t, hexec, honce, -⟩ :=
    (h touchingBehindGrant 1 4 0 false 0 loadAddress hva).1 touchingBehindGrant_clear s1 ps s2 x ha ht hp
  have hldd : execLdd 1 4 0 false 0 touchingBehindGrant = .next t := hexec
  rw [hldd, nextPc, honce, hpc] at htwo
  exact absurd htwo (by decide)

end Sys2Proof.Machine
end

section
namespace Sys2Proof.Machine

/-! ## O30: migration -/

section
variable {s : State} {n k : Nat} {m : Migrant} {rest : List Migrant}

theorem core_settleMigrant (m : Migrant) (k n : Nat) (s : State) : (settleMigrant m k s).core n = s.core n := rfl

theorem sameMemory_settleMigrant (m : Migrant) (k : Nat) (s : State) : SameMemory s (settleMigrant m k s) :=
  ⟨fun _ => rfl, fun _ => rfl⟩

/-- The thread of a migrant in its new slot runs with the registers that it brought (R189). -/
theorem started_settleMigrant (m : Migrant) (k : Nat) (s : State) :
    ((settleMigrant m k s).thread k).occupied = true ∧ ((settleMigrant m k s).thread k).g = m.thread.g ∧
      ((settleMigrant m k s).thread k).pc = m.thread.pc ∧ ((settleMigrant m k s).thread k).wait = none := by
  have hthread : (settleMigrant m k s).thread k =
      loadDomain (s.partOf (clusterOf k)) m.thread.dom s { m.thread with occupied := true, wait := none } :=
    State.thread_setThread ..
  rw [hthread]
  exact ⟨rfl, rfl, rfl, rfl⟩

theorem thread_settleMigrant_ne (m : Migrant) (s : State) {j : Nat} (h : j ≠ k) :
    (settleMigrant m k s).thread j = s.thread j :=
  State.thread_setThread_ne _ _ _ _ h

/-- The message in its core: what it carries, with what has been posted to its source since, under the number that stands for
the issuer until the thread is placed (R189, R338). -/
def Migrant.arrived (m : Migrant) (s : State) : Migrant :=
  { thread := { m.thread with events := (s.thread m.source).events, unwind := (s.thread m.source).unwind }
    source := 0x10000 + s.serial }

/-- The slot that the thread of a message has left (R189). -/
def Migrant.leave (m : Migrant) (s : State) : State :=
  (renameIssuer m.thread.unit m.source (0x10000 + s.serial) s.next).setThread m.source {}

theorem core_leave (m : Migrant) (s : State) (n : Nat) : (m.leave s).core n = s.core n := rfl

/-- A message that finds a free ordinary slot, and no arrival before it, starts its thread there. -/
theorem arrive_settles (hk : freeSlot s n = some k) (hin : (s.core n).incoming = m :: rest)
    (hq : (s.core n).arrivals = []) (hs : (s.cluster (n / 16)).stopped = false) :
    arrive n s = settleMigrant (m.arrived s) k (m.leave (s.setCore n { s.core n with incoming := rest })) := by
  rw [arrive, hin]
  dsimp -zeta only
  extract_lets c s1 tag free src m2
  have hslot : freeSlot s1 n = some k := hk
  have hlast : (s1.core n).arrivals = [] := (congrArg CoreState.arrivals (State.core_setCore ..)).trans hq
  have hrun : ¬ (s1.cluster (n / 16)).stopped = true := by
    change ¬ (s.cluster (n / 16)).stopped = true
    rw [hs]
    exact Bool.false_ne_true
  refine (if_neg hrun).trans ((if_pos ?_).trans ?_)
  · rw [hlast, hslot]; rfl
  · rw [hslot]; rfl

/-- The arrival that has waited longest starts in a free ordinary slot. -/
theorem dequeueArrival_settles (hk : freeSlot s n = some k) (hq : (s.core n).arrivals = m :: rest) :
    dequeueArrival n s = settleMigrant m k (s.setCore n { s.core n with arrivals := rest }) := by
  rw [dequeueArrival, hq, hk]

end

/-- Settles O30: both events end with the placement of the migrant. -/
theorem migrationStarts : Obligations.MigrationStarts := by
  refine fun s n k m rest hk => ⟨fun hin hq hs hne => ?_, fun hq => ?_⟩
  · obtain ⟨hocc, hg, hpc, hwait⟩ := started_settleMigrant (m.arrived s) k
      (m.leave (s.setCore n { s.core n with incoming := rest }))
    refine ⟨_, congrArg Host.Outcome.next (arrive_settles hk hin hq hs), ?_, hocc, hg, hpc, hwait, ?_, ?_⟩
    · rw [core_settleMigrant, core_leave, State.core_setCore]
    · rw [thread_settleMigrant_ne _ _ hne, Migrant.leave, State.thread_setThread]
    · exact sameMemory_settleMigrant (m.arrived s) k (m.leave (s.setCore n { s.core n with incoming := rest }))
  · obtain ⟨hocc, hg, hpc, hwait⟩ := started_settleMigrant m k (s.setCore n { s.core n with arrivals := rest })
    refine ⟨_, congrArg Host.Outcome.next (dequeueArrival_settles hk hq), ?_, hocc, hg, hpc, hwait, ?_⟩
    · rw [core_settleMigrant, State.core_setCore]
    · exact sameMemory_settleMigrant m k (s.setCore n { s.core n with arrivals := rest })

end Sys2Proof.Machine
end

section
namespace Sys2Proof.Machine

/-! ## O31-O37: operations at the homes of words

What the full/empty operations, monitors, reservations and far atomics share: the access that each makes, the exchange with the
home of its word, and what a change of that word leaves of the device. -/

/-! ### Traps of an instruction with nothing before it -/

theorem bind_of_error {ε α β : Type} {x : Except ε α} {e : ε} {f : α → Except ε β} (h : x = .error e) :
    x >>= f = .error e := by
  rw [h]; rfl

theorem issue_clear_traps {u : Use} {s : State} {body : State → Except Stop State} {x : Trap} (h : Clear u.accept s)
    (hi : u.ill = false) (hp : u.priv = false) (hh : s.Unheld) (hb : body s = .error (.trap x)) :
    issue u body s = .next (trap s.cur x s) := by
  rw [issue_clear body h hi hp, hb]
  exact congrArg Host.Outcome.next (stopAt_trap x h.main hh)

/-- A group without an HMOD or an HIMM may stand before any instruction (R46-R49). -/
theorem Clear.anyAccept {s : State} (h : Clear {} s) (acc : Accept) : Clear acc s := by
  have hg := h.group
  simp only [Hints.legal, Bool.and_eq_true, Bool.or_eq_true, List.isEmpty_iff] at hg
  obtain ⟨⟨⟨⟨⟨⟨⟨_, _⟩, hscheds⟩, himms⟩, _⟩, hmods⟩, _⟩, hlegal⟩ := hg
  have himms := himms.resolve_right (by decide)
  have hmods := hmods.resolve_right (by decide)
  refine ⟨h.main, h.idle, h.plain, ?_, h.free⟩
  simp [Hints.legal, himms, hmods, of_decide_eq_true hscheds, hlegal]

/-- A stop that names no wait is the same for a request that can be exhausted (R194). -/
theorem exhaustible_trap {α : Type} {va : Word} {r : Except Stop α} {x : Trap} (h : r = .error (.trap x)) :
    exhaustible va r = .error (.trap x) := by
  rw [h]; rfl

theorem exhaustible_ok {α : Type} {va : Word} {r : Except Stop α} {x : α} (h : r = .ok x) : exhaustible va r = .ok x := by
  rw [h]; rfl

/-! ### The access of an operation at a home (R55) -/

theorem aligned_misaligned {x : Word} {n : Nat} (h : x.toNat % n ≠ 0) :
    aligned x n = .error (.trap { cause := 3, eaddr := x }) := if_pos h

theorem atomAccess_misaligned {ea : Word} {n align : Nat} (h : ea.toNat % align ≠ 0) (load store charged sync : Bool)
    (s : State) : atomAccess ea n align load store charged sync s = .error (.trap { cause := 3, eaddr := ea }) :=
  bind_of_error (aligned_misaligned h)

/-- Where nothing is reserved or awaited no access is held back (R211). -/
theorem State.Unreserved.heldBack {s : State} (hu : s.Unreserved) (me : Option (Nat × Bool)) (pa n : Nat) :
    heldBack s me pa n = none := by
  rw [Machine.heldBack, hu.1, hu.2]; rfl

theorem behindGrant_unreserved {s : State} (hu : s.Unreserved) (p : Piece) : behindGrant p s = .ok () := by
  rw [behindGrant, hu.heldBack]

theorem homeDone_unheld {s : State} (h : s.held = []) (p : Piece) : homeDone p s = s := by
  rw [homeDone, performedAt, h]; rfl

theorem leaveAllHeld_none {s : State} (h : s.held = []) (me : Nat × Bool) : leaveAllHeld me s = s := by
  rw [leaveAllHeld, h]; rfl

/-- A request other than a write of a line of the requester's own scratchpad changes nothing (R156). -/
theorem lineAccess_scratch_request {c : Ctx} {s : State} {at_ code : Nat} (hio : c.io = none) (hs : isScratch at_ = true)
    (hc : (at_ - 0xA0000000000) / 0x400000 = c.cluster) (hcode : code ≠ mUWRITE) (pol : Policy) (va : Nat)
    (data : Payload) : lineAccess c pol at_ va code data s = .ok (s, none) := by
  have hdie : c.die = clusterDie c.cluster := by rw [Ctx.die, hio]
  rw [lineAccess, if_pos hs, hc, hdie, enterBoth_self]
  dsimp only
  rw [if_neg hcode]

/-- The home of a word of the local window is the scratchpad itself: no message is exchanged about it (R156). -/
theorem bringHome_local {s : State} {p : Piece} (hc : clusterOf s.cur < 128) (h : LocalPiece s.ctx p) (writes : Bool) :
    bringHome p writes s = .ok s := by
  have hcode : (if writes then mATOM else mUREAD) ≠ mUWRITE := by cases writes <;> decide
  refine foldlM_keeps fun l hl => ?_
  obtain ⟨hs, hcl⟩ := h.line hc hl
  rw [lineAccess_scratch_request (c := { s.ctx with agent := none }) rfl hs hcl hcode]
  rfl

section
variable {s : State} {ea : Word} {n : Nat} (h : LocalRange s ea.toNat n)
include h

theorem LocalRange.whole : LocalPiece s.ctx (s.localPiece ea.toNat n) := h.localPiece (o := 0) (by omega)

theorem LocalRange.bringHome (writes : Bool) : Machine.bringHome (s.localPiece ea.toNat n) writes s = .ok s :=
  bringHome_local h.cluster_lt h.whole writes

/-- A checked access to an aligned word of the local window is granted at once, and nothing is charged for it. -/
theorem LocalRange.atomAccess {align : Nat} (ha : ea.toNat % align = 0) (hr : s.thr.rep = none)
    (hp : postedBy s s.cur = false) (load store charged sync : Bool) :
    Machine.atomAccess ea n align load store charged sync s = .ok (s, s.localPiece ea.toNat n) := by
  have hpiece {k : Access} (hk : k ≠ .fetch) : Machine.piece s s.ctx ea.toNat n k = .ok (s.localPiece ea.toNat n) :=
    h.piece (o := 0) h.pos (by omega) hk
  have hlocal : ∀ p ∈ [s.localPiece ea.toNat n], LocalPiece s.ctx p := List.forall_mem_singleton.2 h.whole
  have hstore : (if store then Access.store else Access.load) ≠ .fetch := by cases store <;> decide
  have horder := programOrder_unposted hr (fun p hp => (hlocal p hp).cls) hp sync (!store)
  refine (bind_of_ok (aligned_of_mod ha)).trans ?_
  cases load
  case' true => refine (bind_of_ok (hpiece (k := .load) (by decide))).trans ?_
  all_goals
    refine (bind_of_ok (hpiece hstore)).trans ((bind_of_ok (ordCheck_local hlocal)).trans ?_)
    cases charged
    · exact bind_of_ok horder
    · exact (bind_of_ok (charge_local hlocal)).trans (bind_of_ok horder)

theorem LocalRange.key : s.key (s.localPa ea.toNat) = s.localPa ea.toNat := s.key_of_lt h.localPa_lt

theorem LocalRange.readNat : s.readNat (s.localPa ea.toNat) n = s.byteNat (s.localPa ea.toNat) n := by
  rw [State.readNat, h.readBytes]; rfl

end

theorem LocalRange.read64 {s : State} {ea : Word} (h : LocalRange s ea.toNat 8) :
    s.read64 (s.localPa ea.toNat) = BitVec.ofNat 64 (s.byteNat (s.localPa ea.toNat) 8) := by
  rw [State.read64, h.readNat]

/-- A word of the local window lies wholly below the interleaved views. -/
theorem LocalRange.end_le {s : State} {va n : Nat} (h : LocalRange s va n) : s.localPa va + n ≤ 2 ^ 44 := by
  obtain ⟨hlow, hhigh, hroom⟩ := h.bounds
  have hc := h.cluster_lt
  rw [State.localPa, scratchBase]
  omega

/-! ### What a change of memory leaves (R204) -/

/-- From s to t memory may have changed: the threads saw it by monitor flags alone, and nothing that the homes keep
changed. -/
structure State.Sees (s t : State) : Prop where
  cur : t.cur = s.cur
  held : t.held = s.held
  rsvQueues : t.rsvQueues = s.rsvQueues
  feLists : t.feLists = s.feLists
  threads : ∀ k, t.thread k = (s.thread k).watched (t.thread k)

theorem State.Sees.refl (s : State) : s.Sees s := ⟨rfl, rfl, rfl, rfl, fun k => (s.thread k).watched_refl⟩

section
variable {s t : State} (h : s.Sees t)
include h

theorem State.Sees.thr : t.thr = s.thr.watched t.thr := by
  rw [State.thr, h.cur]
  exact h.threads s.cur

theorem State.Sees.trans {u : State} (h' : t.Sees u) : s.Sees u where
  cur := h'.cur.trans h.cur
  held := h'.held.trans h.held
  rsvQueues := h'.rsvQueues.trans h.rsvQueues
  feLists := h'.feLists.trans h.feLists
  threads k := Thread.watched_trans (h.threads k) (h'.threads k)

theorem State.Sees.lineWritten (n : Nat) : s.Sees (lineWritten n t) := by
  refine h.trans ⟨rfl, rfl, rfl, rfl, fun k => ?_⟩
  have hd : Thread.lineWritten n {} = {} := if_neg (by simp)
  have hthread : (Machine.lineWritten n t).thread k = (t.thread k).lineWritten n :=
    SMap.get_mapVals (f := fun _ (t : Thread) => t.lineWritten n) hd _
  rw [hthread]
  exact (t.thread k).lineWritten_watched n

theorem State.Sees.touchPage (a : Nat) : s.Sees (touchPage a t) := by
  refine h.trans ?_
  rw [Machine.touchPage]
  split
  · exact ⟨rfl, rfl, rfl, rfl, fun k => (t.thread k).watched_refl⟩
  · exact ⟨rfl, rfl, rfl, rfl, fun k => (t.thread k).watched_refl⟩

theorem State.Sees.writeBytes (a : Nat) (l : List Byte) : s.Sees (t.writeBytes a l) := by
  refine List.foldlRecOn (motive := fun u => s.Sees u) _ _ (h.trans ?_) fun u hu n _ => (hu.touchPage n).lineWritten n
  exact ⟨rfl, rfl, rfl, rfl, fun k => (t.thread k).watched_refl⟩

theorem State.Sees.setFe (a : Nat) (x : BitVec 2) : s.Sees (t.setFe a x) := by
  refine State.Sees.lineWritten (State.Sees.touchPage (h.trans ?_) _) _
  exact ⟨rfl, rfl, rfl, rfl, fun k => (t.thread k).watched_refl⟩

end

end Sys2Proof.Machine
end

section
namespace Sys2Proof.Machine

/-! ## O31: full/empty operations whose condition holds -/

/-! ### The state of a word replaced (R191) -/

/-- Two adjacent bits of a sideband replaced. -/
theorem getLsbD_setField_pair (x : BitVec 32) (lo v : Nat) {i : Nat} (hi : i < 32) :
    (setField x (lo + 1) lo v).getLsbD i = if lo ≤ i ∧ i < lo + 2 then v.testBit (i - lo) else x.getLsbD i := by
  have hwidth : lo + 1 - lo + 1 = 2 := by omega
  have hmask (j : Nat) : (2 ^ 2 - 1).testBit j = decide (j < 2) := Nat.testBit_two_pow_sub_one 2 j
  simp only [setField, hwidth, BitVec.getLsbD_or, BitVec.getLsbD_and, BitVec.getLsbD_not, BitVec.getLsbD_ofNat,
    Nat.testBit_mul_two_pow, hmask, Nat.testBit_mod_two_pow, hi]
  by_cases hlo : lo ≤ i
  · by_cases hhi : i < lo + 2
    · simp [hlo, hhi, show i - lo < 2 by omega]
    · simp [hlo, hhi, show ¬ i - lo < 2 by omega]
  · simp [hlo]

/-- The code of word j of a block once that of word k has become c. -/
theorem extractLsb'_setField_pair (x : BitVec 32) (c : BitVec 2) {j k : Nat} (hj : j < 8) (hk : k < 8) :
    (setField x (17 + 2 * k) (16 + 2 * k) c.toNat).extractLsb' (16 + 2 * j) 2 =
      if j = k then c else x.extractLsb' (16 + 2 * j) 2 := by
  refine BitVec.eq_of_getLsbD_eq fun i hi => ?_
  rw [show 17 + 2 * k = 16 + 2 * k + 1 by omega, BitVec.getLsbD_extractLsb', getLsbD_setField_pair x _ _ (by omega)]
  by_cases hjk : j = k
  · subst hjk
    rw [if_pos (by omega), if_pos rfl, Nat.add_sub_cancel_left, BitVec.testBit_toNat]
    simp [hi]
  · rw [if_neg (by omega), if_neg hjk, BitVec.getLsbD_extractLsb']

section
variable (s : State) {a x : Nat} (ha : a < 2 ^ 44) (hx : x < 2 ^ 44) (c : BitVec 2)
include ha hx

theorem State.sideband_setFe : (s.setFe a c).sideband x =
    if x / 64 = a / 64 then setField (s.sideband a) (17 + 2 * (a % 64 / 8)) (16 + 2 * (a % 64 / 8)) c.toNat
    else s.sideband x := by
  rw [State.sideband, State.setFe, State.setSideband_side, SMap.get_set, State.key_of_lt _ hx, State.key_of_lt _ ha]
  simp only [State.sideband, State.key_of_lt _ hx]

/-- A change of the state of a word leaves that of every other. -/
theorem State.fe_setFe : (s.setFe a c).fe x = if x / 8 = a / 8 then c else s.fe x := by
  rw [State.fe, s.sideband_setFe ha hx, State.key_of_lt _ hx]
  by_cases hblock : x / 64 = a / 64
  · rw [if_pos hblock, extractLsb'_setField_pair _ _ (by omega) (by omega)]
    by_cases hword : x / 8 = a / 8
    · rw [if_pos (by omega), if_pos hword]
    · rw [if_neg (by omega), if_neg hword, State.fe, State.key_of_lt _ hx, s.sideband_block ha hx hblock.symm]
  · rw [if_neg hblock, if_neg (by omega), State.fe, State.key_of_lt _ hx]

end

/-! ### The operation at the home (R192) -/

/-- The state that the operation leaves of a word: FEMARK sets the marked bit alone, the others the empty bit alone. -/
def FeOp.leaves (op : FeOp) (fe : BitVec 2) (value : Word) : BitVec 2 :=
  if op = .femark then setField fe 1 1 (bit value 0).toNat else setField fe 0 0 (op.after (bit fe 0)).toNat

theorem setField_same_empty : ∀ fe : BitVec 2, setField fe 0 0 (bit fe 0).toNat = fe := by decide

/-- STF and STFF write their value to the word. -/
def FeOp.stores (op : FeOp) : Bool := op == .stf || op == .stff

/-- Memory after the operation. -/
def FeOp.written (op : FeOp) (pa : Nat) (value : Word) (s : State) : State := if op.stores then s.write64 pa value else s

section
variable (op : FeOp) (value : Word) (s : State)

/-- The state of the word is set to what the operation leaves, unless it is that already. -/
theorem fePerform_state (pa : Nat) :
    ((fePerform op pa value s).1 = op.written pa value s ∧ op.leaves (s.fe pa) value = s.fe pa) ∨
      (fePerform op pa value s).1 = (op.written pa value s).setFe pa (op.leaves (s.fe pa) value) := by
  by_cases hm : op = .femark
  · subst hm
    exact .inr (by simp [fePerform, FeOp.written, FeOp.stores, FeOp.leaves, FeOp.after])
  · by_cases he : op.after (bit (s.fe pa) 0) = bit (s.fe pa) 0
    · refine .inl ⟨by simp [fePerform, FeOp.written, FeOp.stores, hm, he], ?_⟩
      rw [FeOp.leaves, if_neg hm, he, setField_same_empty]
    · exact .inr (by simp [fePerform, FeOp.written, FeOp.stores, FeOp.leaves, hm, he])

theorem FeOp.written_fe (pa : Nat) {a : Nat} (ha : a < 2 ^ 44) : (op.written pa value s).fe a = s.fe a := by
  have hside : (op.written pa value s).side = s.side := by
    rw [FeOp.written]
    split
    · exact State.writeBytes_side ..
    · rfl
  rw [State.fe, State.fe, State.sideband, State.sideband, hside, State.key_of_lt _ ha, State.key_of_lt _ ha]

theorem FeOp.written_sees (pa : Nat) : s.Sees (op.written pa value s) := by
  rw [FeOp.written]
  split
  · exact (State.Sees.refl s).writeBytes _ _
  · exact .refl s

theorem fePerform_sees (pa : Nat) : s.Sees (fePerform op pa value s).1 := by
  obtain ⟨h, -⟩ | h := fePerform_state op value s pa
  · exact h ▸ op.written_sees value s pa
  · exact h ▸ (op.written_sees value s pa).setFe _ _

/-- The data of memory is what the operation writes. -/
theorem fePerform_mem (pa : Nat) : (fePerform op pa value s).1.mem = (op.written pa value s).mem := by
  obtain ⟨h, -⟩ | h := fePerform_state op value s pa
  · rw [h]
  · rw [h, State.setFe_mem]

/-- The code of the word is what the operation leaves, and every other word keeps its own. -/
theorem fePerform_fe {pa a : Nat} (hpa : pa < 2 ^ 44) (ha : a < 2 ^ 44) : (fePerform op pa value s).1.fe a =
    if a / 8 = pa / 8 then op.leaves (s.fe pa) value else s.fe a := by
  obtain ⟨h, hsame⟩ | h := fePerform_state op value s pa
  · rw [h, op.written_fe _ _ _ ha, hsame]
    split
    next hw =>
      rw [State.fe, State.fe, State.key_of_lt _ ha, State.key_of_lt _ hpa, s.sideband_block ha hpa (by omega)]
      congr 2
      omega
    next => rfl
  · rw [h, State.fe_setFe _ hpa ha, op.written_fe _ _ _ ha]

/-- What the operation answers and whether FEFILL follows depend on the word as it was. -/
theorem fePerform_answer (pa : Nat) : (fePerform op pa value s).2 =
    (if op = .feget then (s.fe pa).setWidth 64 else s.read64 pa,
      bit (s.fe pa) 1 && op.after (bit (s.fe pa) 0) != bit (s.fe pa) 0) := rfl

end

/-- STF and STFF write the eight bytes of their register, and no other byte. -/
theorem FeOp.written_stores {op : FeOp} (h : op.stores = true) (s : State) (value : Word) {pa : Nat}
    (hpa : pa + 8 ≤ 2 ^ 44) :
    (∀ i < 8, Memory.get (op.written pa value s).mem (pa + i) = value.extractLsb' (8 * i) 8) ∧
      ∀ a, a < pa ∨ pa + 8 ≤ a → Memory.get (op.written pa value s).mem a = Memory.get s.mem a := by
  have hlen : (toBytes 8 value.toNat).length = 8 := by rw [toBytes_toNat, List.length_map, List.length_range]
  have hmem : (op.written pa value s).mem = Memory.setAll s.mem (cellsAt pa (toBytes 8 value.toNat)) := by
    rw [FeOp.written, if_pos h]
    exact (s.writes_writeBytes (by rw [hlen]; exact hpa)).mem
  rw [hmem]
  refine ⟨fun i hi => ?_, fun a ha => ?_⟩
  · rw [Memory.get_setAll_cellsAt, hlen, if_pos (by omega), Nat.add_sub_cancel_left, toBytes_toNat, getD_map_range _ _ hi]
  · rw [Memory.get_setAll_cellsAt, hlen, if_neg (by omega)]

/-! ### The instruction (R199, R200) -/

/-- A home with empty wait lists has nobody to examine (R193). -/
theorem examineWord_none {s : State} (h : s.feLists = []) (pa : Nat) : examineWord pa s = s := by
  rw [examineWord, h]; rfl

theorem Thread.wg_watched (t u : Thread) (r : Reg) (x : Word) : (t.watched u).wg r x = (t.wg r x).watched u := by
  rw [Thread.wg, Thread.wg]
  split <;> rfl

section
variable {s t : State} {acc : Accept} (h : Clear acc s) (hs : s.Sees t)
include h hs

/-- An instruction that ends after a change of memory, with what its thread's monitors saw. -/
theorem State.Sees.retire_thr : (retire t).thr = s.thr.wentOn.watched (retire t).thr := by
  have hmain (u : Thread) : (s.thr.watched u).retire = (s.thr.watched u).wentOn := Thread.retire_main _ h.main h.idle
  rw [retire, State.thr_mapThr, hs.thr, hmain]
  rfl

theorem State.Sees.retire_wg_thr (d : Reg) (x : Word) :
    (retire (t.wg d x)).thr = (s.thr.wg d x).wentOn.watched (retire (t.wg d x)).thr := by
  have hmain (u : Thread) : ((s.thr.wg d x).watched u).retire = ((s.thr.wg d x).watched u).wentOn :=
    Thread.retire_main _ (by simp [Thread.watched, h.main]) (by simp [Thread.watched, h.idle])
  rw [retire, State.wg_eq, State.mapThr_setThr, State.thr_setThr, hs.thr, Thread.wg_watched, hmain]
  rfl

end

/-- The access of a full/empty operation to its word. -/
theorem feAtHome_unreserved {s : State} {ea : Word} (hl : LocalRange s ea.toNat 8) (hu : s.Unreserved) (op : FeOp)
    (d : Reg) (l : BitVec 4) : feAtHome op (s.localPiece ea.toNat 8) d l ea s =
      if op.ready (s.empty (s.localPa ea.toNat)) = true then .ok (fePerformed op (s.localPiece ea.toNat 8) d l ea s)
      else fePark op (s.localPiece ea.toNat 8) d ea s := by
  rw [feAtHome, hu.heldBack, Option.isSome_none, Bool.and_false, if_neg Bool.false_ne_true]
  exact bind_of_ok (hl.bringHome _)

section
variable {s : State} {op : FeOp} {d b : Reg} {o : BitVec 10} {l : BitVec 4} {word : Nat}
  (h : Clear { scope := op.synchronises } s) (hu : s.Unreserved) (hl : LocalRange s (s.ea b o 8).toNat 8)
  (ha : (s.ea b o 8).toNat % 8 = 0) (hm : op = .femark → s.thr.level ≠ 0)
include h hu hl ha hm

/-- A full/empty instruction at an aligned word of the local window does what the home does with it. -/
theorem fullEmpty_atHome {t : State} (ht : feAtHome op (s.localPiece (s.ea b o 8).toNat 8) d l (s.ea b o 8) s = .ok t) :
    fullEmpty word op d b o l s = .next t := by
  rw [fullEmpty]
  refine issue_scalar_ok (by cases op <;> exact h) rfl ?_ rfl (exhaustible_ok ?_)
  · by_cases hop : op = .femark
    · simp [hm hop]
    · simp [hop]
  · exact (bind_of_ok (hl.atomAccess ha h.main (Unreserved.postedBy hu) _ _ _ _)).trans ht

theorem fullEmpty_ready (hready : op.ready (s.empty (s.localPa (s.ea b o 8).toNat)) = true) :
    fullEmpty word op d b o l s = .next (fePerformed op (s.localPiece (s.ea b o 8).toNat 8) d l (s.ea b o 8) s) :=
  fullEmpty_atHome h hu hl ha hm (by rw [feAtHome_unreserved hl hu, if_pos hready])

end

/-- Where nobody waits, the home performs the operation and examines nobody. -/
theorem fePerformed_alone {s : State} (hu : s.Unreserved) (hfe : s.feLists = []) (op : FeOp) (p : Piece) (d : Reg) :
    (if op.changes then homeDone p (examineWord p.pa (fePerform op p.pa (s.rg d) s).1) else (fePerform op p.pa (s.rg d) s).1) =
      (fePerform op p.pa (s.rg d) s).1 := by
  have hs := fePerform_sees op (s.rg d) s p.pa
  rw [examineWord_none (hs.feLists.trans hfe), homeDone_unheld (hs.held.trans hu.2), ite_self]

section
variable {s : State} (hu : s.Unreserved) (hfe : s.feLists = []) (p : Piece) (d : Reg) (l : BitVec 4) (ea : Word)

theorem fePerformed_ldf : fePerformed .ldf p d l ea s = retire (s.wg d (s.read64 p.pa)) := by
  simp [fePerformed, fePerform, FeOp.changes, FeOp.after]

theorem fePerformed_feget :
    fePerformed .feget p d l ea s = retireLong (.gen d) (((s.fe p.pa).setWidth 64).setWidth 128) l.toNat false s := by
  simp [fePerformed, fePerform, FeOp.changes, FeOp.after]

include hu hfe

/-- FEFILL follows LDFE and STF at once, where they changed a marked word (R196, R200). -/
theorem fePerformed_ldfe {t : State} (ht : t = retire ((fePerform .ldfe p.pa (s.rg d) s).1.wg d (s.read64 p.pa))) :
    fePerformed .ldfe p d l ea s = if (fePerform .ldfe p.pa (s.rg d) s).2.2 then feFill s.cur ea t else t := by
  have hcur : t.cur = s.cur := ht ▸ (fePerform_sees .ldfe (s.rg d) s p.pa).cur
  rw [fePerformed]
  dsimp only
  rw [fePerformed_alone hu hfe]
  subst ht
  rw [← hcur]
  rfl

theorem fePerformed_stf {t : State} (ht : t = retire (fePerform .stf p.pa (s.rg d) s).1) :
    fePerformed .stf p d l ea s = if (fePerform .stf p.pa (s.rg d) s).2.2 then feFill s.cur ea t else t := by
  have hcur : t.cur = s.cur := ht ▸ (fePerform_sees .stf (s.rg d) s p.pa).cur
  rw [fePerformed]
  dsimp only
  rw [fePerformed_alone hu hfe]
  subst ht
  rw [← hcur]

/-- The slot takes it at a later boundary after STFF, FEEMPTY and FEMARK (R196, R200). -/
theorem fePerformed_goesOn {op : FeOp} (hop : op.goesOn = true) {t : State}
    (ht : t = retire (fePerform op p.pa (s.rg d) s).1) :
    fePerformed op p d l ea s = if (fePerform op p.pa (s.rg d) s).2.2 then reportFill s.cur 1 ea t else t := by
  have hcur : (fePerform op p.pa (s.rg d) s).1.cur = s.cur := (fePerform_sees op (s.rg d) s p.pa).cur
  rw [fePerformed]
  dsimp only
  rw [fePerformed_alone hu hfe, ht]
  cases op
  case stff | feempty | femark => rw [hcur]
  all_goals exact absurd hop (by decide)

end

/-- From s to t word pa has taken the code e, every other word has kept its own, and the current slot's thread is th, with
what its monitors saw. -/
def FeLeaves (s t : State) (pa : Nat) (th : Thread) (e : BitVec 2) : Prop :=
  t.fe pa = e ∧ (∀ a, a < 2 ^ 44 → a / 8 ≠ pa / 8 → t.fe a = s.fe a) ∧ t.thr = th.watched t.thr

section
variable {s : State} {acc : Accept} (h : Clear acc s) {pa : Nat} (hpa : pa < 2 ^ 44) (op : FeOp) (value : Word)
include h hpa

theorem fePerform_retire : FeLeaves s (retire (fePerform op pa value s).1) pa s.thr.wentOn (op.leaves (s.fe pa) value) := by
  refine ⟨?_, fun a ha hne => ?_, (fePerform_sees op value s pa).retire_thr h⟩
  · rw [fe_retire, fePerform_fe _ _ _ hpa hpa, if_pos rfl]
  · rw [fe_retire, fePerform_fe _ _ _ hpa ha, if_neg hne]

theorem fePerform_retire_wg (d : Reg) (x : Word) : FeLeaves s (retire ((fePerform op pa value s).1.wg d x)) pa
    (s.thr.wg d x).wentOn (op.leaves (s.fe pa) value) := by
  obtain ⟨hword, hothers, -⟩ := fePerform_retire h hpa op value
  exact ⟨hword, hothers, (fePerform_sees op value s pa).retire_wg_thr h d x⟩

end

/-! ### Codes (R191, R192, R196) -/

theorem FeOp.leaves_ldfe (v : Word) : ∀ fe, FeOp.leaves .ldfe fe v = fe ||| 1 := by
  change ∀ fe : BitVec 2, setField fe 0 0 1 = fe ||| 1
  decide

theorem FeOp.leaves_feempty (v : Word) : ∀ fe, FeOp.leaves .feempty fe v = fe ||| 1 := FeOp.leaves_ldfe v

theorem FeOp.leaves_stf (v : Word) : ∀ fe, FeOp.leaves .stf fe v = fe &&& 2 := by
  change ∀ fe : BitVec 2, setField fe 0 0 0 = fe &&& 2
  decide

theorem FeOp.leaves_stff (v : Word) : ∀ fe, FeOp.leaves .stff fe v = fe &&& 2 := FeOp.leaves_stf v

theorem FeOp.leaves_femark (v : Word) (fe : BitVec 2) :
    FeOp.leaves .femark fe v = (fe &&& 1) ||| (if v.getLsbD 0 then 2 else 0) := by
  have hcodes : ∀ (b : Bool) (fe : BitVec 2), setField fe 1 1 b.toNat = (fe &&& 1) ||| (if b then 2 else 0) := by decide
  exact hcodes (v.getLsbD 0) fe

section
variable (v : Word) (s : State) (pa : Nat)

theorem filled_ldfe (he : s.empty pa = false) : (fePerform .ldfe pa v s).2.2 = (s.fe pa).getLsbD 1 := by
  change bit (s.fe pa) 0 = false at he
  rw [fePerform_answer]
  dsimp only
  rw [he]
  exact Bool.and_true _

theorem filled_stf (he : s.empty pa = true) : (fePerform .stf pa v s).2.2 = (s.fe pa).getLsbD 1 := by
  change bit (s.fe pa) 0 = true at he
  rw [fePerform_answer]
  dsimp only
  rw [he]
  exact Bool.and_true _

theorem filled_stff : (fePerform .stff pa v s).2.2 = decide (s.fe pa = 3) := by
  have hcodes : ∀ fe : BitVec 2, (bit fe 1 && false != bit fe 0) = decide (fe = 3) := by decide
  exact hcodes _

theorem filled_feempty : (fePerform .feempty pa v s).2.2 = decide (s.fe pa = 2) := by
  have hcodes : ∀ fe : BitVec 2, (bit fe 1 && true != bit fe 0) = decide (fe = 2) := by decide
  exact hcodes _

theorem filled_femark : (fePerform .femark pa v s).2.2 = false := by
  rw [fePerform_answer]
  simp [FeOp.after]

end

/-! ### The instructions (R199, R200) -/

theorem setWidth_code (x : BitVec 2) : (x.setWidth 64).setWidth 128 = x.setWidth 128 := by
  have hcodes : ∀ x : BitVec 2, (x.setWidth 64).setWidth 128 = x.setWidth 128 := by decide
  exact hcodes x

@[simp] theorem State.localPiece_pa (s : State) (va n : Nat) : (s.localPiece va n).pa = s.localPa va := rfl

section
variable {s : State} {d b : Reg} {o : BitVec 10} {l : BitVec 4} (hu : s.Unreserved) (hfe : s.feLists = [])
  (hl : LocalRange s (s.ea b o 8).toNat 8) (ha : (s.ea b o 8).toNat % 8 = 0)
include hu hl ha

theorem execLdf_ready (h : Clear { scope := true } s) (he : s.empty (s.localPa (s.ea b o 8).toNat) = false) :
    execLdf d b o l s = .next (s.setThr (s.thr.wg d (s.read64 (s.localPa (s.ea b o 8).toNat))).wentOn) := by
  rw [execLdf, fullEmpty_ready (op := .ldf) h hu hl ha nofun (by rw [FeOp.ready, he]; rfl), fePerformed_ldf,
    retire_wg h, State.localPiece_pa]

theorem execFeget_ready (h : Clear {} s) : execFeget d b o l s =
    .next (s.setThr (s.thr.owes (.gen d) ((s.fe (s.localPa (s.ea b o 8).toNat)).setWidth 128) l.toNat false)) := by
  rw [execFeget, fullEmpty_ready (op := .feget) h hu hl ha nofun rfl, fePerformed_feget, retireLong_main _ _ _ _ _ h.main h.idle,
    State.localPiece_pa, setWidth_code]

include hfe

theorem execLdfe_ready (h : Clear { scope := true } s) (he : s.empty (s.localPa (s.ea b o 8).toNat) = false) {t : State}
    (ht : t = retire ((fePerform .ldfe (s.localPa (s.ea b o 8).toNat) (s.rg d) s).1.wg d
      (s.read64 (s.localPa (s.ea b o 8).toNat)))) : execLdfe d b o l s =
      .next (if (s.fe (s.localPa (s.ea b o 8).toNat)).getLsbD 1 then feFill s.cur (s.ea b o 8) t else t) := by
  rw [execLdfe, fullEmpty_ready (op := .ldfe) h hu hl ha nofun (by rw [FeOp.ready, he]; rfl),
    fePerformed_ldfe hu hfe (s.localPiece _ 8) _ _ _ ht, State.localPiece_pa, filled_ldfe _ _ _ he]

theorem execStf_ready (h : Clear { scope := true } s) (he : s.empty (s.localPa (s.ea b o 8).toNat) = true) {t : State}
    (ht : t = retire (fePerform .stf (s.localPa (s.ea b o 8).toNat) (s.rg d) s).1) : execStf d b o s =
      .next (if (s.fe (s.localPa (s.ea b o 8).toNat)).getLsbD 1 then feFill s.cur (s.ea b o 8) t else t) := by
  rw [execStf, fullEmpty_ready (op := .stf) h hu hl ha nofun he,
    fePerformed_stf hu hfe (s.localPiece _ 8) _ _ _ ht, State.localPiece_pa, filled_stf _ _ _ he]

theorem execStff_ready (h : Clear { scope := true } s) {t : State}
    (ht : t = retire (fePerform .stff (s.localPa (s.ea b o 8).toNat) (s.rg d) s).1) : execStff d b o s =
      .next (if s.fe (s.localPa (s.ea b o 8).toNat) = 3 then reportFill s.cur 1 (s.ea b o 8) t else t) := by
  rw [execStff, fullEmpty_ready (op := .stff) h hu hl ha nofun rfl,
    fePerformed_goesOn hu hfe (s.localPiece _ 8) _ _ _ rfl ht, State.localPiece_pa, filled_stff]
  simp only [decide_eq_true_eq]

theorem execFeempty_ready (h : Clear {} s) {t : State}
    (ht : t = retire (fePerform .feempty (s.localPa (s.ea b o 8).toNat) (s.rg 0) s).1) : execFeempty b o s =
      .next (if s.fe (s.localPa (s.ea b o 8).toNat) = 2 then reportFill s.cur 1 (s.ea b o 8) t else t) := by
  rw [execFeempty, fullEmpty_ready (op := .feempty) h hu hl ha nofun rfl,
    fePerformed_goesOn hu hfe (s.localPiece _ 8) _ _ _ rfl ht, State.localPiece_pa, filled_feempty]
  simp only [decide_eq_true_eq]

theorem execFemark_ready (h : Clear {} s) (hm : s.thr.level ≠ 0) :
    execFemark d b o s = .next (retire (fePerform .femark (s.localPa (s.ea b o 8).toNat) (s.rg d) s).1) := by
  rw [execFemark, fullEmpty_ready (op := .femark) h hu hl ha (fun _ => hm) rfl, fePerformed_goesOn hu hfe _ _ _ _ rfl rfl,
    State.localPiece_pa, filled_femark, if_neg Bool.false_ne_true]

end

theorem execFemark_user {s : State} {d b : Reg} {o : BitVec 10} (h : Clear {} s) (hm : s.thr.level = 0) :
    Traps (.femark d b o) s { cause := 2, eaddr := BitVec.ofNat 64 (wordFemark d b o) } := by
  intro hh
  change execFemark d b o s = _
  rw [execFemark, fullEmpty, issue_priv _ h rfl (by simp [hm])]
  exact congrArg Host.Outcome.next (stopAt_trap _ h.main hh)

/-- An operation that stores nothing leaves the data of memory. -/
theorem fePerform_get {op : FeOp} (hop : op.stores = false) (x : Word) (s : State) (pa a : Nat) :
    Memory.get (fePerform op pa x s).1.mem a = Memory.get s.mem a := by
  rw [fePerform_mem, FeOp.written, hop]
  rfl

@[simp] theorem mem_retire (s : State) : (retire s).mem = s.mem := rfl

/-- Settles O31: each instruction is the operation at the home of its word, and FEFILL follows as the code before says. -/
theorem fullEmptyResults : Obligations.FullEmptyResults := by
  intro s d b o l hu hfe ea
  have hea : ea = s.ea b o 8 := rfl
  clear_value ea
  subst hea
  intro pa old word after same stored hl ha
  have hpa : pa < 2 ^ 44 := hl.localPa_lt
  have hread : s.read64 pa = word := hl.read64
  have hsame (op : FeOp) (x : Word) (hop : op.stores = false) : same (retire (fePerform op pa x s).1) := fun a => by
    rw [mem_retire, fePerform_get hop]
  have hstored (op : FeOp) (hop : op.stores = true) : stored (retire (fePerform op pa (s.rg d) s).1) := by
    have hw := FeOp.written_stores hop s (s.rg d) hl.end_le
    rwa [← fePerform_mem, ← mem_retire] at hw
  refine ⟨fun h => ⟨fun he => ?_, fun he => ?_, fun he => ?_, ?_⟩, fun h => ⟨?_, ?_, fun hm => ?_, execFemark_user h⟩⟩
  · rw [← hread]
    exact execLdf_ready hu hl ha h he
  · refine ⟨retire ((fePerform .ldfe pa (s.rg d) s).1.wg d (s.read64 pa)), ?_, fun a => ?_,
      execLdfe_ready hu hfe hl ha h he rfl⟩
    · rw [← FeOp.leaves_ldfe (s.rg d) old, ← hread]
      exact fePerform_retire_wg h hpa .ldfe _ d _
    · rw [mem_retire, State.wg_mem, fePerform_get rfl]
  · refine ⟨retire (fePerform .stf pa (s.rg d) s).1, ?_, hstored .stf rfl, execStf_ready hu hfe hl ha h he rfl⟩
    rw [← FeOp.leaves_stf (s.rg d) old]
    exact fePerform_retire h hpa .stf _
  · refine ⟨retire (fePerform .stff pa (s.rg d) s).1, ?_, hstored .stff rfl, execStff_ready hu hfe hl ha h rfl⟩
    rw [← FeOp.leaves_stff (s.rg d) old]
    exact fePerform_retire h hpa .stff _
  · exact execFeget_ready hu hl ha h
  · refine ⟨retire (fePerform .feempty pa (s.rg 0) s).1, ?_, hsame .feempty _ rfl, execFeempty_ready hu hfe hl ha h rfl⟩
    rw [← FeOp.leaves_feempty (s.rg 0) old]
    exact fePerform_retire h hpa .feempty _
  · refine ⟨retire (fePerform .femark pa (s.rg d) s).1, ?_, hsame .femark _ rfl, execFemark_ready hu hfe hl ha h hm⟩
    rw [← FeOp.leaves_femark (s.rg d) old]
    exact fePerform_retire h hpa .femark _

end Sys2Proof.Machine
end

section
namespace Sys2Proof.Machine

/-! ## O32: waiting at the home of a word, and the service of a waiter -/

/-! ### Parking (R193) -/

theorem LocalRange.scratch {s : State} {ea : Word} {n : Nat} (h : LocalRange s ea.toNat n) :
    Machine.isScratch (s.localPa ea.toNat) = true := by
  have hpos := h.pos
  have hc := h.cluster_lt
  have hlow : scratchBase (clusterOf s.cur) ≤ s.localPa ea.toNat := h.whole.low
  have hhigh : s.localPa ea.toNat + n ≤ scratchBase (clusterOf s.cur) + 0x400000 := h.whole.high
  rw [scratchBase] at hlow hhigh
  rw [Machine.isScratch, Bool.and_eq_true, decide_eq_true_eq, decide_eq_true_eq]
  omega

/-- The wait list of a scratchpad word takes 16 requests. -/
theorem homeList_scratch {s : State} {pa : Nat} (h : isScratch pa = true) (p : Nat) : (homeList s p pa).2 = 16 := by
  rw [homeList, if_pos h]

/-- The request of the current slot's full/empty operation as its home keeps it. -/
def State.request (s : State) (op : FeOp) (pa : Nat) (d : Reg) (ea : Word) : FeWaiter :=
  { slot := s.cur, body := false, word := pa, op := op.code, d := d, value := s.rg d, va := ea }

/-- The first request of a home is alone in its list, and its stream leaves the rotation. -/
theorem fePark_first {s : State} {ea : Word} (hl : LocalRange s ea.toNat 8) (hr : s.thr.rep = none)
    (hheld : s.held = []) (hfe : s.feLists = []) (op : FeOp) (d : Reg) :
    fePark op (s.localPiece ea.toNat 8) d ea s = .ok ({ s with
      feLists := [((homeList s (s.partOf (clusterOf s.cur)) (s.localPa ea.toNat)).1, [s.request op (s.localPa ea.toNat) d ea])]
      }.setThr (s.thr.waits (.fe (s.localPa ea.toNat)))) := by
  have hbody : s.thr.inBody = false := by rw [Thread.inBody, hr]
  have hpark : s.thr.park (.fe (s.localPa ea.toNat)) = s.thr.waits (.fe (s.localPa ea.toNat)) := Thread.park_main _ hr
  have hsize := homeList_scratch (s := s) hl.scratch (s.partOf (clusterOf s.cur))
  rw [fePark, State.localPiece_pa]
  generalize homeList s (s.partOf (clusterOf s.cur)) (s.localPa ea.toNat) = home at hsize ⊢
  obtain ⟨list, size⟩ := home
  dsimp only at hsize ⊢
  rw [hsize, hfe, SMap.get_nil, if_neg (by decide), hbody, hl.key]
  refine congrArg Except.ok ((leaveAllHeld_none ?_ _).trans ?_)
  · exact hheld
  · exact congrArg (State.setThr _) hpark

/-! ### Service (R193) -/

/-- The home whose only waiter waits for the word examines it: where its condition holds now, it is performed. -/
theorem examineWord_serves {s : State} {list pa : Nat} {w : FeWaiter} (hfe : s.feLists = [(list, [w])])
    (hw : w.word = s.key pa) (hready : (feOpOf w.op).ready (s.empty pa) = true) :
    examineWord pa s = serveWaiter w pa { s with feLists := [(list, [])] } := by
  have hlists : (s.feLists.filter (fun e => e.2.any (fun w => w.word == s.key pa))).map (·.1) = [list] := by
    simp [hfe, hw]
  have hget : s.feLists.get [] list = [w] := by rw [hfe]; simp [SMap.get]
  have hfind : [w].find? (fun w => w.word == s.key pa && (feOpOf w.op).ready (s.empty pa)) = some w :=
    List.find?_cons_of_pos (by simp [hw, hready])
  have hset : s.feLists.set list ([w].erase w) = [(list, [])] := by simp [hfe, SMap.set]
  rw [examineWord, hlists, List.foldl_cons, List.foldl_nil, hget, List.length_singleton, examine, hget, hfind]
  dsimp only
  rw [hset, examine]

/-- Outside a repetition the main stream is served (R243). -/
theorem Thread.serve_main {t : Thread} (hr : t.rep = none) (body : Bool) : t.serve body = { t with wait := none } := by
  rw [Thread.serve]
  split
  next r h => exact absurd (hr.symm.trans h) nofun
  next => rfl

/-- The thread of a waiting LDFE as it is served. -/
def Thread.served (t : Thread) (d : Reg) (x : Word) : Thread := ({ t with wait := none }.wg d x).retire

/-- A waiting LDFE of an unmarked word receives the word and completes (R193). -/
theorem serveWaiter_ldfe {s : State} {w : FeWaiter} {pa : Nat} (hop : w.op = 1) (hbody : w.body = false)
    (hrep : (s.thread w.slot).rep = none) (hmark : (s.fe pa).getLsbD 1 = false) :
    serveWaiter w pa s = (fePerform .ldfe pa w.value s).1.setThread w.slot
      (((fePerform .ldfe pa w.value s).1.thread w.slot).served w.d (s.read64 pa)) := by
  have hmap : ((fePerform .ldfe pa w.value s).1.thread w.slot).rep = none := by
    rw [(fePerform_sees .ldfe w.value s pa).threads]
    exact hrep
  have hfilled : (fePerform .ldfe pa w.value s).2.2 = false := by
    rw [fePerform_answer]
    exact Bool.and_eq_false_imp.2 fun h => absurd (hmark.symm.trans h) Bool.false_ne_true
  have hldfe : feOpOf w.op = .ldfe := by rw [hop]; rfl
  rw [serveWaiter, hldfe, hop, hbody]
  dsimp only
  rw [hfilled, if_neg Bool.false_ne_true, State.mapThread, Thread.serve_main hmap]
  rfl

theorem ofBytes_toBytes (n x : Nat) : ofBytes (toBytes n x) = x % 2 ^ (8 * n) := by
  induction n generalizing x with
  | zero => exact (Nat.mod_one x).symm
  | succ n ih =>
    rw [toBytes, ofBytes, ih, BitVec.toNat_ofNat, Nat.mul_succ, Nat.add_comm, Nat.pow_add, Nat.mul_comm (2 ^ _),
      Nat.add_comm, Nat.mod_mul]

/-- A word whose bytes are those of x reads as x. -/
theorem read64_of_bytes {t : State} {pa : Nat} {x : Word} (hpa : pa + 8 ≤ 2 ^ 44)
    (h : ∀ i < 8, Memory.get t.mem (pa + i) = x.extractLsb' (8 * i) 8) : t.read64 pa = x := by
  have hbytes : t.readBytes pa 8 = toBytes 8 x.toNat := by
    rw [toBytes_toNat]
    refine List.map_congr_left fun i hi => ?_
    have hi := List.mem_range.1 hi
    rw [t.key_of_lt (by omega), h i hi]
  rw [State.read64, State.readNat, hbytes, ofBytes_toBytes, Nat.mod_eq_of_lt x.isLt, BitVec.ofNat_toNat,
    BitVec.setWidth_eq]

/-! ### STF before a waiting LDFE (R193) -/

/-- The thread of slot k after the service of its LDFE, beside what its monitors saw. -/
theorem Thread.served_regs {t u : Thread} (hr : t.rep = none) (d : Reg) (x : Word) :
    ((t.watched u).served d x).rg d = (if d = 0 then 0 else x) ∧ ((t.watched u).served d x).wait = none ∧
      ((t.watched u).served d x).pc = t.pc + 4 := by
  have hrep : (({ t.watched u with wait := none } : Thread).wg d x).rep = none := by
    rw [Thread.wg]
    split
    · exact hr
    · exact hr
  have hpc : (({ t.watched u with wait := none } : Thread).wg d x).pc = t.pc := by
    rw [Thread.wg]
    split
    · rfl
    · rfl
  obtain ⟨hpc', hg, -⟩ := Thread.retire_regs hrep
  refine ⟨?_, ?_, hpc'.trans (by rw [hpc])⟩
  · rw [Thread.served, Thread.rg, hg]
    change Thread.rg (Thread.wg _ d x) d = _
    rw [Thread.rg_wg]
    by_cases hd : d = 0
    · rw [if_neg (by simp [hd]), if_pos hd, hd]; rfl
    · rw [if_pos ⟨rfl, hd⟩, if_neg hd]
  · rw [Thread.served, Thread.retire, Thread.retireTo, hrep]

/-- The state in which the home has performed the STF of the current slot and then the LDFE that waited for it. -/
def State.exchanged (s : State) (list pa : Nat) (w : FeWaiter) (x : Word) : State :=
  (fePerform .ldfe pa w.value { (fePerform .stf pa x s).1 with feLists := [(list, [])] }).1

section
variable {s : State} {list pa : Nat} {w : FeWaiter} (hpa : pa + 8 ≤ 2 ^ 44) (hfe : s.feLists = [(list, [w])])
  (hword : w.word = pa) (hop : w.op = 1) (hbody : w.body = false) (hrep : (s.thread w.slot).rep = none) (hcode : s.fe pa = 1)
include hpa hfe hword hop hbody hrep hcode

theorem examineWord_exchange (x : Word) : examineWord pa (fePerform .stf pa x s).1 =
    (s.exchanged list pa w x).setThread w.slot (((s.exchanged list pa w x).thread w.slot).served w.d x) := by
  have hlt : pa < 2 ^ 44 := by omega
  have hsees := fePerform_sees .stf x s pa
  have hfull : (fePerform .stf pa x s).1.fe pa = 0 := by
    rw [fePerform_fe _ _ _ hlt hlt, if_pos rfl, FeOp.leaves_stf, hcode]
    rfl
  have hready : (feOpOf w.op).ready ((fePerform .stf pa x s).1.empty pa) = true := by
    rw [hop, State.empty, hfull]
    rfl
  have hread : (fePerform .stf pa x s).1.read64 pa = x := by
    refine read64_of_bytes hpa ?_
    rw [fePerform_mem]
    exact (FeOp.written_stores (op := .stf) rfl s x hpa).1
  rw [examineWord_serves (hsees.feLists.trans hfe) (by rw [State.key_of_lt _ hlt, hword]) hready,
    serveWaiter_ldfe hop hbody]
  · exact congrArg (fun y => State.setThread _ w.slot (Thread.served _ w.d y)) hread
  · have hslot := hsees.threads w.slot
    change ((fePerform .stf pa x s).1.thread w.slot).rep = none
    rw [hslot]
    exact hrep
  · change ((fePerform .stf pa x s).1.fe pa).getLsbD 1 = false
    rw [hfull]
    rfl

end

section
variable {s : State} (list : Nat) {pa : Nat} (w : FeWaiter) (x : Word)

theorem State.exchanged_sees : State.Sees { (fePerform .stf pa x s).1 with feLists := [(list, [])] }
    (s.exchanged list pa w x) := fePerform_sees .ldfe w.value _ pa

theorem State.exchanged_cur : (s.exchanged list pa w x).cur = s.cur :=
  (State.exchanged_sees list w x).cur.trans (fePerform_sees .stf x s pa).cur

theorem State.exchanged_held : (s.exchanged list pa w x).held = s.held :=
  (State.exchanged_sees list w x).held.trans (fePerform_sees .stf x s pa).held

theorem State.exchanged_feLists : (s.exchanged list pa w x).feLists = [(list, [])] :=
  (State.exchanged_sees list w x).feLists

theorem State.exchanged_thread (k : Nat) : (s.exchanged list pa w x).thread k =
    (s.thread k).watched ((s.exchanged list pa w x).thread k) :=
  Thread.watched_trans ((fePerform_sees .stf x s pa).threads k) ((State.exchanged_sees list w x).threads k)

/-- An unmarked empty word is empty again. -/
theorem State.exchanged_fe (hpa : pa < 2 ^ 44) (hcode : s.fe pa = 1) : (s.exchanged list pa w x).fe pa = 1 := by
  have hfull : ({ (fePerform .stf pa x s).1 with feLists := [(list, [])] } : State).fe pa = 0 := by
    change (fePerform .stf pa x s).1.fe pa = 0
    rw [fePerform_fe _ _ _ hpa hpa, if_pos rfl, FeOp.leaves_stf, hcode]
    rfl
  rw [State.exchanged, fePerform_fe _ _ _ hpa hpa, if_pos rfl, FeOp.leaves_ldfe, hfull]
  rfl

end

/-- The STF of a word for which an LDFE waits at its home performs both (R193). -/
theorem execStf_serves {s : State} {d b : Reg} {o : BitVec 10} {list : Nat} {w : FeWaiter} (h : Clear { scope := true } s)
    (hu : s.Unreserved) (hl : LocalRange s (s.ea b o 8).toNat 8) (ha : (s.ea b o 8).toNat % 8 = 0)
    (hfe : s.feLists = [(list, [w])]) (hword : w.word = s.localPa (s.ea b o 8).toNat) (hop : w.op = 1)
    (hbody : w.body = false) (hrep : (s.thread w.slot).rep = none) (hcode : s.fe (s.localPa (s.ea b o 8).toNat) = 1) :
    execStf d b o s = .next (retire ((s.exchanged list (s.localPa (s.ea b o 8).toNat) w (s.rg d)).setThread w.slot
      (((s.exchanged list (s.localPa (s.ea b o 8).toNat) w (s.rg d)).thread w.slot).served w.d (s.rg d)))) := by
  have hempty : s.empty (s.localPa (s.ea b o 8).toNat) = true := by rw [State.empty, hcode]; rfl
  have hmark : (fePerform .stf (s.localPa (s.ea b o 8).toNat) (s.rg d) s).2.2 = false := by
    rw [filled_stf _ _ _ hempty, hcode]
    rfl
  rw [execStf, fullEmpty_ready (op := .stf) h hu hl ha nofun hempty, fePerformed]
  dsimp only [State.localPiece_pa]
  rw [hmark, examineWord_exchange hl.end_le hfe hword hop hbody hrep hcode, homeDone_unheld]
  · rfl
  · rw [State.setThread_held, State.exchanged_held, hu.2]

/-- The instruction of the current slot ends, and with it that of the slot whose LDFE it has served. -/
theorem retire_served {s y : State} {acc : Accept} (h : Clear acc s) {k : Nat} (hne : k ≠ s.cur) (hcur : y.cur = s.cur)
    (hthreads : ∀ j, y.thread j = (s.thread j).watched (y.thread j)) (hrep : (s.thread k).rep = none) (d : Reg) (x : Word) :
    ((retire (y.setThread k ((y.thread k).served d x))).thread k).rg d = (if d = 0 then 0 else x) ∧
      ((retire (y.setThread k ((y.thread k).served d x))).thread k).wait = none ∧
      ((retire (y.setThread k ((y.thread k).served d x))).thread k).pc = (s.thread k).pc + 4 ∧
      (retire (y.setThread k ((y.thread k).served d x))).thr.pc = s.thr.pc + 4 ∧
      (retire (y.setThread k ((y.thread k).served d x))).thr.wait = none := by
  have hother : (retire (y.setThread k ((y.thread k).served d x))).thread k = (y.thread k).served d x := by
    rw [retire, State.mapThr, State.thread_setThr_ne _ _ _ (by rwa [State.setThread_cur, hcur]), State.thread_setThread]
  have hmine : (retire (y.setThread k ((y.thread k).served d x))).thr = (s.thr.watched (y.thread s.cur)).wentOn := by
    rw [retire, State.thr_mapThr, State.thr, State.setThread_cur, hcur, State.thread_setThread_ne _ _ _ _ hne.symm, hthreads]
    exact Thread.retire_main _ h.main h.idle
  obtain ⟨hreg, hwait, hpc⟩ := Thread.served_regs (u := y.thread k) hrep d x
  rw [← hthreads] at hreg hwait hpc
  rw [hother, hmine]
  exact ⟨hreg, hwait, hpc, rfl, rfl⟩

theorem fe_setThread (s : State) (k : Nat) (t : Thread) (a : Nat) : (s.setThread k t).fe a = s.fe a := rfl

/-- Settles O32: the first request of a home is parked, and the STF finds the LDFE as the only waiter. -/
theorem fullEmptyWaiters : Obligations.FullEmptyWaiters := by
  intro s d b o l hu ea
  have hea : ea = s.ea b o 8 := rfl
  clear_value ea
  subst hea
  intro pa list hl ha h
  refine ⟨fun hfe => ?_, fun k w hfe hk hbody hword hop hne hrep hidle hcode => ?_⟩
  · intro parks
    have hparks {op : FeOp} {word : Nat} {l : BitVec 4} (hs : op.synchronises = true) (hn : op ≠ .femark)
        (hr : op.ready (s.empty pa) = false) : fullEmpty word op d b o l s = .next (({ s with
          feLists := [(list, [s.request op pa d (s.ea b o 8)])] } : State).setThr (s.thr.waits (.fe pa))) :=
      fullEmpty_atHome (hs ▸ h) hu hl ha (absurd · hn) (by
        rw [feAtHome_unreserved hl hu, hr, if_neg Bool.false_ne_true]
        exact fePark_first hl h.main hu.2 hfe op d)
    refine ⟨fun he => ⟨?_, ?_⟩, fun he => ?_⟩
    · exact hparks (op := .ldf) rfl nofun (by rw [he]; rfl)
    · exact hparks (op := .ldfe) rfl nofun (by rw [he]; rfl)
    · exact hparks (op := .stf) rfl nofun (by rw [he]; rfl)
  · subst hk
    obtain ⟨hreg, hwait, hpc, hmine⟩ := retire_served h hne (State.exchanged_cur list w (s.rg d))
      (State.exchanged_thread list w (s.rg d)) hrep w.d (s.rg d)
    refine ⟨_, execStf_serves h hu hl ha hfe hword hop hbody hrep hcode, hreg, hwait, hpc, ?_, ?_, hmine⟩
    · rw [fe_retire, fe_setThread, State.exchanged_fe list w (s.rg d) hl.localPa_lt hcode]
    · rw [retire, State.mapThr_feLists, State.setThread_feLists, State.exchanged_feLists, SMap.get, if_pos rfl]

end Sys2Proof.Machine
end

section
namespace Sys2Proof.Machine

/-! ## O33: what ends a wait from outside the instruction stream -/

/-! ### Requests (R194, R195) -/

section
variable {s : State} {k : Nat}

theorem execFeRefusalRetry_main {n : Nat} {va : Word} (hw : (s.thread k).wait = some (.refused n 0 va))
    (hr : (s.thread k).rep = none) :
    execFeRefusalRetry k s = .next (s.setThread k { s.thread k with wait := none }) := by
  rw [execFeRefusalRetry, State.mapThread, hw, hr]
  congr
  exact hr.symm

/-- An exhausted request of the main stream is withdrawn (R194, R195). -/
theorem execFeretry_main {va : Word} (he : exhausted s k (s.thread k).refusals (s.thread k).waited = true)
    (hva : requestVa s k false = some va) :
    execFeretry k s = .next (trap k { cause := 8, eaddr := va } (withdraw k s)) := by
  have hstream : exhaustedStream s k false = some va := by
    rw [exhaustedStream, if_neg Bool.false_ne_true, if_pos he, hva]
  rw [execFeretry, hstream]

theorem requestVa_wait {w : Wait} (hw : (s.thread k).wait = some w) {va : Word}
    (h : (∃ n m, w = .refused n m va) ∨ (∃ x, w = .word x (some va)) ∨ (∃ n m, w = .port n m (some va)) ∨
      (∃ x, w = .token x (some va)) ∨ (∃ x y, w = .line x y (some va)) ∨ ∃ x, w = .way x (some va)) :
    requestVa s k false = some va := by
  have hwait : (s.thread k).waitOf false = some w := hw
  rw [requestVa, hwait]
  rcases h with ⟨n, m, rfl⟩ | ⟨x, rfl⟩ | ⟨n, m, rfl⟩ | ⟨x, rfl⟩ | ⟨x, y, rfl⟩ | ⟨x, rfl⟩
  all_goals rfl

/-- The address of a request that is alone in the lists of the homes. -/
theorem requestVa_fe {x n : Nat} {w : FeWaiter} (hw : (s.thread k).wait = some (.fe x)) (hfe : s.feLists = [(n, [w])])
    (hslot : w.slot = k) (hbody : w.body = false) : requestVa s k false = some w.va := by
  have hwait : (s.thread k).waitOf false = some (.fe x) := hw
  rw [requestVa, hwait, hfe]
  simp [hslot, hbody]

end

/-! ### Monitors (R205) -/

section
variable (t : Thread)

theorem Thread.monitor_getD (i : Fin 4) : t.monitors.toList.getD i {} = t.monitors[i] := by
  rw [List.getD_eq_getElem _ _ (by simp)]
  simp

theorem Thread.disarmed_iff :
    t.monitors.toList.all (fun m => !m.armed) = true ↔ ∀ i : Fin 4, t.monitors[i].armed = false := by
  rw [List.all_eq_true]
  constructor
  · intro h i
    simpa using h t.monitors[i] (by simp)
  · intro h m hm
    obtain ⟨i, hi, rfl⟩ := List.mem_iff_getElem.1 hm
    simpa using h ⟨i, by simpa using hi⟩

/-- The lowest armed entry that has been written. -/
theorem Thread.written_none (h : ∀ i : Fin 4, t.monitors[i].armed = true → t.monitors[i].written = false) :
    (List.range 4).find? (fun i => (t.monitors.toList.getD i {}).armed && (t.monitors.toList.getD i {}).written) = none := by
  refine List.find?_eq_none.2 fun i hi => ?_
  have hentry := t.monitor_getD ⟨i, List.mem_range.1 hi⟩
  dsimp only at hentry
  rw [hentry, Bool.and_eq_true, not_and, Bool.not_eq_true]
  exact h _

theorem Thread.written_some {i : Fin 4} (ha : t.monitors[i].armed = true) (hw : t.monitors[i].written = true)
    (h : ∀ j : Fin 4, j < i → t.monitors[j].armed = false ∨ t.monitors[j].written = false) :
    (List.range 4).find? (fun i => (t.monitors.toList.getD i {}).armed && (t.monitors.toList.getD i {}).written) =
      some i.val := by
  refine List.find?_range_eq_some.2 ⟨?_, List.mem_range.2 i.isLt, fun j hj => ?_⟩
  · rw [t.monitor_getD, ha, hw]
    rfl
  · have hentry := t.monitor_getD ⟨j, hj.trans i.isLt⟩
    dsimp only at hentry
    rw [hentry, Bool.not_eq_true', Bool.and_eq_false_iff]
    exact h _ hj

/-- Without an armed entry the reason is 0. -/
theorem Thread.wakeReason_disarmed (h : ∀ i : Fin 4, t.monitors[i].armed = false) (timeout : Bool) :
    t.wakeReason timeout = 0 := if_pos (t.disarmed_iff.2 h)

theorem Thread.wakeReason_written {i : Fin 4} (ha : t.monitors[i].armed = true) (hw : t.monitors[i].written = true)
    (h : ∀ j : Fin 4, j < i → t.monitors[j].armed = false ∨ t.monitors[j].written = false) (timeout : Bool) :
    t.wakeReason timeout = BitVec.ofNat 64 (0x10 + i.val) := by
  have harmed : ¬ t.monitors.toList.all (fun m => !m.armed) = true := fun hall =>
    Bool.false_ne_true ((t.disarmed_iff.1 hall i).symm.trans ha)
  rw [Thread.wakeReason]
  rw [if_neg harmed, t.written_some ha hw h]

theorem Thread.wakeReason_timeout (ha : ∃ i : Fin 4, t.monitors[i].armed = true)
    (h : ∀ i : Fin 4, t.monitors[i].armed = true → t.monitors[i].written = false) : t.wakeReason true = 0x20 := by
  obtain ⟨i, ha⟩ := ha
  have harmed : ¬ t.monitors.toList.all (fun m => !m.armed) = true := fun hall =>
    Bool.false_ne_true ((t.disarmed_iff.1 hall i).symm.trans ha)
  rw [Thread.wakeReason]
  rw [if_neg harmed, t.written_none h]
  rfl

/-- A completed instruction leaves no wait, whether it had waited or not. -/
theorem Thread.disarm_wentOn (d : Reg) (x : Word) :
    (({ t with wait := none } : Thread).disarm.wg d x).wentOn = (t.disarm.wg d x).wentOn := by
  rw [Thread.wg, Thread.wg]
  split <;> rfl

/-- MWAIT of the main stream completes with its entries disarmed, at the next word. -/
theorem Thread.mwaitEnd_main (hr : t.rep = none) (hp : t.pending = []) (d : Reg) (timeout : Bool) :
    t.mwaitEnd d timeout = (t.disarm.wg d (t.wakeReason timeout)).wentOn := by
  rw [Thread.mwaitEnd, Thread.retire_main, Thread.disarm_wentOn]
  · simpa [Thread.disarm] using hr
  · simpa [Thread.disarm] using hp

end

/-! ### The end of a grant (R209, R210) -/

/-- The state with other queues of reservations. -/
def State.withQueues (s : State) (q : SMap (List Nat)) : State := { s with rsvQueues := q }

@[simp] theorem State.thread_withQueues (s : State) (q : SMap (List Nat)) (k : Nat) : (s.withQueues q).thread k = s.thread k :=
  rfl

theorem SMap.get_erase_self {α : Type} (d : α) (m : SMap α) (k : Nat) : (m.erase k).get d k = d := by
  induction m with
  | nil => rfl
  | cons e r ih =>
    by_cases he : e.1 = k
    · rw [SMap.erase, List.filter_cons_of_neg (by simpa using he)]
      exact ih
    · rw [SMap.erase, List.filter_cons_of_pos (by simpa using he), SMap.get, if_neg he]
      exact ih

section
variable {s : State} {w k : Nat}

/-- A word that nobody awaits is granted to nobody. -/
theorem grantNext_none (hq : s.rsvQueues.get [] w = []) (hh : s.held.get [] w = []) : grantNext w s = s := by
  have hgranted : grantedTo s w = none := by rw [grantedTo, hq]
  have hposted : performPosted (s.held.get [] w).length w s = s := by rw [hh]; rfl
  rw [grantNext, hposted]
  refine (if_pos (by rw [hh, hgranted]; rfl)).trans ?_
  rw [if_pos (by rw [hq]; rfl), grantHead, hq]

/-- The grant of a word that nobody else awaits ends with its queue. -/
theorem passOn_last (hq : s.rsvQueues.get [] w = [k]) (hh : s.held.get [] w = []) :
    passOn w s = s.withQueues (s.rsvQueues.erase w) := by
  rw [passOn, hq]
  exact grantNext_none (SMap.get_erase_self _ _ _) hh

/-- A grant that stands is of the word, and not revoked. -/
theorem granted_of_grantedTo {r : Reservation} (hg : grantedTo s w = some k) (hq : s.rsvQueues.get [] w = [k])
    (hr : (s.thread k).rsv = some r) : r.granted = true ∧ r.revoked = false ∧ r.word = w := by
  rw [grantedTo, hq] at hg
  dsimp only at hg
  rw [hr] at hg
  dsimp only at hg
  split at hg
  next h => simpa [and_assoc] using h
  next => exact absurd hg nofun

/-- A revoked grant leaves its record with the slot, and the word to nobody (R210). -/
theorem revoke_last {r : Reservation} (hg : grantedTo s w = some k) (hq : s.rsvQueues.get [] w = [k])
    (hh : s.held.get [] w = []) (hr : (s.thread k).rsv = some r) : revoke k s =
      (s.setThread k { s.thread k with rsv := some { r with revoked := true } }).withQueues (s.rsvQueues.erase w) := by
  obtain ⟨hgranted, hrevoked, hword⟩ := granted_of_grantedTo hg hq hr
  rw [revoke, hr]
  dsimp only
  rw [if_neg (by rw [hrevoked]; exact Bool.false_ne_true), if_pos hgranted, hword]
  exact passOn_last hq hh

theorem execReservationTimeout_late {r : Reservation} (hg : grantedTo s w = some k) (hq : s.rsvQueues.get [] w = [k])
    (hh : s.held.get [] w = []) (hr : (s.thread k).rsv = some r) (hlate : 4096 < s.now - r.since) :
    execReservationTimeout w s = .next
      ((s.setThread k { s.thread k with rsv := some { r with revoked := true } }).withQueues (s.rsvQueues.erase w)) := by
  rw [execReservationTimeout, hg]
  dsimp only
  rw [hr]
  dsimp only
  rw [if_pos hlate, revoke_last hg hq hh hr]

end

/-- Settles O33: each event acts on the one wait it names, and with a queue of one the grant passes to nobody. -/
theorem waitsEndFromOutside : Obligations.WaitsEndFromOutside := by
  intro s k t
  refine ⟨fun n va hw hr => execFeRefusalRetry_main hw hr, fun n m x va hw he => execFeretry_main he ?_,
    fun d hw hr hp ha hn => ?_, fun w r hg hq hh hr hlate => ?_⟩
  · rcases hw with hw | hw | hw | hw | ⟨y, hw⟩ | hw | ⟨hw, w, hfe, hslot, hbody, rfl⟩
    · exact requestVa_wait hw (.inl ⟨_, _, rfl⟩)
    · exact requestVa_wait hw (.inr (.inl ⟨_, rfl⟩))
    · exact requestVa_wait hw (.inr (.inr (.inl ⟨_, _, rfl⟩)))
    · exact requestVa_wait hw (.inr (.inr (.inr (.inl ⟨_, rfl⟩))))
    · exact requestVa_wait hw (.inr (.inr (.inr (.inr (.inl ⟨_, _, rfl⟩)))))
    · exact requestVa_wait hw (.inr (.inr (.inr (.inr (.inr ⟨_, rfl⟩)))))
    · exact requestVa_fe hw hfe hslot hbody
  · change execMwaitTimeout k s = _
    rw [execMwaitTimeout, hw]
    exact congrArg (fun u => Host.Outcome.next (s.setThread k u))
      ((t.mwaitEnd_main hr hp d true).trans (by rw [Thread.wakeReason_timeout _ ha hn, ← Thread.disarm_wentOn]; rfl))
  · refine ⟨_, execReservationTimeout_late hg hq hh hr hlate, ?_, ?_, fun a => rfl, fun b => rfl⟩
    · rw [State.thread_withQueues, State.thread_setThread]
    · rw [State.thread_withQueues, State.thread_setThread]

end Sys2Proof.Machine
end

section
namespace Sys2Proof.Machine

/-! ## O34: monitors -/

/-! ### Arming (R203) -/

section
variable (t : Thread) (line order : Nat) (tables : List Nat)

/-- The first arming takes entry 0. -/
theorem Thread.arm_first (h : t.monitors = Vector.replicate 4 {}) : t.arm line order tables = { t with
    monitors := (Vector.replicate 4 {}).set 0 { armed := true, line := line, order := order, tables := tables } } := by
  rw [Thread.arm, h]
  rfl

theorem Thread.arm_armed {i : Fin 4} (ha : t.monitors[i].armed = true) (hl : t.monitors[i].line = line) :
    t.arm line order tables = t := by
  have hany : t.monitors.toList.any (fun m => m.armed && m.line == line) = true :=
    List.any_eq_true.2 ⟨t.monitors[i], by simp, by rw [ha, hl]; simp⟩
  exact if_pos hany

theorem Thread.arm_main (hr : t.rep = none) (hp : t.pending = []) :
    (t.arm line order tables).retire = (t.arm line order tables).wentOn := by
  have hkeeps : (t.arm line order tables).rep = t.rep ∧ (t.arm line order tables).pending = t.pending := by
    rw [Thread.arm]
    split
    · exact ⟨rfl, rfl⟩
    · exact ⟨rfl, rfl⟩
  exact Thread.retire_main _ (hkeeps.1.trans hr) (hkeeps.2.trans hp)

end

/-- MONA of a line of the local window arms it for the current slot. -/
theorem execMona_local {s : State} {a : Reg} (h : Clear {} s) (hl : LocalRange s (s.rg a).toNat 1) : execMona a s =
    .next (s.next.setThr (s.thr.arm (s.localPa (s.rg a).toNat / 128 * 128) s.serial []).wentOn) := by
  have hpiece : piece s s.ctx (s.rg a).toNat 1 .load = .ok (s.localPiece (s.rg a).toNat 1) :=
    hl.piece (o := 0) hl.pos (by omega) (by decide)
  have hord : ordCheck s [s.localPiece (s.rg a).toNat 1] = .ok () :=
    ordCheck_local (List.forall_mem_singleton.2 hl.whole)
  refine issue_scalar_ok h rfl rfl rfl ((bind_of_ok hpiece).trans ((bind_of_ok hord).trans ?_))
  refine congrArg Except.ok ?_
  rw [State.localPiece_pa, hl.key, ← Thread.arm_main _ _ _ _ h.main h.idle]
  exact State.mapThr_setThr ..

theorem execMonc_clear {s : State} (h : Clear {} s) : execMonc s = .next (s.setThr s.thr.disarm.wentOn) := by
  refine issue_scalar_ok h rfl rfl rfl (congrArg Except.ok ?_)
  rw [← Thread.retire_main s.thr.disarm h.main h.idle]
  exact State.mapThr_setThr ..

/-! ### MWAIT (R205) -/

section
variable {s : State} {d a : Reg} (h : Clear { scope := true } s)
include h

theorem execMwait_posted (hp : postedBy s s.cur = true) : Waits (.mwait d a) s .posted := fun hh => by
  change execMwait d a s = _
  refine issue_clear_waits .posted h rfl rfl hh ?_ rfl rfl rfl
  exact if_pos hp

variable (hp : postedBy s s.cur = false)
include hp

/-- MWAIT answers at once where it need not wait. -/
theorem execMwait_answers (hn : s.thr.wakePending = true ∨ ∀ i : Fin 4, s.thr.monitors[i].armed = false) :
    execMwait d a s = .next (s.setThr (s.thr.disarm.wg d (s.thr.wakeReason s.thr.timedOut)).wentOn) := by
  have hnow : (s.thr.wakePending || s.thr.monitors.all (fun m => !m.armed)) = true := by
    rw [Bool.or_eq_true, ← Vector.all_toList, Thread.disarmed_iff]
    exact hn
  refine issue_scalar_ok h rfl rfl rfl ?_
  dsimp only
  rw [if_neg (by rw [hp]; exact Bool.false_ne_true), if_pos hnow, State.mapThr, Thread.mwaitEnd_main _ h.main h.idle]

theorem execMwait_waits {i : Fin 4} (ha : s.thr.monitors[i].armed = true) (hw : s.thr.wakePending = false) :
    Waits (.mwait d a) s (.monitor d (if s.rg a = 0 then none else some (s.rg a).toNat)) := fun hh => by
  have hlater : ¬ (s.thr.wakePending || s.thr.monitors.all (fun m => !m.armed)) = true := by
    rw [Bool.or_eq_true, ← Vector.all_toList, Thread.disarmed_iff, hw, not_or]
    exact ⟨Bool.false_ne_true, fun hall => Bool.false_ne_true ((hall i).symm.trans ha)⟩
  change execMwait d a s = _
  refine issue_clear_waits (.monitor d (if s.rg a = 0 then none else some (s.rg a).toNat)) h rfl rfl hh ?_ rfl rfl rfl
  dsimp only
  rw [if_neg (by rw [hp]; exact Bool.false_ne_true), if_neg hlater]

end

/-! ### Writes of an armed line (R204) -/

theorem thread_lineWritten (line : Nat) (s : State) (k : Nat) :
    (lineWritten line s).thread k = (s.thread k).lineWritten line :=
  SMap.get_mapVals (f := fun _ (t : Thread) => t.lineWritten line) (if_neg (by simp)) _

/-- A thread that watches the line wakes, and its entries of the line are flagged. -/
theorem Thread.lineWritten_watching {t : Thread} {line : Nat} {i : Fin 4} (ha : t.monitors[i].armed = true)
    (hl : t.monitors[i].line = line) : (t.lineWritten line).monitors[i].written = true ∧
      (t.lineWritten line).wakePending = true ∧
      ∀ j : Fin 4, t.monitors[j].line ≠ line → (t.lineWritten line).monitors[j].written = t.monitors[j].written := by
  have hany : t.monitors.any (fun m => m.armed && (m.line == line || m.tables.contains line)) = true := by
    rw [Vector.any_eq_true]
    exact ⟨i, i.isLt, by rw [Fin.getElem_fin] at ha hl; rw [ha, hl]; simp⟩
  rw [Thread.lineWritten, if_pos hany]
  refine ⟨?_, rfl, fun j hj => ?_⟩
  · rw [Fin.getElem_fin] at ha hl ⊢
    rw [Vector.getElem_map, ha, hl]
    simp
  · simp only [Fin.getElem_fin, Vector.getElem_map]
    rw [if_neg (by simpa using fun _ => hj)]
    split <;> rfl

/-- Settles O34: each operation is an equation of the thread, and a write is a map over the threads. -/
theorem monitorResults : Obligations.MonitorResults := by
  refine ⟨fun s d a => ⟨fun h => ⟨fun hl => ⟨fun hm => ?_, ?_⟩, execMonc_clear h⟩, execMwait_posted,
    fun h hp => ⟨?_, ?_, ?_⟩⟩,
    fun s line k i ha hl => ?_⟩
  · refine (execMona_local h hl).trans ?_
    rw [Thread.arm_first _ _ _ _ hm]
    rfl
  · rintro ⟨i, ha, hline⟩
    refine (execMona_local h hl).trans ?_
    rw [Thread.arm_armed _ _ _ _ ha hline]
  · intro hn
    refine (execMwait_answers h hp (.inr hn)).trans ?_
    rw [Thread.wakeReason_disarmed _ hn]
    rfl
  · intro i hw ha hwritten hlow
    refine (execMwait_answers h hp (.inl hw)).trans ?_
    rw [Thread.wakeReason_written _ ha hwritten hlow]
    rfl
  · rintro ⟨i, ha⟩ hw
    exact execMwait_waits h hp ha hw
  · rw [thread_lineWritten]
    exact Thread.lineWritten_watching ha hl

end Sys2Proof.Machine
end

section
namespace Sys2Proof.Machine

/-! ## O36: far atomics -/

/-! ### The exchange at the home (R213) -/

theorem width_pos (w : Bool) : 0 < width w := by cases w <;> decide

theorem width_eq (w : Bool) : 8 * (width w / 8) = width w := by cases w <;> rfl

theorem length_toBytes (n x : Nat) : (toBytes n x).length = n := by
  induction n generalizing x with
  | zero => rfl
  | succ n ih => rw [toBytes, List.length_cons, ih]

/-- The thread of a long instruction that ends after a write of memory. -/
theorem State.Writes.retireLong {s t : State} {c : List (Nat × Byte)} {acc : Accept} (h : Clear acc s) (hw : s.Writes t c)
    (dest : Dest) (value : Vec) (n : Nat) (divide : Bool) :
    Machine.retireLong dest value n divide t = t.setThr ((s.thr.owes dest value n divide).watched t.thr) := by
  have hthr : t.thr = s.thr.watched t.thr := by
    rw [State.thr, hw.cur]
    exact hw.threads s.cur
  rw [retireLong_main _ _ _ _ _ (by rw [hthr]; exact h.main) (by rw [hthr]; exact h.idle)]
  exact congrArg (fun x => t.setThr (x.owes dest value n divide)) hthr

/-- The word of w bits at an address of the local window. -/
def State.wordAt (s : State) (w : Bool) (pa : Nat) : BitVec (width w) := BitVec.ofNat _ (s.byteNat pa (width w / 8))

theorem State.toNat_wordAt (s : State) (w : Bool) (pa : Nat) : (s.wordAt w pa).toNat = s.byteNat pa (width w / 8) := by
  have hlt := byteNat_lt s pa (width w / 8)
  rw [width_eq] at hlt
  rw [State.wordAt, BitVec.toNat_ofNat, Nat.mod_eq_of_lt hlt]

/-- The outcome replaces the word at pa by new and leaves res owed to g[d]. -/
def AtomDone (s : State) (w : Bool) (d : Reg) (l : BitVec 4) (pa : Nat) (new res : BitVec (width w)) (o : Out) : Prop :=
  ∃ t, o = .next t ∧
    Stored s t pa (toBytes (width w / 8) new.toNat) (s.thr.owes (.gen d) ((res.signExtend 64).setWidth 128) l.toNat false)

section
variable {s : State} {d a : Reg} {b : Option Reg} {l : BitVec 4} {w : Bool} {r : BitVec 2} {pair expects : Bool} {word : Nat}
  {f : Nat → Nat → Nat → Nat → Nat → Nat × Nat} (h : Clear { scope := r != 0 } s) (hu : s.Unreserved)
  (hl : LocalRange s (s.rg a).toNat (width w / 8))
include h hu hl

/-- The far atomic writes at its home, and its result stays owed to the slot. -/
theorem farAtomic_local {y : Nat × Nat}
    (ha : (s.rg a).toNat % (if pair then 2 * (width w / 8) else width w / 8) = 0)
    (hf : f (width w) (s.wordAt w (s.localPa (s.rg a).toNat)).toNat ((b.elim 0 s.rg).setWidth (width w)).toNat
      ((s.rg d).setWidth (width w)).toNat
      (if pair then s.readNat (s.localPa (s.rg a).toNat + width w / 8) (width w / 8) else 0) = y) :
    farAtomic word d a b l w r pair expects f s = .next (retireLong (.gen d)
      ((wres w (BitVec.ofNat 64 y.2)).setWidth 128) l.toNat false
      (s.writeBytes (s.localPa (s.rg a).toNat) (toBytes (width w / 8) y.1))) := by
  have hw := s.writes_writeBytes (a := s.localPa (s.rg a).toNat) (l := toBytes (width w / 8) y.1)
    (by rw [length_toBytes]; exact hl.end_le)
  refine issue_scalar_ok h rfl rfl rfl ((bind_of_ok (hl.atomAccess ha h.main (Unreserved.postedBy hu) _ _ _ _)).trans
    ((bind_of_ok (behindGrant_unreserved hu _)).trans ((bind_of_ok (hl.bringHome _)).trans (congrArg Except.ok ?_))))
  rw [← toNat_natOp, ← toNat_natOp, State.toNat_wordAt] at hf
  subst hf
  rw [State.localPiece_pa, hl.readNat, width_eq]
  cases b with
  | none => exact congrArg (retireLong _ _ _ _) (homeDone_unheld (hw.held.trans hu.2) _)
  | some b => exact congrArg (retireLong _ _ _ _) (homeDone_unheld (hw.held.trans hu.2) _)

/-- A far atomic by the numbers that its table names: M, X, E and, for a pair, the word that follows. -/
theorem farAtomic_done {m x e new res : BitVec (width w)} {y : Nat}
    (ha : (s.rg a).toNat % (if pair then 2 * (width w / 8) else width w / 8) = 0)
    (hm : s.wordAt w (s.localPa (s.rg a).toNat) = m) (hx : (b.elim 0 s.rg).setWidth (width w) = x)
    (he : (s.rg d).setWidth (width w) = e)
    (hy : (if pair then s.readNat (s.localPa (s.rg a).toNat + width w / 8) (width w / 8) else 0) = y)
    (hnew : BitVec.ofNat _ (f (width w) m.toNat x.toNat e.toNat y).1 = new)
    (hres : BitVec.ofNat _ (f (width w) m.toNat x.toNat e.toNat y).2 = res) :
    AtomDone s w d l (s.localPa (s.rg a).toNat) new res (farAtomic word d a b l w r pair expects f s) := by
  subst hm hx he hy
  rw [farAtomic_local h hu hl ha rfl]
  generalize f (width w) _ _ _ _ = z at hnew hres ⊢
  have hbytes : toBytes (width w / 8) new.toNat = toBytes (width w / 8) z.1 := by
    have hmod := toBytes_mod (width w / 8) z.1
    rwa [width_eq, ← BitVec.toNat_ofNat, hnew] at hmod
  have hw := s.writes_writeBytes (a := s.localPa (s.rg a).toNat) (l := toBytes (width w / 8) z.1)
    (by rw [length_toBytes]; exact hl.end_le)
  rw [hw.retireLong h, wres_eq, BitVec.setWidth_ofNat_of_le (width_le w), hres]
  exact ⟨_, rfl, hbytes ▸ hw.stored _⟩

end

/-! ### The operations on words of N bits (R213-R215) -/

section
variable {n : Nat} (m x : BitVec n)

theorem ofNat_add_mod : BitVec.ofNat n ((m.toNat + x.toNat) % 2 ^ n) = m + x := by
  rw [← BitVec.toNat_add, ofNat_toNat_self]

theorem ofNat_add : BitVec.ofNat n (m.toNat + x.toNat) = m + x := by
  rw [BitVec.ofNat_add, ofNat_toNat_self, ofNat_toNat_self]

theorem ofNat_pred (h : m.toNat ≠ 0) : BitVec.ofNat n (m.toNat - 1) = m - 1 := by
  have hone := BitVec.ofNat_add (n := n) (m.toNat - 1) 1
  rw [Nat.sub_add_cancel (Nat.pos_of_ne_zero h), ofNat_toNat_self] at hone
  exact eq_sub_of_add_eq hone.symm

theorem ofNat_succ : BitVec.ofNat n (m.toNat + 1) = m + 1 := by
  rw [BitVec.ofNat_add, ofNat_toNat_self]
  rfl

/-- A choice between two words is one between their numbers. -/
theorem ofNat_ite (c : Prop) [Decidable c] : BitVec.ofNat n (if c then x.toNat else m.toNat) = if c then x else m := by
  rw [apply_ite (BitVec.ofNat n), ofNat_toNat_self, ofNat_toNat_self]

/-- The fail flag is bit N - 1. -/
theorem ofNat_failed (hn : 0 < n) : BitVec.ofNat n (failed n m.toNat) = m ||| BitVec.ofNat n (2 ^ (n - 1)) := by
  have hflag : (BitVec.ofNat n (2 ^ (n - 1))).toNat = 2 ^ (n - 1) := by
    rw [BitVec.toNat_ofNat, Nat.mod_eq_of_lt (Nat.pow_lt_pow_right (by decide) (by omega))]
  have hor : failed n m.toNat = m.toNat ||| 2 ^ (n - 1) := by
    rw [failed]
    split
    next hset =>
      refine Nat.eq_of_testBit_eq fun i => ?_
      rw [Nat.testBit_or, Nat.testBit_two_pow]
      by_cases hi : n - 1 = i
      · rw [← hi, hset, Bool.true_or]
      · rw [decide_eq_false hi, Bool.or_false]
    next hclear =>
      have hlow : m.toNat < 2 ^ n := m.isLt
      have hpow : 2 ^ n = 2 * 2 ^ (n - 1) := by rw [← pow_succ', Nat.sub_add_cancel hn]
      have hlt : m.toNat < 2 ^ (n - 1) := by
        rw [Nat.testBit_eq_decide_div_mod_eq, decide_eq_true_eq] at hclear
        by_contra hge
        exact hclear (by rw [Nat.div_eq_of_lt_le (k := 1) (by omega) (by omega)])
      have hadd := Nat.two_pow_add_eq_or_of_lt hlt 1
      rw [Nat.mul_one] at hadd
      rw [Nat.add_comm, hadd, Nat.or_comm]
  rw [hor, ← ofNat_toNat_self (m ||| BitVec.ofNat n (2 ^ (n - 1))), BitVec.toNat_or, hflag]

end

section
variable {s : State} {d a b : Reg} {l : BitVec 4} {w : Bool} {r : BitVec 2} (h : Clear { scope := r != 0 } s)
  (hu : s.Unreserved) (hl : LocalRange s (s.rg a).toNat (width w / 8)) (ha : (s.rg a).toNat % (width w / 8) = 0)
  {m x e : BitVec (width w)} (hm : s.wordAt w (s.localPa (s.rg a).toNat) = m) (hx : (s.rg b).setWidth (width w) = x)
include h hu hl ha hm

theorem execFdecp_done : AtomDone s w d l (s.localPa (s.rg a).toNat) (if m = 0 then m else m - 1)
    (if m = 0 then m ||| BitVec.ofNat _ (2 ^ (width w - 1)) else m) (execFdecp d a l w r s) := by
  by_cases hz : m = 0
  · have hz' : m.toNat = 0 := by rw [hz]; rfl
    refine farAtomic_done h hu hl ha hm rfl rfl rfl ?_ ?_
    · rw [if_pos hz', if_pos hz, ofNat_toNat_self]
    · rw [if_pos hz', if_pos hz, ofNat_failed m (width_pos w)]
  · have hz' : ¬ m.toNat = 0 := fun h => hz (BitVec.eq_of_toNat_eq h)
    refine farAtomic_done h hu hl ha hm rfl rfl rfl ?_ ?_
    · rw [if_neg hz', if_neg hz, ofNat_pred m hz']
    · rw [if_neg hz', if_neg hz, ofNat_toNat_self]

include hx

/-- The operations whose result is the old word. -/
theorem farOld_done {word : Nat} {f : Nat → Nat → Nat → Nat} {new : BitVec (width w)}
    (hnew : BitVec.ofNat _ (f (width w) m.toNat x.toNat) = new) :
    AtomDone s w d l (s.localPa (s.rg a).toNat) new m (farOld word d a b l w r f s) :=
  farAtomic_done (b := some b) h hu hl ha hm hx rfl rfl hnew (ofNat_toNat_self m)

theorem execFadd_done : AtomDone s w d l (s.localPa (s.rg a).toNat) (m + x) m (execFadd d a b l w r s) :=
  farOld_done h hu hl ha hm hx (ofNat_add_mod m x)

theorem execFand_done : AtomDone s w d l (s.localPa (s.rg a).toNat) (m &&& x) m (execFand d a b l w r s) :=
  farOld_done h hu hl ha hm hx (by rw [← BitVec.toNat_and, ofNat_toNat_self])

theorem execFOr_done : AtomDone s w d l (s.localPa (s.rg a).toNat) (m ||| x) m (execFOr d a b l w r s) :=
  farOld_done h hu hl ha hm hx (by rw [← BitVec.toNat_or, ofNat_toNat_self])

theorem execFxor_done : AtomDone s w d l (s.localPa (s.rg a).toNat) (m ^^^ x) m (execFxor d a b l w r s) :=
  farOld_done h hu hl ha hm hx (by rw [← BitVec.toNat_xor, ofNat_toNat_self])

theorem execFmax_done : AtomDone s w d l (s.localPa (s.rg a).toNat) (if m.toInt < x.toInt then x else m) m
    (execFmax d a b l w r s) :=
  farOld_done h hu hl ha hm hx (by rw [signed_toNat (width_pos w), signed_toNat (width_pos w), ofNat_ite])

theorem execFmin_done : AtomDone s w d l (s.localPa (s.rg a).toNat) (if x.toInt < m.toInt then x else m) m
    (execFmin d a b l w r s) :=
  farOld_done h hu hl ha hm hx (by rw [signed_toNat (width_pos w), signed_toNat (width_pos w), ofNat_ite])

theorem execFmaxn_done : AtomDone s w d l (s.localPa (s.rg a).toNat) (if m.toNat < x.toNat then x else m) m
    (execFmaxn d a b l w r s) :=
  farOld_done h hu hl ha hm hx (by rw [max_def_lt, ofNat_ite])

theorem execFminn_done : AtomDone s w d l (s.localPa (s.rg a).toNat) (if x.toNat < m.toNat then x else m) m
    (execFminn d a b l w r s) :=
  farOld_done h hu hl ha hm hx (by rw [min_comm, min_def_lt, ofNat_ite])

theorem execFswp_done : AtomDone s w d l (s.localPa (s.rg a).toNat) x m (execFswp d a b l w r s) :=
  farOld_done h hu hl ha hm hx (ofNat_toNat_self x)

theorem execFincw_done : AtomDone s w d l (s.localPa (s.rg a).toNat)
    (if x = 0 then m + 1 else BitVec.ofNat _ ((m.toNat + 1) % x.toNat)) m (execFincw d a b l w r s) := by
  refine farOld_done h hu hl ha hm hx ?_
  by_cases hz : x = 0
  · rw [if_pos hz, if_pos (by rw [hz]; rfl), ← ofNat_succ]
    exact BitVec.eq_of_toNat_eq (by rw [BitVec.toNat_ofNat, BitVec.toNat_ofNat, Nat.mod_mod])
  · rw [if_neg hz, if_neg (fun hx0 : x.toNat = 0 => hz (BitVec.eq_of_toNat_eq hx0))]

theorem execFincb_done : AtomDone s w d l (s.localPa (s.rg a).toNat) (if m.toNat < x.toNat then m + 1 else m)
    (if m.toNat < x.toNat then m else m ||| BitVec.ofNat _ (2 ^ (width w - 1))) (execFincb d a b l w r s) := by
  refine farAtomic_done (b := some b) h hu hl ha hm hx rfl rfl ?_ ?_
  · split
    · exact ofNat_succ m
    · exact ofNat_toNat_self m
  · split
    · exact ofNat_toNat_self m
    · exact ofNat_failed m (width_pos w)

theorem execFcas_done (he : (s.rg d).setWidth (width w) = e) : AtomDone s w d l (s.localPa (s.rg a).toNat)
    (if m = e then x else m) m (execFcas d a b l w r s) := by
  refine farAtomic_done (b := some b) h hu hl ha hm hx he rfl ?_ (ofNat_toNat_self m)
  rw [ofNat_ite]
  simp only [BitVec.toNat_inj]

end

/-- FADDL compares with the word that follows its own (R215). -/
theorem execFaddl_done {s : State} {d a b : Reg} {l : BitVec 4} {w : Bool} {r : BitVec 2} (h : Clear { scope := r != 0 } s)
    (hu : s.Unreserved) (hl : LocalRange s (s.rg a).toNat (width w / 4)) (ha : (s.rg a).toNat % (width w / 4) = 0)
    {m x lim : BitVec (width w)} (hm : s.wordAt w (s.localPa (s.rg a).toNat) = m)
    (hx : (s.rg b).setWidth (width w) = x) (hlim : s.wordAt w (s.localPa (s.rg a).toNat + width w / 8) = lim) :
    AtomDone s w d l (s.localPa (s.rg a).toNat) (if m.toNat + x.toNat ≤ lim.toNat then m + x else m)
      (if m.toNat + x.toNat ≤ lim.toNat then m else m ||| BitVec.ofNat _ (2 ^ (width w - 1))) (execFaddl d a b l w r s) := by
  have hhalf : width w / 8 + width w / 8 = width w / 4 := by cases w <;> rfl
  have hpos : 0 < width w / 8 := by cases w <;> decide
  have hword : LocalRange s (s.rg a).toNat (width w / 8) := hl.within (o := 0) hpos (by omega)
  have hnext : LocalRange s ((s.rg a).toNat + width w / 8) (width w / 8) := hl.within hpos (by omega)
  have hread : s.readNat (s.localPa (s.rg a).toNat + width w / 8) (width w / 8) = lim.toNat := by
    rw [State.readNat, ← hl.localPa_add, hnext.readBytes, ← hlim, State.toNat_wordAt, hl.localPa_add]
    rfl
  have hdouble : 2 * (width w / 8) = width w / 4 := by omega
  have haligned : (s.rg a).toNat % (if true then 2 * (width w / 8) else width w / 8) = 0 := by rw [if_pos rfl, hdouble, ha]
  refine farAtomic_done (b := some b) h hu hword haligned hm hx rfl ((if_pos rfl).trans hread) ?_ ?_
  all_goals split
  · exact ofNat_add ..
  · exact ofNat_toNat_self _
  · exact ofNat_toNat_self _
  · exact ofNat_failed _ (width_pos w)

/-- Settles O36: each operation is the exchange at its home with the numbers that its table names. -/
theorem farAtomicResults : Obligations.FarAtomicResults := by
  intro s d a b l w r h hu n va pa m x e lim fail done
  refine ⟨fun hl ha => ⟨execFadd_done h hu hl ha rfl rfl, execFand_done h hu hl ha rfl rfl, execFOr_done h hu hl ha rfl rfl,
    execFxor_done h hu hl ha rfl rfl, execFmax_done h hu hl ha rfl rfl, execFmin_done h hu hl ha rfl rfl,
    execFmaxn_done h hu hl ha rfl rfl, execFminn_done h hu hl ha rfl rfl, execFswp_done h hu hl ha rfl rfl,
    execFcas_done h hu hl ha rfl rfl rfl, execFincb_done h hu hl ha rfl rfl, execFincw_done h hu hl ha rfl rfl,
    execFdecp_done h hu hl ha rfl⟩, fun hl ha => execFaddl_done h hu hl ha rfl rfl rfl⟩

end Sys2Proof.Machine
end

section
namespace Sys2Proof.Machine

/-! ## O37: misaligned words, and addresses outside their spaces -/

/-! ### Misaligned words of the operations at a home (R199, R207, R213) -/

/-- A pair from any register but g15 ends within the registers (R38). -/
theorem passes_two {d : Reg} (hd : d ≠ 15) : passes d 2 = false := by
  revert d
  decide

section
variable {s : State} {d a b : Reg} {o : BitVec 10} {l : BitVec 4} (h : Clear {} s)
include h

theorem fullEmpty_misaligned {op : FeOp} {word : Nat} (ha : (s.ea b o 8).toNat % 8 ≠ 0)
    (hm : op = .femark → s.thr.level ≠ 0) (hh : s.Unheld) :
    fullEmpty word op d b o l s = .next (trap s.cur { cause := 3, eaddr := s.ea b o 8 } s) := by
  rw [fullEmpty]
  refine issue_clear_traps (h.anyAccept _) rfl ?_ hh (exhaustible_trap (bind_of_error (atomAccess_misaligned ha _ _ _ _ s)))
  by_cases hop : op = .femark
  · simp [hm hop]
  · simp [hop]

theorem execRsv_misaligned (ha : (s.ea b o 8).toNat % 8 ≠ 0) (hrsv : s.thr.rsv = none) (hh : s.Unheld) :
    execRsv d b o l s = .next (trap s.cur { cause := 3, eaddr := s.ea b o 8 } s) :=
  issue_clear_traps (h.anyAccept _) (by rw [hrsv]; rfl) rfl hh
    (exhaustible_trap (bind_of_error (atomAccess_misaligned ha _ _ _ _ s)))

theorem execRsvt_misaligned (ha : (s.ea b o 8).toNat % 8 ≠ 0) (hrsv : s.thr.rsv = none) (hd : d ≠ 15) (hh : s.Unheld) :
    execRsvt d b o l s = .next (trap s.cur { cause := 3, eaddr := s.ea b o 8 } s) :=
  issue_clear_traps (h.anyAccept _) (by rw [hrsv, passes_two hd]; rfl) rfl hh
    (exhaustible_trap (bind_of_error (atomAccess_misaligned ha _ _ _ _ s)))

end

/-- A reservation of the address stands. -/
theorem noReservation_held {s : State} {b : Reg} {o : BitVec 10} {r : Reservation} (hr : s.thr.rsv = some r)
    (hva : r.va = s.ea b o 8) : noReservation b o s = false := by
  rw [noReservation, hr]
  dsimp only
  rw [hva, bne_self_eq_false, Bool.and_false]

/-- The word after a RELC is no hint word. -/
theorem hintFollows_false {s : State} {x : BitVec 32} {u : State} (hf : fetchAt false s.cur (s.thr.pc + 4) s = .ok (x, u))
    (hx : field x 31 26 ≠ 0x3F) : hintFollows s = false := by
  rw [hintFollows, hf]
  dsimp only
  rw [beq_false_of_ne hx, Bool.false_and]

section
variable {s : State} {d b : Reg} {o : BitVec 10} {r : Reservation} (h : Clear {} s)
  (ha : (s.ea b o 8).toNat % 8 ≠ 0) (hr : s.thr.rsv = some r) (hva : r.va = s.ea b o 8)
include h ha hr hva

theorem execRel_misaligned (hh : s.Unheld) :
    execRel d b o s = .next (trap s.cur { cause := 3, eaddr := s.ea b o 8 } s) := by
  have hno := noReservation_held hr hva
  refine issue_clear_traps (h.anyAccept _) hno rfl hh ?_
  rw [hno]
  exact bind_of_error (atomAccess_misaligned ha _ _ _ _ s)

theorem execRelc_misaligned {x : BitVec 32} {u : State} (hf : fetchAt false s.cur (s.thr.pc + 4) s = .ok (x, u))
    (hx : field x 31 26 ≠ 0x3F) (hh : s.Unheld) :
    execRelc d b o s = .next (trap s.cur { cause := 3, eaddr := s.ea b o 8 } s) := by
  have hno := noReservation_held hr hva
  rw [execRelc, h.main, hf]
  dsimp only
  refine issue_clear_traps (h.anyAccept _) (by rw [hno, hintFollows_false hf hx]; rfl) rfl hh ?_
  rw [hno]
  exact bind_of_error (atomAccess_misaligned ha _ _ _ _ s)

end

section
variable {s : State} {d a : Reg} {b : Option Reg} {l : BitVec 4} {w : Bool} {r : BitVec 2} {expects : Bool} {word : Nat}
  {f : Nat → Nat → Nat → Nat → Nat → Nat × Nat} (h : Clear {} s)
include h

theorem farAtomic_misaligned (ha : (s.rg a).toNat % (width w / 8) ≠ 0) (hh : s.Unheld) :
    farAtomic word d a b l w r false expects f s = .next (trap s.cur { cause := 3, eaddr := s.rg a } s) :=
  issue_clear_traps (h.anyAccept _) rfl rfl hh (bind_of_error (atomAccess_misaligned ha _ _ _ _ s))

theorem farOld_misaligned {b : Reg} {f : Nat → Nat → Nat → Nat} (ha : (s.rg a).toNat % (width w / 8) ≠ 0)
    (hh : s.Unheld) : farOld word d a b l w r f s = .next (trap s.cur { cause := 3, eaddr := s.rg a } s) := by
  rw [farOld]
  exact farAtomic_misaligned h ha hh

theorem farAtomic_misaligned_pair (ha : (s.rg a).toNat % (width w / 4) ≠ 0) (hh : s.Unheld) :
    farAtomic word d a b l w r true expects f s = .next (trap s.cur { cause := 3, eaddr := s.rg a } s) := by
  have hpair : 2 * (width w / 8) = width w / 4 := by cases w <;> rfl
  exact issue_clear_traps (h.anyAccept _) rfl rfl hh
    (bind_of_error (atomAccess_misaligned (by rw [if_pos rfl, hpair]; exact ha) _ _ _ _ s))

end

/-! ### Addresses outside their spaces (R151, R152) -/

section
variable {s : State} {va n : Nat} {k : Access}

/-- An access that the allocation of the local window does not hold (R152). -/
theorem pieces_unallocated (hlow : localBase ≤ va) (hhigh : va < 2 ^ 52) (hslot : localSlot s.cur ≠ 7 ∨ s.thr.level = 0)
    (hlen : s.thr.splen < va - localBase + n) : pieces s s.ctx va n k = .error (.fault causeProt va) := by
  have hwhole : (localSlot s.cur == 7 && decide (s.thr.level ≥ 1)) = false := by
    rcases hslot with h7 | hl
    · rw [beq_false_of_ne h7, Bool.false_and]
    · rw [hl]; exact Bool.and_false _
  have hsplen : s.ctx.splen = s.thr.splen := by
    change (if (localSlot s.cur == 7 && decide (s.thr.level ≥ 1)) = true then 0x400000 else s.thr.splen) = _
    rw [hwhole]; rfl
  have htop : ¬ va < apertureTop := by
    rw [apertureTop]
    rw [localBase] at hlow
    omega
  have hpast : pastWindow s.ctx va n = true := by
    rw [pastWindow, decide_eq_false htop, Bool.and_false, if_neg Bool.false_ne_true, hsplen, decide_eq_true hlow,
      decide_eq_true hhigh, decide_eq_true hlen]
    rfl
  rw [pieces, hpast, if_pos rfl]

/-- Addresses of no space: between the aperture and the local window, and beyond the 52 bits (R151). -/
def OutsideSpaces (va : Nat) : Prop := (apertureTop ≤ va ∧ va < localBase) ∨ 2 ^ 52 ≤ va

theorem piece_outside (h : OutsideSpaces va) (len : Nat) : piece s s.ctx va len k = .error (.fault causeXlate va) := by
  have htop : ¬ va < apertureBase ∧ ¬ va < apertureTop := by
    rw [OutsideSpaces, apertureTop, localBase] at h
    rw [apertureBase, apertureTop]
    omega
  rw [piece, if_neg htop.1, if_neg htop.2]
  split
  next => rfl
  next hlow =>
    have hhigh : ¬ va < 2 ^ 52 := by
      rcases h with h | h
      · exact absurd h.2 hlow
      · omega
    rw [if_neg hhigh]

theorem pieces_outside (h : OutsideSpaces va) : pieces s s.ctx va n k = .error (.fault causeXlate va) := by
  have hspace : ¬ va < apertureTop ∧ ¬ (localBase ≤ va ∧ va < 2 ^ 52) := by
    rw [OutsideSpaces, apertureTop, localBase] at h
    rw [apertureTop, localBase]
    omega
  have hpast : pastWindow s.ctx va n = false := by
    rw [pastWindow, decide_eq_false hspace.1, Bool.and_false, if_neg Bool.false_ne_true, ← Bool.decide_and,
      decide_eq_false hspace.2, Bool.false_and]
  rw [pieces, hpast, if_neg Bool.false_ne_true]
  split
  next => rw [piece_outside h]; rfl
  next => exact bind_of_error (piece_outside h _)

end

section
variable {s : State} {va : Word} {e : Stop}

/-- An access whose address fails has no effect. -/
theorem threadAccess_fails {n : Nat} {k : Access} (h : pieces s s.ctx va.toNat n k = .error e) :
    threadAccess k [(va.toNat, n)] s = .error e := by
  have hall : [(va.toNat, n)].mapM (fun r => pieces s s.ctx r.1 r.2 k) = .error e := by
    rw [List.mapM_cons]
    exact bind_of_error h
  exact bind_of_error (bind_of_error hall)

theorem loadTo_fails {n : Nat} (h : pieces s s.ctx va.toNat n .load = .error e) (nt : Bool) (dest : Dest) (f : Nat → Vec)
    (l : Nat) : loadTo va n nt dest f l s = .error e :=
  bind_of_error (threadAccess_fails h)

theorem storeFrom_fails {l : List Byte} (h : pieces s s.ctx va.toNat l.length .store = .error e) (nt : Bool) :
    storeFrom va l nt s = .error e :=
  bind_of_error (threadAccess_fails h)

end

/-- The outcome of an access of n bytes at va that lies outside the spaces: the trap of its address. -/
def SpaceTraps (s : State) (n : Nat) (va : Word) (out : Out) : Prop :=
  (localBase ≤ va.toNat → va.toNat < 2 ^ 52 → localSlot s.cur ≠ 7 ∨ s.thr.level = 0 →
    s.thr.splen < va.toNat - localBase + n → s.Unheld → out = .next (trap s.cur { cause := 6, eaddr := va } s)) ∧
  (OutsideSpaces va.toNat → s.Unheld → out = .next (trap s.cur { cause := 5, eaddr := va } s))

section
variable {s : State} {u : Use} {body : State → Except Stop State} {va : Word} {n : Nat} (h : Clear u.accept s)
  (hi : u.ill = false) (hp : u.priv = false)
include h hi hp

theorem issue_spaceTraps {k : Access} (hb : ∀ e, pieces s s.ctx va.toNat n k = .error e → body s = .error e) :
    SpaceTraps s n va (issue u body s) := by
  have hfault (c : Nat) : Stop.fault c va.toNat = .trap { cause := c, eaddr := va } := by
    rw [Stop.fault, ofNat_toNat_self]
  refine ⟨fun hlow hhigh hslot hlen hh => ?_, fun hout hh => ?_⟩
  · exact issue_clear_traps h hi hp hh ((hb _ (pieces_unallocated hlow hhigh hslot hlen)).trans (by rw [hfault]; rfl))
  · exact issue_clear_traps h hi hp hh ((hb _ (pieces_outside hout)).trans (by rw [hfault]; rfl))

theorem issue_loadTo_spaceTraps {nt : Bool} {dest : Dest} {f : Nat → Vec} {l : Nat}
    (hb : body s = loadTo va n nt dest f l s) : SpaceTraps s n va (issue u body s) :=
  issue_spaceTraps h hi hp fun _ he => hb.trans (loadTo_fails he ..)

theorem issue_storeFrom_spaceTraps {nt : Bool} {l : List Byte} (hl : l.length = n)
    (hb : body s = storeFrom va l nt s) : SpaceTraps s n va (issue u body s) :=
  issue_spaceTraps h hi hp fun _ he => hb.trans (storeFrom_fails (hl ▸ he) _)

end

section
variable {s : State} {d a b : Reg} {o : BitVec 10} {v : Bool} {l : BitVec 4}

theorem load_spaceTraps {word n : Nat} {sx : Bool} (h : Clear (loadAccept v) s) :
    SpaceTraps s n (s.ea b o n) (load word d b o v l n sx s) := by
  rw [load]
  exact issue_loadTo_spaceTraps h rfl rfl rfl

theorem store_spaceTraps {word n : Nat} (h : Clear (storeAccept v) s) :
    SpaceTraps s n (s.ea b o n) (store word d b o v n s) := by
  rw [store]
  exact issue_storeFrom_spaceTraps h rfl rfl (length_toBytes ..) rfl

theorem execVld_spaceTraps (h : Clear (loadAccept v) s) : SpaceTraps s 16 (s.ea b o 16) (execVld d b o v l s) :=
  issue_loadTo_spaceTraps h rfl rfl rfl

theorem execVst_spaceTraps (h : Clear (storeAccept v) s) : SpaceTraps s 16 (s.ea b o 16) (execVst d b o v s) :=
  issue_storeFrom_spaceTraps h rfl rfl (length_toBytes ..) rfl

theorem execLdxd_spaceTraps (h : Clear (loadAccept false) s) :
    SpaceTraps s 8 (s.rg a + s.rg b) (execLdxd d a b l s) :=
  issue_loadTo_spaceTraps h rfl rfl rfl

theorem execVldx_spaceTraps (h : Clear (loadAccept false) s) :
    SpaceTraps s 16 (s.rg a + s.rg b) (execVldx d a b l s) :=
  issue_loadTo_spaceTraps h rfl rfl rfl

theorem execStxd_spaceTraps (h : Clear (storeAccept false) s) : SpaceTraps s 8 (s.rg a + s.rg b) (execStxd d a b s) :=
  issue_storeFrom_spaceTraps h rfl rfl (length_toBytes ..) rfl

theorem execVstx_spaceTraps (h : Clear (storeAccept false) s) : SpaceTraps s 16 (s.rg a + s.rg b) (execVstx d a b s) :=
  issue_storeFrom_spaceTraps h rfl rfl (length_toBytes ..) rfl

end

/-- Settles O37: the checks of its address come before the effect of an access, and their failure is its trap. -/
theorem addressTraps : Obligations.AddressTraps := by
  refine ⟨fun s d a b o l w h => ⟨fun ha => ?_, fun ha => ?_, fun ha => ?_⟩,
    fun s d a b o v l => ⟨fun h => ?_, fun h => ?_, fun h => ?_, fun h => ?_⟩⟩
  · refine ⟨fullEmpty_misaligned h ha nofun, fullEmpty_misaligned h ha nofun, fullEmpty_misaligned h ha nofun,
      fullEmpty_misaligned h ha nofun, fullEmpty_misaligned h ha nofun, fullEmpty_misaligned h ha nofun,
      fun hm => fullEmpty_misaligned h ha fun _ => hm,
      fun hrsv => ⟨execRsv_misaligned h ha hrsv, execRsvt_misaligned h ha hrsv⟩,
      fun r hr hva => ⟨execRel_misaligned h ha hr hva, fun x u => execRelc_misaligned h ha hr hva⟩⟩
  · exact ⟨fun hh => show execFadd d a b l w 0 s = _ from farOld_misaligned h ha hh,
      fun hh => show execFand d a b l w 0 s = _ from farOld_misaligned h ha hh,
      fun hh => show execFOr d a b l w 0 s = _ from farOld_misaligned h ha hh,
      fun hh => show execFxor d a b l w 0 s = _ from farOld_misaligned h ha hh,
      fun hh => show execFmax d a b l w 0 s = _ from farOld_misaligned h ha hh,
      fun hh => show execFmin d a b l w 0 s = _ from farOld_misaligned h ha hh,
      fun hh => show execFmaxn d a b l w 0 s = _ from farOld_misaligned h ha hh,
      fun hh => show execFminn d a b l w 0 s = _ from farOld_misaligned h ha hh,
      fun hh => show execFswp d a b l w 0 s = _ from farOld_misaligned h ha hh,
      fun hh => show execFcas d a b l w 0 s = _ from farAtomic_misaligned h ha hh,
      fun hh => show execFincb d a b l w 0 s = _ from farAtomic_misaligned h ha hh,
      fun hh => show execFincw d a b l w 0 s = _ from farOld_misaligned h ha hh,
      fun hh => show execFdecp d a l w 0 s = _ from farAtomic_misaligned h ha hh⟩
  · exact fun hh => show execFaddl d a b l w 0 s = _ from farAtomic_misaligned_pair h ha hh
  · exact ⟨load_spaceTraps h, load_spaceTraps h, load_spaceTraps h, load_spaceTraps h, load_spaceTraps h, load_spaceTraps h,
      load_spaceTraps h, execVld_spaceTraps h⟩
  · exact ⟨store_spaceTraps h, store_spaceTraps h, store_spaceTraps h, store_spaceTraps h, execVst_spaceTraps h⟩
  · exact ⟨execLdxd_spaceTraps h, execVldx_spaceTraps h⟩
  · exact ⟨execStxd_spaceTraps h, execVstx_spaceTraps h⟩

end Sys2Proof.Machine
end

section
namespace Sys2Proof.Machine

/-! ## O35: reservations -/

/-! ### A request that is granted at once (R207, R209) -/

theorem Thread.wg_unheld (t : Thread) (x : Option Reservation) (r : Reg) (y : Word) :
    ({ t with rsv := x, wait := none } : Thread).wg r y = { t.wg r y with rsv := x, wait := none } := by
  rw [Thread.wg, Thread.wg]
  split <;> rfl

/-- The record of a reservation as it is granted. -/
def Reservation.grantedAt (r : Reservation) (now : Nat) : Reservation := { r with granted := true, since := now }

/-- The thread with its reservation granted: it no longer waits. -/
def Thread.granted (t : Thread) (r : Reservation) : Thread := { t with rsv := some r, wait := none }

section
variable {s : State} {w : Nat} {r : Reservation}

theorem grantHead_current (hq : s.rsvQueues.get [] w = [s.cur]) (hr : s.thr.rsv = some r) : grantHead w s =
    s.setThr (((if r.pair then (s.thr.granted (r.grantedAt s.now)).wg (r.d + 1) 0 else s.thr.granted (r.grantedAt s.now)).wg
      r.d (s.read64 w)).retire) := by
  have hr' : (s.thread s.cur).rsv = some r := hr
  rw [grantHead, hq]
  dsimp only
  rw [State.mapThread, hr']
  rfl

/-- The line of a scratchpad word is recalled from nobody (R156). -/
theorem recallLine_scratch (h : isScratch w = true) : recallLine (w / 128 * 128) s = s := by
  have hline : isScratch (w / 128 * 128) = true := by
    rw [isScratch, Bool.and_eq_true, decide_eq_true_eq, decide_eq_true_eq] at h ⊢
    omega
  rw [recallLine, hline]
  rfl

/-- The only request in the queue of a word of which no grant stands is granted. -/
theorem grantNext_current (hq : s.rsvQueues.get [] w = [s.cur]) (hh : s.held = []) (hw : isScratch w = true)
    (hr : s.thr.rsv = some r) (hg : r.granted = false) : grantNext w s = grantHead w s := by
  have hr' : (s.thread s.cur).rsv = some r := hr
  have hgranted : grantedTo s w = none := by
    rw [grantedTo, hq]
    dsimp only
    rw [hr']
    dsimp only
    rw [hg]
    rfl
  have hposted : performPosted (s.held.get [] w).length w s = s := by rw [hh]; rfl
  rw [grantNext, hposted]
  refine (if_pos (by rw [hh, hgranted]; rfl)).trans ?_
  rw [if_neg (by rw [hq]; exact Bool.false_ne_true), recallLine_scratch hw]

end

/-- The record of the current slot's request, in the pool of its word's home. -/
def State.reservation (s : State) (home : Nat) (d : Reg) (pair : Bool) (ea : Word) : Reservation :=
  { word := s.localPa ea.toNat, va := ea, granted := false, d := d, pair := pair, home := home }

/-- The thread that waits for its reservation. -/
def Thread.queues (t : Thread) (r : Reservation) : Thread := { t with wait := some (.rsv r.word), rsv := some r }

/-- The end of the instruction whose reservation is granted: the word in its register, and for RSVT the status 0. -/
theorem Clear.retire_granted {acc : Accept} {s : State} (h : Clear acc s) (r : Reservation) (now : Nat) (x : Word) :
    ((if r.pair then ((s.thr.queues r).granted (r.grantedAt now)).wg (r.d + 1) 0
      else (s.thr.queues r).granted (r.grantedAt now)).wg r.d x).retire =
      { ((if r.pair then s.thr.wg (r.d + 1) 0 else s.thr).wg r.d x).wentOn with rsv := some (r.grantedAt now) } := by
  have hgranted : (s.thr.queues r).granted (r.grantedAt now) =
    { s.thr with rsv := some (r.grantedAt now), wait := none } := rfl
  rw [hgranted]
  split
  · rw [Thread.wg_unheld, Thread.wg_unheld, Thread.retire_main]
    · rfl
    · simpa using h.main
    · simpa using h.idle
  · rw [Thread.wg_unheld, Thread.retire_main]
    · rfl
    · simpa using h.main
    · simpa using h.idle

/-- The request of the current slot alone in the queue of a scratchpad word. -/
def State.queued (s : State) (r : Reservation) : State := (s.withQueues [(r.word, [s.cur])]).setThr (s.thr.queues r)

/-- The request of the current slot, alone in the queue of a scratchpad word, is granted. -/
theorem grantNext_queued {s : State} {acc : Accept} (h : Clear acc s) (hh : s.held = []) {r : Reservation}
    (hw : isScratch r.word = true) (hg : r.granted = false) :
    grantNext r.word (s.queued r) = (s.withQueues [(r.word, [s.cur])]).setThr
      { ((if r.pair then s.thr.wg (r.d + 1) 0 else s.thr).wg r.d (s.read64 r.word)).wentOn with
        rsv := some (r.grantedAt s.now) } := by
  have hq : (s.queued r).rsvQueues.get [] r.word = [(s.queued r).cur] := if_pos rfl
  have hthr : (s.queued r).thr = s.thr.queues r := State.thr_setThr ..
  have hr : (s.queued r).thr.rsv = some r := by rw [hthr]; rfl
  rw [grantNext_current hq hh hw hr hg, grantHead_current hq hr, hthr]
  refine (congrArg (State.setThr _) (h.retire_granted r s.now (s.read64 r.word))).trans ?_
  exact State.setThr_setThr ..

/-- A request for a word of the local window that nobody holds, with room in the pool, is granted at once. -/
theorem reserve_granted {s : State} {acc : Accept} {ea : Word} {home : Nat} (h : Clear acc s) (hu : s.Unreserved)
    (hl : LocalRange s ea.toNat 8) (d : Reg) (pair : Bool)
    (hhome : (homeList s (s.partOf (clusterOf s.cur)) (s.localPa ea.toNat)).1 = home) (hroom : poolUse s home < 64) :
    reserve d pair ea (s.localPiece ea.toNat 8) s = .ok ((s.withQueues [(s.localPa ea.toNat, [s.cur])]).setThr
        { ((if pair then s.thr.wg (d + 1) 0 else s.thr).wg d
            (BitVec.ofNat 64 (s.byteNat (s.localPa ea.toNat) 8))).wentOn with
          rsv := some ((s.reservation home d pair ea).grantedAt s.now) }) := by
  have hq : s.rsvQueues.get [] (s.localPa ea.toNat) = [] := by rw [hu.1]; rfl
  have hset : s.rsvQueues.set (s.localPa ea.toNat) [s.cur] = [(s.localPa ea.toNat, [s.cur])] := by rw [hu.1]; rfl
  have hpark : s.thr.park (.rsv (s.localPa ea.toNat)) = { s.thr with wait := some (.rsv (s.localPa ea.toNat)) } :=
    Thread.park_main _ h.main
  rw [reserve, State.localPiece_pa, hl.key, hhome, if_neg (Nat.not_le.2 hroom)]
  rw [hq, if_pos List.isEmpty_nil]
  refine (bind_of_ok (hl.bringHome true)).trans (congrArg Except.ok ?_)
  rw [if_pos List.isEmpty_nil, List.nil_append, hset, ← hl.read64]
  refine Eq.trans ?_ (grantNext_queued h hu.2 (r := s.reservation home d pair ea) hl.scratch rfl)
  refine congrArg (grantNext _) ?_
  rw [State.mapThr]
  exact congrArg (fun t : Thread => (s.withQueues [(s.localPa ea.toNat, [s.cur])]).setThr
    { t with rsv := some (s.reservation home d pair ea) }) hpark

/-! ### A request without room (R194, R209) -/

theorem postedBy_unheld {s : State} (h : s.held = []) (k : Nat) : postedBy s k = false := by
  rw [postedBy, h]; rfl

section
variable {s : State} {acc : Accept} {ea : Word} {home : Nat} (h : Clear acc s) (hl : LocalRange s ea.toNat 8)
  (hhome : (homeList s (s.partOf (clusterOf s.cur)) (s.localPa ea.toNat)).1 = home)
include h hl hhome

theorem reserve_refuses (hfull : 64 ≤ poolUse s home) (d : Reg) (pair : Bool) :
    reserve d pair ea (s.localPiece ea.toNat 8) s = if exhausted s s.cur (s.thr.refusals + 1) s.thr.waited then
      .error (.trap { cause := 8, eaddr := ea })
    else .error (.wait (.refused (s.thr.refusals + 1) (64 * 2 ^ min (s.thr.refusals + 1 - 1) 5) ea)) := by
  have hrefusals : s.thr.refusalsNow = s.thr.refusals := by rw [Thread.refusalsNow, h.main]
  have hwaited : s.thr.waitedNow = s.thr.waited := by rw [Thread.waitedNow, h.main]
  rw [reserve, State.localPiece_pa, hl.key, hhome, if_pos hfull, refuse, hrefusals, hwaited]
  rfl

end

/-- The stop of a refused request marks the refusal, and the slot waits out its backoff. -/
theorem stopAt_refused {s : State} (hr : s.thr.rep = none) (hh : s.held = []) (n t : Nat) (ea : Word) :
    stopAt (.wait (.refused n t ea)) s = s.setThr { s.thr.waits (.refused n t ea) with refusals := n } := by
  have hmarks : s.thr.withRefusals n = { s.thr with refusals := n } := by
    rw [Thread.withRefusals]
    split
    next r hr' => exact absurd (hr.symm.trans hr') nofun
    next => rfl
  have hpark : ({ s.thr with refusals := n } : Thread).park (.refused n t ea) =
      { s.thr with refusals := n, wait := some (.refused n t ea) } := Thread.park_main _ hr
  change ((leaveAllHeld (s.cur, s.thr.inBody) s).mapThr (fun t => t.withRefusals n)).mapThr
    (fun u => u.park (.refused n t ea)) = _
  have hmarked : s.mapThr (fun t => t.withRefusals n) = s.setThr { s.thr with refusals := n } :=
    congrArg s.setThr hmarks
  rw [leaveAllHeld_none hh, hmarked, State.mapThr_setThr, hpark]
  rfl

theorem issue_clear_refused {u : Use} {s : State} {body : State → Except Stop State} {n t : Nat} {ea : Word}
    (h : Clear u.accept s) (hi : u.ill = false) (hp : u.priv = false) (hh : s.held = [])
    (hb : body s = .error (.wait (.refused n t ea))) :
    issue u body s = .next (s.setThr { s.thr.waits (.refused n t ea) with refusals := n }) := by
  rw [issue_clear body h hi hp, hb]
  exact congrArg Host.Outcome.next (stopAt_refused h.main hh n t ea)

theorem exhaustible_refused {α : Type} {va ea : Word} {r : Except Stop α} {n t : Nat}
    (h : r = .error (.wait (.refused n t ea))) : exhaustible va r = .error (.wait (.refused n t ea)) := by
  rw [h]; rfl

/-! ### The instructions RSV and RSVT (R207) -/

section
variable {s : State} {d b : Reg} {o : BitVec 10} {l : BitVec 4} (h : Clear { scope := true } s)
include h

theorem execRsv_held (hrsv : s.thr.rsv.isSome = true) (hh : s.Unheld) :
    execRsv d b o l s = illOf (wordRsv d b o l) s := issue_illOf h.main hh hrsv

theorem execRsvt_held (hrsv : s.thr.rsv.isSome = true) (hh : s.Unheld) :
    execRsvt d b o l s = illOf (wordRsvt d b o l) s :=
  issue_illOf h.main hh (by rw [hrsv]; rfl)

variable (hl : LocalRange s (s.ea b o 8).toNat 8) (ha : (s.ea b o 8).toNat % 8 = 0) (hrsv : s.thr.rsv = none)
include hl ha hrsv

/-- RSVT of a word that is held or awaited answers 1 and changes nothing else. -/
theorem execRsvt_busy (hd : d ≠ 15) (hq : s.rsvQueues.get [] (s.localPa (s.ea b o 8).toNat) ≠ [])
    (hp : postedBy s s.cur = false) :
    execRsvt d b o l s = .next (s.setThr ((s.thr.wg d 0).wg (d + 1) 1).wentOn) := by
  have hbusy : (s.rsvQueues.get [] (s.key (s.localPiece (s.ea b o 8).toNat 8).pa)).isEmpty ≠ true := by
    rw [State.localPiece_pa, hl.key]
    exact mt List.isEmpty_iff.1 hq
  have hmain : ((s.thr.wg d 0).wg (d + 1) 1).retire = ((s.thr.wg d 0).wg (d + 1) 1).wentOn :=
    Thread.retire_main _ (by simpa using h.main) (by simpa using h.idle)
  refine issue_scalar_ok h (by rw [hrsv, passes_two hd]; rfl) rfl rfl (exhaustible_ok
    ((bind_of_ok (hl.atomAccess ha h.main hp _ _ _ _)).trans ((if_neg hbusy).trans (congrArg Except.ok ?_))))
  rw [State.wg_eq s, State.wg_eq, State.thr_setThr, State.setThr_setThr, retire_setThr, hmain]

variable (hu : s.Unreserved) {home : Nat}
  (hhome : (homeList s (s.partOf (clusterOf s.cur)) (s.localPa (s.ea b o 8).toNat)).1 = home)
include hu hhome

theorem execRsv_granted (hroom : poolUse s home < 64) :
    execRsv d b o l s = .next (({ s with rsvQueues := [(s.localPa (s.ea b o 8).toNat, [s.cur])] } : State).setThr
      { (s.thr.wg d (BitVec.ofNat 64 (s.byteNat (s.localPa (s.ea b o 8).toNat) 8))).wentOn with
        rsv := some { word := s.localPa (s.ea b o 8).toNat, va := s.ea b o 8, granted := true, since := s.now, d := d
                      home := home } }) :=
  issue_scalar_ok h (by rw [hrsv]; rfl) rfl rfl (exhaustible_ok
    ((bind_of_ok (hl.atomAccess ha h.main (Unreserved.postedBy hu) _ _ _ _)).trans
      (reserve_granted h hu hl d false hhome hroom)))

theorem execRsvt_granted (hd : d ≠ 15) (hroom : poolUse s home < 64) :
    execRsvt d b o l s = .next ((s.withQueues [(s.localPa (s.ea b o 8).toNat, [s.cur])]).setThr
      { ((s.thr.wg (d + 1) 0).wg d (BitVec.ofNat 64 (s.byteNat (s.localPa (s.ea b o 8).toNat) 8))).wentOn with
        rsv := some ((s.reservation home d true (s.ea b o 8)).grantedAt s.now) }) := by
  have hfree : (s.rsvQueues.get [] (s.key (s.localPiece (s.ea b o 8).toNat 8).pa)).isEmpty = true := by rw [hu.1]; rfl
  exact issue_scalar_ok h (by rw [hrsv, passes_two hd]; rfl) rfl rfl (exhaustible_ok
    ((bind_of_ok (hl.atomAccess ha h.main (Unreserved.postedBy hu) _ _ _ _)).trans ((if_pos hfree).trans
      (reserve_granted h hu hl d true hhome hroom))))

variable (hfull : 64 ≤ poolUse s home)
include hfull

theorem execRsv_exhausted (he : exhausted s s.cur (s.thr.refusals + 1) s.thr.waited = true) (hh : s.Unheld) :
    execRsv d b o l s = .next (trap s.cur { cause := 8, eaddr := s.ea b o 8 } s) :=
  issue_clear_traps h (by rw [hrsv]; rfl) rfl hh (exhaustible_trap
    ((bind_of_ok (hl.atomAccess ha h.main (Unreserved.postedBy hu) _ _ _ _)).trans
      ((reserve_refuses h hl hhome hfull d false).trans (if_pos he))))

theorem execRsv_refused (he : exhausted s s.cur (s.thr.refusals + 1) s.thr.waited = false) :
    execRsv d b o l s = .next (s.setThr { s.thr.waits (.refused (s.thr.refusals + 1)
      (64 * 2 ^ min (s.thr.refusals + 1 - 1) 5) (s.ea b o 8)) with refusals := s.thr.refusals + 1 }) :=
  issue_clear_refused h (by rw [hrsv]; rfl) rfl hu.2 (exhaustible_refused
    ((bind_of_ok (hl.atomAccess ha h.main (Unreserved.postedBy hu) _ _ _ _)).trans
      ((reserve_refuses h hl hhome hfull d false).trans (if_neg (by rw [he]; exact Bool.false_ne_true)))))

end

/-! ### The release (R208-R210) -/

section
variable {s : State} {r : Reservation}

/-- Nothing is written for a reservation that was revoked (R210). -/
theorem release_revoked (hr : s.thr.rsv = some r) (hrevoked : r.revoked = true) (p : Piece) (x : Word) :
    release p x s = .ok (s.setThr { s.thr with rsv := none }, false) := by
  rw [release, hr]
  dsimp only
  rw [if_pos (by rw [hrevoked]; rfl)]
  rfl

/-- The state in which the current slot has written its word at pa and has given its reservation up. -/
def State.released (s : State) (pa : Nat) (x : Word) : State := (s.setThr { s.thr with rsv := none }).write64 pa x

theorem State.released_writes {pa : Nat} (hpa : pa + 8 ≤ 2 ^ 44) (x : Word) :
    (s.setThr { s.thr with rsv := none }).Writes (s.released pa x) (cellsAt pa (toBytes 8 x.toNat)) :=
  State.writes_writeBytes _ (by rw [length_toBytes]; exact hpa)

theorem State.released_sees (pa : Nat) (x : Word) :
    (s.setThr { s.thr with rsv := none }).Sees (s.released pa x) :=
  (State.Sees.refl _).writeBytes _ _

/-- A granted word is written, and passes to nobody where nobody else awaits it. -/
theorem release_granted {ea : Word} (hl : LocalRange s ea.toNat 8) (hr : s.thr.rsv = some r)
    (hword : r.word = s.localPa ea.toNat)
    (hgranted : r.granted = true) (hrevoked : r.revoked = false) (hq : s.rsvQueues = [(s.localPa ea.toNat, [s.cur])])
    (hheld : s.held = []) (x : Word) : release (s.localPiece ea.toNat 8) x s =
      .ok ((s.released (s.localPa ea.toNat) x).withQueues [], true) := by
  have hsees := s.released_sees (s.localPa ea.toNat) x
  have hqueues : (s.released (s.localPa ea.toNat) x).rsvQueues = [(s.localPa ea.toNat, [s.cur])] := hsees.rsvQueues.trans hq
  have hpass : passOn (s.localPa ea.toNat) (s.released (s.localPa ea.toNat) x) =
      (s.released (s.localPa ea.toNat) x).withQueues [] := by
    rw [passOn_last (k := s.cur), hqueues]
    · rw [SMap.erase, List.filter_cons_of_neg (by simp)]
      rfl
    · rw [hqueues]
      exact if_pos rfl
    · rw [hsees.held]
      change s.held.get [] _ = []
      rw [hheld]
      rfl
  rw [release, hr]
  dsimp only
  rw [if_neg (by rw [hrevoked, hgranted]; exact Bool.false_ne_true), hword, State.localPiece_pa]
  exact (bind_of_ok (hl.bringHome true)).trans (congrArg (fun t => Except.ok (t, true)) hpass)

end

/-! ### What a release leaves -/

section
variable {s t : State} {pa : Nat} {l : List Byte} {th : Thread}

theorem Stored.withQueues (h : Stored s t pa l th) (q : SMap (List Nat)) : Stored s (t.withQueues q) pa l th :=
  ⟨h.bytes, h.others, h.side, h.mine, h.threads⟩

/-- The current slot's own thread before the store plays no part in what the store leaves elsewhere. -/
theorem Stored.of_setThr {x : Thread} (h : Stored (s.setThr x) t pa l th) : Stored s t pa l th where
  bytes := h.bytes
  others a ha := (h.others a ha).trans (by rw [State.setThr_mem])
  side b := (h.side b).trans (by rw [State.setThr_side])
  mine := h.mine
  threads k hk := by
    have hthread := h.threads k hk
    rwa [State.thread_setThr_ne _ _ _ hk] at hthread

end

section
variable {s : State} {acc : Accept} (h : Clear acc s) {pa : Nat} (x : Word)

theorem State.released_thr : (s.released pa x).thr =
    ({ s.thr with rsv := none } : Thread).watched (s.released pa x).thr := by
  have hthr := (s.released_sees pa x).thr
  rwa [State.thr_setThr] at hthr

theorem State.released_pc : ((s.released pa x).withQueues []).thr.pc = s.thr.pc := by
  change (s.released pa x).thr.pc = _
  rw [State.released_thr]
  rfl

include h

theorem State.released_retire :
    retire ((s.released pa x).withQueues []) = retireTo (s.thr.pc + 4) ((s.released pa x).withQueues []) := by
  have hmain : (s.released pa x).thr.retire = (s.released pa x).thr.retireTo (s.thr.pc + 4) := by
    rw [State.released_thr, Thread.retire_main, Thread.retireTo_main]
    · rfl
    · exact h.main
    · exact h.idle
    · exact h.main
    · exact h.idle
  exact congrArg (State.setThr _) hmain

theorem State.released_stored (hpa : pa + 8 ≤ 2 ^ 44) (pc : Word) :
    ∃ t, Host.Outcome.next (retireTo pc ((s.released pa x).withQueues [])) = (.next t : Out) ∧ t.rsvQueues = [] ∧
      Stored s t pa (toBytes 8 x.toNat) { s.thr.wentTo pc with rsv := none } := by
  have hretire : (s.released pa x).thr.retireTo pc =
      ({ s.thr.wentTo pc with rsv := none } : Thread).watched (s.released pa x).thr := by
    rw [State.released_thr, Thread.retireTo_main]
    · rfl
    · exact h.main
    · exact h.idle
  have hstored := ((s.released_writes hpa x).stored { s.thr.wentTo pc with rsv := none }).of_setThr.withQueues []
  rw [← hretire] at hstored
  exact ⟨_, rfl, rfl, hstored⟩

end

/-! ### The instructions REL and RELC (R208, R210) -/

/-- No reservation, or one of another address. -/
theorem noReservation_other {s : State} {b : Reg} {o : BitVec 10} (hp : s.thr.pending = [])
    (h : s.thr.rsv = none ∨ ∃ r, s.thr.rsv = some r ∧ r.va ≠ s.ea b o 8) : noReservation b o s = true := by
  obtain hn | ⟨r, hr, hva⟩ := h
  · rw [noReservation, hn]
  · rw [noReservation, hr]
    dsimp only
    rw [State.known_idle hp, Bool.or_true, Bool.true_and, bne_iff_ne]
    exact hva

/-- The word after a RELC is a hint word. -/
theorem hintFollows_true {s : State} {x : BitVec 32} {u : State}
    (hf : fetchAt false s.cur (s.thr.pc + 4) s = .ok (x, u)) (hx : field x 31 26 = 0x3F) (hy : field x 25 24 ≠ 3) :
    hintFollows s = true := by
  rw [hintFollows, hf]
  dsimp only
  rw [hx, beq_self_eq_true, Bool.true_and, bne_iff_ne]
  exact hy

section
variable {s : State} {d b : Reg} {o : BitVec 10} (h : Clear { scope := true } s)
include h

theorem execRel_other (hno : noReservation b o s = true) (hh : s.Unheld) : execRel d b o s = illOf (wordRel d b o) s :=
  issue_illOf h.main hh hno

/-- The fetch of the word after a RELC faults before any other trap (R208). -/
theorem execRelc_faults {x : Trap} (hf : fetchAt false s.cur (s.thr.pc + 4) s = .error (.trap x)) (hh : s.Unheld) :
    execRelc d b o s = .next (trap s.cur x s) := by
  rw [execRelc, h.main, hf]
  exact congrArg Host.Outcome.next (stopAt_trap x h.main hh)

section
variable {x : BitVec 32} {u : State} (hf : fetchAt false s.cur (s.thr.pc + 4) s = .ok (x, u))
include hf

/-- Once the word after it is fetched, a RELC issues. -/
theorem execRelc_fetched : execRelc d b o s =
    issue { word := wordRelc d b o, ill := noReservation b o s || hintFollows s, gr := [d, b], accept := { scope := true } }
      (fun s => do
        if noReservation b o s then .error (illegal (wordRelc d b o))
        let (s, p) ← atomAccess (s.ea b o 8) 8 8 true true false true s
        let (s, granted) ← release p (s.rg d) s
        .ok (if granted then retireTo (s.thr.pc + 8) s else retire s)) s := by
  rw [execRelc, h.main, hf]

theorem execRelc_ill (hill : noReservation b o s = true ∨ hintFollows s = true) (hh : s.Unheld) :
    execRelc d b o s = illOf (wordRelc d b o) s := by
  rw [execRelc_fetched h hf]
  exact issue_illOf h.main hh (Bool.or_eq_true_iff.2 hill)

end

section
variable (hl : LocalRange s (s.ea b o 8).toNat 8) (ha : (s.ea b o 8).toNat % 8 = 0) (hp : postedBy s s.cur = false)
  {r : Reservation} (hr : s.thr.rsv = some r) (hva : r.va = s.ea b o 8) {t : State} {granted : Bool}
  (hrel : release (s.localPiece (s.ea b o 8).toNat 8) (s.rg d) s = .ok (t, granted))
include hl ha hp hr hva hrel

theorem execRel_releases : execRel d b o s = .next (retire t) := by
  have hno := noReservation_held hr hva
  refine issue_scalar_ok h hno rfl rfl ?_
  dsimp only
  rw [hno]
  exact (bind_of_ok (hl.atomAccess ha h.main hp _ _ _ _)).trans (bind_of_ok hrel)

theorem execRelc_releases {x : BitVec 32} {u : State} (hf : fetchAt false s.cur (s.thr.pc + 4) s = .ok (x, u))
    (hx : field x 31 26 ≠ 0x3F) :
    execRelc d b o s = .next (if granted then retireTo (t.thr.pc + 8) t else retire t) := by
  have hno := noReservation_held hr hva
  rw [execRelc_fetched h hf]
  refine issue_scalar_ok h (by rw [hno, hintFollows_false hf hx]; rfl) rfl rfl ?_
  dsimp only
  rw [hno]
  exact (bind_of_ok (hl.atomAccess ha h.main hp _ _ _ _)).trans (bind_of_ok hrel)

end

end

/-- Settles O35: a request is granted or refused by the pool of its home, and a release by the record of its reservation. -/
theorem reservationResults : Obligations.ReservationResults := by
  intro s d b o l h ea
  have hea : ea = s.ea b o 8 := rfl
  clear_value ea
  subst hea
  intro pa word home ill held hl ha
  have hhome : (homeList s (s.partOf (clusterOf s.cur)) (s.localPa (s.ea b o 8).toNat)).1 = home := rfl
  clear_value home
  refine ⟨fun hrsv hu hroom => ⟨?_, fun hd => ?_⟩, fun hrsv hu hfull => ⟨fun he hh => ?_, fun he => ?_⟩,
    fun hrsv hd hq hp => ?_, fun hrsv => ⟨?_, ?_⟩, fun hother => ⟨fun hh => ?_, fun w u hf hh => ?_⟩,
    fun w u hf hx hy hh => ?_, fun x hf hh => ?_, fun r hr hva hword hgranted hrevoked hq hheld => ?_,
    fun r hr hva hrevoked hp => ?_⟩
  · exact execRsv_granted h hl ha hrsv hu hhome hroom
  · exact execRsvt_granted h hl ha hrsv hu hhome hd hroom
  · exact execRsv_exhausted h hl ha hrsv hu hhome hfull he hh
  · exact execRsv_refused h hl ha hrsv hu hhome hfull he
  · exact execRsvt_busy h hl ha hrsv hd hq hp
  · exact execRsv_held h hrsv
  · exact execRsvt_held h hrsv
  · exact execRel_other h (noReservation_other h.idle hother) hh
  · exact execRelc_ill h hf (.inl (noReservation_other h.idle hother)) hh
  · exact execRelc_ill h hf (.inr (hintFollows_true hf hx hy)) hh
  · exact execRelc_faults h hf hh
  · have hp := postedBy_unheld hheld s.cur
    have hrel := release_granted hl hr hword hgranted hrevoked hq hheld (s.rg d)
    rw [← toBytes_toNat]
    refine ⟨?_, fun w u hf hx => ?_⟩
    · change ∃ t, execRel d b o s = _ ∧ _
      rw [execRel_releases h hl ha hp hr hva hrel, State.released_retire h]
      exact State.released_stored h _ hl.end_le _
    · change ∃ t, execRelc d b o s = _ ∧ _
      rw [execRelc_releases h hl ha hp hr hva hrel hf hx, if_pos rfl, State.released_pc]
      exact State.released_stored h _ hl.end_le _
  · have hrel := release_revoked hr hrevoked (s.localPiece (s.ea b o 8).toNat 8) (s.rg d)
    have hretire : retire (s.setThr { s.thr with rsv := none }) = s.setThr { s.thr.wentOn with rsv := none } := by
      rw [retire_setThr, Thread.retire_main]
      · rfl
      · exact h.main
      · exact h.idle
    refine ⟨?_, fun w u hf hx => ?_⟩
    · exact (execRel_releases h hl ha hp hr hva hrel).trans (congrArg Host.Outcome.next hretire)
    · exact (execRelc_releases h hl ha hp hr hva hrel hf hx).trans (congrArg Host.Outcome.next hretire)

end Sys2Proof.Machine
end
